-- ==== Sys2Proof/Word.lean ====
section
/-! DEFINITION. Word types of the Alasol A1 (R3 to R6, R15, R69). -/

namespace Sys2Proof

/-- A byte of memory (R4). -/
abbrev Byte := BitVec 8

/-- A 64-bit register, address or CSR value. -/
abbrev Word := BitVec 64

/-- The 512 bits of data of a v register (R69). -/
abbrev VData := BitVec 512

/-- A number of a register of 5 bits in an encoding (R113). -/
abbrev RegNum := BitVec 5

end Sys2Proof
end

