-- ==== Sys2Proof/Config.lean ====
section
/-! DEFINITION. What the spec leaves to the implementation or leaves open: opaque values, of which no proof
can see more than their type. -/

namespace Sys2Proof.Config

/-- Sectors free on a stack at power-on: Table 14-4 gives POOLFREE no reset value (log 8, DESIGN CHOICE, safe). -/
opaque poolFree : Nat → BitVec 32

/-- A value of 64 bits that the spec leaves open, by the counter State.fresh (log 5, DESIGN CHOICE, safe). -/
opaque freeWord : Nat → BitVec 64

/-- The same as a number without a bound: a power or a temperature that a sensor reports. -/
opaque freeNat : Nat → Nat

/-- Whether a byte of a launch's save area lies in a stack; Wilzia places the areas (R338, log 28, DESIGN CHOICE, safe). -/
opaque areaOn : Nat → Nat → Bool

/-- SHA-384 of an image by its number, 48 bytes (R412, R414). -/
opaque imageDigest : Nat → Nat → BitVec 8

/-- SVN of an image by its number, and the fused minimum (R413, R414). -/
opaque imageSvn : Nat → BitVec 32
opaque fusedSvn : BitVec 32

/-- The module's serial number, 16 bytes (R412). -/
opaque serialNumber : Nat → BitVec 8

/-- TYPE and OPD of a packet's header (Table 15-2), by its id. -/
opaque operation : Nat → BitVec 76

/-- A byte of a P-384 signature over bytes by the identity key (R414), by the counter, since a signature is not a function of
the bytes alone, and its place of 96. -/
opaque signature : List (BitVec 8) → Nat → Nat → BitVec 8

/-- A byte of the payload of a packet whose layout the spec does not give, by the packet's number and its place. -/
opaque payload : Nat → Nat → BitVec 8

/-- Messages of a class, by its code, that a receiver of an Ikirath link buffers, less one (R384). -/
opaque ikirathBuffers : Nat → Nat

/-- Public key and certificate chain of capability entry 5 (Table 17-3). -/
opaque identity : Nat → BitVec 8

/-- Length of that chain. -/
opaque chainLength : BitVec 10

/-- Width, speed and logical devices of a CXL port, a byte each (Table 17-3). -/
opaque cxlPort : Nat → Nat → BitVec 8

/-- Which module an Ikirath port reaches, where its routes do not say (Table 17-3). -/
opaque moduleReached : Nat → BitVec 8

/-- A byte of AES-256's key stream in counter mode, by key, function id, VA, major and minor counter and place (R362). -/
opaque keystream : BitVec 256 → Nat → Nat → Nat → Nat → Nat → BitVec 8

/-- The 64-bit MAC of a block, by key, ciphertext, function id, VA, counters and encoding (R362). -/
opaque mac : BitVec 256 → List (BitVec 8) → Nat → Nat → Nat → Nat → Nat → BitVec 64

end Sys2Proof.Config
end

