-- ==== Sys2Proof/Machine/EventArgs.lean ====
section
/-! DEFINITION. The inputs that an event carries: what an outside party, Wilzia or a free choice of the
device contributes to a step that has no encoding (95_what_each_step_holds.md). -/

namespace Sys2Proof

/-- Which entry of a request ring an engine serves, and how many groups of 8 bytes its piece takes at most (R231, R232). -/
structure PieceChoice where
  entry : Nat
  take : Nat
  deriving DecidableEq, Repr

/-- Wilzia's choices at a bind (R327, R331): the placement, the partition id, the key and the seed. -/
structure BindChoice where
  /-- DIEMASK of the partition (Table 13-9). -/
  dieMask : BitVec 16
  /-- HM1, WM1, Y0, X0 as PSHAPE [15:0]. -/
  rect : BitVec 16
  pid : BitVec 12
  key : BitVec 32
  seed : Word
  /-- Address of the save-directory entry. -/
  saveDir : Word
  deriving DecidableEq, Repr

/-- Why Wilzia writes STATE 3 (R332, R335, R337): for a launch of a lower class number, for a PREEMPT
packet, or for the critical temperature, which forces the save into DRAM. -/
inductive PreemptCause where
  | launch (pending : Nat)
  | packet
  | thermal
  deriving DecidableEq, Repr

/-- A flit as it reaches a receiver (R343): its link sequence number and whether its CRC-32 holds. -/
structure LinkFlit where
  seq : BitVec 12
  crcOk : Bool
  deriving DecidableEq, Repr

/-- The PCIe AtomicOps a host may send (Table 14-5). -/
inductive HostAtomicOp where
  | fetchAdd
  | swap
  | cas
  deriving DecidableEq, Repr

/-- What comes from outside the tree at the end of a period (R394, R395). -/
structure BudgetReport where
  /-- The module budget in W that Wilzia has set. -/
  budget : Nat
  /-- Power in microwatts drawn by the engine, scratchpad, fold and router of each cluster. -/
  clusterDraw : List (Nat × Nat)
  deriving DecidableEq, Repr

/-- What the boot ROM finds in an image (R413). -/
inductive ImageCheck where
  | good
  | badSignature
  | badSvn
  | unreadable
  | badLength
  deriving DecidableEq, Repr

/-- The output of a router that an event grants (R372): a torus port, the bridge, or ejection. -/
inductive RouterPort where
  | north
  | east
  | south
  | west
  | bridge
  | eject
  deriving DecidableEq, Repr

/-- The message classes of Table 15-1. -/
inductive MsgClass where
  | request
  | response
  | fold
  deriving DecidableEq, Repr

/-- The links that Wilzia can recover (R345, R369, R384). -/
inductive LinkName where
  | stack (n : Nat)
  | cxl (port : Nat)
  | ikirath (port : Nat)
  deriving DecidableEq, Repr

/-- Where an uncorrectable error appears (R301, R364, R365). -/
inductive ErrorSite where
  /-- An 8-byte SRAM word, by the number of its first byte in the model's memory. -/
  | sram (addr : Nat)
  /-- A context's own register state. -/
  | regs (core ctx : Nat)
  /-- A 64-byte sector of a device block, by function and VA. -/
  | dram (fn va : Nat)
  /-- A block whose MAC or integrity path no longer checks (R364). -/
  | mac (fn va : Nat)
  /-- A single-symbol error that the ECC of a stack has corrected (R365, R416). -/
  | corrected (stack : Nat)
  deriving DecidableEq, Repr

end Sys2Proof
end

