-- ==== Sys2Proof/Syntax.lean ====
section
/-! DEFINITION. The instructions and events of the Alasol A1: one constructor for each row of
spec/opcode_table.json. The operands bear the names of the table's fields: d the destination, a, b and c
the sources, in the widths of Table 5-5. A row without an encoding is an event; its operands name the
agent that acts and carry what an outside party contributes. -/

namespace Sys2Proof

/-- Every row of the opcode table. -/
inductive Instr where
  /-- ILLEGAL_ENCODING (R117). A fetched bit pattern that is not an instruction, including 0x0000, 0xFFFF_FFFF and 16-bit ops 0 and 17-31, raises ILLEGAL with its bits in TVAL. -/
  | illegalEncoding (short : Bool) (bits : BitVec 32)
  /-- ADD (R133). Writes the 64-bit wrapping sum of two x registers. -/
  | add (d : BitVec 5) (a : BitVec 5) (b : BitVec 5)
  /-- SLL (R133). Shifts an x register left by the low 6 bits of another. -/
  | sll (d : BitVec 5) (a : BitVec 5) (b : BitVec 5)
  /-- SLT (R133). Writes 1 if the first x register is less than the second as signed values, and 0 otherwise. -/
  | slt (d : BitVec 5) (a : BitVec 5) (b : BitVec 5)
  /-- SLTU (R133). Writes 1 if the first x register is less than the second as unsigned values, and 0 otherwise. -/
  | sltu (d : BitVec 5) (a : BitVec 5) (b : BitVec 5)
  /-- XOR (R133). Writes the bitwise exclusive or of two x registers. -/
  | xor (d : BitVec 5) (a : BitVec 5) (b : BitVec 5)
  /-- SRL (R133). Shifts an x register right logically. -/
  | srl (d : BitVec 5) (a : BitVec 5) (b : BitVec 5)
  /-- OR (R133). Writes the bitwise or of two x registers. -/
  | or (d : BitVec 5) (a : BitVec 5) (b : BitVec 5)
  /-- AND (R133). Writes the bitwise and of two x registers. -/
  | and (d : BitVec 5) (a : BitVec 5) (b : BitVec 5)
  /-- SUB (R133). Writes the 64-bit wrapping difference of two x registers. -/
  | sub (d : BitVec 5) (a : BitVec 5) (b : BitVec 5)
  /-- SRA (R133). Shifts an x register right arithmetically. -/
  | sra (d : BitVec 5) (a : BitVec 5) (b : BitVec 5)
  /-- MUL (R135). Writes the low 64 bits of the product of two x registers. -/
  | mul (d : BitVec 5) (a : BitVec 5) (b : BitVec 5)
  /-- MULH (R135). Writes the high 64 bits of the signed by signed product. -/
  | mulh (d : BitVec 5) (a : BitVec 5) (b : BitVec 5)
  /-- MULHSU (R135). Writes the high 64 bits of the signed by unsigned product. -/
  | mulhsu (d : BitVec 5) (a : BitVec 5) (b : BitVec 5)
  /-- MULHU (R135). Writes the high 64 bits of the unsigned by unsigned product. -/
  | mulhu (d : BitVec 5) (a : BitVec 5) (b : BitVec 5)
  /-- DIV (R136). Writes the signed quotient truncated toward zero, following the corner cases of Table 6-4. -/
  | div (d : BitVec 5) (a : BitVec 5) (b : BitVec 5)
  /-- DIVU (R136). Writes the unsigned quotient. -/
  | divu (d : BitVec 5) (a : BitVec 5) (b : BitVec 5)
  /-- REM (R136). Writes the signed remainder, which takes the sign of the dividend. -/
  | rem (d : BitVec 5) (a : BitVec 5) (b : BitVec 5)
  /-- REMU (R136). Writes the unsigned remainder. -/
  | remu (d : BitVec 5) (a : BitVec 5) (b : BitVec 5)
  /-- MIN (R133). Writes the smaller of two x registers as signed values. -/
  | min (d : BitVec 5) (a : BitVec 5) (b : BitVec 5)
  /-- MAX (R133). Writes the larger of two x registers as signed values. -/
  | max (d : BitVec 5) (a : BitVec 5) (b : BitVec 5)
  /-- MINU (R133). Writes the smaller of two x registers as unsigned values. -/
  | minu (d : BitVec 5) (a : BitVec 5) (b : BitVec 5)
  /-- MAXU (R133). Writes the larger of two x registers as unsigned values. -/
  | maxu (d : BitVec 5) (a : BitVec 5) (b : BitVec 5)
  /-- CLZ (R137). Counts the leading zero bits of an x register. -/
  | clz (d : BitVec 5) (a : BitVec 5)
  /-- CTZ (R137). Counts the trailing zero bits of an x register. -/
  | ctz (d : BitVec 5) (a : BitVec 5)
  /-- POPC (R137). Counts the one bits of an x register. -/
  | popc (d : BitVec 5) (a : BitVec 5)
  /-- BREV (R137). Reverses the bit order of an x register. -/
  | brev (d : BitVec 5) (a : BitVec 5)
  /-- SEXTB (R137). Sign-extends the low byte of an x register. -/
  | sextb (d : BitVec 5) (a : BitVec 5)
  /-- SEXTH (R137). Sign-extends the low halfword of an x register. -/
  | sexth (d : BitVec 5) (a : BitVec 5)
  /-- SEXTW (R137). Sign-extends the low word of an x register. -/
  | sextw (d : BitVec 5) (a : BitVec 5)
  /-- ADDI (R133). Adds a sign-extended 12-bit immediate to an x register. -/
  | addi (d : BitVec 5) (a : BitVec 5) (i : BitVec 12)
  /-- SLTI (R133). Writes 1 if the x register is less than the immediate as signed values. -/
  | slti (d : BitVec 5) (a : BitVec 5) (i : BitVec 12)
  /-- SLTIU (R133). Writes 1 if the x register is less than the sign-extended immediate as unsigned values. -/
  | sltiu (d : BitVec 5) (a : BitVec 5) (i : BitVec 12)
  /-- XORI (R133). Writes the exclusive or of an x register and the immediate. -/
  | xori (d : BitVec 5) (a : BitVec 5) (i : BitVec 12)
  /-- ORI (R133). Writes the or of an x register and the immediate. -/
  | ori (d : BitVec 5) (a : BitVec 5) (i : BitVec 12)
  /-- ANDI (R133). Writes the and of an x register and the immediate. -/
  | andi (d : BitVec 5) (a : BitVec 5) (i : BitVec 12)
  /-- SLLI (R133). Shifts an x register left by an immediate amount. -/
  | slli (d : BitVec 5) (a : BitVec 5) (s : BitVec 6)
  /-- SRLI (R133). Shifts an x register right logically by an immediate amount. -/
  | srli (d : BitVec 5) (a : BitVec 5) (s : BitVec 6)
  /-- SRAI (R133). Shifts an x register right arithmetically by an immediate amount. -/
  | srai (d : BitVec 5) (a : BitVec 5) (s : BitVec 6)
  /-- LIH (R134). Writes imm20 × 2^12, sign-extended from 32 bits. -/
  | lih (d : BitVec 5) (i : BitVec 20)
  /-- ADDPC (R134). Adds imm20 × 2^12, sign-extended, to the instruction's own address. -/
  | addpc (d : BitVec 5) (i : BitVec 20)
  /-- LB (R146). Loads a byte and sign-extends it. -/
  | lb (d : BitVec 5) (a : BitVec 5) (i : BitVec 12)
  /-- LH (R146). Loads a halfword and sign-extends it. -/
  | lh (d : BitVec 5) (a : BitVec 5) (i : BitVec 12)
  /-- LW (R146). Loads a word and sign-extends it. -/
  | lw (d : BitVec 5) (a : BitVec 5) (i : BitVec 12)
  /-- LD (R146). Loads a doubleword. -/
  | ld (d : BitVec 5) (a : BitVec 5) (i : BitVec 12)
  /-- LBU (R146). Loads a byte and zero-extends it. -/
  | lbu (d : BitVec 5) (a : BitVec 5) (i : BitVec 12)
  /-- LHU (R146). Loads a halfword and zero-extends it. -/
  | lhu (d : BitVec 5) (a : BitVec 5) (i : BitVec 12)
  /-- LWU (R146). Loads a word and zero-extends it. -/
  | lwu (d : BitVec 5) (a : BitVec 5) (i : BitVec 12)
  /-- SB (R147). Stores the low byte of an x register. -/
  | sb (a : BitVec 5) (b : BitVec 5) (i : BitVec 12)
  /-- SH (R147). Stores the low halfword of an x register. -/
  | sh (a : BitVec 5) (b : BitVec 5) (i : BitVec 12)
  /-- SW (R147). Stores the low word of an x register. -/
  | sw (a : BitVec 5) (b : BitVec 5) (i : BitVec 12)
  /-- SD (R147). Stores an x register as a doubleword. -/
  | sd (a : BitVec 5) (b : BitVec 5) (i : BitVec 12)
  /-- BEQ (R141). Branches if two x registers are equal. -/
  | beq (a : BitVec 5) (b : BitVec 5) (i : BitVec 12)
  /-- BNE (R141). Branches if two x registers differ. -/
  | bne (a : BitVec 5) (b : BitVec 5) (i : BitVec 12)
  /-- BLT (R141). Branches if the first x register is less than the second as signed values. -/
  | blt (a : BitVec 5) (b : BitVec 5) (i : BitVec 12)
  /-- BGE (R141). Branches if the first x register is greater than or equal to the second as signed values. -/
  | bge (a : BitVec 5) (b : BitVec 5) (i : BitVec 12)
  /-- BLTU (R141). Branches if the first x register is less than the second as unsigned values. -/
  | bltu (a : BitVec 5) (b : BitVec 5) (i : BitVec 12)
  /-- BGEU (R141). Branches if the first x register is greater than or equal to the second as unsigned values. -/
  | bgeu (a : BitVec 5) (b : BitVec 5) (i : BitVec 12)
  /-- JAL (R142). Writes PC + 4 to rd and jumps PC-relative. -/
  | jal (d : BitVec 5) (i : BitVec 20)
  /-- JALR (R143). Writes PC + 4 to rd and jumps to rs1 + imm; an odd target raises ALIGN. -/
  | jalr (d : BitVec 5) (a : BitVec 5) (i : BitVec 12)
  /-- BFX (R138). Extracts a bit field of an x register, zero-extended. -/
  | bfx (d : BitVec 5) (a : BitVec 5) (l : BitVec 6) (p : BitVec 6)
  /-- BFI (R138). Inserts the low bits of rs1 into a field of rd. -/
  | bfi (d : BitVec 5) (a : BitVec 5) (l : BitVec 6) (p : BitVec 6)
  /-- MKADDR (R139). Builds and checks a mesh address from a selector word and an offset. -/
  | mkaddr (d : BitVec 5) (a : BitVec 5) (b : BitVec 5)
  /-- ABSADDR (R140). Rewrites a mesh address into absolute form, resolved against the issuing core. -/
  | absaddr (d : BitVec 5) (a : BitVec 5)
  /-- ECALL (R165). At U level, exits if a7 = 0 and otherwise traps with ECALL; at K level, sends a request to Wilzia. -/
  | ecall
  /-- EBREAK (R166). Raises the EBREAK trap. -/
  | ebreak
  /-- TRET (R303). Restores the level, reissues the deferred instructions, resumes the lathe and continues at TIPC. -/
  | tret
  /-- WFE (R167). Completes if the wake latch is set, clearing it; otherwise waits for a wake event. -/
  | wfe
  /-- ISYNC (R168). Discards fetched instructions and invalidates the quad instruction cache. -/
  | isync
  /-- CSRRW (R162). Swaps an x register into a CSR. -/
  | csrrw (d : BitVec 5) (a : BitVec 5) (c : BitVec 12)
  /-- CSRRS (R162). Reads a CSR and sets the bits given by an x register. -/
  | csrrs (d : BitVec 5) (a : BitVec 5) (c : BitVec 12)
  /-- CSRRC (R162). Reads a CSR and clears the bits given by an x register. -/
  | csrrc (d : BitVec 5) (a : BitVec 5) (c : BitVec 12)
  /-- CSRRWI (R162). Reads a CSR and writes a 5-bit immediate into it. -/
  | csrrwi (d : BitVec 5) (c : BitVec 12) (u : BitVec 5)
  /-- CSRRSI (R162). Reads a CSR and sets the bits given by an immediate. -/
  | csrrsi (d : BitVec 5) (c : BitVec 12) (u : BitVec 5)
  /-- CSRRCI (R162). Reads a CSR and clears the bits given by an immediate. -/
  | csrrci (d : BitVec 5) (c : BitVec 12) (u : BitVec 5)
  /-- FLH (R151). Loads 2 bytes into f[15:0]. -/
  | flh (d : BitVec 5) (a : BitVec 5) (i : BitVec 12)
  /-- FLW (R151). Loads 4 bytes into f[31:0]. -/
  | flw (d : BitVec 5) (a : BitVec 5) (i : BitVec 12)
  /-- FLD (R151). Loads 8 bytes into an f register. -/
  | fld (d : BitVec 5) (a : BitVec 5) (i : BitVec 12)
  /-- FSH (R151). Stores the low 2 bytes of an f register. -/
  | fsh (a : BitVec 5) (b : BitVec 5) (i : BitVec 12)
  /-- FSW (R151). Stores the low 4 bytes of an f register. -/
  | fsw (a : BitVec 5) (b : BitVec 5) (i : BitVec 12)
  /-- FSD (R151). Stores all 8 bytes of an f register. -/
  | fsd (a : BitVec 5) (b : BitVec 5) (i : BitVec 12)
  /-- FADD (R152). Floating-point addition, rounded once. -/
  | fadd (d : BitVec 5) (a : BitVec 5) (b : BitVec 5) (f : BitVec 1) (r : BitVec 3)
  /-- FSUB (R152). Floating-point subtraction, rounded once. -/
  | fsub (d : BitVec 5) (a : BitVec 5) (b : BitVec 5) (f : BitVec 1) (r : BitVec 3)
  /-- FMUL (R152). Floating-point multiplication, rounded once. -/
  | fmul (d : BitVec 5) (a : BitVec 5) (b : BitVec 5) (f : BitVec 1) (r : BitVec 3)
  /-- FDIV (R152). Floating-point division, rounded once. -/
  | fdiv (d : BitVec 5) (a : BitVec 5) (b : BitVec 5) (f : BitVec 1) (r : BitVec 3)
  /-- FSQRT (R152). Floating-point square root, rounded once. -/
  | fsqrt (d : BitVec 5) (a : BitVec 5) (f : BitVec 1) (r : BitVec 3)
  /-- FSGNJ (R157). Takes a with the sign of b. -/
  | fsgnj (d : BitVec 5) (a : BitVec 5) (b : BitVec 5) (f : BitVec 1)
  /-- FSGNJN (R157). Takes a with the inverted sign of b. -/
  | fsgnjn (d : BitVec 5) (a : BitVec 5) (b : BitVec 5) (f : BitVec 1)
  /-- FSGNJX (R157). Takes a with its sign XOR the sign of b. -/
  | fsgnjx (d : BitVec 5) (a : BitVec 5) (b : BitVec 5) (f : BitVec 1)
  /-- FMIN (R154). Floating-point minimum, by R83. -/
  | fmin (d : BitVec 5) (a : BitVec 5) (b : BitVec 5) (f : BitVec 1)
  /-- FMAX (R154). Floating-point maximum, by R83. -/
  | fmax (d : BitVec 5) (a : BitVec 5) (b : BitVec 5) (f : BitVec 1)
  /-- FLE (R155). Writes 1 to an x register if a ≤ b. -/
  | fle (d : BitVec 5) (a : BitVec 5) (b : BitVec 5) (f : BitVec 1)
  /-- FLT (R155). Writes 1 to an x register if a < b. -/
  | flt (d : BitVec 5) (a : BitVec 5) (b : BitVec 5) (f : BitVec 1)
  /-- FEQ (R155). Writes 1 to an x register if a = b. -/
  | feq (d : BitVec 5) (a : BitVec 5) (b : BitVec 5) (f : BitVec 1)
  /-- FCLASS (R156). Writes a one-hot class mask of an f register to an x register. -/
  | fclass (d : BitVec 5) (a : BitVec 5) (f : BitVec 1)
  /-- FCVT_FLOAT_FLOAT (R158). Converts between floating-point formats by Table 3-9. -/
  | fcvtFloatFloat (d : BitVec 5) (a : BitVec 5) (e : BitVec 2) (s : BitVec 1) (g : BitVec 2) (r : BitVec 3)
  /-- FCVT_FLOAT_INT (R159). Converts a floating-point value to an integer in an x register. -/
  | fcvtFloatInt (d : BitVec 5) (a : BitVec 5) (e : BitVec 2) (s : BitVec 1) (t : BitVec 2) (r : BitVec 3)
  /-- FCVT_INT_FLOAT (R160). Converts an integer from an x register to floating point. -/
  | fcvtIntFloat (d : BitVec 5) (a : BitVec 5) (e : BitVec 2) (t : BitVec 2) (r : BitVec 3)
  /-- FMVX (R161). Moves the bits of an f register to an x register. -/
  | fmvx (d : BitVec 5) (a : BitVec 5) (w : BitVec 2)
  /-- FMVF (R161). Moves the bits of an x register to an f register. -/
  | fmvf (d : BitVec 5) (a : BitVec 5) (w : BitVec 2)
  /-- FMADD (R153). Fused a × b + c, rounded once. -/
  | fmadd (d : BitVec 5) (a : BitVec 5) (b : BitVec 5) (c : BitVec 5) (f : BitVec 1) (r : BitVec 3)
  /-- FMSUB (R153). Fused a × b − c, rounded once. -/
  | fmsub (d : BitVec 5) (a : BitVec 5) (b : BitVec 5) (c : BitVec 5) (f : BitVec 1) (r : BitVec 3)
  /-- FNMADD (R153). Fused −(a × b) − c, rounded once. -/
  | fnmadd (d : BitVec 5) (a : BitVec 5) (b : BitVec 5) (c : BitVec 5) (f : BitVec 1) (r : BitVec 3)
  /-- FNMSUB (R153). Fused −(a × b) + c, rounded once. -/
  | fnmsub (d : BitVec 5) (a : BitVec 5) (b : BitVec 5) (c : BitVec 5) (f : BitVec 1) (r : BitVec 3)
  /-- SBIND (R171). Binds a stream port to an f or v register and starts prefetch. -/
  | sbind (d : BitVec 5) (k : BitVec 1) (p : BitVec 2)
  /-- SUNBIND (R171). Waits for the port's pushes, discards its prefetch and unbinds it. -/
  | sunbind (p : BitVec 2)
  /-- SSKIP (R171). Advances the position of a stream port and restarts its prefetch. -/
  | sskip (a : BitVec 5) (p : BitVec 2)
  /-- SSYNC (R171). Waits for the pushes of the named write ports and discards the prefetch of the named read ports. -/
  | ssync (m : BitVec 4)
  /-- FREP (R178). Starts a lathe repetition of the following body for X(rs1) + 1 iterations. -/
  | frep (a : BitVec 5) (n : BitVec 4)
  /-- FREPI (R178). Starts a lathe repetition for an immediate count + 1 iterations. -/
  | frepi (c : BitVec 8) (n : BitVec 4)
  /-- VLD (R182). Loads 64 bytes into a v register and tags it. -/
  | vld (d : BitVec 5) (a : BitVec 5) (t : BitVec 4) (o : BitVec 8)
  /-- VST (R182). Stores the 64 data bytes of a v register. -/
  | vst (a : BitVec 5) (b : BitVec 5) (o : BitVec 8)
  /-- VLDS (R183). Loads a v register as strided chunks. -/
  | vlds (d : BitVec 5) (a : BitVec 5) (b : BitVec 5) (e : BitVec 2) (t : BitVec 4)
  /-- VSTS (R183). Stores a v register as strided chunks. -/
  | vsts (d : BitVec 5) (a : BitVec 5) (b : BitVec 5) (e : BitVec 2)
  /-- VGATHER (R183). Loads chunks at indexed addresses. -/
  | vgather (d : BitVec 5) (a : BitVec 5) (b : BitVec 5) (e : BitVec 2) (t : BitVec 4)
  /-- VSCATTER (R183). Stores chunks at indexed addresses. -/
  | vscatter (d : BitVec 5) (a : BitVec 5) (b : BitVec 5) (e : BitVec 2)
  /-- VLDB (R182). Loads the block side of a v register. -/
  | vldb (d : BitVec 5) (a : BitVec 5) (i : BitVec 12)
  /-- VADD (R185). Element-wise addition. -/
  | vadd (d : BitVec 5) (a : BitVec 5) (b : BitVec 5) (r : BitVec 3)
  /-- VSUB (R185). Element-wise subtraction. -/
  | vsub (d : BitVec 5) (a : BitVec 5) (b : BitVec 5) (r : BitVec 3)
  /-- VMUL (R185). Element-wise multiplication. -/
  | vmul (d : BitVec 5) (a : BitVec 5) (b : BitVec 5) (r : BitVec 3)
  /-- VMIN (R185). Element-wise minimum. -/
  | vmin (d : BitVec 5) (a : BitVec 5) (b : BitVec 5)
  /-- VMAX (R185). Element-wise maximum. -/
  | vmax (d : BitVec 5) (a : BitVec 5) (b : BitVec 5)
  /-- VAND (R185). Bitwise and over 512 bits. -/
  | vand (d : BitVec 5) (a : BitVec 5) (b : BitVec 5)
  /-- VOR (R185). Bitwise or over 512 bits. -/
  | vor (d : BitVec 5) (a : BitVec 5) (b : BitVec 5)
  /-- VXOR (R185). Bitwise exclusive or over 512 bits. -/
  | vxor (d : BitVec 5) (a : BitVec 5) (b : BitVec 5)
  /-- VSHL (R185). Element-wise left shift. -/
  | vshl (d : BitVec 5) (a : BitVec 5) (b : BitVec 5)
  /-- VSHR (R185). Element-wise logical right shift. -/
  | vshr (d : BitVec 5) (a : BitVec 5) (b : BitVec 5)
  /-- VSRA (R185). Element-wise arithmetic right shift. -/
  | vsra (d : BitVec 5) (a : BitVec 5) (b : BitVec 5)
  /-- VCMP (R186). Element-wise comparison that yields all-ones or zero masks. -/
  | vcmp (d : BitVec 5) (a : BitVec 5) (b : BitVec 5) (c : BitVec 3)
  /-- VABS (R185). Element-wise absolute value. -/
  | vabs (d : BitVec 5) (a : BitVec 5)
  /-- VNEG (R185). Element-wise negation. -/
  | vneg (d : BitVec 5) (a : BitVec 5)
  /-- VFMA (R188). Element-wise fused a × b + c. -/
  | vfma (d : BitVec 5) (a : BitVec 5) (b : BitVec 5) (c : BitVec 5) (r : BitVec 3)
  /-- VFMS (R188). Element-wise fused a × b − c. -/
  | vfms (d : BitVec 5) (a : BitVec 5) (b : BitVec 5) (c : BitVec 5) (r : BitVec 3)
  /-- VNFMA (R188). Element-wise fused −(a × b) + c. -/
  | vnfma (d : BitVec 5) (a : BitVec 5) (b : BitVec 5) (c : BitVec 5) (r : BitVec 3)
  /-- VSEL (R187). Selects each element from one of two sources under a mask. -/
  | vsel (d : BitVec 5) (a : BitVec 5) (b : BitVec 5) (c : BitVec 5)
  /-- VRED_ADD (R189). Pairwise-tree sum of a v register into an f register. -/
  | vredAdd (d : BitVec 5) (a : BitVec 5) (r : BitVec 3)
  /-- VRED_MIN (R189). Tree minimum of a v register into an f register. -/
  | vredMin (d : BitVec 5) (a : BitVec 5)
  /-- VRED_MAX (R189). Tree maximum of a v register into an f register. -/
  | vredMax (d : BitVec 5) (a : BitVec 5)
  /-- VDOT (R190). Dot product of two v registers, summed by groups. -/
  | vdot (d : BitVec 5) (a : BitVec 5) (b : BitVec 5) (r : BitVec 3)
  /-- VCVT (R191). Converts the elements of a v register to another tag. -/
  | vcvt (d : BitVec 5) (a : BitVec 5) (s : BitVec 1) (t : BitVec 4) (r : BitVec 3)
  /-- VQNT (R192). Quantises 32 values into block 0 of a scaled register. -/
  | vqnt (d : BitVec 5) (a : BitVec 5) (s : BitVec 1) (t : BitVec 4) (r : BitVec 3)
  /-- VDQNT (R193). Dequantises scaled elements into FP32, BF16 or FP16. -/
  | vdqnt (d : BitVec 5) (a : BitVec 5) (t : BitVec 4) (r : BitVec 3)
  /-- VPERM (R194). Permutes elements by an index register. -/
  | vperm (d : BitVec 5) (a : BitVec 5) (b : BitVec 5)
  /-- VSHUF (R194). Shuffles bytes by an index register, zeroing bytes where the index has bit 7 set. -/
  | vshuf (d : BitVec 5) (a : BitVec 5) (b : BitVec 5)
  /-- VSLIDE_UP (R194). Slides elements up by X(rs2). -/
  | vslideUp (d : BitVec 5) (a : BitVec 5) (b : BitVec 5)
  /-- VSLIDE_DOWN (R194). Slides elements down by X(rs2). -/
  | vslideDown (d : BitVec 5) (a : BitVec 5) (b : BitVec 5)
  /-- VBCAST_X (R195). Broadcasts an x register to every element. -/
  | vbcastX (d : BitVec 5) (a : BitVec 5)
  /-- VBCAST_F (R195). Broadcasts an f register to every element. -/
  | vbcastF (d : BitVec 5) (a : BitVec 5)
  /-- VEXP2 (R196). Element-wise 2^x, correctly rounded RNE. -/
  | vexp2 (d : BitVec 5) (a : BitVec 5)
  /-- VRCP (R196). Element-wise reciprocal, correctly rounded RNE. -/
  | vrcp (d : BitVec 5) (a : BitVec 5)
  /-- VRSQ (R196). Element-wise reciprocal square root, correctly rounded RNE. -/
  | vrsq (d : BitVec 5) (a : BitVec 5)
  /-- VMOV (R195). Copies a v register with its tag and block side. -/
  | vmov (d : BitVec 5) (a : BitVec 5)
  /-- VMVX (R195). Moves one element to an x register. -/
  | vmvx (d : BitVec 5) (a : BitVec 5) (b : BitVec 5)
  /-- VMVF (R195). Moves one element to an f register. -/
  | vmvf (d : BitVec 5) (a : BitVec 5) (b : BitVec 5)
  /-- VTAG (R195). Copies the data of a v register and gives it a new tag. -/
  | vtag (d : BitVec 5) (a : BitVec 5) (t : BitVec 4)
  /-- VSIDE_READ (R195). Reads the block side of a v register into an x register. -/
  | vsideRead (d : BitVec 5) (a : BitVec 5)
  /-- VSIDE_WRITE (R195). Writes the block side of a v register from an x register. -/
  | vsideWrite (d : BitVec 5) (a : BitVec 5)
  /-- BBINIT (R198). Sets the start and end of the bit buffer and empties it. -/
  | bbinit (a : BitVec 5) (b : BitVec 5)
  /-- BBGET (R198). Refills the window and takes n bits. -/
  | bbget (d : BitVec 5) (n : BitVec 5)
  /-- BBPEEK (R198). Refills the window and reads n bits without consuming them. -/
  | bbpeek (d : BitVec 5) (n : BitVec 5)
  /-- BBSKIP (R198). Refills the window and discards n bits. -/
  | bbskip (n : BitVec 5)
  /-- BBDEC (R199). Decodes one variable-length code through a table. -/
  | bbdec (d : BitVec 5) (a : BitVec 5) (k : BitVec 4)
  /-- BBEMIT (R200). Appends n bits and writes every complete byte. -/
  | bbemit (a : BitVec 5) (n : BitVec 5)
  /-- BBFLUSH (R200). Writes a partial byte in WRITE mode, or returns unread bytes in READ mode. -/
  | bbflush
  /-- BBALIGN (R198). Aligns the bit buffer to a byte boundary. -/
  | bbalign
  /-- AMOSWAP (R204). Atomically swaps a register value into memory. -/
  | amoswap (d : BitVec 5) (a : BitVec 5) (b : BitVec 5) (q : BitVec 1) (l : BitVec 1) (w : BitVec 1) (x : BitVec 3)
  /-- AMOADD (R204). Atomic add. -/
  | amoadd (d : BitVec 5) (a : BitVec 5) (b : BitVec 5) (q : BitVec 1) (l : BitVec 1) (w : BitVec 1) (x : BitVec 3)
  /-- AMOAND (R204). Atomic and. -/
  | amoand (d : BitVec 5) (a : BitVec 5) (b : BitVec 5) (q : BitVec 1) (l : BitVec 1) (w : BitVec 1) (x : BitVec 3)
  /-- AMOOR (R204). Atomic or. -/
  | amoor (d : BitVec 5) (a : BitVec 5) (b : BitVec 5) (q : BitVec 1) (l : BitVec 1) (w : BitVec 1) (x : BitVec 3)
  /-- AMOXOR (R204). Atomic exclusive or. -/
  | amoxor (d : BitVec 5) (a : BitVec 5) (b : BitVec 5) (q : BitVec 1) (l : BitVec 1) (w : BitVec 1) (x : BitVec 3)
  /-- AMOMIN (R204). Atomic signed minimum. -/
  | amomin (d : BitVec 5) (a : BitVec 5) (b : BitVec 5) (q : BitVec 1) (l : BitVec 1) (w : BitVec 1) (x : BitVec 3)
  /-- AMOMAX (R204). Atomic signed maximum. -/
  | amomax (d : BitVec 5) (a : BitVec 5) (b : BitVec 5) (q : BitVec 1) (l : BitVec 1) (w : BitVec 1) (x : BitVec 3)
  /-- AMOMINU (R204). Atomic unsigned minimum. -/
  | amominu (d : BitVec 5) (a : BitVec 5) (b : BitVec 5) (q : BitVec 1) (l : BitVec 1) (w : BitVec 1) (x : BitVec 3)
  /-- AMOMAXU (R204). Atomic unsigned maximum. -/
  | amomaxu (d : BitVec 5) (a : BitVec 5) (b : BitVec 5) (q : BitVec 1) (l : BitVec 1) (w : BitVec 1) (x : BitVec 3)
  /-- AMOCAS (R204). Atomic compare and swap of 4 or 8 bytes. -/
  | amocas (d : BitVec 5) (a : BitVec 5) (b : BitVec 5) (q : BitVec 1) (l : BitVec 1) (w : BitVec 1) (x : BitVec 3)
  /-- AMOCAS_Q (R204). Atomic 16-byte compare and swap on register pairs. -/
  | amocasQ (d : BitVec 5) (a : BitVec 5) (b : BitVec 5) (q : BitVec 1) (l : BitVec 1) (x : BitVec 3)
  /-- FAMOADD (R204). Atomic floating-point add at the target SRAM, rounded RNE. -/
  | famoadd (d : BitVec 5) (a : BitVec 5) (b : BitVec 5) (q : BitVec 1) (l : BitVec 1) (w : BitVec 1) (x : BitVec 3)
  /-- FENCE (R96). Ends the region and orders the writes in the reach of the mask. -/
  | fence (m : BitVec 8)
  /-- LDAQ (R206). Acquire load. -/
  | ldaq (d : BitVec 5) (a : BitVec 5) (z : BitVec 2) (x : BitVec 3)
  /-- STRL (R206). Release store. -/
  | strl (a : BitVec 5) (b : BitVec 5) (z : BitVec 2) (x : BitVec 3)
  /-- BAR (R209). Arrives at a barrier network and waits for the phase to complete. -/
  | bar (n : BitVec 4)
  /-- BARARR (R209). Arrives at a barrier network without waiting. -/
  | bararr (n : BitVec 4)
  /-- BARWAIT (R209). Waits for the phase of the core's latest arrival to complete. -/
  | barwait (n : BitVec 4)
  /-- TBINIT (R212). Makes a granule a live transfer barrier with expected bytes and arrivals. -/
  | tbinit (a : BitVec 5) (b : BitVec 5) (c : BitVec 5)
  /-- TBEXP (R212). Adds to the expectations, or re-arms a DONE barrier. -/
  | tbexp (a : BitVec 5) (b : BitVec 5) (c : BitVec 5)
  /-- TBARR (R212). Counts one arrival at a transfer barrier. -/
  | tbarr (a : BitVec 5)
  /-- TBWAIT (R212). Waits for the barrier to flip and returns its status word. -/
  | tbwait (d : BitVec 5) (a : BitVec 5)
  /-- TBTEST (R212). Returns the status word without waiting. -/
  | tbtest (d : BitVec 5) (a : BitVec 5)
  /-- TBACT (R214). Sets the barrier's completion action word. -/
  | tbact (a : BitVec 5) (b : BitVec 5)
  /-- TBRETIRE (R212). Waits until DONE and returns the granule to plain memory. -/
  | tbretire (a : BitVec 5)
  /-- SENDR (R216). Sends a value to a register of a target core's control context. -/
  | sendr (a : BitVec 5) (b : BitVec 5) (n : BitVec 5)
  /-- PCLR (R217). Clears the presence bit of a control-context register. -/
  | pclr (n : BitVec 5)
  /-- PTEST (R217). Reads the presence bit of a register. -/
  | ptest (d : BitVec 5) (n : BitVec 5)
  /-- XMSG (R218). Sends a data or active message to a target core's message ring. -/
  | xmsg (a : BitVec 5) (b : BitVec 5) (c : BitVec 5) (v : BitVec 1)
  /-- MTAKE (R219). Returns the address of the oldest untaken data record, or 0. -/
  | mtake (d : BitVec 5)
  /-- MFREE (R219). Frees a taken record so that MRHEAD can advance. -/
  | mfree (a : BitVec 5)
  /-- SPAWN (R220). Starts a free helper if the event queue is empty, and otherwise returns 0. -/
  | spawn (d : BitVec 5) (a : BitVec 5) (b : BitVec 5)
  /-- HEXIT (R220). Frees the helper after its accesses are acknowledged, and retires a drain row. -/
  | hexit
  /-- HWAIT (R220). Waits until helper h is free. -/
  | hwait (h : BitVec 4)
  /-- DQPUSH (R221). Pushes an item at the bottom of the deque. -/
  | dqpush (a : BitVec 5)
  /-- DQPOP (R221). Pops the bottom item, or returns 0. -/
  | dqpop (d : BitVec 5)
  /-- DQSTEAL (R221). Takes the top item of a core of the cluster. -/
  | dqsteal (d : BitVec 5) (a : BitVec 5)
  /-- DQLEN (R221). Returns the number of items in the deque. -/
  | dqlen (d : BitVec 5)
  /-- RINIT (R222). Initialises a slot ring descriptor. -/
  | rinit (a : BitVec 5) (n : BitVec 4)
  /-- RCLAIM (R222). Claims the slot at TAIL, waiting while the ring is full. -/
  | rclaim (d : BitVec 5) (n : BitVec 4)
  /-- RCOMMIT (R222). Commits a claimed slot, as a release. -/
  | rcommit (a : BitVec 5)
  /-- RTAKE (R222). Takes the committed slot at HEAD, waiting while the ring is empty. -/
  | rtake (d : BitVec 5) (n : BitVec 4)
  /-- RFREE (R222). Frees a taken slot. -/
  | rfree (a : BitVec 5)
  /-- XCOPY (R228). Starts an engine copy with a transform over record chains. -/
  | xcopy (a : BitVec 5) (b : BitVec 5) (c : BitVec 5) (t : BitVec 1) (k : BitVec 4)
  /-- XSUB (R229). Subscribes a slot ring to the tiles of a source chain. -/
  | xsub (b : BitVec 5) (c : BitVec 5) (n : BitVec 4)
  /-- XPUB (R229). Publishes the committed slots of a ring to a destination chain. -/
  | xpub (a : BitVec 5) (c : BitVec 5) (n : BitVec 4)
  /-- XAMO (R230). Performs one atomic at a device VA. -/
  | xamo (a : BitVec 5) (b : BitVec 5) (c : BitVec 5) (w : BitVec 1) (o : BitVec 4)
  /-- XRESUME (R235). Sends the remainder of a handed-back operation again. -/
  | xresume (a : BitVec 5)
  /-- XCANCEL (R235). Drops a remainder, credits the barrier and sets ERR. -/
  | xcancel (a : BitVec 5)
  /-- XDISC (R237). Marks 64 KiB pieces of device memory discardable. -/
  | xdisc (a : BitVec 5) (b : BitVec 5)
  /-- PTOUCH (R236). Asks the home to resolve a device-virtual page for an access mode. -/
  | ptouch (a : BitVec 5) (m : BitVec 2)
  /-- MMA (R246). Sends a matrix multiply-accumulate command over slot rings. -/
  | mma (a : BitVec 5) (b : BitVec 5) (c : BitVec 5) (n : BitVec 2)
  /-- MZERO (R249). Sends a command to clear an accumulator. -/
  | mzero (a : BitVec 5) (n : BitVec 2)
  /-- MLOAD (R249). Sends a command to load an accumulator image. -/
  | mload (a : BitVec 5) (b : BitVec 5) (n : BitVec 2)
  /-- MSTORE (R249). Sends a command to store an accumulator image, counted at a barrier. -/
  | mstore (a : BitVec 5) (b : BitVec 5) (c : BitVec 5) (n : BitVec 2)
  /-- MDRAIN (R250). Sends a command to hand an accumulator's rows to drain helpers. -/
  | mdrain (a : BitVec 5) (b : BitVec 5) (c : BitVec 5) (z : BitVec 1) (n : BitVec 2)
  /-- MFENCE (R252). Waits until every matrix command sent to the quad has ended. -/
  | mfence (a : BitVec 5)
  /-- FOLD (R260). Sends an operand tile to the fold of its key. -/
  | fold (a : BitVec 5) (b : BitVec 5) (c : BitVec 5) (s : BitVec 3) (p : BitVec 4)
  /-- FRES (R258). Reserves a matching-store entry for a key. -/
  | fres (a : BitVec 5) (s : BitVec 3)
  /-- FREL (R258). Releases one count of a key's reservation. -/
  | frel (a : BitVec 5)
  /-- FKEY (R257). Writes the fold index of a key. -/
  | fkey (d : BitVec 5) (a : BitVec 5)
  /-- ADD_16 (R112). 16-bit form of ADD xd, xd, xs. -/
  | add16 (d : BitVec 5) (b : BitVec 5)
  /-- SUB_16 (R112). 16-bit form of SUB xd, xd, xs. -/
  | sub16 (d : BitVec 5) (b : BitVec 5)
  /-- AND_16 (R112). 16-bit form of AND xd, xd, xs. -/
  | and16 (d : BitVec 5) (b : BitVec 5)
  /-- OR_16 (R112). 16-bit form of OR xd, xd, xs. -/
  | or16 (d : BitVec 5) (b : BitVec 5)
  /-- XOR_16 (R112). 16-bit form of XOR xd, xd, xs. -/
  | xor16 (d : BitVec 5) (b : BitVec 5)
  /-- SLL_16 (R112). 16-bit form of SLL xd, xd, xs. -/
  | sll16 (d : BitVec 5) (b : BitVec 5)
  /-- SRL_16 (R112). 16-bit form of SRL xd, xd, xs. -/
  | srl16 (d : BitVec 5) (b : BitVec 5)
  /-- MV_16 (R112). 16-bit form of ADDI xd, xs, 0. -/
  | mv16 (d : BitVec 5) (b : BitVec 5)
  /-- ADDI_16 (R112). 16-bit form of ADDI xd, xd, imm5. -/
  | addi16 (d : BitVec 5) (i : BitVec 5)
  /-- FADD_16 (R112). 16-bit form of FADD.S fd, fd, fs, DYN. -/
  | fadd16 (d : BitVec 5) (b : BitVec 5)
  /-- FSUB_16 (R112). 16-bit form of FSUB.S fd, fd, fs, DYN. -/
  | fsub16 (d : BitVec 5) (b : BitVec 5)
  /-- FMUL_16 (R112). 16-bit form of FMUL.S fd, fd, fs, DYN. -/
  | fmul16 (d : BitVec 5) (b : BitVec 5)
  /-- FMAX_16 (R112). 16-bit form of FMAX.S fd, fd, fs. -/
  | fmax16 (d : BitVec 5) (b : BitVec 5)
  /-- VADD_16 (R112). 16-bit form of VADD vd, vd, vs with fn3 = 7. -/
  | vadd16 (d : BitVec 5) (b : BitVec 5)
  /-- VSUB_16 (R112). 16-bit form of VSUB vd, vd, vs with fn3 = 7. -/
  | vsub16 (d : BitVec 5) (b : BitVec 5)
  /-- VMUL_16 (R112). 16-bit form of VMUL vd, vd, vs with fn3 = 7. -/
  | vmul16 (d : BitVec 5) (b : BitVec 5)
  /-- SENDR_ARRIVE (R216). A register write arrives: the register is written and its presence bit set, or the write is discarded if the context has finished. -/
  | sendrArrive (pkt : Nat)
  /-- XMSG_ARRIVE (R63). A message reaches the target and is placed in its ring, or rejected with MSG_REJECT. -/
  | xmsgArrive (pkt : Nat)
  /-- HELPER_START (R27). The oldest queued event takes the lowest-numbered free helper, and a held event is offered to the freed queue entry. -/
  | helperStart (core : Nat)
  /-- ENGINE_PIECE_SEND (R231). The engine serves a request ring and sends the next piece of at most 512 B. -/
  | enginePieceSend (core : Nat) (piece : PieceChoice)
  /-- LAYOUT_RECORD_READ (R227). The engine reads and checks a later layout record, evaluates its predicate and sets IN-FLIGHT, or ends the operation with PERM. -/
  | layoutRecordRead (core entry : Nat)
  /-- ENGINE_SLOT_CLAIM (R229). An engine fill claims the slot at TAIL once the ring has room. -/
  | engineSlotClaim (core entry : Nat)
  /-- XPUB_SLOT_TAKE (R229). XPUB takes the committed slot at HEAD once one is committed. -/
  | xpubSlotTake (core entry : Nat)
  /-- PIECE_LAND (R227). Bytes of a piece land, count at the barrier, clear IN-FLIGHT, commit or free slots and post XFER_DONE. -/
  | pieceLand (core entry piece : Nat)
  /-- HAND_BACK (R232). When every sent piece has landed or faulted, clears the remainder's IN-FLIGHT bits, writes the remainder record and posts XFER_FAULT. -/
  | handBack (core entry : Nat)
  /-- PTOUCH_RESOLVED (R236). The home reports the page resolved or unresolvable, which completes the PTOUCH or raises PROT. -/
  | ptouchResolved (core ctx : Nat)
  /-- DISCARD_ACCEPT (R237). Every home has accepted the discard marks, and the XDISC frees its request-ring entry. -/
  | discardAccept (core entry : Nat)
  /-- MATRIX_COMMAND_START (R244). A command starts at the FIFO head once its rows have retired, and is checked and refused with MATRIX_REJECT or begun. -/
  | matrixCommandStart (quad : Nat)
  /-- KSTEP_TAKE (R247). A k-step takes both head slots in the cycle in which both are COMMITTED. -/
  | kstepTake (quad : Nat)
  /-- KSTEP_RETIRE (R246). A k-step updates the accumulator, frees both slots and counts as retired; the last one ends the MMA. -/
  | kstepRetire (quad : Nat)
  /-- KSTEP_WAIT_TIMEOUT (R247). A k-step's wait for slots exceeds WAITTO, and the MMA is refused with reason 7. -/
  | kstepWaitTimeout (quad : Nat)
  /-- DRAIN_ROW_OFFER (R250). The unit offers the next accumulator row to the target core's event queue. -/
  | drainRowOffer (quad : Nat)
  /-- MLOAD_DONE (R249). The image has been loaded into the accumulator, and the MLOAD ends. -/
  | mloadDone (quad acc : Nat)
  /-- FOLD_OPERAND_ARRIVE (R258). An operand reaches its fold and is held, combined, refused with FOLD_FULL or discarded for its PID. -/
  | foldOperandArrive (pkt : Nat)
  /-- FOLD_RESULT_DELIVER (R261). A combination completes, and the result goes along each distinct route, either to TARGET or chained to the next key. -/
  | foldResultDeliver (fold job : Nat)
  /-- FOLD_ORPHAN_TIMEOUT (R263). A held operand exceeds the orphan timeout and is delivered alone with ERR and FOLD_ORPHAN. -/
  | foldOrphanTimeout (fold entry : Nat)
  /-- FRES_GRANT (R258). A freed entry goes to the oldest waiting FRES. -/
  | fresGrant (fold : Nat)
  /-- ECALL_EXIT (R35). Once the FP/vector queue has drained and the stream pushes are written, stops the control context with its exit value, as a release. -/
  | ecallExit (core : Nat)
  /-- PARK (R308). Wilzia request that parks the context for good and reports its record to the host. -/
  | park (core ctx : Nat)
  /-- SETOTO (R308). Wilzia request that sets FCFG.OTO on every fold of the partition. -/
  | setoto (core ctx : Nat)
  /-- SETSEED (R308). Wilzia request that sets SRSEED on every core of the partition. -/
  | setseed (core ctx : Nat)
  /-- WILZIA_ANSWER (R308). Wilzia answers a K-level ECALL in a0, completing it. -/
  | wilziaAnswer (core ctx : Nat)
  /-- BAR_TIMEOUT (R37). A blocking wait exceeds WAITTO and raises BAR_TIMEOUT at the waiting instruction. -/
  | barTimeout (core ctx : Nat)
  /-- PRESENCE_TIMEOUT (R37). A read of an absent register exceeds PRSTO and raises PRESENCE_TIMEOUT. -/
  | presenceTimeout (core ctx : Nat)
  /-- WFE_RELEASE (R167). A WFE ends on its latch, on WAITTO expiry without a trap, or on a release chosen by the device. -/
  | wfeRelease (core ctx : Nat)
  /-- REMOTE_ACK (R102). The target returns its granule checks for an unacknowledged access, and a RACE or BARRIER_WORD rolls the context back. -/
  | remoteAck (core ctx id : Nat)
  /-- STREAM_PREFETCH (R173). A read port reads an element, and its index, ahead of SSnPOS, checks it and marks failures. -/
  | streamPrefetch (core port : Nat)
  /-- LATHE_ISSUE (R178). The lathe issues the next body instruction into the FP/vector queue when there is room and FDUTY allows it. -/
  | latheIssue (core : Nat)
  /-- LAUNCH (R318). A LAUNCH packet is checked and entered in Wilzia's pending list. -/
  | launch (fn queue : Nat) (packet : List (BitVec 64))
  /-- FENCE_PACKET (R320). A FENCE packet polls counter tuples until every one has held. -/
  | fencePacket (fn queue : Nat) (packet : List (BitVec 64))
  /-- FENCE_POLL (R320). A tuple of a waiting FENCE is read again, at least every 2 µs and at each counter write. -/
  | fencePoll (fn queue tuple : Nat)
  /-- FENCE_TIMEOUT (R320). The FENCE limit expires and the queue stops with ECODE 6. -/
  | fenceTimeout (fn queue : Nat)
  /-- COND (R321). Reads a word once and skips the next SKIP packets if the comparison fails. -/
  | cond (fn queue : Nat) (packet : List (BitVec 64))
  /-- SIGNAL (R322). After earlier launches and copies of the queue end, writes or adds a value at a VA. -/
  | signal (fn queue : Nat) (packet : List (BitVec 64))
  /-- COPY_PACKET (R322). Moves bytes between host and device and then writes a counter. -/
  | copyPacket (fn queue : Nat) (packet : List (BitVec 64)) (data : List (BitVec 8))
  /-- COPY_DONE (R322). The last byte of a COPY performs, and its counter is written. -/
  | copyDone (fn queue job : Nat)
  /-- PREEMPT_HOLD (R323). PREEMPT mode 0 pre-empts the named partitions and holds the named pending launches. -/
  | preemptHold (fn queue : Nat) (packet : List (BitVec 64))
  /-- PREEMPT_RELEASE (R323). PREEMPT mode 1 makes the named partitions and held launches eligible again. -/
  | preemptRelease (fn queue : Nat) (packet : List (BitVec 64))
  /-- KILL_PACKET (R323). Kills the named partitions and removes the named pending launches. -/
  | killPacket (fn queue : Nat) (packet : List (BitVec 64))
  /-- QUEUE_DOORBELL (R316). A host write of QTAIL makes new packets available for parsing. -/
  | queueDoorbell (fn queue : Nat) (tail : BitVec 16)
  /-- QUEUE_ENABLE (R315). A write of QCFG with EN = 1 resets QHEAD and QTAIL. -/
  | queueEnable (fn queue : Nat) (cfg : BitVec 64)
  /-- QUEUE_ERROR_CLEAR (R324). Clearing QSTAT.ERR re-parses the packet at HEAD. -/
  | queueErrorClear (fn queue : Nat)
  /-- HOST_REGISTER_WRITE (R410). A host write to a BAR0 register that has no behaviour of its own. -/
  | hostRegisterWrite (fn offset : Nat) (value : BitVec 64)
  /-- BIND (R331). Wilzia writes a bind record with STATE binding; dispatch zeroes the memory, loads the images and sets the bind values. -/
  | bind (launch : Nat) (choice : BindChoice)
  /-- BIND_COMPLETE (R331). Set-up is complete: STATE becomes running and the control contexts start within 4,096 cycles. -/
  | bindComplete (part : Nat)
  /-- BIND_WAIT_CAP (R334). A pending entry has waited 10 ms, and nothing of its class or a higher class number is bound before it. -/
  | bindWaitCap (launch : Nat)
  /-- LAUNCH_END (R35). Every core is quiescent with no packet left: the completion record and then the counter are written and the PID released. -/
  | launchEnd (part : Nat)
  /-- PREEMPT_REQUEST (R336). Wilzia writes STATE 3, and dispatch floods a halt over the partition. -/
  | preemptRequest (part : Nat) (cause : PreemptCause)
  /-- HALT_COMPLETE (R336). Every core has stopped and the networks are empty; the swap to shadow or the DRAM save begins and timers stand still. -/
  | haltComplete (part : Nat)
  /-- SWAP_COMPLETE (R337). The swap to shadow storage ends, and the partition is saved-shadow. -/
  | swapComplete (part : Nat)
  /-- SAVE_COMPLETE (R338). Every byte of a DRAM save area has performed, and its directory entry is written VALID. -/
  | saveComplete (part : Nat)
  /-- EVICT (R335). Wilzia evicts a saved-shadow partition to DRAM. -/
  | evict (part : Nat)
  /-- RESTORE_REQUEST (R339). Wilzia writes STATE 6, and the image is read back into the original clusters. -/
  | restoreRequest (part : Nat)
  /-- RESTORE_DONE (R339). The restore ends: contexts resume, or the partition is killed with SAVE_CORRUPT. -/
  | restoreDone (part : Nat) (intact : Bool)
  /-- KILL_REQUEST (R340). Wilzia writes STATE 7: contexts reset at once, work is discarded and the sweeps begin. -/
  | killRequest (part : Nat)
  /-- KILL_SWEEP_END (R340). A router's 2,048-cycle sweep of the partition's packets ends. -/
  | killSweepEnd (part cluster : Nat)
  /-- KILL_CONFIRM (R340). The purge is confirmed to Wilzia; the key is destroyed, the record is written and the PID released. -/
  | killConfirm (part : Nat)
  /-- STACK_FLIT_RECEIVE (R343). A stack-link flit is accepted in sequence, or discarded on a CRC or sequence error. -/
  | stackFlitReceive (link : Nat) (flit : LinkFlit)
  /-- LINK_REPLAY (R343). On a negative acknowledgement the sender replays from the first flit not accepted. -/
  | linkReplay (link : Nat)
  /-- LINK_RETRAIN (R345). After four replays in a row the link retrains; three failed retrains put it down. -/
  | linkRetrain (link : Nat) (ok : Bool)
  /-- HOME_REQUEST_APPLY (R344). The home translates a request and applies it to its block in acceptance order, or parks or refuses it. -/
  | homeRequestApply (home index : Nat)
  /-- GLEANER_STEP (R356). The gleaner reclaims discarded pieces or compacts ZERO-HELD blocks and grants parked writes in order. -/
  | gleanerStep (stack : Nat)
  /-- WILZIA_GROWTH_ANSWER (R356). Wilzia answers a growth request within 40 µs by moving share or adding reserve sectors. -/
  | wilziaGrowthAnswer (stack : Nat) (moved : Nat) (donor : Nat) (reserve : Nat)
  /-- PARK_DEADLINE (R356). A parked write still unsatisfied at its 100 µs deadline is refused with OUT_OF_SPACE. -/
  | parkDeadline (stack : Nat)
  /-- FAULT_ANSWER (R415). A host write of FQANS answers a waiting fault token as mapped or declined. -/
  | faultAnswer (fn : Nat) (answer : BitVec 64)
  /-- CXL_LINK_DOWN (R369). A CXL port's link goes down, and its pending requests fail with POISON. -/
  | cxlLinkDown (port : Nat)
  /-- HOST_ATOMIC (R366). A PCIe AtomicOp from the host is applied at the home, or completes with Completer Abort. -/
  | hostAtomic (fn : Nat) (va : BitVec 64) (op : HostAtomicOp) (bytes : Nat) (compare operand : BitVec 128)
  /-- IKIRATH_FLIT_RECEIVE (R384). An Ikirath flit is accepted in sequence, replayed or discarded, and checked against its target PID. -/
  | ikirathFlitReceive (port : Nat) (flit : LinkFlit)
  /-- POD_ARRIVAL (R386). A module's arrival for a POD barrier phase reaches the root. -/
  | podArrival (pid module phase : Nat)
  /-- POD_PID_ALLOT (R330). The root allots a pod PID to a (function, PODGRP) pair and answers over Ikirath. -/
  | podPidAllot (fn podgrp : Nat) (pid : BitVec 12)
  /-- BUDGET_PERIOD (R394). Every 10 µs the controllers divide budgets among children and leaves set FDUTY and MDUTY. -/
  | budgetPeriod (report : BudgetReport)
  /-- OP_CHANGE_DONE (R392). A change of operating point completes. -/
  | opChangeDone (quad : Nat)
  /-- CURRENT_LIMIT (R399). Supply current exceeds ILIM, and within 200 ns duties are capped at 4 and 2. -/
  | currentLimit (die : Nat)
  /-- LIMIT_RELEASE (R399). After 2 µs, with current below 90 percent for 1 µs, the tree's duties are restored. -/
  | limitRelease (die : Nat)
  /-- TEMPERATURE_SAMPLE (R402). Every 10 µs the module temperature is taken and warn and throttle actions are applied. -/
  | temperatureSample (temps : List Nat)
  /-- SAVES_DONE (R403). Every save-directory entry is VALID; the stacks self-refresh and the rails are removed. -/
  | savesDone
  /-- THERMAL_REENABLE (R403). Below 95 °C Wilzia re-enables, the rails return and the save directory is scanned. -/
  | thermalReenable
  /-- RECOVERY_DONE (R403). Every die is ready; NORMAL, and binding resumes. -/
  | recoveryDone
  /-- RETENTION_ENTRY (R406). Wilzia places an idle cluster in retention. -/
  | retentionEntry (cluster : Nat)
  /-- RETENTION_EXIT (R407). A cluster leaves retention, and parity failures kill the saved partition with RETENTION_LOSS. -/
  | retentionExit (cluster : Nat) (parityOk : Bool)
  /-- POWER_ON (R413). The boot ROM verifies the Wilzia image and starts it, or stops in RECOVERY. -/
  | powerOn (image : ImageCheck)
  /-- BOOT_READY (R413). Wilzia has trained memory and links and booted the dies, and STAGE becomes READY. -/
  | bootReady
  /-- RECOVERY_GO (R413). A write of RCVGO in RECOVERY makes the ROM fetch, check and flash a recovery image. -/
  | recoveryGo (image : ImageCheck)
  /-- ATTESTATION_GO (R414). A write of GO requests a signed attestation report over the nonce. -/
  | attestationGo
  /-- ATTESTATION_DONE (R414). Wilzia writes the report and clears BUSY within 20 ms. -/
  | attestationDone
  /-- FUNCON (R418). Enables a function with an empty address space and a new key. -/
  | funcon
  /-- FUNCOFF (R418). Releases a function's pages and tables and destroys its key. -/
  | funcoff
  /-- TRAPK (R418). Makes a trap-kernel image resident and records TVEC for later binds. -/
  | trapk
  /-- HOMERNG (R418). Sets an entry of a function's home range table. -/
  | homerng
  /-- MAP (R418). Maps a range at once, or declares it demand-allocated. -/
  | map (resources : Bool)
  /-- UNMAP (R418). Removes the mappings of a range and returns its sectors to the pool. -/
  | unmap
  /-- QUOTA (R418). Sets a function's per-partition quota and overcommit allowance. -/
  | quota (resources : Bool)
  /-- FUNCTION_REQUEST_DONE (R417). A set-up request has taken effect everywhere, FSRES is written and BUSY and GO are cleared. -/
  | functionRequestDone
  /-- LIFETIME_UPDATE (R416). Every 60 s, and on entering SAVING, Wilzia writes the lifetime counters to flash. -/
  | lifetimeUpdate
  /-- FP_VECTOR_QUEUE_DRAIN (R31). The oldest entry of the control context's FP/vector queue executes, performs its memory access or pop, and leaves the queue or traps precisely with the younger entries deferred. -/
  | fpVectorQueueDrain (core : Nat)
  /-- REMOTE_ACCESS_PERFORM (R102). A core load, store or atomic to another cluster reaches its target SRAM, where it performs, is checked against granule metadata and leaves its race record. -/
  | remoteAccessPerform (core ctx id : Nat)
  /-- ROUTER_OUTPUT_GRANT (R378). A router output grants a candidate packet and moves its flits over one link in each cycle, under credits, pool and escape choice, datelines and the bridges. -/
  | routerOutputGrant (router : Nat) (out : RouterPort) (cls : MsgClass)
  /-- MATRIX_COMMAND_ARRIVE (R253). A matrix command reaches its unit over the mesh and enters the 16-entry command FIFO in order of arrival. -/
  | matrixCommandArrive (pkt : Nat)
  /-- MATRIX_COMMAND_DONE (R249). The unit finishes the occupancy of an MZERO or of an MSTORE copy, the command ends or passes to the engine write, and the next command may start. -/
  | matrixCommandDone (quad : Nat)
  /-- FOLD_REQUEST_ARRIVE (R258). An FRES or FREL reaches its fold, where it adds or removes a reservation, waits for an entry, or raises ADDR. -/
  | foldRequestArrive (pkt : Nat)
  /-- FOLD_ANSWER (R260). The fold's answer reaches the issuing core and completes its waiting FOLD, FRES or FREL, or posts FOLD_FULL. -/
  | foldAnswer (pkt : Nat)
  /-- PIECE_FAULT (R232). The fault of a sent engine piece reaches the engine, and the engine stops sending, so the unsent pieces join the remainder. -/
  | pieceFault (core entry piece : Nat)
  /-- LINK_RECOVERED (R345). Wilzia recovers a down stack link, retrains and reconfigures a CXL port, or restores an Ikirath link, and its pages become resolvable again. -/
  | linkRecovered (link : LinkName)
  /-- POD_FORMATION (R385). Wilzia forms a pod: it sets the module's pod number and writes the Ikirath route tables of the I/O dies. -/
  | podFormation (number : Nat) (routes : List (Nat × Nat))
  /-- UNCORRECTABLE_ERROR (R301). An SRAM word, a context's register state or a DRAM sector acquires an error that its ECC cannot correct, so later reads raise SRAM_UNCORR or fail as POISON. -/
  | uncorrectableError (where_ : ErrorSite)  deriving DecidableEq, Repr

end Sys2Proof
end

