-- ==== Sys2Proof/WellFormed.lean ====
section
/-! DEFINITION. Which instructions are well formed: the ranges that Table 5-5 and R117 put on field values
beyond the fixed bits, and the ranges of the numbers of agents (R13, Table 1-1) that an event names. -/

namespace Sys2Proof

/-- An rm field is a rounding mode of Table 3-7 or 7 for FCSR.RM; 6 is not an encoding (R74, R116). -/
def rmOk (r : BitVec 3) : Bool := r != 6#3

/-- A pair field of AMOCAS.Q is even and not zero (R114). -/
def pairOk (r : RegNum) : Bool := r.extractLsb' 0 1 == 0#1 && r != 0#5

/-- The transform, T and source field of an XCOPY (Table 5-5, R117). -/
def xcopyOk (b : RegNum) (t : BitVec 1) (k : BitVec 4) : Bool :=
  decide (k.toNat ≤ 10) &&
  (t == 0#1 || k == 5#4 || k == 6#4 || k == 8#4) &&
  (k != 1#4 || b == 0#5)

/-- Number of a core of the module (Table 1-1). -/
def coreOk (n : Nat) : Bool := decide (n < 65536)

/-- Number of a context of a core (R15). -/
def ctxOk (n : Nat) : Bool := decide (n < 11)

/-- Number of an entry of a request ring (R231). -/
def entryOk (n : Nat) : Bool := decide (n < 16)

/-- Number of a quad (Table 1-1). -/
def quadOk (n : Nat) : Bool := decide (n < 16384)

/-- Number of a cluster, and so of a fold or router (Table 1-1). -/
def clusterOk (n : Nat) : Bool := decide (n < 4096)

/-- Number of a function (R409). -/
def fnOk (n : Nat) : Bool := decide (n ≤ 64)

/-- Number of a host queue (R315). -/
def queueOk (n : Nat) : Bool := decide (n < 64)

/-- The field ranges of every constructor. -/
def Instr.wellFormed : Instr → Bool
  | .bfx _ _ l p => decide (p.toNat + l.toNat + 1 ≤ 64)
  | .bfi _ _ l p => decide (p.toNat + l.toNat + 1 ≤ 64)
  | .fadd _ _ _ _ r => rmOk r
  | .fsub _ _ _ _ r => rmOk r
  | .fmul _ _ _ _ r => rmOk r
  | .fdiv _ _ _ _ r => rmOk r
  | .fsqrt _ _ _ r => rmOk r
  | .fcvtFloatFloat _ _ e _ g r => e != g && rmOk r
  | .fcvtFloatInt _ _ _ _ _ r => rmOk r
  | .fcvtIntFloat _ _ _ _ r => rmOk r
  | .fmadd _ _ _ _ _ r => rmOk r
  | .fmsub _ _ _ _ _ r => rmOk r
  | .fnmadd _ _ _ _ _ r => rmOk r
  | .fnmsub _ _ _ _ _ r => rmOk r
  | .ssync m => m != 0#4
  | .vadd _ _ _ r => rmOk r
  | .vsub _ _ _ r => rmOk r
  | .vmul _ _ _ r => rmOk r
  | .vcmp _ _ _ c => decide (c.toNat ≤ 5)
  | .vfma _ _ _ _ r => rmOk r
  | .vfms _ _ _ _ r => rmOk r
  | .vnfma _ _ _ _ r => rmOk r
  | .vredAdd _ _ r => rmOk r
  | .vdot _ _ _ r => rmOk r
  | .vcvt _ _ _ _ r => rmOk r
  | .vqnt _ _ _ _ r => rmOk r
  | .vdqnt _ _ _ r => rmOk r
  | .amocasQ d _ b _ _ _ => pairOk d && pairOk b
  | .bar n => decide (n.toNat ≤ 6)
  | .bararr n => decide (n.toNat ≤ 6)
  | .barwait n => decide (n.toNat ≤ 6)
  | .sendr _ _ n => n != 0#5
  | .pclr n => n != 0#5
  | .ptest _ n => n != 0#5
  | .hwait h => decide (1 ≤ h.toNat ∧ h.toNat ≤ 10)
  | .xcopy _ b _ t k => xcopyOk b t k
  | .xamo _ _ _ w o => decide (o.toNat ≤ 11) && (o != 10#4 || w == 0#1)
  | .ptouch _ m => m != 3#2
  | .fold _ _ _ s p => decide (p.toNat ≤ 8) && decide (s.toNat ≤ 5)
  | .fres _ s => decide (s.toNat ≤ 5)
  | .helperStart core => coreOk core
  | .enginePieceSend core piece => coreOk core && entryOk piece.entry && decide (0 < piece.take)
  | .layoutRecordRead core entry => coreOk core && entryOk entry
  | .engineSlotClaim core entry => coreOk core && entryOk entry
  | .xpubSlotTake core entry => coreOk core && entryOk entry
  | .pieceLand core entry _ => coreOk core && entryOk entry
  | .handBack core entry => coreOk core && entryOk entry
  | .ptouchResolved core ctx => coreOk core && ctxOk ctx
  | .discardAccept core entry => coreOk core && entryOk entry
  | .matrixCommandStart quad => quadOk quad
  | .kstepTake quad => quadOk quad
  | .kstepRetire quad => quadOk quad
  | .kstepWaitTimeout quad => quadOk quad
  | .drainRowOffer quad => quadOk quad
  | .mloadDone quad acc => quadOk quad && decide (acc < 4)
  | .foldResultDeliver fl _ => clusterOk fl
  | .foldOrphanTimeout fl entry => clusterOk fl && decide (entry < 64)
  | .fresGrant fl => clusterOk fl
  | .ecallExit core => coreOk core
  | .park core ctx => coreOk core && ctxOk ctx
  | .setoto core ctx => coreOk core && ctxOk ctx
  | .setseed core ctx => coreOk core && ctxOk ctx
  | .wilziaAnswer core ctx => coreOk core && ctxOk ctx
  | .barTimeout core ctx => coreOk core && ctxOk ctx
  | .presenceTimeout core ctx => coreOk core && ctxOk ctx
  | .wfeRelease core ctx => coreOk core && ctxOk ctx
  | .remoteAck core ctx _ => coreOk core && ctxOk ctx
  | .streamPrefetch core port => coreOk core && decide (port < 4)
  | .latheIssue core => coreOk core
  | .launch fn q p => fnOk fn && queueOk q && p.length % 8 == 0
  | .fencePacket fn q p => fnOk fn && queueOk q && p.length % 8 == 0
  | .fencePoll fn q t => fnOk fn && queueOk q && decide (t < 12)
  | .fenceTimeout fn q => fnOk fn && queueOk q
  | .cond fn q p => fnOk fn && queueOk q && p.length % 8 == 0
  | .signal fn q p => fnOk fn && queueOk q && p.length % 8 == 0
  | .copyPacket fn q p _ => fnOk fn && queueOk q && p.length % 8 == 0
  | .copyDone fn q _ => fnOk fn && queueOk q
  | .preemptHold fn q p => fnOk fn && queueOk q && p.length % 8 == 0
  | .preemptRelease fn q p => fnOk fn && queueOk q && p.length % 8 == 0
  | .killPacket fn q p => fnOk fn && queueOk q && p.length % 8 == 0
  | .queueDoorbell fn q _ => fnOk fn && queueOk q
  | .queueEnable fn q _ => fnOk fn && queueOk q
  | .queueErrorClear fn q => fnOk fn && queueOk q
  | .hostRegisterWrite fn off _ => fnOk fn && off % 8 == 0 && decide (off < 65536)
  | .killSweepEnd _ cluster => clusterOk cluster
  | .gleanerStep stack => decide (stack < 32)
  | .wilziaGrowthAnswer stack _ donor _ => decide (stack < 32) && decide (donor < 32)
  | .parkDeadline stack => decide (stack < 32)
  | .faultAnswer fn _ => fnOk fn
  | .cxlLinkDown port => decide (port < 8)
  | .hostAtomic fn _ _ bytes _ _ => fnOk fn && (bytes == 4 || bytes == 8 || bytes == 16)
  | .ikirathFlitReceive port _ => decide (port < 24)
  | .opChangeDone quad => quadOk quad
  | .currentLimit die => decide (die < 16)
  | .limitRelease die => decide (die < 16)
  | .temperatureSample temps => temps.length == 50
  | .retentionEntry cluster => clusterOk cluster
  | .retentionExit cluster _ => clusterOk cluster
  | .illegalEncoding short bits => !short || bits.extractLsb' 16 16 == 0#16
  | .fpVectorQueueDrain core => coreOk core
  | .remoteAccessPerform core ctx _ => coreOk core && ctxOk ctx
  | .routerOutputGrant router _ _ => clusterOk router
  | .matrixCommandDone quad => quadOk quad
  | .pieceFault core entry _ => coreOk core && entryOk entry
  | _ => true

end Sys2Proof
end

