-- ==== Sys2Proof/Decode.lean ====
section
/-! DEFINITION. The decoder and the encoder, written from the encoding tables of 05_encoding.md (Tables
5-1, 5-2, 5-4 and 5-5). The decoder is total on any bytes and rejects by name what is not an
instruction (R117). -/

namespace Sys2Proof

/-- The five fields that every 32-bit format divides bits [31:7] into (Table 5-1): f7 [31:25], b [24:20],
f3 [19:17], a [16:12], d [11:7]. -/
structure Slots where
  f7 : BitVec 7
  b : BitVec 5
  f3 : BitVec 3
  a : BitVec 5
  d : BitVec 5
  deriving DecidableEq, Repr

/-- The slots of a word. -/
def slots (w : BitVec 32) : Slots :=
  { f7 := w.extractLsb' 25 7, b := w.extractLsb' 20 5, f3 := w.extractLsb' 17 3,
    a := w.extractLsb' 12 5, d := w.extractLsb' 7 5 }

/-- The opcode byte's seven bits (R110). -/
def opcodeOf (w : BitVec 32) : BitVec 7 := w.extractLsb' 0 7

/-- A word from its slots and opcode (Table 5-1). -/
def pack32 (f7 : BitVec 7) (b : BitVec 5) (f3 : BitVec 3) (a d : BitVec 5) (opc : BitVec 7) : BitVec 32 :=
  f7 ++ b ++ f3 ++ a ++ d ++ opc

/-- A halfword from its fields (R112). -/
def pack16 (b d op : BitVec 5) : BitVec 16 := b ++ d ++ op ++ 0#1

/-- Opcode 0x03, major 1 (Table 5-5). -/
def decode03 (f : Slots) : Option Instr :=
  if f.f7 = 0#7 ∧ f.f3 = 0#3 then some (.add f.d f.a f.b) else
  if f.f7 = 0#7 ∧ f.f3 = 1#3 then some (.sll f.d f.a f.b) else
  if f.f7 = 0#7 ∧ f.f3 = 2#3 then some (.slt f.d f.a f.b) else
  if f.f7 = 0#7 ∧ f.f3 = 3#3 then some (.sltu f.d f.a f.b) else
  if f.f7 = 0#7 ∧ f.f3 = 4#3 then some (.xor f.d f.a f.b) else
  if f.f7 = 0#7 ∧ f.f3 = 5#3 then some (.srl f.d f.a f.b) else
  if f.f7 = 0#7 ∧ f.f3 = 6#3 then some (.or f.d f.a f.b) else
  if f.f7 = 0#7 ∧ f.f3 = 7#3 then some (.and f.d f.a f.b) else
  if f.f7 = 32#7 ∧ f.f3 = 0#3 then some (.sub f.d f.a f.b) else
  if f.f7 = 32#7 ∧ f.f3 = 5#3 then some (.sra f.d f.a f.b) else
  if f.f7 = 1#7 ∧ f.f3 = 0#3 then some (.mul f.d f.a f.b) else
  if f.f7 = 1#7 ∧ f.f3 = 1#3 then some (.mulh f.d f.a f.b) else
  if f.f7 = 1#7 ∧ f.f3 = 2#3 then some (.mulhsu f.d f.a f.b) else
  if f.f7 = 1#7 ∧ f.f3 = 3#3 then some (.mulhu f.d f.a f.b) else
  if f.f7 = 1#7 ∧ f.f3 = 4#3 then some (.div f.d f.a f.b) else
  if f.f7 = 1#7 ∧ f.f3 = 5#3 then some (.divu f.d f.a f.b) else
  if f.f7 = 1#7 ∧ f.f3 = 6#3 then some (.rem f.d f.a f.b) else
  if f.f7 = 1#7 ∧ f.f3 = 7#3 then some (.remu f.d f.a f.b) else
  if f.f7 = 2#7 ∧ f.f3 = 0#3 then some (.min f.d f.a f.b) else
  if f.f7 = 2#7 ∧ f.f3 = 1#3 then some (.max f.d f.a f.b) else
  if f.f7 = 2#7 ∧ f.f3 = 2#3 then some (.minu f.d f.a f.b) else
  if f.f7 = 2#7 ∧ f.f3 = 3#3 then some (.maxu f.d f.a f.b) else
  if f.f7 = 4#7 ∧ f.b = 0#5 ∧ f.f3 = 0#3 then some (.clz f.d f.a) else
  if f.f7 = 4#7 ∧ f.b = 0#5 ∧ f.f3 = 1#3 then some (.ctz f.d f.a) else
  if f.f7 = 4#7 ∧ f.b = 0#5 ∧ f.f3 = 2#3 then some (.popc f.d f.a) else
  if f.f7 = 4#7 ∧ f.b = 0#5 ∧ f.f3 = 3#3 then some (.brev f.d f.a) else
  if f.f7 = 4#7 ∧ f.b = 0#5 ∧ f.f3 = 4#3 then some (.sextb f.d f.a) else
  if f.f7 = 4#7 ∧ f.b = 0#5 ∧ f.f3 = 5#3 then some (.sexth f.d f.a) else
  if f.f7 = 4#7 ∧ f.b = 0#5 ∧ f.f3 = 6#3 then some (.sextw f.d f.a) else
  none

/-- Opcode 0x05, major 2 (Table 5-5). -/
def decode05 (f : Slots) : Option Instr :=
  if f.f3 = 0#3 then some (.addi f.d f.a (f.f7 ++ f.b : BitVec 12)) else
  if f.f3 = 2#3 then some (.slti f.d f.a (f.f7 ++ f.b : BitVec 12)) else
  if f.f3 = 3#3 then some (.sltiu f.d f.a (f.f7 ++ f.b : BitVec 12)) else
  if f.f3 = 4#3 then some (.xori f.d f.a (f.f7 ++ f.b : BitVec 12)) else
  if f.f3 = 6#3 then some (.ori f.d f.a (f.f7 ++ f.b : BitVec 12)) else
  if f.f3 = 7#3 then some (.andi f.d f.a (f.f7 ++ f.b : BitVec 12)) else
  if f.f7.extractLsb' 1 6 = 0#6 ∧ f.f3 = 1#3 then some (.slli f.d f.a (f.f7.extractLsb' 0 1 ++ f.b : BitVec 6)) else
  if f.f7.extractLsb' 1 6 = 0#6 ∧ f.f3 = 5#3 then some (.srli f.d f.a (f.f7.extractLsb' 0 1 ++ f.b : BitVec 6)) else
  if f.f7.extractLsb' 1 6 = 16#6 ∧ f.f3 = 5#3 then some (.srai f.d f.a (f.f7.extractLsb' 0 1 ++ f.b : BitVec 6)) else
  none

/-- Opcode 0x07, major 3 (Table 5-5). -/
def decode07 (f : Slots) : Option Instr :=
  some (.lih f.d (f.f7 ++ f.b ++ f.f3 ++ f.a : BitVec 20))

/-- Opcode 0x09, major 4 (Table 5-5). -/
def decode09 (f : Slots) : Option Instr :=
  some (.addpc f.d (f.f7 ++ f.b ++ f.f3 ++ f.a : BitVec 20))

/-- Opcode 0x0B, major 5 (Table 5-5). -/
def decode0B (f : Slots) : Option Instr :=
  if f.f3 = 0#3 then some (.lb f.d f.a (f.f7 ++ f.b : BitVec 12)) else
  if f.f3 = 1#3 then some (.lh f.d f.a (f.f7 ++ f.b : BitVec 12)) else
  if f.f3 = 2#3 then some (.lw f.d f.a (f.f7 ++ f.b : BitVec 12)) else
  if f.f3 = 3#3 then some (.ld f.d f.a (f.f7 ++ f.b : BitVec 12)) else
  if f.f3 = 4#3 then some (.lbu f.d f.a (f.f7 ++ f.b : BitVec 12)) else
  if f.f3 = 5#3 then some (.lhu f.d f.a (f.f7 ++ f.b : BitVec 12)) else
  if f.f3 = 6#3 then some (.lwu f.d f.a (f.f7 ++ f.b : BitVec 12)) else
  none

/-- Opcode 0x0D, major 6 (Table 5-5). -/
def decode0D (f : Slots) : Option Instr :=
  if f.f3 = 0#3 then some (.sb f.a f.b (f.f7 ++ f.d : BitVec 12)) else
  if f.f3 = 1#3 then some (.sh f.a f.b (f.f7 ++ f.d : BitVec 12)) else
  if f.f3 = 2#3 then some (.sw f.a f.b (f.f7 ++ f.d : BitVec 12)) else
  if f.f3 = 3#3 then some (.sd f.a f.b (f.f7 ++ f.d : BitVec 12)) else
  none

/-- Opcode 0x0F, major 7 (Table 5-5). -/
def decode0F (f : Slots) : Option Instr :=
  if f.f3 = 0#3 then some (.beq f.a f.b (f.f7 ++ f.d : BitVec 12)) else
  if f.f3 = 1#3 then some (.bne f.a f.b (f.f7 ++ f.d : BitVec 12)) else
  if f.f3 = 4#3 then some (.blt f.a f.b (f.f7 ++ f.d : BitVec 12)) else
  if f.f3 = 5#3 then some (.bge f.a f.b (f.f7 ++ f.d : BitVec 12)) else
  if f.f3 = 6#3 then some (.bltu f.a f.b (f.f7 ++ f.d : BitVec 12)) else
  if f.f3 = 7#3 then some (.bgeu f.a f.b (f.f7 ++ f.d : BitVec 12)) else
  none

/-- Opcode 0x11, major 8 (Table 5-5). -/
def decode11 (f : Slots) : Option Instr :=
  some (.jal f.d (f.f7 ++ f.b ++ f.f3 ++ f.a : BitVec 20))

/-- Opcode 0x13, major 9 (Table 5-5). -/
def decode13 (f : Slots) : Option Instr :=
  if f.f3 = 0#3 then some (.jalr f.d f.a (f.f7 ++ f.b : BitVec 12)) else
  none

/-- Opcode 0x15, major 10 (Table 5-5). -/
def decode15 (f : Slots) : Option Instr :=
  if f.f3 = 0#3 then some (.bfx f.d f.a (f.f7.extractLsb' 1 6) (f.f7.extractLsb' 0 1 ++ f.b : BitVec 6)) else
  if f.f3 = 1#3 then some (.bfi f.d f.a (f.f7.extractLsb' 1 6) (f.f7.extractLsb' 0 1 ++ f.b : BitVec 6)) else
  none

/-- Opcode 0x17, major 11 (Table 5-5). -/
def decode17 (f : Slots) : Option Instr :=
  if f.f7 = 0#7 ∧ f.f3 = 0#3 then some (.mkaddr f.d f.a f.b) else
  if f.f7 = 0#7 ∧ f.b = 0#5 ∧ f.f3 = 1#3 then some (.absaddr f.d f.a) else
  none

/-- Opcode 0x19, major 12 (Table 5-5). -/
def decode19 (f : Slots) : Option Instr :=
  if f.f7 = 0#7 ∧ f.b = 0#5 ∧ f.f3 = 0#3 ∧ f.a = 0#5 ∧ f.d = 0#5 then some (.ecall) else
  if f.f7 = 0#7 ∧ f.b = 1#5 ∧ f.f3 = 0#3 ∧ f.a = 0#5 ∧ f.d = 0#5 then some (.ebreak) else
  if f.f7 = 0#7 ∧ f.b = 2#5 ∧ f.f3 = 0#3 ∧ f.a = 0#5 ∧ f.d = 0#5 then some (.tret) else
  if f.f7 = 0#7 ∧ f.b = 3#5 ∧ f.f3 = 0#3 ∧ f.a = 0#5 ∧ f.d = 0#5 then some (.wfe) else
  if f.f7 = 0#7 ∧ f.b = 4#5 ∧ f.f3 = 0#3 ∧ f.a = 0#5 ∧ f.d = 0#5 then some (.isync) else
  if f.f3 = 1#3 then some (.csrrw f.d f.a (f.f7 ++ f.b : BitVec 12)) else
  if f.f3 = 2#3 then some (.csrrs f.d f.a (f.f7 ++ f.b : BitVec 12)) else
  if f.f3 = 3#3 then some (.csrrc f.d f.a (f.f7 ++ f.b : BitVec 12)) else
  if f.f3 = 5#3 then some (.csrrwi f.d (f.f7 ++ f.b : BitVec 12) f.a) else
  if f.f3 = 6#3 then some (.csrrsi f.d (f.f7 ++ f.b : BitVec 12) f.a) else
  if f.f3 = 7#3 then some (.csrrci f.d (f.f7 ++ f.b : BitVec 12) f.a) else
  none

/-- Opcode 0x1B, major 13 (Table 5-5). -/
def decode1B (f : Slots) : Option Instr :=
  if f.f3 = 1#3 then some (.flh f.d f.a (f.f7 ++ f.b : BitVec 12)) else
  if f.f3 = 2#3 then some (.flw f.d f.a (f.f7 ++ f.b : BitVec 12)) else
  if f.f3 = 3#3 then some (.fld f.d f.a (f.f7 ++ f.b : BitVec 12)) else
  none

/-- Opcode 0x1D, major 14 (Table 5-5). -/
def decode1D (f : Slots) : Option Instr :=
  if f.f3 = 1#3 then some (.fsh f.a f.b (f.f7 ++ f.d : BitVec 12)) else
  if f.f3 = 2#3 then some (.fsw f.a f.b (f.f7 ++ f.d : BitVec 12)) else
  if f.f3 = 3#3 then some (.fsd f.a f.b (f.f7 ++ f.d : BitVec 12)) else
  none

/-- Opcode 0x1F, major 15 (Table 5-5). -/
def decode1F (f : Slots) : Option Instr :=
  if f.f7.extractLsb' 1 6 = 0#6 then some (.fadd f.d f.a f.b (f.f7.extractLsb' 0 1) f.f3) else
  if f.f7.extractLsb' 1 6 = 2#6 then some (.fsub f.d f.a f.b (f.f7.extractLsb' 0 1) f.f3) else
  if f.f7.extractLsb' 1 6 = 4#6 then some (.fmul f.d f.a f.b (f.f7.extractLsb' 0 1) f.f3) else
  if f.f7.extractLsb' 1 6 = 6#6 then some (.fdiv f.d f.a f.b (f.f7.extractLsb' 0 1) f.f3) else
  if f.f7.extractLsb' 1 6 = 8#6 ∧ f.b = 0#5 then some (.fsqrt f.d f.a (f.f7.extractLsb' 0 1) f.f3) else
  if f.f7.extractLsb' 1 6 = 10#6 ∧ f.f3 = 0#3 then some (.fsgnj f.d f.a f.b (f.f7.extractLsb' 0 1)) else
  if f.f7.extractLsb' 1 6 = 10#6 ∧ f.f3 = 1#3 then some (.fsgnjn f.d f.a f.b (f.f7.extractLsb' 0 1)) else
  if f.f7.extractLsb' 1 6 = 10#6 ∧ f.f3 = 2#3 then some (.fsgnjx f.d f.a f.b (f.f7.extractLsb' 0 1)) else
  if f.f7.extractLsb' 1 6 = 12#6 ∧ f.f3 = 0#3 then some (.fmin f.d f.a f.b (f.f7.extractLsb' 0 1)) else
  if f.f7.extractLsb' 1 6 = 12#6 ∧ f.f3 = 1#3 then some (.fmax f.d f.a f.b (f.f7.extractLsb' 0 1)) else
  if f.f7.extractLsb' 1 6 = 14#6 ∧ f.f3 = 0#3 then some (.fle f.d f.a f.b (f.f7.extractLsb' 0 1)) else
  if f.f7.extractLsb' 1 6 = 14#6 ∧ f.f3 = 1#3 then some (.flt f.d f.a f.b (f.f7.extractLsb' 0 1)) else
  if f.f7.extractLsb' 1 6 = 14#6 ∧ f.f3 = 2#3 then some (.feq f.d f.a f.b (f.f7.extractLsb' 0 1)) else
  if f.f7.extractLsb' 1 6 = 16#6 ∧ f.b = 0#5 ∧ f.f3 = 0#3 then some (.fclass f.d f.a (f.f7.extractLsb' 0 1)) else
  if f.f7.extractLsb' 2 5 = 9#5 ∧ f.b.extractLsb' 2 2 = 0#2 then some (.fcvtFloatFloat f.d f.a (f.f7.extractLsb' 0 2) (f.b.extractLsb' 4 1) (f.b.extractLsb' 0 2) f.f3) else
  if f.f7.extractLsb' 2 5 = 10#5 ∧ f.b.extractLsb' 2 2 = 0#2 then some (.fcvtFloatInt f.d f.a (f.f7.extractLsb' 0 2) (f.b.extractLsb' 4 1) (f.b.extractLsb' 0 2) f.f3) else
  if f.f7.extractLsb' 2 5 = 11#5 ∧ f.b.extractLsb' 2 3 = 0#3 then some (.fcvtIntFloat f.d f.a (f.f7.extractLsb' 0 2) (f.b.extractLsb' 0 2) f.f3) else
  if f.f7.extractLsb' 2 5 = 12#5 ∧ f.b = 0#5 ∧ f.f3 = 0#3 then some (.fmvx f.d f.a (f.f7.extractLsb' 0 2)) else
  if f.f7.extractLsb' 2 5 = 13#5 ∧ f.b = 0#5 ∧ f.f3 = 0#3 then some (.fmvf f.d f.a (f.f7.extractLsb' 0 2)) else
  none

/-- Opcode 0x21, major 16 (Table 5-5). -/
def decode21 (f : Slots) : Option Instr :=
  if f.f7.extractLsb' 1 1 = 0#1 then some (.fmadd f.d f.a f.b (f.f7.extractLsb' 2 5) (f.f7.extractLsb' 0 1) f.f3) else
  none

/-- Opcode 0x23, major 17 (Table 5-5). -/
def decode23 (f : Slots) : Option Instr :=
  if f.f7.extractLsb' 1 1 = 0#1 then some (.fmsub f.d f.a f.b (f.f7.extractLsb' 2 5) (f.f7.extractLsb' 0 1) f.f3) else
  none

/-- Opcode 0x25, major 18 (Table 5-5). -/
def decode25 (f : Slots) : Option Instr :=
  if f.f7.extractLsb' 1 1 = 0#1 then some (.fnmadd f.d f.a f.b (f.f7.extractLsb' 2 5) (f.f7.extractLsb' 0 1) f.f3) else
  none

/-- Opcode 0x27, major 19 (Table 5-5). -/
def decode27 (f : Slots) : Option Instr :=
  if f.f7.extractLsb' 1 1 = 0#1 then some (.fnmsub f.d f.a f.b (f.f7.extractLsb' 2 5) (f.f7.extractLsb' 0 1) f.f3) else
  none

/-- Opcode 0x29, major 20 (Table 5-5). -/
def decode29 (f : Slots) : Option Instr :=
  if f.f7.extractLsb' 3 4 = 0#4 ∧ f.b = 0#5 ∧ f.f3 = 0#3 ∧ f.a = 0#5 then some (.sbind f.d (f.f7.extractLsb' 2 1) (f.f7.extractLsb' 0 2)) else
  if f.f7.extractLsb' 2 5 = 0#5 ∧ f.b = 0#5 ∧ f.f3 = 1#3 ∧ f.a = 0#5 ∧ f.d = 0#5 then some (.sunbind (f.f7.extractLsb' 0 2)) else
  if f.f7.extractLsb' 2 5 = 0#5 ∧ f.b = 0#5 ∧ f.f3 = 2#3 ∧ f.d = 0#5 then some (.sskip f.a (f.f7.extractLsb' 0 2)) else
  if f.f7.extractLsb' 4 3 = 0#3 ∧ f.b = 0#5 ∧ f.f3 = 3#3 ∧ f.a = 0#5 ∧ f.d = 0#5 then some (.ssync (f.f7.extractLsb' 0 4)) else
  none

/-- Opcode 0x2B, major 21 (Table 5-5). -/
def decode2B (f : Slots) : Option Instr :=
  if f.f7 = 0#7 ∧ f.b.extractLsb' 4 1 = 0#1 ∧ f.f3 = 0#3 ∧ f.d = 0#5 then some (.frep f.a (f.b.extractLsb' 0 4)) else
  if f.f3 = 1#3 ∧ f.a = 0#5 ∧ f.d = 0#5 then some (.frepi (f.f7 ++ f.b.extractLsb' 4 1 : BitVec 8) (f.b.extractLsb' 0 4)) else
  none

/-- Opcode 0x2D, major 22 (Table 5-5). -/
def decode2D (f : Slots) : Option Instr :=
  if f.f3 = 0#3 then some (.vld f.d f.a (f.f7.extractLsb' 3 4) (f.f7.extractLsb' 0 3 ++ f.b : BitVec 8)) else
  if f.f7.extractLsb' 3 4 = 0#4 ∧ f.f3 = 1#3 then some (.vst f.a f.b (f.f7.extractLsb' 0 3 ++ f.d : BitVec 8)) else
  if f.f7.extractLsb' 6 1 = 0#1 ∧ f.f3 = 2#3 then some (.vlds f.d f.a f.b (f.f7.extractLsb' 4 2) (f.f7.extractLsb' 0 4)) else
  if f.f7.extractLsb' 6 1 = 0#1 ∧ f.f7.extractLsb' 0 4 = 0#4 ∧ f.f3 = 3#3 then some (.vsts f.d f.a f.b (f.f7.extractLsb' 4 2)) else
  if f.f7.extractLsb' 6 1 = 0#1 ∧ f.f3 = 4#3 then some (.vgather f.d f.a f.b (f.f7.extractLsb' 4 2) (f.f7.extractLsb' 0 4)) else
  if f.f7.extractLsb' 6 1 = 0#1 ∧ f.f7.extractLsb' 0 4 = 0#4 ∧ f.f3 = 5#3 then some (.vscatter f.d f.a f.b (f.f7.extractLsb' 4 2)) else
  if f.f3 = 6#3 then some (.vldb f.d f.a (f.f7 ++ f.b : BitVec 12)) else
  none

/-- Opcode 0x2F, major 23 (Table 5-5). -/
def decode2F (f : Slots) : Option Instr :=
  if f.f7 = 0#7 then some (.vadd f.d f.a f.b f.f3) else
  if f.f7 = 1#7 then some (.vsub f.d f.a f.b f.f3) else
  if f.f7 = 2#7 then some (.vmul f.d f.a f.b f.f3) else
  if f.f7 = 3#7 ∧ f.f3 = 0#3 then some (.vmin f.d f.a f.b) else
  if f.f7 = 4#7 ∧ f.f3 = 0#3 then some (.vmax f.d f.a f.b) else
  if f.f7 = 5#7 ∧ f.f3 = 0#3 then some (.vand f.d f.a f.b) else
  if f.f7 = 6#7 ∧ f.f3 = 0#3 then some (.vor f.d f.a f.b) else
  if f.f7 = 7#7 ∧ f.f3 = 0#3 then some (.vxor f.d f.a f.b) else
  if f.f7 = 8#7 ∧ f.f3 = 0#3 then some (.vshl f.d f.a f.b) else
  if f.f7 = 9#7 ∧ f.f3 = 0#3 then some (.vshr f.d f.a f.b) else
  if f.f7 = 10#7 ∧ f.f3 = 0#3 then some (.vsra f.d f.a f.b) else
  if f.f7 = 11#7 then some (.vcmp f.d f.a f.b f.f3) else
  if f.f7 = 12#7 ∧ f.b = 0#5 ∧ f.f3 = 0#3 then some (.vabs f.d f.a) else
  if f.f7 = 13#7 ∧ f.b = 0#5 ∧ f.f3 = 0#3 then some (.vneg f.d f.a) else
  none

/-- Opcode 0x31, major 24 (Table 5-5). -/
def decode31 (f : Slots) : Option Instr :=
  if f.f7.extractLsb' 0 2 = 0#2 then some (.vfma f.d f.a f.b (f.f7.extractLsb' 2 5) f.f3) else
  if f.f7.extractLsb' 0 2 = 1#2 then some (.vfms f.d f.a f.b (f.f7.extractLsb' 2 5) f.f3) else
  if f.f7.extractLsb' 0 2 = 2#2 then some (.vnfma f.d f.a f.b (f.f7.extractLsb' 2 5) f.f3) else
  if f.f7.extractLsb' 0 2 = 3#2 ∧ f.f3 = 0#3 then some (.vsel f.d f.a f.b (f.f7.extractLsb' 2 5)) else
  none

/-- Opcode 0x33, major 25 (Table 5-5). -/
def decode33 (f : Slots) : Option Instr :=
  if f.f7 = 0#7 ∧ f.b = 0#5 then some (.vredAdd f.d f.a f.f3) else
  if f.f7 = 1#7 ∧ f.b = 0#5 ∧ f.f3 = 0#3 then some (.vredMin f.d f.a) else
  if f.f7 = 2#7 ∧ f.b = 0#5 ∧ f.f3 = 0#3 then some (.vredMax f.d f.a) else
  if f.f7 = 3#7 then some (.vdot f.d f.a f.b f.f3) else
  if f.f7 = 4#7 then some (.vcvt f.d f.a (f.b.extractLsb' 4 1) (f.b.extractLsb' 0 4) f.f3) else
  if f.f7 = 5#7 then some (.vqnt f.d f.a (f.b.extractLsb' 4 1) (f.b.extractLsb' 0 4) f.f3) else
  if f.f7 = 6#7 ∧ f.b.extractLsb' 4 1 = 0#1 then some (.vdqnt f.d f.a (f.b.extractLsb' 0 4) f.f3) else
  if f.f7 = 7#7 ∧ f.f3 = 0#3 then some (.vperm f.d f.a f.b) else
  if f.f7 = 8#7 ∧ f.f3 = 0#3 then some (.vshuf f.d f.a f.b) else
  if f.f7 = 9#7 ∧ f.f3 = 0#3 then some (.vslideUp f.d f.a f.b) else
  if f.f7 = 9#7 ∧ f.f3 = 1#3 then some (.vslideDown f.d f.a f.b) else
  if f.f7 = 10#7 ∧ f.b = 0#5 ∧ f.f3 = 0#3 then some (.vbcastX f.d f.a) else
  if f.f7 = 10#7 ∧ f.b = 0#5 ∧ f.f3 = 1#3 then some (.vbcastF f.d f.a) else
  if f.f7 = 11#7 ∧ f.b = 0#5 ∧ f.f3 = 0#3 then some (.vexp2 f.d f.a) else
  if f.f7 = 12#7 ∧ f.b = 0#5 ∧ f.f3 = 0#3 then some (.vrcp f.d f.a) else
  if f.f7 = 13#7 ∧ f.b = 0#5 ∧ f.f3 = 0#3 then some (.vrsq f.d f.a) else
  if f.f7 = 14#7 ∧ f.b = 0#5 ∧ f.f3 = 0#3 then some (.vmov f.d f.a) else
  if f.f7 = 15#7 ∧ f.f3 = 0#3 then some (.vmvx f.d f.a f.b) else
  if f.f7 = 16#7 ∧ f.f3 = 0#3 then some (.vmvf f.d f.a f.b) else
  if f.f7 = 17#7 ∧ f.b.extractLsb' 4 1 = 0#1 ∧ f.f3 = 0#3 then some (.vtag f.d f.a (f.b.extractLsb' 0 4)) else
  if f.f7 = 18#7 ∧ f.b = 0#5 ∧ f.f3 = 0#3 then some (.vsideRead f.d f.a) else
  if f.f7 = 18#7 ∧ f.b = 0#5 ∧ f.f3 = 1#3 then some (.vsideWrite f.d f.a) else
  none

/-- Opcode 0x35, major 26 (Table 5-5). -/
def decode35 (f : Slots) : Option Instr :=
  if f.f7 = 0#7 ∧ f.f3 = 0#3 ∧ f.d = 0#5 then some (.bbinit f.a f.b) else
  if f.f7 = 0#7 ∧ f.f3 = 1#3 ∧ f.a = 0#5 then some (.bbget f.d f.b) else
  if f.f7 = 0#7 ∧ f.f3 = 2#3 ∧ f.a = 0#5 then some (.bbpeek f.d f.b) else
  if f.f7 = 0#7 ∧ f.f3 = 3#3 ∧ f.a = 0#5 ∧ f.d = 0#5 then some (.bbskip f.b) else
  if f.f7 = 0#7 ∧ f.b.extractLsb' 4 1 = 0#1 ∧ f.f3 = 4#3 then some (.bbdec f.d f.a (f.b.extractLsb' 0 4)) else
  if f.f7 = 0#7 ∧ f.f3 = 5#3 ∧ f.d = 0#5 then some (.bbemit f.a f.b) else
  if f.f7 = 0#7 ∧ f.b = 0#5 ∧ f.f3 = 6#3 ∧ f.a = 0#5 ∧ f.d = 0#5 then some (.bbflush) else
  if f.f7 = 0#7 ∧ f.b = 0#5 ∧ f.f3 = 7#3 ∧ f.a = 0#5 ∧ f.d = 0#5 then some (.bbalign) else
  none

/-- Opcode 0x37, major 27 (Table 5-5). -/
def decode37 (f : Slots) : Option Instr :=
  if f.f7.extractLsb' 3 4 = 0#4 then some (.amoswap f.d f.a f.b (f.f7.extractLsb' 2 1) (f.f7.extractLsb' 1 1) (f.f7.extractLsb' 0 1) f.f3) else
  if f.f7.extractLsb' 3 4 = 1#4 then some (.amoadd f.d f.a f.b (f.f7.extractLsb' 2 1) (f.f7.extractLsb' 1 1) (f.f7.extractLsb' 0 1) f.f3) else
  if f.f7.extractLsb' 3 4 = 2#4 then some (.amoand f.d f.a f.b (f.f7.extractLsb' 2 1) (f.f7.extractLsb' 1 1) (f.f7.extractLsb' 0 1) f.f3) else
  if f.f7.extractLsb' 3 4 = 3#4 then some (.amoor f.d f.a f.b (f.f7.extractLsb' 2 1) (f.f7.extractLsb' 1 1) (f.f7.extractLsb' 0 1) f.f3) else
  if f.f7.extractLsb' 3 4 = 4#4 then some (.amoxor f.d f.a f.b (f.f7.extractLsb' 2 1) (f.f7.extractLsb' 1 1) (f.f7.extractLsb' 0 1) f.f3) else
  if f.f7.extractLsb' 3 4 = 5#4 then some (.amomin f.d f.a f.b (f.f7.extractLsb' 2 1) (f.f7.extractLsb' 1 1) (f.f7.extractLsb' 0 1) f.f3) else
  if f.f7.extractLsb' 3 4 = 6#4 then some (.amomax f.d f.a f.b (f.f7.extractLsb' 2 1) (f.f7.extractLsb' 1 1) (f.f7.extractLsb' 0 1) f.f3) else
  if f.f7.extractLsb' 3 4 = 7#4 then some (.amominu f.d f.a f.b (f.f7.extractLsb' 2 1) (f.f7.extractLsb' 1 1) (f.f7.extractLsb' 0 1) f.f3) else
  if f.f7.extractLsb' 3 4 = 8#4 then some (.amomaxu f.d f.a f.b (f.f7.extractLsb' 2 1) (f.f7.extractLsb' 1 1) (f.f7.extractLsb' 0 1) f.f3) else
  if f.f7.extractLsb' 3 4 = 9#4 then some (.amocas f.d f.a f.b (f.f7.extractLsb' 2 1) (f.f7.extractLsb' 1 1) (f.f7.extractLsb' 0 1) f.f3) else
  if f.f7.extractLsb' 3 4 = 10#4 ∧ f.f7.extractLsb' 0 1 = 0#1 then some (.amocasQ f.d f.a f.b (f.f7.extractLsb' 2 1) (f.f7.extractLsb' 1 1) f.f3) else
  if f.f7.extractLsb' 3 4 = 11#4 then some (.famoadd f.d f.a f.b (f.f7.extractLsb' 2 1) (f.f7.extractLsb' 1 1) (f.f7.extractLsb' 0 1) f.f3) else
  none

/-- Opcode 0x39, major 28 (Table 5-5). -/
def decode39 (f : Slots) : Option Instr :=
  if f.f7.extractLsb' 3 4 = 0#4 ∧ f.f3 = 0#3 ∧ f.a = 0#5 ∧ f.d = 0#5 then some (.fence (f.f7.extractLsb' 0 3 ++ f.b : BitVec 8)) else
  if f.f7.extractLsb' 5 2 = 0#2 ∧ f.b = 0#5 ∧ f.f3 = 1#3 then some (.ldaq f.d f.a (f.f7.extractLsb' 3 2) (f.f7.extractLsb' 0 3)) else
  if f.f7.extractLsb' 5 2 = 0#2 ∧ f.f3 = 2#3 ∧ f.d = 0#5 then some (.strl f.a f.b (f.f7.extractLsb' 3 2) (f.f7.extractLsb' 0 3)) else
  none

/-- Opcode 0x3B, major 29 (Table 5-5). -/
def decode3B (f : Slots) : Option Instr :=
  if f.f7 = 0#7 ∧ f.b.extractLsb' 4 1 = 0#1 ∧ f.f3 = 0#3 ∧ f.a = 0#5 ∧ f.d = 0#5 then some (.bar (f.b.extractLsb' 0 4)) else
  if f.f7 = 0#7 ∧ f.b.extractLsb' 4 1 = 0#1 ∧ f.f3 = 1#3 ∧ f.a = 0#5 ∧ f.d = 0#5 then some (.bararr (f.b.extractLsb' 0 4)) else
  if f.f7 = 0#7 ∧ f.b.extractLsb' 4 1 = 0#1 ∧ f.f3 = 2#3 ∧ f.a = 0#5 ∧ f.d = 0#5 then some (.barwait (f.b.extractLsb' 0 4)) else
  none

/-- Opcode 0x3D, major 30 (Table 5-5). -/
def decode3D (f : Slots) : Option Instr :=
  if f.f7 = 0#7 ∧ f.f3 = 0#3 then some (.tbinit f.a f.b f.d) else
  if f.f7 = 0#7 ∧ f.f3 = 1#3 then some (.tbexp f.a f.b f.d) else
  if f.f7 = 0#7 ∧ f.b = 0#5 ∧ f.f3 = 2#3 ∧ f.d = 0#5 then some (.tbarr f.a) else
  if f.f7 = 0#7 ∧ f.b = 0#5 ∧ f.f3 = 3#3 then some (.tbwait f.d f.a) else
  if f.f7 = 0#7 ∧ f.b = 0#5 ∧ f.f3 = 4#3 then some (.tbtest f.d f.a) else
  if f.f7 = 0#7 ∧ f.f3 = 5#3 ∧ f.d = 0#5 then some (.tbact f.a f.b) else
  if f.f7 = 0#7 ∧ f.b = 0#5 ∧ f.f3 = 6#3 ∧ f.d = 0#5 then some (.tbretire f.a) else
  none

/-- Opcode 0x3F, major 31 (Table 5-5). -/
def decode3F (f : Slots) : Option Instr :=
  if f.f7.extractLsb' 5 2 = 0#2 ∧ f.f3 = 0#3 ∧ f.d = 0#5 then some (.sendr f.a f.b (f.f7.extractLsb' 0 5)) else
  if f.f7 = 0#7 ∧ f.f3 = 1#3 ∧ f.a = 0#5 ∧ f.d = 0#5 then some (.pclr f.b) else
  if f.f7 = 0#7 ∧ f.f3 = 2#3 ∧ f.a = 0#5 then some (.ptest f.d f.b) else
  if f.f7.extractLsb' 1 6 = 0#6 ∧ f.f3 = 3#3 then some (.xmsg f.a f.b f.d (f.f7.extractLsb' 0 1)) else
  if f.f7 = 0#7 ∧ f.b = 0#5 ∧ f.f3 = 4#3 ∧ f.a = 0#5 then some (.mtake f.d) else
  if f.f7 = 0#7 ∧ f.b = 0#5 ∧ f.f3 = 5#3 ∧ f.d = 0#5 then some (.mfree f.a) else
  none

/-- Opcode 0x41, major 32 (Table 5-5). -/
def decode41 (f : Slots) : Option Instr :=
  if f.f7 = 0#7 ∧ f.f3 = 0#3 then some (.spawn f.d f.a f.b) else
  if f.f7 = 0#7 ∧ f.b = 0#5 ∧ f.f3 = 1#3 ∧ f.a = 0#5 ∧ f.d = 0#5 then some (.hexit) else
  if f.f7 = 0#7 ∧ f.b.extractLsb' 4 1 = 0#1 ∧ f.f3 = 2#3 ∧ f.a = 0#5 ∧ f.d = 0#5 then some (.hwait (f.b.extractLsb' 0 4)) else
  none

/-- Opcode 0x43, major 33 (Table 5-5). -/
def decode43 (f : Slots) : Option Instr :=
  if f.f7 = 0#7 ∧ f.b = 0#5 ∧ f.f3 = 0#3 ∧ f.d = 0#5 then some (.dqpush f.a) else
  if f.f7 = 0#7 ∧ f.b = 0#5 ∧ f.f3 = 1#3 ∧ f.a = 0#5 then some (.dqpop f.d) else
  if f.f7 = 0#7 ∧ f.b = 0#5 ∧ f.f3 = 2#3 then some (.dqsteal f.d f.a) else
  if f.f7 = 0#7 ∧ f.b = 0#5 ∧ f.f3 = 3#3 ∧ f.a = 0#5 then some (.dqlen f.d) else
  none

/-- Opcode 0x45, major 34 (Table 5-5). -/
def decode45 (f : Slots) : Option Instr :=
  if f.f7.extractLsb' 4 3 = 0#3 ∧ f.b = 0#5 ∧ f.f3 = 0#3 ∧ f.d = 0#5 then some (.rinit f.a (f.f7.extractLsb' 0 4)) else
  if f.f7 = 0#7 ∧ f.b.extractLsb' 4 1 = 0#1 ∧ f.f3 = 1#3 ∧ f.a = 0#5 then some (.rclaim f.d (f.b.extractLsb' 0 4)) else
  if f.f7 = 0#7 ∧ f.b = 0#5 ∧ f.f3 = 2#3 ∧ f.d = 0#5 then some (.rcommit f.a) else
  if f.f7 = 0#7 ∧ f.b.extractLsb' 4 1 = 0#1 ∧ f.f3 = 3#3 ∧ f.a = 0#5 then some (.rtake f.d (f.b.extractLsb' 0 4)) else
  if f.f7 = 0#7 ∧ f.b = 0#5 ∧ f.f3 = 4#3 ∧ f.d = 0#5 then some (.rfree f.a) else
  none

/-- Opcode 0x47, major 35 (Table 5-5). -/
def decode47 (f : Slots) : Option Instr :=
  if f.f7.extractLsb' 5 2 = 0#2 ∧ f.f3 = 0#3 then some (.xcopy f.a f.b f.d (f.f7.extractLsb' 4 1) (f.f7.extractLsb' 0 4)) else
  if f.f7.extractLsb' 4 3 = 0#3 ∧ f.f3 = 1#3 ∧ f.a = 0#5 then some (.xsub f.b f.d (f.f7.extractLsb' 0 4)) else
  if f.f7.extractLsb' 4 3 = 0#3 ∧ f.b = 0#5 ∧ f.f3 = 2#3 then some (.xpub f.a f.d (f.f7.extractLsb' 0 4)) else
  if f.f7.extractLsb' 5 2 = 0#2 ∧ f.f3 = 3#3 then some (.xamo f.a f.b f.d (f.f7.extractLsb' 4 1) (f.f7.extractLsb' 0 4)) else
  none

/-- Opcode 0x49, major 36 (Table 5-5). -/
def decode49 (f : Slots) : Option Instr :=
  if f.f7 = 0#7 ∧ f.b = 0#5 ∧ f.f3 = 0#3 ∧ f.d = 0#5 then some (.xresume f.a) else
  if f.f7 = 0#7 ∧ f.b = 0#5 ∧ f.f3 = 1#3 ∧ f.d = 0#5 then some (.xcancel f.a) else
  if f.f7 = 0#7 ∧ f.f3 = 2#3 ∧ f.d = 0#5 then some (.xdisc f.a f.b) else
  if f.f7 = 0#7 ∧ f.b.extractLsb' 2 3 = 0#3 ∧ f.f3 = 3#3 ∧ f.d = 0#5 then some (.ptouch f.a (f.b.extractLsb' 0 2)) else
  none

/-- Opcode 0x4B, major 37 (Table 5-5). -/
def decode4B (f : Slots) : Option Instr :=
  if f.f7.extractLsb' 2 5 = 0#5 ∧ f.f3 = 0#3 then some (.mma f.a f.b f.d (f.f7.extractLsb' 0 2)) else
  if f.f7.extractLsb' 2 5 = 0#5 ∧ f.b = 0#5 ∧ f.f3 = 1#3 ∧ f.d = 0#5 then some (.mzero f.a (f.f7.extractLsb' 0 2)) else
  if f.f7.extractLsb' 2 5 = 0#5 ∧ f.f3 = 2#3 ∧ f.d = 0#5 then some (.mload f.a f.b (f.f7.extractLsb' 0 2)) else
  if f.f7.extractLsb' 2 5 = 0#5 ∧ f.f3 = 3#3 then some (.mstore f.a f.b f.d (f.f7.extractLsb' 0 2)) else
  if f.f7.extractLsb' 3 4 = 0#4 ∧ f.f3 = 4#3 then some (.mdrain f.a f.b f.d (f.f7.extractLsb' 2 1) (f.f7.extractLsb' 0 2)) else
  if f.f7 = 0#7 ∧ f.b = 0#5 ∧ f.f3 = 5#3 ∧ f.d = 0#5 then some (.mfence f.a) else
  none

/-- Opcode 0x4D, major 38 (Table 5-5). -/
def decode4D (f : Slots) : Option Instr :=
  if f.f3 = 0#3 then some (.fold f.a f.b f.d (f.f7.extractLsb' 4 3) (f.f7.extractLsb' 0 4)) else
  if f.f7.extractLsb' 0 4 = 0#4 ∧ f.b = 0#5 ∧ f.f3 = 1#3 ∧ f.d = 0#5 then some (.fres f.a (f.f7.extractLsb' 4 3)) else
  if f.f7 = 0#7 ∧ f.b = 0#5 ∧ f.f3 = 2#3 ∧ f.d = 0#5 then some (.frel f.a) else
  if f.f7 = 0#7 ∧ f.b = 0#5 ∧ f.f3 = 3#3 then some (.fkey f.d f.a) else
  none

/-- The 32-bit instruction with the given slots under each opcode (Table 5-4); a reserved major gives none. -/
def decodeMajor (opc : Nat) (f : Slots) : Option Instr :=
  match opc with
  | 0x03 => decode03 f
  | 0x05 => decode05 f
  | 0x07 => decode07 f
  | 0x09 => decode09 f
  | 0x0B => decode0B f
  | 0x0D => decode0D f
  | 0x0F => decode0F f
  | 0x11 => decode11 f
  | 0x13 => decode13 f
  | 0x15 => decode15 f
  | 0x17 => decode17 f
  | 0x19 => decode19 f
  | 0x1B => decode1B f
  | 0x1D => decode1D f
  | 0x1F => decode1F f
  | 0x21 => decode21 f
  | 0x23 => decode23 f
  | 0x25 => decode25 f
  | 0x27 => decode27 f
  | 0x29 => decode29 f
  | 0x2B => decode2B f
  | 0x2D => decode2D f
  | 0x2F => decode2F f
  | 0x31 => decode31 f
  | 0x33 => decode33 f
  | 0x35 => decode35 f
  | 0x37 => decode37 f
  | 0x39 => decode39 f
  | 0x3B => decode3B f
  | 0x3D => decode3D f
  | 0x3F => decode3F f
  | 0x41 => decode41 f
  | 0x43 => decode43 f
  | 0x45 => decode45 f
  | 0x47 => decode47 f
  | 0x49 => decode49 f
  | 0x4B => decode4B f
  | 0x4D => decode4D f
  | _ => none

/-- The 16-bit instruction with op number op (Table 5-2); ops 0 and 17 to 31 give none. -/
def decodeOp16 (op : Nat) (d b : BitVec 5) : Option Instr :=
  match op with
  | 1 => some (.add16 d b)
  | 2 => some (.sub16 d b)
  | 3 => some (.and16 d b)
  | 4 => some (.or16 d b)
  | 5 => some (.xor16 d b)
  | 6 => some (.sll16 d b)
  | 7 => some (.srl16 d b)
  | 8 => some (.mv16 d b)
  | 9 => some (.addi16 d b)
  | 10 => some (.fadd16 d b)
  | 11 => some (.fsub16 d b)
  | 12 => some (.fmul16 d b)
  | 13 => some (.fmax16 d b)
  | 14 => some (.vadd16 d b)
  | 15 => some (.vsub16 d b)
  | 16 => some (.vmul16 d b)
  | _ => none

/-- The 32-bit instruction that a word encodes, its field ranges checked (R117). -/
def decode32 (w : BitVec 32) : Option Instr :=
  match decodeMajor (opcodeOf w).toNat (slots w) with
  | some i => if i.wellFormed then some i else none
  | none => none

/-- The 16-bit instruction that a halfword encodes (R112); bit 0 is 0. -/
def decode16 (h : BitVec 16) : Option Instr :=
  if h.extractLsb' 0 1 = 0#1 then
    decodeOp16 (h.extractLsb' 1 5).toNat (h.extractLsb' 6 5) (h.extractLsb' 11 5)
  else none

/-- Why bytes are not an instruction. -/
inductive DecodeReject where
  /-- Fewer bytes than the instruction is long. -/
  | truncated
  /-- A 16-bit pattern that is no instruction (R112). -/
  | illegal16 (bits : BitVec 16)
  /-- A 32-bit pattern that is no instruction (R117). -/
  | illegal32 (bits : BitVec 32)
  deriving DecidableEq, Repr

/-- An instruction with its length in bytes, from the halfword at its address and, for a long one, the
halfword after it (R107). -/
def decodeHalves (lo : BitVec 16) (hi : Option (BitVec 16)) : Except DecodeReject (Instr × Nat) :=
  if lo.extractLsb' 0 1 = 0#1 then
    match decode16 lo with
    | some i => .ok (i, 2)
    | none => .error (.illegal16 lo)
  else
    match hi with
    | none => .error .truncated
    | some h =>
      match decode32 (h ++ lo) with
      | some i => .ok (i, 4)
      | none => .error (.illegal32 (h ++ lo))

/-- The halfword of two bytes, the one at the lower address first (R4). -/
def halfOf (b0 b1 : Byte) : BitVec 16 := b1 ++ b0

/-- The instruction at the front of a list of bytes, with the bytes after it. -/
def decodeBytes : List Byte → Except DecodeReject (Instr × List Byte)
  | b0 :: b1 :: rest =>
    if (halfOf b0 b1).extractLsb' 0 1 = 0#1 then
      match decodeHalves (halfOf b0 b1) none with
      | .ok (i, _) => .ok (i, rest)
      | .error e => .error e
    else
      match rest with
      | b2 :: b3 :: rest' =>
        match decodeHalves (halfOf b0 b1) (some (halfOf b2 b3)) with
        | .ok (i, _) => .ok (i, rest')
        | .error e => .error e
      | _ => .error .truncated
  | _ => .error .truncated

/-- The bytes of a word of n bytes as memory holds them (R4). -/
def bytesOfNat : Nat → Nat → List Byte
  | 0, _ => []
  | n + 1, w => BitVec.ofNat 8 w :: bytesOfNat n (w / 256)

/-- The instruction that the decoder reads from an instruction whose bits are w (R107). The longest
instruction has four bytes; bits above nbits are 0. -/
def decodeTableWord (nbits w : Nat) : Option Instr :=
  if nbits = 0 then none
  else
    match decodeBytes (bytesOfNat 4 (w % 2 ^ nbits)) with
    | .ok (i, _) => some i
    | .error _ => none

/-- The 32-bit word of an instruction, from the fixed bits and fields of Table 5-5; none for the 16-bit
forms and for events. -/
def encode32 : Instr → Option (BitVec 32)
  | .add d a b => some (pack32 0#7 b 0#3 a d 0x03#7)
  | .sll d a b => some (pack32 0#7 b 1#3 a d 0x03#7)
  | .slt d a b => some (pack32 0#7 b 2#3 a d 0x03#7)
  | .sltu d a b => some (pack32 0#7 b 3#3 a d 0x03#7)
  | .xor d a b => some (pack32 0#7 b 4#3 a d 0x03#7)
  | .srl d a b => some (pack32 0#7 b 5#3 a d 0x03#7)
  | .or d a b => some (pack32 0#7 b 6#3 a d 0x03#7)
  | .and d a b => some (pack32 0#7 b 7#3 a d 0x03#7)
  | .sub d a b => some (pack32 32#7 b 0#3 a d 0x03#7)
  | .sra d a b => some (pack32 32#7 b 5#3 a d 0x03#7)
  | .mul d a b => some (pack32 1#7 b 0#3 a d 0x03#7)
  | .mulh d a b => some (pack32 1#7 b 1#3 a d 0x03#7)
  | .mulhsu d a b => some (pack32 1#7 b 2#3 a d 0x03#7)
  | .mulhu d a b => some (pack32 1#7 b 3#3 a d 0x03#7)
  | .div d a b => some (pack32 1#7 b 4#3 a d 0x03#7)
  | .divu d a b => some (pack32 1#7 b 5#3 a d 0x03#7)
  | .rem d a b => some (pack32 1#7 b 6#3 a d 0x03#7)
  | .remu d a b => some (pack32 1#7 b 7#3 a d 0x03#7)
  | .min d a b => some (pack32 2#7 b 0#3 a d 0x03#7)
  | .max d a b => some (pack32 2#7 b 1#3 a d 0x03#7)
  | .minu d a b => some (pack32 2#7 b 2#3 a d 0x03#7)
  | .maxu d a b => some (pack32 2#7 b 3#3 a d 0x03#7)
  | .clz d a => some (pack32 4#7 0#5 0#3 a d 0x03#7)
  | .ctz d a => some (pack32 4#7 0#5 1#3 a d 0x03#7)
  | .popc d a => some (pack32 4#7 0#5 2#3 a d 0x03#7)
  | .brev d a => some (pack32 4#7 0#5 3#3 a d 0x03#7)
  | .sextb d a => some (pack32 4#7 0#5 4#3 a d 0x03#7)
  | .sexth d a => some (pack32 4#7 0#5 5#3 a d 0x03#7)
  | .sextw d a => some (pack32 4#7 0#5 6#3 a d 0x03#7)
  | .addi d a i => some (pack32 (i.extractLsb' 5 7) (i.extractLsb' 0 5) 0#3 a d 0x05#7)
  | .slti d a i => some (pack32 (i.extractLsb' 5 7) (i.extractLsb' 0 5) 2#3 a d 0x05#7)
  | .sltiu d a i => some (pack32 (i.extractLsb' 5 7) (i.extractLsb' 0 5) 3#3 a d 0x05#7)
  | .xori d a i => some (pack32 (i.extractLsb' 5 7) (i.extractLsb' 0 5) 4#3 a d 0x05#7)
  | .ori d a i => some (pack32 (i.extractLsb' 5 7) (i.extractLsb' 0 5) 6#3 a d 0x05#7)
  | .andi d a i => some (pack32 (i.extractLsb' 5 7) (i.extractLsb' 0 5) 7#3 a d 0x05#7)
  | .slli d a s => some (pack32 (0#6 ++ s.extractLsb' 5 1) (s.extractLsb' 0 5) 1#3 a d 0x05#7)
  | .srli d a s => some (pack32 (0#6 ++ s.extractLsb' 5 1) (s.extractLsb' 0 5) 5#3 a d 0x05#7)
  | .srai d a s => some (pack32 (16#6 ++ s.extractLsb' 5 1) (s.extractLsb' 0 5) 5#3 a d 0x05#7)
  | .lih d i => some (pack32 (i.extractLsb' 13 7) (i.extractLsb' 8 5) (i.extractLsb' 5 3) (i.extractLsb' 0 5) d 0x07#7)
  | .addpc d i => some (pack32 (i.extractLsb' 13 7) (i.extractLsb' 8 5) (i.extractLsb' 5 3) (i.extractLsb' 0 5) d 0x09#7)
  | .lb d a i => some (pack32 (i.extractLsb' 5 7) (i.extractLsb' 0 5) 0#3 a d 0x0B#7)
  | .lh d a i => some (pack32 (i.extractLsb' 5 7) (i.extractLsb' 0 5) 1#3 a d 0x0B#7)
  | .lw d a i => some (pack32 (i.extractLsb' 5 7) (i.extractLsb' 0 5) 2#3 a d 0x0B#7)
  | .ld d a i => some (pack32 (i.extractLsb' 5 7) (i.extractLsb' 0 5) 3#3 a d 0x0B#7)
  | .lbu d a i => some (pack32 (i.extractLsb' 5 7) (i.extractLsb' 0 5) 4#3 a d 0x0B#7)
  | .lhu d a i => some (pack32 (i.extractLsb' 5 7) (i.extractLsb' 0 5) 5#3 a d 0x0B#7)
  | .lwu d a i => some (pack32 (i.extractLsb' 5 7) (i.extractLsb' 0 5) 6#3 a d 0x0B#7)
  | .sb a b i => some (pack32 (i.extractLsb' 5 7) b 0#3 a (i.extractLsb' 0 5) 0x0D#7)
  | .sh a b i => some (pack32 (i.extractLsb' 5 7) b 1#3 a (i.extractLsb' 0 5) 0x0D#7)
  | .sw a b i => some (pack32 (i.extractLsb' 5 7) b 2#3 a (i.extractLsb' 0 5) 0x0D#7)
  | .sd a b i => some (pack32 (i.extractLsb' 5 7) b 3#3 a (i.extractLsb' 0 5) 0x0D#7)
  | .beq a b i => some (pack32 (i.extractLsb' 5 7) b 0#3 a (i.extractLsb' 0 5) 0x0F#7)
  | .bne a b i => some (pack32 (i.extractLsb' 5 7) b 1#3 a (i.extractLsb' 0 5) 0x0F#7)
  | .blt a b i => some (pack32 (i.extractLsb' 5 7) b 4#3 a (i.extractLsb' 0 5) 0x0F#7)
  | .bge a b i => some (pack32 (i.extractLsb' 5 7) b 5#3 a (i.extractLsb' 0 5) 0x0F#7)
  | .bltu a b i => some (pack32 (i.extractLsb' 5 7) b 6#3 a (i.extractLsb' 0 5) 0x0F#7)
  | .bgeu a b i => some (pack32 (i.extractLsb' 5 7) b 7#3 a (i.extractLsb' 0 5) 0x0F#7)
  | .jal d i => some (pack32 (i.extractLsb' 13 7) (i.extractLsb' 8 5) (i.extractLsb' 5 3) (i.extractLsb' 0 5) d 0x11#7)
  | .jalr d a i => some (pack32 (i.extractLsb' 5 7) (i.extractLsb' 0 5) 0#3 a d 0x13#7)
  | .bfx d a l p => some (pack32 (l ++ p.extractLsb' 5 1) (p.extractLsb' 0 5) 0#3 a d 0x15#7)
  | .bfi d a l p => some (pack32 (l ++ p.extractLsb' 5 1) (p.extractLsb' 0 5) 1#3 a d 0x15#7)
  | .mkaddr d a b => some (pack32 0#7 b 0#3 a d 0x17#7)
  | .absaddr d a => some (pack32 0#7 0#5 1#3 a d 0x17#7)
  | .ecall => some (pack32 0#7 0#5 0#3 0#5 0#5 0x19#7)
  | .ebreak => some (pack32 0#7 1#5 0#3 0#5 0#5 0x19#7)
  | .tret => some (pack32 0#7 2#5 0#3 0#5 0#5 0x19#7)
  | .wfe => some (pack32 0#7 3#5 0#3 0#5 0#5 0x19#7)
  | .isync => some (pack32 0#7 4#5 0#3 0#5 0#5 0x19#7)
  | .csrrw d a c => some (pack32 (c.extractLsb' 5 7) (c.extractLsb' 0 5) 1#3 a d 0x19#7)
  | .csrrs d a c => some (pack32 (c.extractLsb' 5 7) (c.extractLsb' 0 5) 2#3 a d 0x19#7)
  | .csrrc d a c => some (pack32 (c.extractLsb' 5 7) (c.extractLsb' 0 5) 3#3 a d 0x19#7)
  | .csrrwi d c u => some (pack32 (c.extractLsb' 5 7) (c.extractLsb' 0 5) 5#3 u d 0x19#7)
  | .csrrsi d c u => some (pack32 (c.extractLsb' 5 7) (c.extractLsb' 0 5) 6#3 u d 0x19#7)
  | .csrrci d c u => some (pack32 (c.extractLsb' 5 7) (c.extractLsb' 0 5) 7#3 u d 0x19#7)
  | .flh d a i => some (pack32 (i.extractLsb' 5 7) (i.extractLsb' 0 5) 1#3 a d 0x1B#7)
  | .flw d a i => some (pack32 (i.extractLsb' 5 7) (i.extractLsb' 0 5) 2#3 a d 0x1B#7)
  | .fld d a i => some (pack32 (i.extractLsb' 5 7) (i.extractLsb' 0 5) 3#3 a d 0x1B#7)
  | .fsh a b i => some (pack32 (i.extractLsb' 5 7) b 1#3 a (i.extractLsb' 0 5) 0x1D#7)
  | .fsw a b i => some (pack32 (i.extractLsb' 5 7) b 2#3 a (i.extractLsb' 0 5) 0x1D#7)
  | .fsd a b i => some (pack32 (i.extractLsb' 5 7) b 3#3 a (i.extractLsb' 0 5) 0x1D#7)
  | .fadd d a b f r => some (pack32 (0#6 ++ f) b r a d 0x1F#7)
  | .fsub d a b f r => some (pack32 (2#6 ++ f) b r a d 0x1F#7)
  | .fmul d a b f r => some (pack32 (4#6 ++ f) b r a d 0x1F#7)
  | .fdiv d a b f r => some (pack32 (6#6 ++ f) b r a d 0x1F#7)
  | .fsqrt d a f r => some (pack32 (8#6 ++ f) 0#5 r a d 0x1F#7)
  | .fsgnj d a b f => some (pack32 (10#6 ++ f) b 0#3 a d 0x1F#7)
  | .fsgnjn d a b f => some (pack32 (10#6 ++ f) b 1#3 a d 0x1F#7)
  | .fsgnjx d a b f => some (pack32 (10#6 ++ f) b 2#3 a d 0x1F#7)
  | .fmin d a b f => some (pack32 (12#6 ++ f) b 0#3 a d 0x1F#7)
  | .fmax d a b f => some (pack32 (12#6 ++ f) b 1#3 a d 0x1F#7)
  | .fle d a b f => some (pack32 (14#6 ++ f) b 0#3 a d 0x1F#7)
  | .flt d a b f => some (pack32 (14#6 ++ f) b 1#3 a d 0x1F#7)
  | .feq d a b f => some (pack32 (14#6 ++ f) b 2#3 a d 0x1F#7)
  | .fclass d a f => some (pack32 (16#6 ++ f) 0#5 0#3 a d 0x1F#7)
  | .fcvtFloatFloat d a e s g r => some (pack32 (9#5 ++ e) (s ++ 0#2 ++ g) r a d 0x1F#7)
  | .fcvtFloatInt d a e s t r => some (pack32 (10#5 ++ e) (s ++ 0#2 ++ t) r a d 0x1F#7)
  | .fcvtIntFloat d a e t r => some (pack32 (11#5 ++ e) (0#3 ++ t) r a d 0x1F#7)
  | .fmvx d a w => some (pack32 (12#5 ++ w) 0#5 0#3 a d 0x1F#7)
  | .fmvf d a w => some (pack32 (13#5 ++ w) 0#5 0#3 a d 0x1F#7)
  | .fmadd d a b c f r => some (pack32 (c ++ 0#1 ++ f) b r a d 0x21#7)
  | .fmsub d a b c f r => some (pack32 (c ++ 0#1 ++ f) b r a d 0x23#7)
  | .fnmadd d a b c f r => some (pack32 (c ++ 0#1 ++ f) b r a d 0x25#7)
  | .fnmsub d a b c f r => some (pack32 (c ++ 0#1 ++ f) b r a d 0x27#7)
  | .sbind d k p => some (pack32 (0#4 ++ k ++ p) 0#5 0#3 0#5 d 0x29#7)
  | .sunbind p => some (pack32 (0#5 ++ p) 0#5 1#3 0#5 0#5 0x29#7)
  | .sskip a p => some (pack32 (0#5 ++ p) 0#5 2#3 a 0#5 0x29#7)
  | .ssync m => some (pack32 (0#3 ++ m) 0#5 3#3 0#5 0#5 0x29#7)
  | .frep a n => some (pack32 0#7 (0#1 ++ n) 0#3 a 0#5 0x2B#7)
  | .frepi c n => some (pack32 (c.extractLsb' 1 7) (c.extractLsb' 0 1 ++ n) 1#3 0#5 0#5 0x2B#7)
  | .vld d a t o => some (pack32 (t ++ o.extractLsb' 5 3) (o.extractLsb' 0 5) 0#3 a d 0x2D#7)
  | .vst a b o => some (pack32 (0#4 ++ o.extractLsb' 5 3) b 1#3 a (o.extractLsb' 0 5) 0x2D#7)
  | .vlds d a b e t => some (pack32 (0#1 ++ e ++ t) b 2#3 a d 0x2D#7)
  | .vsts d a b e => some (pack32 (0#1 ++ e ++ 0#4) b 3#3 a d 0x2D#7)
  | .vgather d a b e t => some (pack32 (0#1 ++ e ++ t) b 4#3 a d 0x2D#7)
  | .vscatter d a b e => some (pack32 (0#1 ++ e ++ 0#4) b 5#3 a d 0x2D#7)
  | .vldb d a i => some (pack32 (i.extractLsb' 5 7) (i.extractLsb' 0 5) 6#3 a d 0x2D#7)
  | .vadd d a b r => some (pack32 0#7 b r a d 0x2F#7)
  | .vsub d a b r => some (pack32 1#7 b r a d 0x2F#7)
  | .vmul d a b r => some (pack32 2#7 b r a d 0x2F#7)
  | .vmin d a b => some (pack32 3#7 b 0#3 a d 0x2F#7)
  | .vmax d a b => some (pack32 4#7 b 0#3 a d 0x2F#7)
  | .vand d a b => some (pack32 5#7 b 0#3 a d 0x2F#7)
  | .vor d a b => some (pack32 6#7 b 0#3 a d 0x2F#7)
  | .vxor d a b => some (pack32 7#7 b 0#3 a d 0x2F#7)
  | .vshl d a b => some (pack32 8#7 b 0#3 a d 0x2F#7)
  | .vshr d a b => some (pack32 9#7 b 0#3 a d 0x2F#7)
  | .vsra d a b => some (pack32 10#7 b 0#3 a d 0x2F#7)
  | .vcmp d a b c => some (pack32 11#7 b c a d 0x2F#7)
  | .vabs d a => some (pack32 12#7 0#5 0#3 a d 0x2F#7)
  | .vneg d a => some (pack32 13#7 0#5 0#3 a d 0x2F#7)
  | .vfma d a b c r => some (pack32 (c ++ 0#2) b r a d 0x31#7)
  | .vfms d a b c r => some (pack32 (c ++ 1#2) b r a d 0x31#7)
  | .vnfma d a b c r => some (pack32 (c ++ 2#2) b r a d 0x31#7)
  | .vsel d a b c => some (pack32 (c ++ 3#2) b 0#3 a d 0x31#7)
  | .vredAdd d a r => some (pack32 0#7 0#5 r a d 0x33#7)
  | .vredMin d a => some (pack32 1#7 0#5 0#3 a d 0x33#7)
  | .vredMax d a => some (pack32 2#7 0#5 0#3 a d 0x33#7)
  | .vdot d a b r => some (pack32 3#7 b r a d 0x33#7)
  | .vcvt d a s t r => some (pack32 4#7 (s ++ t) r a d 0x33#7)
  | .vqnt d a s t r => some (pack32 5#7 (s ++ t) r a d 0x33#7)
  | .vdqnt d a t r => some (pack32 6#7 (0#1 ++ t) r a d 0x33#7)
  | .vperm d a b => some (pack32 7#7 b 0#3 a d 0x33#7)
  | .vshuf d a b => some (pack32 8#7 b 0#3 a d 0x33#7)
  | .vslideUp d a b => some (pack32 9#7 b 0#3 a d 0x33#7)
  | .vslideDown d a b => some (pack32 9#7 b 1#3 a d 0x33#7)
  | .vbcastX d a => some (pack32 10#7 0#5 0#3 a d 0x33#7)
  | .vbcastF d a => some (pack32 10#7 0#5 1#3 a d 0x33#7)
  | .vexp2 d a => some (pack32 11#7 0#5 0#3 a d 0x33#7)
  | .vrcp d a => some (pack32 12#7 0#5 0#3 a d 0x33#7)
  | .vrsq d a => some (pack32 13#7 0#5 0#3 a d 0x33#7)
  | .vmov d a => some (pack32 14#7 0#5 0#3 a d 0x33#7)
  | .vmvx d a b => some (pack32 15#7 b 0#3 a d 0x33#7)
  | .vmvf d a b => some (pack32 16#7 b 0#3 a d 0x33#7)
  | .vtag d a t => some (pack32 17#7 (0#1 ++ t) 0#3 a d 0x33#7)
  | .vsideRead d a => some (pack32 18#7 0#5 0#3 a d 0x33#7)
  | .vsideWrite d a => some (pack32 18#7 0#5 1#3 a d 0x33#7)
  | .bbinit a b => some (pack32 0#7 b 0#3 a 0#5 0x35#7)
  | .bbget d n => some (pack32 0#7 n 1#3 0#5 d 0x35#7)
  | .bbpeek d n => some (pack32 0#7 n 2#3 0#5 d 0x35#7)
  | .bbskip n => some (pack32 0#7 n 3#3 0#5 0#5 0x35#7)
  | .bbdec d a k => some (pack32 0#7 (0#1 ++ k) 4#3 a d 0x35#7)
  | .bbemit a n => some (pack32 0#7 n 5#3 a 0#5 0x35#7)
  | .bbflush => some (pack32 0#7 0#5 6#3 0#5 0#5 0x35#7)
  | .bbalign => some (pack32 0#7 0#5 7#3 0#5 0#5 0x35#7)
  | .amoswap d a b q l w x => some (pack32 (0#4 ++ q ++ l ++ w) b x a d 0x37#7)
  | .amoadd d a b q l w x => some (pack32 (1#4 ++ q ++ l ++ w) b x a d 0x37#7)
  | .amoand d a b q l w x => some (pack32 (2#4 ++ q ++ l ++ w) b x a d 0x37#7)
  | .amoor d a b q l w x => some (pack32 (3#4 ++ q ++ l ++ w) b x a d 0x37#7)
  | .amoxor d a b q l w x => some (pack32 (4#4 ++ q ++ l ++ w) b x a d 0x37#7)
  | .amomin d a b q l w x => some (pack32 (5#4 ++ q ++ l ++ w) b x a d 0x37#7)
  | .amomax d a b q l w x => some (pack32 (6#4 ++ q ++ l ++ w) b x a d 0x37#7)
  | .amominu d a b q l w x => some (pack32 (7#4 ++ q ++ l ++ w) b x a d 0x37#7)
  | .amomaxu d a b q l w x => some (pack32 (8#4 ++ q ++ l ++ w) b x a d 0x37#7)
  | .amocas d a b q l w x => some (pack32 (9#4 ++ q ++ l ++ w) b x a d 0x37#7)
  | .amocasQ d a b q l x => some (pack32 (10#4 ++ q ++ l ++ 0#1) b x a d 0x37#7)
  | .famoadd d a b q l w x => some (pack32 (11#4 ++ q ++ l ++ w) b x a d 0x37#7)
  | .fence m => some (pack32 (0#4 ++ m.extractLsb' 5 3) (m.extractLsb' 0 5) 0#3 0#5 0#5 0x39#7)
  | .ldaq d a z x => some (pack32 (0#2 ++ z ++ x) 0#5 1#3 a d 0x39#7)
  | .strl a b z x => some (pack32 (0#2 ++ z ++ x) b 2#3 a 0#5 0x39#7)
  | .bar n => some (pack32 0#7 (0#1 ++ n) 0#3 0#5 0#5 0x3B#7)
  | .bararr n => some (pack32 0#7 (0#1 ++ n) 1#3 0#5 0#5 0x3B#7)
  | .barwait n => some (pack32 0#7 (0#1 ++ n) 2#3 0#5 0#5 0x3B#7)
  | .tbinit a b c => some (pack32 0#7 b 0#3 a c 0x3D#7)
  | .tbexp a b c => some (pack32 0#7 b 1#3 a c 0x3D#7)
  | .tbarr a => some (pack32 0#7 0#5 2#3 a 0#5 0x3D#7)
  | .tbwait d a => some (pack32 0#7 0#5 3#3 a d 0x3D#7)
  | .tbtest d a => some (pack32 0#7 0#5 4#3 a d 0x3D#7)
  | .tbact a b => some (pack32 0#7 b 5#3 a 0#5 0x3D#7)
  | .tbretire a => some (pack32 0#7 0#5 6#3 a 0#5 0x3D#7)
  | .sendr a b n => some (pack32 (0#2 ++ n) b 0#3 a 0#5 0x3F#7)
  | .pclr n => some (pack32 0#7 n 1#3 0#5 0#5 0x3F#7)
  | .ptest d n => some (pack32 0#7 n 2#3 0#5 d 0x3F#7)
  | .xmsg a b c v => some (pack32 (0#6 ++ v) b 3#3 a c 0x3F#7)
  | .mtake d => some (pack32 0#7 0#5 4#3 0#5 d 0x3F#7)
  | .mfree a => some (pack32 0#7 0#5 5#3 a 0#5 0x3F#7)
  | .spawn d a b => some (pack32 0#7 b 0#3 a d 0x41#7)
  | .hexit => some (pack32 0#7 0#5 1#3 0#5 0#5 0x41#7)
  | .hwait h => some (pack32 0#7 (0#1 ++ h) 2#3 0#5 0#5 0x41#7)
  | .dqpush a => some (pack32 0#7 0#5 0#3 a 0#5 0x43#7)
  | .dqpop d => some (pack32 0#7 0#5 1#3 0#5 d 0x43#7)
  | .dqsteal d a => some (pack32 0#7 0#5 2#3 a d 0x43#7)
  | .dqlen d => some (pack32 0#7 0#5 3#3 0#5 d 0x43#7)
  | .rinit a n => some (pack32 (0#3 ++ n) 0#5 0#3 a 0#5 0x45#7)
  | .rclaim d n => some (pack32 0#7 (0#1 ++ n) 1#3 0#5 d 0x45#7)
  | .rcommit a => some (pack32 0#7 0#5 2#3 a 0#5 0x45#7)
  | .rtake d n => some (pack32 0#7 (0#1 ++ n) 3#3 0#5 d 0x45#7)
  | .rfree a => some (pack32 0#7 0#5 4#3 a 0#5 0x45#7)
  | .xcopy a b c t k => some (pack32 (0#2 ++ t ++ k) b 0#3 a c 0x47#7)
  | .xsub b c n => some (pack32 (0#3 ++ n) b 1#3 0#5 c 0x47#7)
  | .xpub a c n => some (pack32 (0#3 ++ n) 0#5 2#3 a c 0x47#7)
  | .xamo a b c w o => some (pack32 (0#2 ++ w ++ o) b 3#3 a c 0x47#7)
  | .xresume a => some (pack32 0#7 0#5 0#3 a 0#5 0x49#7)
  | .xcancel a => some (pack32 0#7 0#5 1#3 a 0#5 0x49#7)
  | .xdisc a b => some (pack32 0#7 b 2#3 a 0#5 0x49#7)
  | .ptouch a m => some (pack32 0#7 (0#3 ++ m) 3#3 a 0#5 0x49#7)
  | .mma a b c n => some (pack32 (0#5 ++ n) b 0#3 a c 0x4B#7)
  | .mzero a n => some (pack32 (0#5 ++ n) 0#5 1#3 a 0#5 0x4B#7)
  | .mload a b n => some (pack32 (0#5 ++ n) b 2#3 a 0#5 0x4B#7)
  | .mstore a b c n => some (pack32 (0#5 ++ n) b 3#3 a c 0x4B#7)
  | .mdrain a b c z n => some (pack32 (0#4 ++ z ++ n) b 4#3 a c 0x4B#7)
  | .mfence a => some (pack32 0#7 0#5 5#3 a 0#5 0x4B#7)
  | .fold a b c s p => some (pack32 (s ++ p) b 0#3 a c 0x4D#7)
  | .fres a s => some (pack32 (s ++ 0#4) 0#5 1#3 a 0#5 0x4D#7)
  | .frel a => some (pack32 0#7 0#5 2#3 a 0#5 0x4D#7)
  | .fkey d a => some (pack32 0#7 0#5 3#3 a d 0x4D#7)
  | .add16 _ _ => none
  | .sub16 _ _ => none
  | .and16 _ _ => none
  | .or16 _ _ => none
  | .xor16 _ _ => none
  | .sll16 _ _ => none
  | .srl16 _ _ => none
  | .mv16 _ _ => none
  | .addi16 _ _ => none
  | .fadd16 _ _ => none
  | .fsub16 _ _ => none
  | .fmul16 _ _ => none
  | .fmax16 _ _ => none
  | .vadd16 _ _ => none
  | .vsub16 _ _ => none
  | .vmul16 _ _ => none
  | .sendrArrive _ => none
  | .xmsgArrive _ => none
  | .helperStart _ => none
  | .enginePieceSend _ _ => none
  | .layoutRecordRead _ _ => none
  | .engineSlotClaim _ _ => none
  | .xpubSlotTake _ _ => none
  | .pieceLand _ _ _ => none
  | .handBack _ _ => none
  | .ptouchResolved _ _ => none
  | .discardAccept _ _ => none
  | .matrixCommandStart _ => none
  | .kstepTake _ => none
  | .kstepRetire _ => none
  | .kstepWaitTimeout _ => none
  | .drainRowOffer _ => none
  | .mloadDone _ _ => none
  | .foldOperandArrive _ => none
  | .foldResultDeliver _ _ => none
  | .foldOrphanTimeout _ _ => none
  | .fresGrant _ => none
  | .ecallExit _ => none
  | .park _ _ => none
  | .setoto _ _ => none
  | .setseed _ _ => none
  | .wilziaAnswer _ _ => none
  | .barTimeout _ _ => none
  | .presenceTimeout _ _ => none
  | .wfeRelease _ _ => none
  | .remoteAck _ _ _ => none
  | .streamPrefetch _ _ => none
  | .latheIssue _ => none
  | .launch _ _ _ => none
  | .fencePacket _ _ _ => none
  | .fencePoll _ _ _ => none
  | .fenceTimeout _ _ => none
  | .cond _ _ _ => none
  | .signal _ _ _ => none
  | .copyPacket _ _ _ _ => none
  | .copyDone _ _ _ => none
  | .preemptHold _ _ _ => none
  | .preemptRelease _ _ _ => none
  | .killPacket _ _ _ => none
  | .queueDoorbell _ _ _ => none
  | .queueEnable _ _ _ => none
  | .queueErrorClear _ _ => none
  | .hostRegisterWrite _ _ _ => none
  | .bind _ _ => none
  | .bindComplete _ => none
  | .bindWaitCap _ => none
  | .launchEnd _ => none
  | .preemptRequest _ _ => none
  | .haltComplete _ => none
  | .swapComplete _ => none
  | .saveComplete _ => none
  | .evict _ => none
  | .restoreRequest _ => none
  | .restoreDone _ _ => none
  | .killRequest _ => none
  | .killSweepEnd _ _ => none
  | .killConfirm _ => none
  | .stackFlitReceive _ _ => none
  | .linkReplay _ => none
  | .linkRetrain _ _ => none
  | .homeRequestApply _ _ => none
  | .gleanerStep _ => none
  | .wilziaGrowthAnswer _ _ _ _ => none
  | .parkDeadline _ => none
  | .faultAnswer _ _ => none
  | .cxlLinkDown _ => none
  | .hostAtomic _ _ _ _ _ _ => none
  | .ikirathFlitReceive _ _ => none
  | .podArrival _ _ _ => none
  | .podPidAllot _ _ _ => none
  | .budgetPeriod _ => none
  | .opChangeDone _ => none
  | .currentLimit _ => none
  | .limitRelease _ => none
  | .temperatureSample _ => none
  | .savesDone => none
  | .thermalReenable => none
  | .recoveryDone => none
  | .retentionEntry _ => none
  | .retentionExit _ _ => none
  | .powerOn _ => none
  | .bootReady => none
  | .recoveryGo _ => none
  | .attestationGo => none
  | .attestationDone => none
  | .funcon => none
  | .funcoff => none
  | .trapk => none
  | .homerng => none
  | .map _ => none
  | .unmap => none
  | .quota _ => none
  | .functionRequestDone => none
  | .lifetimeUpdate => none
  | .illegalEncoding _ _ => none
  | .fpVectorQueueDrain _ => none
  | .remoteAccessPerform _ _ _ => none
  | .routerOutputGrant _ _ _ => none
  | .matrixCommandArrive _ => none
  | .matrixCommandDone _ => none
  | .foldRequestArrive _ => none
  | .foldAnswer _ => none
  | .pieceFault _ _ _ => none
  | .linkRecovered _ => none
  | .podFormation _ _ => none
  | .uncorrectableError _ => none

/-- The halfword of a 16-bit form (R112); none for every other instruction. -/
def encode16 : Instr → Option (BitVec 16)
  | .add16 d b => some (pack16 b d 1#5)
  | .sub16 d b => some (pack16 b d 2#5)
  | .and16 d b => some (pack16 b d 3#5)
  | .or16 d b => some (pack16 b d 4#5)
  | .xor16 d b => some (pack16 b d 5#5)
  | .sll16 d b => some (pack16 b d 6#5)
  | .srl16 d b => some (pack16 b d 7#5)
  | .mv16 d b => some (pack16 b d 8#5)
  | .addi16 d i => some (pack16 i d 9#5)
  | .fadd16 d b => some (pack16 b d 10#5)
  | .fsub16 d b => some (pack16 b d 11#5)
  | .fmul16 d b => some (pack16 b d 12#5)
  | .fmax16 d b => some (pack16 b d 13#5)
  | .vadd16 d b => some (pack16 b d 14#5)
  | .vsub16 d b => some (pack16 b d 15#5)
  | .vmul16 d b => some (pack16 b d 16#5)
  | _ => none

/-- Length of an instruction in bytes (R107); events have none. -/
def Instr.len (i : Instr) : Nat :=
  match encode16 i with
  | some _ => 2
  | none => 4

/-- The instruction bits that TVAL holds for ILLEGAL, ILLEGAL_REG and PRIV (R117): a 16-bit form fills
bits [15:0] alone. -/
def Instr.bits (i : Instr) : Word :=
  match encode16 i with
  | some h => h.setWidth 64
  | none =>
    match encode32 i with
    | some w => w.setWidth 64
    | none => 0#64

/-- The bytes of an encoded instruction, lowest address first; none for an event. -/
def encode (i : Instr) : Option (List Byte) :=
  match encode16 i with
  | some h => some (bytesOfNat 2 h.toNat)
  | none =>
    match encode32 i with
    | some w => some (bytesOfNat 4 w.toNat)
    | none => none

/-- An event: a row of the opcode table that has no encoding. -/
def Instr.isEvent (i : Instr) : Bool := (encode i).isNone

end Sys2Proof
end

