-- ==== Sys2Proof/Machine/AMap.lean ====
section
/-! DEFINITION. Finite maps by number, as plain lists of key and value kept in rising order of key. A key that
is not listed has the default its reader names. -/

namespace Sys2Proof.Machine

/-- A finite map from numbers. -/
abbrev AMap (β : Type) := List (Nat × β)

/-- The value at a key, if listed. -/
def amGet? {β : Type} : AMap β → Nat → Option β
  | [], _ => none
  | (k, v) :: m, j => if k = j then some v else amGet? m j

/-- The value at a key, or the default. -/
def amGet {β : Type} (d : β) : AMap β → Nat → β
  | [], _ => d
  | (k, v) :: m, j => if k = j then v else amGet d m j

/-- Lists a value at a key, at its place in the order. -/
def amSet {β : Type} : AMap β → Nat → β → AMap β
  | [], j, w => [(j, w)]
  | (k, v) :: m, j, w =>
    if k = j then (j, w) :: m
    else if j < k then (j, w) :: (k, v) :: m
    else (k, v) :: amSet m j w

/-- Removes a key, wherever it is listed. -/
def amDel {β : Type} : AMap β → Nat → AMap β
  | [], _ => []
  | (k, v) :: m, j => if k = j then amDel m j else (k, v) :: amDel m j

/-- Applies a function at a key. -/
def amMod {β : Type} (d : β) (m : AMap β) (j : Nat) (f : β → β) : AMap β := amSet m j (f (amGet d m j))

end Sys2Proof.Machine
end

