-- ==== Sys2Proof/Machine/CoreState.lean ====
section
/-! DEFINITION. The state of a context and of a core (R15 to R38, Table 1-2), as plain data. -/

namespace Sys2Proof.Machine

/-- A v register: 512 data bits, format tag and block side (R69, Table 3-5). -/
structure VReg where
  data : BitVec 512
  tag : BitVec 4
  side : BitVec 64
  deriving DecidableEq, Repr

/-- v0 to v15 at a start: all bits 0, tag RAW, side 0 (Table 1-3). -/
def VReg.zero : VReg := { data := 0#512, tag := 0#4, side := 0#64 }

/-- U or K (R296). -/
inductive Level where
  | u
  | k
  deriving DecidableEq, Repr

/-- One prefetched element of a read port: its data, or the cause and address of a failed check (R173,
R174). `addr` is the element's address, `raceInfo` what RACEINFO would receive. -/
structure Elem where
  addr : BitVec 64
  data : BitVec 512
  fail : Option (BitVec 8 × BitVec 64)
  raceInfo : BitVec 64
  /-- Granules read for it, the index's among them: a store there discards it. -/
  granules : List Nat
  deriving DecidableEq, Repr

/-- A stream port: the twelve CSRs of Table 7-1 and the prefetched elements, oldest first. -/
structure Port where
  base : BitVec 64
  b : Vector (BitVec 64) 4
  st : Vector (BitVec 64) 4
  idx : BitVec 64
  pos : BitVec 64
  ctl : BitVec 64
  fifo : List Elem
  /-- A pop or push of the port has trapped: it prefetches again after TRET (R174). -/
  held : Bool
  deriving DecidableEq, Repr

/-- Every port CSR is 0 at launch (R169). -/
def Port.zero : Port :=
  { base := 0#64, b := Vector.replicate 4 0#64, st := Vector.replicate 4 0#64, idx := 0#64, pos := 0#64,
    ctl := 0#64, fifo := [], held := false }

/-- An entry of the FP/vector queue (R31): the instruction, its PC, and for a lathe entry the iteration and
body index it was issued from (R32). -/
structure QEntry where
  ins : Instr
  pc : BitVec 64
  lathe : Option (BitVec 32 × BitVec 4)
  /-- The id that the next access of R102 would have taken: one with a smaller id is older in program order. 0 for a
  lathe entry, since no FREP issues in the window. -/
  seq : Nat
  deriving DecidableEq, Repr

/-- What an access does at its target: a load, or with `sync` an LDAQ; a store, or with `sync` an STRL; an atomic of
Table 8-1 with its operands and its AQ and RL. -/
inductive Act where
  | read (sync : Bool)
  | write (bytes : List (BitVec 8)) (sync : Bool)
  | amo (op a cmp : Nat) (aq rl : Bool)
  deriving DecidableEq, Repr

/-- An access to another place than the issuing core's own local memory: its address as the program formed it, the
number of its first byte in the model's memory, its size. -/
structure Access where
  ea : BitVec 64
  key : Nat
  size : Nat
  act : Act
  /-- The observer mask of a synchronisation operation (R90, R91). -/
  mask : BitVec 8 := 0xFF#8
  deriving DecidableEq, Repr

/-- Where the value of an access goes: an x register, sign-extended or not; a pair; nowhere; or to the FP or vector
instruction that waits for it. -/
inductive Dest where
  | reg (rd : BitVec 5) (signed : Bool)
  | pair (rd : BitVec 5)
  | none
  | part
  deriving DecidableEq, Repr

/-- An unacknowledged access (R102) with what a rollback restores. -/
structure Pending where
  id : Nat
  acc : Access
  dest : Dest
  /-- PC and x registers before the access. -/
  pc0 : BitVec 64
  x0 : Vector (BitVec 64) 32
  present0 : BitVec 32
  /-- A store that its target cluster holds for a core that has not started (R25). -/
  held : Bool
  /-- Whether its granule checks have been made and the access performed or refused. -/
  performed : Bool
  /-- Whether the acknowledgement has arrived. -/
  acked : Bool
  /-- What it read: for an atomic the old value. -/
  value : Nat
  /-- RACE, BARRIER_WORD or SRAM_UNCORR with RACEINFO or the failing word, if the target reports one. -/
  fail : Option (BitVec 8 × BitVec 64)
  deriving DecidableEq, Repr

/-- The answer to an access that an FP or vector instruction waited for: what it read, or why it was refused. -/
structure Answer where
  value : Nat
  fail : Option (BitVec 8 × BitVec 64)
  deriving DecidableEq, Repr

/-- What a blocked instruction waits for (Table 1-8 and the issue waits of R227, R236, R243, R252, R258,
R308). -/
inductive WaitKind where
  | presence (reg : Nat)
  | barrier (net phase : Nat)
  /-- A transfer barrier, with the destination of a TBWAIT; none for a TBRETIRE. -/
  | transfer (key : Nat) (rd : Option (BitVec 5))
  /-- A slot of a ring, to take or to claim. -/
  | ring (n : Nat) (take : Bool)
  | helper (h : Nat)
  | engineRing
  | ptouch (id : Nat)
  /-- Room for a matrix command: of the core, and in the FIFO of a quad. -/
  | matrixQueue (quad : Nat)
  | mfence (quad : Nat)
  /-- The answer of the fold of a cluster. -/
  | foldAnswer (cluster : Nat)
  | wilzia
  | wfe
  deriving DecidableEq, Repr

/-- A blocking wait: its kind, when it began on the partition's run clock (R203), and
the TVAL of its expiry (log 59, DEDUCED, unsafe). -/
structure Wait where
  kind : WaitKind
  since : Nat
  tval : BitVec 64
  deriving DecidableEq, Repr

/-- What a unit answered to a context that waits for it. -/
inductive Reply where
  /-- PTOUCH resolved or unresolvable (R236). -/
  | touched (ok : Bool)
  /-- The host driver has been asked to map the page of a PTOUCH, under this token (R415). -/
  | asked (token : BitVec 32)
  /-- A FOLD was accepted; FRES or FREL answered (R258). -/
  | fold (ok : Bool)
  /-- Wilzia's a0 (R308). -/
  | wilzia (a0 : BitVec 64)
  deriving DecidableEq, Repr

/-- The accumulator row that a drain helper holds (R251). -/
structure DrainRow where
  quad : Nat
  acc : Nat
  row : Nat
  zero : Bool
  cmd : Nat
  deriving DecidableEq, Repr

/-- The state of one context (Table 1-2). A helper uses the parts that Table 1-2 gives it. -/
structure Ctx where
  x : Vector (BitVec 64) 32
  present : BitVec 32
  /-- Its own register state has an uncorrectable error (R301). -/
  regBad : Bool
  f : Vector (BitVec 64) 32
  v : Vector VReg 16
  pc : BitVec 64
  level : Level
  /-- Started and not ended: the control context from its launch, a helper while it runs. -/
  live : Bool
  finished : Bool
  parked : Bool
  exitValue : BitVec 64
  row : Option DrainRow
  wake : Bool
  wait : Option Wait
  reply : Option Reply
  /-- Bound to start within 4,096 cycles of the first core of its partition (R25). -/
  starting : Bool
  pending : List Pending
  /-- Answers to the accesses of the FP or vector instruction that executes, the first to the last, and how many of
  them it has used; 0 between steps. -/
  answers : List Answer
  used : Nat
  /-- The protection regions that its fetches are checked against: those in force at its start or its last ISYNC
  (R163, R310). -/
  fetchPrgn : Vector (BitVec 64) 8
  -- CSRs of every context
  fcsr : BitVec 64
  srbase : BitVec 64
  obs : BitVec 64
  raceinfo : BitVec 64
  rdsplit : BitVec 64
  pidx : BitVec 64
  uicause : BitVec 64
  uival : BitVec 64
  uixfer : BitVec 64
  tstatus : BitVec 64
  tcause : BitVec 64
  tval : BitVec 64
  tepc : BitVec 64
  tipc : BitVec 64
  tscratch : BitVec 64
  -- the control context alone
  tdq : Vector (BitVec 64) 8
  spos : BitVec 64
  queue : List QEntry
  /-- The wait for an absent register of a body instruction of the lathe or of an instruction to be reissued (R17). -/
  qwait : Option Wait
  /-- PCs of deferred instructions that are to be fetched and executed before the integer pipe goes on: after a
  TRET (R303) and after a restore (R312). -/
  resume : List (BitVec 64)
  ports : Vector Port 4
  lbase : BitVec 64
  liter : BitVec 64
  lstat : BitVec 64
  /-- Decoded body with the address of each instruction (R176). -/
  body : List (Instr × BitVec 64)
  /-- Between the entry of a trap and its TRET the lathe issues nothing (R179). -/
  latheHeld : Bool
  /-- What `latheHeld` was at the entry of each trap that has not had its TRET, the innermost first. -/
  heldBefore : List Bool
  /-- After a TRET or a restore the body of an active repetition is still to be fetched again (R179, R303). -/
  refetch : Bool
  bbptr : BitVec 64
  bbend : BitVec 64
  bbwin : BitVec 64
  bbcnt : BitVec 64
  deriving DecidableEq, Repr

/-- The number of a context at its place in TSTATUS (Table 12-2). -/
def tstatusReset (k : Nat) : BitVec 64 := BitVec.ofNat 64 (k * 2 ^ 20)

/-- A context with every register at its reset value, not live. x, f, PC and the lathe are 0 and all presence
bits set (DESIGN CHOICE where no start has happened: log 2). -/
def Ctx.reset (k : Nat) : Ctx :=
  { x := Vector.replicate 32 0#64, present := BitVec.allOnes 32, regBad := false, f := Vector.replicate 32 0#64,
    v := Vector.replicate 16 VReg.zero, pc := 0#64, level := .u, live := false, finished := false,
    parked := false, exitValue := 0#64, row := none, wake := false, wait := none, reply := none,
    starting := false, pending := [], answers := [], used := 0, fetchPrgn := Vector.replicate 8 0#64, fcsr := 0#64, srbase := 0#64, obs := BitVec.allOnes 64, raceinfo := 0#64,
    rdsplit := 0#64, pidx := 0#64, uicause := 0#64, uival := 0#64, uixfer := 0#64,
    tstatus := tstatusReset k, tcause := 0#64, tval := 0#64, tepc := 0#64, tipc := 0#64, tscratch := 0#64,
    tdq := Vector.replicate 8 0#64, spos := 0#64, queue := [], qwait := none, resume := [],
    ports := Vector.replicate 4 Port.zero, lbase := 0#64, liter := 0#64, lstat := 0#64, body := [],
    latheHeld := false, heldBefore := [], refetch := false, bbptr := 0#64, bbend := 0#64, bbwin := 0#64, bbcnt := 0#64 }

/-- Who knows a write: whose accesses it happens before (R93 to R96), or what hands that on by a pair of Table 4-2 or an
edge of R94. -/
inductive Knows where
  /-- The later accesses of a context. -/
  | thread (core ctx : Nat)
  /-- What a release of a core with a mask left at a location. -/
  | cell (key size core : Nat) (mask : BitVec 8)
  /-- What the release half of a context's FENCE covers. -/
  | fence (core ctx : Nat) (mask : BitVec 8)
  /-- A context that has read such a release by a relaxed atomic, once it comes to a FENCE. -/
  | heard (core ctx owner : Nat) (mask : BitVec 8)
  /-- A FENCE or release of the context with COPY, or with MAT, has followed: every fork carries it. -/
  | copied (core ctx : Nat)
  | given (core ctx : Nat)
  /-- A SENDR, XMSG or register write on its way, by its packet. -/
  | packet (id : Nat)
  /-- A record in a core's message ring, by its offset. -/
  | record (core off : Nat)
  /-- An item of a core's deque, by the number of items stolen before it and its place. -/
  | item (core n : Nat)
  /-- A slot of a ring. -/
  | slot (cluster ring slot : Nat)
  /-- A helper that has executed HEXIT. -/
  | exited (core ctx : Nat)
  /-- A phase of a barrier network at a core. -/
  | phase (core net n : Nat)
  /-- An engine operation; with `issued`, what its issuing context had written itself when it issued, which its fork
  carries if it lies in the operands (R94). -/
  | op (core entry : Nat)
  | issued (core entry : Nat)
  /-- The operand of a FOLD. -/
  | folded (id : Nat)
  /-- Operations and FOLDs counted at a transfer barrier, and what its last flip joins. -/
  | counted (key : Nat)
  | flipped (key : Nat)
  /-- A matrix command, and all those of a core on a quad. -/
  | command (id : Nat)
  | commands (core quad : Nat)
  /-- An event that is to start a helper. -/
  | event (id : Nat)
  deriving DecidableEq, Repr

/-- What starts a helper (Table 1-6), as it stands in an event queue (R27). -/
structure HelperEvent where
  pc : BitVec 64
  a0 : BitVec 64
  a1 : BitVec 64
  uicause : BitVec 64
  uival : BitVec 64
  uixfer : BitVec 64
  /-- A drain row with its 32 FP32 values as v0 and v1. -/
  row : Option (DrainRow × BitVec 512 × BitVec 512)
  /-- The message record that an active message's handler must free (R219). -/
  record : Option Nat
  /-- Its row of Table 1-6, counted from 1, and the cycle in which it entered the event queue: events of one cycle
  stand in the order of their rows (R27). -/
  source : Nat
  entered : Nat
  /-- What forks its helper, or releases to it (R94, Table 4-2). -/
  forker : Option Knows := none
  deriving DecidableEq, Repr

/-- A record in a message ring, with the hidden marks of R219. `off` is its offset in local memory. -/
structure MsgRecord where
  off : Nat
  bytes : Nat
  kind : Nat
  taken : Bool
  freed : Bool
  deriving DecidableEq, Repr

/-- The state of a core beside its contexts (R15, Table 12-1). -/
structure Core where
  ctxs : AMap Ctx
  /-- The context that issued last (R30). -/
  lastIssue : Nat
  /-- The first cycles of the quad clock in which the issue slot and the lathe are free again (R30, R178). -/
  issueFree : Nat
  latheFree : Nat
  deque : List (BitVec 64)
  /-- Items taken from its top so far. -/
  stolen : Nat
  events : List HelperEvent
  waitto : BitVec 64
  prsto : BitVec 64
  xwgt : BitVec 64
  xrbase : BitVec 64
  barcfg : BitVec 64
  /-- Arrived in the open phase of network i (BARSTAT.ARR). -/
  barArr : BitVec 7
  /-- Completed phases of each network; PH is the parity (R209). -/
  barPhase : Vector Nat 7
  /-- Member of the open phase's participant set (R209). -/
  barPart : BitVec 7
  mrbase : BitVec 64
  mrsize : BitVec 64
  mrhead : BitVec 64
  mrtail : BitVec 64
  records : List MsgRecord
  /-- FDUTY as the budget tree last wrote it; a fast limit lowers what it comes to (R398, R399). -/
  fduty : Nat
  opreq : BitVec 64
  uivec : BitVec 64
  pshape : BitVec 64
  srseed : BitVec 64
  capkey : BitVec 64
  prgn : Vector (BitVec 64) 8
  tvec : BitVec 64
  /-- CYCLE as it stood at `cycleAt` of the run clock (Table 12-3). -/
  cycleBase : Nat
  cycleAt : Nat
  /-- Matrix commands outstanding (R243). -/
  matrixOut : Nat
  /-- Deficit of the request ring (R231). -/
  deficit : Nat
  /-- Cycles of the period in which some context had an instruction ready to issue, or the lathe one of its body (R393). -/
  work : Nat
  deriving DecidableEq, Repr

/-- A core with every register at its reset value. -/
def Core.reset : Core :=
  { ctxs := [], lastIssue := 10, issueFree := 0, latheFree := 0, deque := [], stolen := 0, events := [],
    waitto := 1000#64, prsto := 1000#64, xwgt := 1#64, xrbase := 0#64, barcfg := 0x7F#64, barArr := 0#7,
    barPhase := Vector.replicate 7 0, barPart := 0x7F#7, mrbase := 0#64, mrsize := 0#64, mrhead := 0#64,
    mrtail := 0#64, records := [], fduty := 16, opreq := 7#64, uivec := 0#64,
    pshape := 0#64, srseed := 0#64, capkey := 0#64, prgn := Vector.replicate 8 0#64, tvec := 0#64,
    cycleBase := 0, cycleAt := 0, matrixOut := 0, deficit := 0, work := 0 }

end Sys2Proof.Machine
end

