-- ==== Sys2Proof/Machine/UnitState.lean ====
section
/-! DEFINITION. The state of quads, clusters and networks (R18, R20, R58, R231, R240, R258, R372 to R381), as plain
data. -/

namespace Sys2Proof.Machine

/-- FREE, CLAIMED, COMMITTED, TAKEN (Table 2-9). -/
inductive SlotState where
  | free
  | claimed
  | committed
  | taken
  deriving DecidableEq, Repr

/-- A slot ring's descriptor (Table 2-8). -/
structure Ring where
  fmt : BitVec 4
  en : Bool
  count : Nat
  slotsz : Nat
  base : Nat
  head : Nat
  tail : Nat
  slots : List SlotState
  deriving DecidableEq, Repr

/-- Every word of a descriptor is 0 at bind (Table 2-8). -/
def Ring.zero : Ring :=
  { fmt := 0#4, en := false, count := 0, slotsz := 0, base := 0, head := 0, tail := 0, slots := [] }

/-- A place that an engine reads or writes: a key of on-chip memory, or a device VA with its module. -/
inductive Loc where
  | mesh (key : Nat)
  | dev (va : BitVec 64)
  deriving DecidableEq, Repr

/-- A layout record as the engine has read it (Tables 8-6 and 8-7). Dimensions at or above RANK have size 1,
extent 1 and origin 0. -/
structure LRec where
  /-- The record's address as the program names it. -/
  addr : BitVec 64
  base : BitVec 64
  tag : BitVec 4
  rank : Nat
  notify : Bool
  sat : Bool
  rm : BitVec 3
  pcmp : Nat
  ring : Bool
  ringno : Nat
  sfp32 : Bool
  adim : Nat
  rep : Nat
  size : List Nat
  /-- Extents as counts. -/
  ext : List Nat
  org : List Int
  /-- Byte strides; that of dimension 0 is not used. -/
  stride : List Int
  pval : Nat
  fill : BitVec 64
  handler : BitVec 64
  next : BitVec 64
  paddr : BitVec 64
  deriving DecidableEq, Repr

/-- A record pair of an operation: the records in hand, whether a predicate skipped it, the bytes delivered
or credited, and whether its XFER_DONE has been posted; the same of the second output of a QUANT_DUAL. -/
structure RecPair where
  dst : Option LRec
  /-- The second destination record of a QUANT_DUAL. -/
  dst2 : Option LRec
  src : Option LRec
  skipped : Bool
  delivered : Nat
  posted : Bool
  delivered2 : Nat
  posted2 : Bool
  deriving DecidableEq, Repr

/-- A slot that a tile of an operation holds: the record pair and tile, the slot, and the bytes still to land
(R229). -/
structure TileSlot where
  recn : Nat
  tile : Nat
  slot : Nat
  done : Nat
  deriving DecidableEq, Repr

/-- Why a piece was handed back (Table 8-11), with INTEGRITY beside POISON (R305). -/
inductive HandBack where
  | notPresent
  | perm
  | outOfSpace
  | atomicPath
  | poison
  | barrierOverlap
  | integrity
  deriving DecidableEq, Repr

/-- Where a piece stands: its sources are being read, a home at a time and then a remote cluster at a time; its data is at
the engine and lands in on-chip memory; its write is on its way to a home; the home has written it; or it has failed with a
cause and UIVAL. -/
inductive PieceStage where
  | reading (left : List Nat)
  | fetching
  | here
  | writing
  | written
  | failed (cause : HandBack) (uival : BitVec 64)
  deriving DecidableEq, Repr

/-- One unit of delivery: its place, its bytes, and whether only the lower half of a single byte is written
(R224). -/
structure OutUnit where
  loc : Loc
  bytes : List (BitVec 8)
  low : Bool
  deriving DecidableEq, Repr

/-- A piece of an engine operation on its way (R232): the units [lo, hi) of a tile of a record pair. -/
structure Piece where
  id : Nat
  recn : Nat
  tile : Nat
  lo : Nat
  hi : Nat
  stage : PieceStage
  /-- Source bytes that homes have returned, by number in the model's memory. -/
  got : List (Nat × List (BitVec 8))
  data : List OutUnit
  deriving DecidableEq, Repr

/-- A naturally aligned 8-byte unit that an operation has read for a tile: it is read as a whole, once (R89). -/
structure SourceUnit where
  recn : Nat
  tile : Nat
  /-- Its number in the model's memory, by 8 bytes. -/
  unit : Nat
  bytes : List (BitVec 8)
  deriving DecidableEq, Repr

/-- A later record that ends an operation: its address, whether the remainder before it is empty (R225), and why. -/
structure BadRecord where
  addr : BitVec 64
  empty : Bool
  cause : HandBack
  deriving DecidableEq, Repr

/-- The operation of a request-ring entry (R226, R235). -/
inductive EngKind where
  | xcopy (k : BitVec 4) (t : Bool)
  | xsub (ring : Nat)
  | xpub (ring : Nat)
  | xamo (op : BitVec 4) (dbl : Bool)
  | xdisc
  deriving DecidableEq, Repr

/-- Where an operation stands: it must read its next records, or the second destination record of a pair, claim
or take a slot, or send pieces; or every piece has been sent. -/
inductive EngPhase where
  | record
  | dual
  | slot
  | send
  | drained
  deriving DecidableEq, Repr

/-- An entry of a request ring (R231): an engine operation with its progress and its remainder. -/
structure EngOp where
  kind : EngKind
  ctx : Nat
  bits : BitVec 32
  /-- The operands as the instruction named them. -/
  dst0 : BitVec 64
  src0 : BitVec 64
  bar : BitVec 64
  /-- The barrier, resolved (R44). -/
  barKey : Nat
  /-- Record pairs read, the oldest first; the last is in process. -/
  pairs : List RecPair
  tile : Nat
  phase : EngPhase
  /-- Units sent of the current tile. -/
  sent : Nat
  slots : List TileSlot
  flying : List Piece
  /-- Pieces whose fault has reached the engine. -/
  faults : List Piece
  /-- Pieces of a resumed remainder still to be sent, in order. -/
  resend : List Piece
  /-- A record that ended the operation (R225, R227, R301). -/
  bad : Option BadRecord
  /-- What it has read of its sources. -/
  seen : List SourceUnit
  /-- A fault has reached the engine: nothing more is sent (R232). -/
  stopped : Bool
  /-- The remainder has been handed back and waits for XRESUME or XCANCEL. -/
  handed : Bool
  /-- Counted bytes delivered, for the remainder record (R233). -/
  counted : Nat
  /-- A and B of an XAMO, and the length of an XDISC. -/
  opA : BitVec 128
  opB : BitVec 128
  len : BitVec 64
  /-- Granules that the operation holds IN-FLIGHT, with the bytes still to land on each. -/
  granules : AMap Nat
  /-- Records read of the destination and the source chain. -/
  dstRead : Nat
  srcRead : Nat
  deriving DecidableEq, Repr

/-- What a matrix command does (Table 9-3). -/
inductive MatKind where
  | mma (ksteps ringA ringB : Nat)
  | mzero
  | mload (key : Nat)
  | mstore (key : Nat) (bar : Nat)
  | mdrain (handler : BitVec 64) (target : Nat) (arg : BitVec 32) (z : Bool)
  deriving DecidableEq, Repr

/-- A matrix command (R243, R244). -/
structure MatCmd where
  id : Nat
  kind : MatKind
  acc : Nat
  core : Nat
  key : BitVec 32
  bits : BitVec 32
  /-- MSTORE: bytes from the first granule LIVE at issue on, which are not written (R249). -/
  cut : Option Nat
  /-- MSTORE: the accumulator as it was copied. -/
  image : List (BitVec 8)
  deriving DecidableEq, Repr

/-- NONE, FP32 or I32 (Table 9-1). -/
inductive ATag where
  | none
  | fp32
  | i32
  deriving DecidableEq, Repr

/-- An accumulator: its 1,024 words by index 32 i + j, a word not listed being 0; its tag; its row map. -/
structure Acc where
  words : AMap (BitVec 32)
  atag : ATag
  rows : BitVec 32
  deriving DecidableEq, Repr

/-- Zero bits with ATAG NONE and an empty row map (R240). -/
def Acc.zero : Acc := { words := [], atag := .none, rows := 0#32 }

/-- A matrix unit (Table 9-1). -/
structure MatUnit where
  accs : Vector Acc 4
  fifo : List MatCmd
  /-- The head command has passed its checks and started (R244, R251). -/
  started : Bool
  /-- k-steps retired, or rows offered. -/
  progress : Nat
  /-- Slots that the k-step under way has taken. -/
  step : Option (Nat × Nat)
  /-- When the wait of the k-step began on the run clock (R247). -/
  waitSince : Option Nat
  /-- MLOADs and MSTOREs whose engine transfer is under way (R253). -/
  loading : List MatCmd
  /-- MDRAINs with rows not yet retired: the command, its rows left, whether every row retired so far was cleared. -/
  draining : List (MatCmd × Nat × Bool)
  key : BitVec 32
  /-- MDUTY as the budget tree last wrote it (R394). -/
  mduty : Nat
  /-- Cycles of the period in which the head command could have advanced at MDUTY = 16 (R393). -/
  work : Nat
  deriving DecidableEq, Repr

/-- A unit as a bind leaves it, but for the key (R240). MDUTY 16 is a DESIGN CHOICE (log 2). -/
def MatUnit.zero : MatUnit :=
  { accs := Vector.replicate 4 Acc.zero, fifo := [], started := false, progress := 0, step := none,
    waitSince := none, loading := [], draining := [], key := 0#32, mduty := 16, work := 0 }

/-- A quad (R18): its matrix unit, instruction cache and operating point. -/
structure Quad where
  unit : MatUnit
  /-- Cached halfwords by device VA, 8,192 of them (R18, R168, log 7, DESIGN CHOICE, unsafe). -/
  icache : AMap (BitVec 16)
  op : Nat
  /-- A change of operating point under way (R392). -/
  opNext : Option Nat
  /-- The first cycle in which the vector unit's slot is free again, and the core of the quad that it served last
  (R18, R36). -/
  vecFree : Nat
  vecLast : Nat
  deriving DecidableEq, Repr

def Quad.reset : Quad := { unit := MatUnit.zero, icache := [], op := 7, opNext := none, vecFree := 0, vecLast := 3 }

/-- An entry of a route (Table 9-9), resolved: deliver to a mesh key under a barrier key, or chain to a key. -/
inductive RouteEntry where
  | deliver (target bar : Nat)
  | chain (key : BitVec 48)
  deriving DecidableEq, Repr

/-- A fold operand on its way or held (R260). -/
structure FoldOperand where
  key : BitVec 48
  op : BitVec 4
  size : Nat
  data : List (BitVec 8)
  route : List RouteEntry
  sender : Nat
  ctx : Nat
  /-- Address of the route block, for FOLD_FULL. -/
  block : BitVec 64
  pid : BitVec 12
  /-- It came from a fold, not from a FOLD instruction (R262). -/
  chained : Bool
  /-- The number of its FOLD. -/
  id : Nat
  deriving DecidableEq, Repr

/-- An entry of a matching store (Table 9-8). Both fields none is FREE. -/
structure FoldEntry where
  key : BitVec 48
  /-- Reservation: count and size code. -/
  res : Option (Nat × Nat)
  /-- Held operand, when it entered on the run clock, and the OTO code then in force (R263, R308). -/
  held : Option (FoldOperand × Nat × Nat)
  deriving DecidableEq, Repr

def FoldEntry.free : FoldEntry := { key := 0#48, res := none, held := none }

/-- A delivery that a fold has still to make: data, route, the reason of a delivery alone (0 for a result), and the run
clock by which an orphan must have been delivered (R263). -/
structure FoldJob where
  id : Nat
  operand : FoldOperand
  reason : Nat
  due : Option Nat
  deriving DecidableEq, Repr

/-- An FRES that waits at the fold (R258). -/
structure FresWait where
  core : Nat
  ctx : Nat
  key : BitVec 48
  size : Nat
  deriving DecidableEq, Repr

/-- A fold (R258, Table 9-11). -/
structure Fold where
  entries : AMap FoldEntry
  fres : List FresWait
  jobs : List FoldJob
  pid : BitVec 12
  oto : Nat
  orphans : BitVec 64
  refused : BitVec 64
  piddrop : BitVec 64
  combines : BitVec 64
  deriving DecidableEq, Repr

def Fold.reset : Fold :=
  { entries := [], fres := [], jobs := [], pid := 0#12, oto := 15, orphans := 0#64, refused := 0#64,
    piddrop := 0#64, combines := 0#64 }

/-- Who sent a write to a home. -/
inductive Writer where
  /-- Piece of the entry of a core's request ring. -/
  | engine (core entry piece : Nat)
  /-- A host packet: function, queue, job. -/
  | host (fn queue job : Nat)
  /-- Another module of the pod, over an Ikirath port (R49, R384). -/
  | peer (port : Nat)
  deriving DecidableEq, Repr

/-- What a request asks of its home: the sources of an engine piece, bytes at places of its one block with a
mark for a lower half alone, or an atomic of Table 8-1 on n bytes at a VA. -/
inductive ReqBody where
  | read
  | write (bytes : List (Nat × BitVec 8 × Bool))
  | atomic (op n va : Nat) (a b : BitVec 128)
  deriving DecidableEq, Repr

/-- A request accepted at a home and not yet applied (R343, R344): the blocks it touches by va / 256, all of one
64 KiB piece. -/
structure HomeReq where
  writer : Writer
  part : Option Nat
  fn : Nat
  blocks : List Nat
  body : ReqBody
  /-- The device VA of its first block, as the requester names it. -/
  va : BitVec 64
  /-- When the home accepted it (R36). -/
  since : Nat := 0
  deriving DecidableEq, Repr

/-- An engine of this module has sent the request. -/
def HomeReq.ofEngine (r : HomeReq) : Bool :=
  match r.writer with
  | .engine .. => true
  | .host .. | .peer _ => false

/-- What a home answers: the home, the request, why it failed with UIVAL, and the bytes read, by number in the model's memory, or
the RESULT of an atomic. -/
structure HomeDone where
  home : Nat
  req : HomeReq
  fail : Option (HandBack × BitVec 64)
  got : List (Nat × List (BitVec 8))
  result : List (BitVec 8)
  deriving DecidableEq, Repr

/-- What a packet carries (Table 15-1): SENDR, XMSG and its answer, matrix commands, an access of a context and its
answer (R102), an engine's read or write of a remote mesh range and the data read, an engine's request to a home and what
comes back, FOLD operands, results that a fold delivers, FRES and FREL, and the fold's answers. -/
inductive PktBody where
  | sendr (target : Nat) (reg : BitVec 5) (value : BitVec 64)
  | xmsg (target sender : Nat) (active : Bool) (tag : BitVec 16) (word : BitVec 64) (data : List (BitVec 8))
  | matrix (quad : Nat) (cmd : MatCmd)
  | operand (fold : Nat) (o : FoldOperand)
  | result (o : FoldOperand) (target bar reason : Nat)
  | request (fold : Nat) (core ctx : Nat) (key : BitVec 48) (size : Option Nat)
  /-- `answerer` is the agent that answers: the core whose local memory the place lies in, or the engine. -/
  | access (core ctx id answerer : Nat) (data : List (BitVec 8))
  | ack (core ctx id : Nat) (data : List (BitVec 8))
  /-- Units of 8 bytes that a piece reads, by their number in the model's memory. -/
  | fetch (core entry piece : Nat) (units : List Nat)
  | fetched (core entry piece : Nat) (got : List (Nat × List (BitVec 8)))
  | landing (core entry piece : Nat) (data : List (BitVec 8))
  | home (n : Nat) (r : HomeReq)
  | homeDone (d : HomeDone)
  /-- XMSG acceptance, or MSG_REJECT with UIVAL and UIXFER (R63). -/
  | msgAnswer (sender : Nat) (rejected : Option (BitVec 64 × BitVec 64))
  | answer (core ctx : Nat) (cause : Option (BitVec 8 × BitVec 64)) (full : Option (BitVec 64 × BitVec 64))
  deriving DecidableEq, Repr

/-- An event held for a core whose event queue is full (R28), in order of origin; a push held for a full deque (R214); and
a packet of an agent whose part of the injection queue is full (R380) (log 57, DESIGN CHOICE, safe). -/
inductive HeldAction where
  | helper (core : Nat) (e : HelperEvent)
  | push (core : Nat) (item : BitVec 64) (source : Knows)
  | packet (dst agent : Nat) (cls : MsgClass) (ordered : Bool) (pid : BitVec 12) (body : PktBody) (source : Option Knows)
  deriving DecidableEq, Repr

/-- A cluster (R20): rings, request rings, fold, held actions, retention. -/
structure Cluster where
  rings : AMap Ring
  /-- Attachments of a ring: core, context-independent entry of the XSUB, XPUB, XCOPY (R222, R229). -/
  attached : List (Nat × Nat × Nat)
  /-- Request rings by 16 × core in cluster + entry (R231). -/
  ops : AMap EngOp
  /-- The ring that the deficit round-robin serves (R231). -/
  turn : Nat
  fold : Fold
  held : List HeldAction
  /-- In retention (R406). -/
  retained : Bool
  deriving DecidableEq, Repr

def Cluster.reset : Cluster :=
  { rings := [], attached := [], ops := [], turn := 0, fold := Fold.reset, held := [], retained := false }

/-- The channel of an input port that holds a packet (R375). -/
inductive Channel where
  | pool
  | e0
  | e1
  deriving DecidableEq, Repr

/-- Where a packet is: in its source's injection queue, in a channel of an input of a router (input 0 W, 1 N,
2 E, 3 S, 4 bridge), or at the ejection port of its target. -/
inductive PktPlace where
  | inject (router : Nat)
  | channel (router : Nat) (input : Nat) (ch : Channel)
  | eject (router : Nat)
  deriving DecidableEq, Repr

/-- A place that flits of a packet have entered: by which output of the place before it, and how many have. -/
structure Hop where
  place : PktPlace
  via : RouterPort
  got : Nat
  deriving DecidableEq, Repr

/-- A packet (R374, Table 15-2). -/
structure Packet where
  id : Nat
  cls : MsgClass
  src : Nat
  dst : Nat
  /-- Source agent (Table 15-2). -/
  agent : Nat
  pid : BitVec 12
  nflit : Nat
  body : PktBody
  /-- The places that hold its flits, from its head's to its last flit's. -/
  path : List Hop
  /-- The cycle from which its head may leave its source or a bridge, or its target may act on it (R379, R383). -/
  ready : Nat
  wx : Bool
  wy : Bool
  /-- Confined to escape channels: an ordered packet, or one granted an escape channel (R376, R381). -/
  escape : Bool
  ordered : Bool
  deriving DecidableEq, Repr

/-- The round-robin pointers (R378, R380), by router × 32 + output × 4 + class; class 3 is the pointer of the output's
link over the classes, output 7 that of the agents of the injection queue. -/
abbrev Grants := AMap Nat


/-- A write to on-chip memory: the bytes that it replaced, which a read that it does not happen before may still return
(R104), what it happens before, and the context that made it, if one did. -/
structure OldWrite where
  key : Nat
  old : List (BitVec 8)
  known : List Knows
  writer : Option (Nat × Nat)
  deriving DecidableEq, Repr

/-- A race record (R100). -/
structure RaceRec where
  granule : Nat
  core : Nat
  ctx : Nat
  wrote : Bool
  sync : Bool
  deriving DecidableEq, Repr

end Sys2Proof.Machine
end

