-- ==== Sys2Proof/Machine/DeviceState.lean ====
section
/-! DEFINITION. The state of homes, functions, host queues, partitions and the module (12 to 17), as plain
data. -/

namespace Sys2Proof.Machine

/-- A 64 KiB piece of a function's device memory that Wilzia has mapped: the home at which it did, and the piece's discard
mark (R360). -/
structure PageEntry where
  home : Nat
  discard : Bool
  /-- The partition that XDISC acted for, whose USED the reclaim lowers (R356). -/
  marker : Nat
  deriving DecidableEq, Repr

/-- Who a block's sectors are charged to (R354). -/
inductive Holder where
  | part (p : Nat)
  /-- The reserve draw of a function. -/
  | reserve (fn : Nat)
  deriving DecidableEq, Repr

/-- Encodings of a block (Table 14-2). -/
inductive Encoding where
  | zero
  | rep
  | sparse
  | raw
  deriving DecidableEq, Repr

/-- A 256-byte block in its block map (R351, Table 14-3): encoding, sectors held and where they lie, holder, and whether an
uncorrectable sector or a failed check makes its reads fail (R364, R365). Its encoded bytes are in those sectors. -/
structure BlockEntry where
  enc : Encoding
  h : Nat
  sectors : List Nat
  holder : Holder
  poison : Bool
  macBad : Bool
  deriving DecidableEq, Repr

/-- A block that nothing has written: ZERO-EMPTY. -/
def BlockEntry.empty : BlockEntry :=
  { enc := .zero, h := 0, sectors := [], holder := .reserve 0, poison := false, macBad := false }

/-- A write parked at a base die (R355), the moment it parked, and whether the mapping that it was translated by has gone
since (R350). -/
structure ParkedWrite where
  req : HomeReq
  since : Nat
  old : Bool
  deriving DecidableEq, Repr

/-- A cached translation, tagged by PID and page (R348). -/
structure TlbEntry where
  pid : BitVec 12
  fn : Nat
  page : Nat
  entry : BitVec 64
  deriving DecidableEq, Repr

/-- A link with go-back-N (R343 to R345): the sequence number the receiver accepts next, whether it discards until
a replay, replays of the oldest flit in a row, whether it retrains, failed retrains in a row, whether it is
down. -/
structure Link where
  next : BitVec 12
  nak : Bool
  replays : Nat
  training : Bool
  failedTrains : Nat
  down : Bool
  deriving DecidableEq, Repr

def Link.up : Link :=
  { next := 0#12, nak := false, replays := 0, training := false, failedTrains := 0,
    down := false }

/-- What an Ikirath port carries (Table of R384): this module's requests and a peer's, the completions of a peer and of this
module, and the arrivals and releases of POD. -/
inductive IkMsg where
  | request (home : Nat) (r : HomeReq)
  | ask (pid : Nat) (va : BitVec 64) (body : ReqBody)
  | answer (home : Nat) (d : HomeDone)
  | reply (d : HomeDone)
  | arrival (pid module phase : Nat)
  | release (pid phase : Nat)
  deriving DecidableEq, Repr

/-- The class of a message (R384). -/
def IkMsg.cls : IkMsg → MsgClass
  | .request .. | .ask .. => .request
  | .answer .. | .reply .. => .response
  | .arrival .. | .release .. => .fold

/-- A request of an engine of this module, or the answer to one. -/
def IkMsg.ofEngine : IkMsg → Bool
  | .request _ r => r.ofEngine
  | .answer _ d => d.req.ofEngine
  | .ask .. | .reply _ | .arrival .. | .release .. => false

/-- The traffic of an Ikirath port (R384): messages that wait for a credit of their class, each with the module that it is
for; by class, those sent whose buffers the neighbour has not freed; and messages from the neighbour in the order of their
flits, with the flits of each still to be accepted. -/
structure IkPort where
  out : List (Nat × IkMsg)
  sent : List MsgClass
  coming : List (IkMsg × Nat)
  deriving DecidableEq, Repr

def IkPort.idle : IkPort := { out := [], sent := [], coming := [] }

/-- A home: a base die (R343 to R359), or the I/O die's part of a CXL port, which has no pool (R368). -/
structure Stack where
  poolfree : Nat
  parked : List ParkedWrite
  /-- Requests that travel the networks and have not reached the home's link or port. -/
  reaching : List HomeReq
  /-- Requests accepted and not yet applied. -/
  requests : List HomeReq
  /-- Requests on the link in the order of their flits, with the flits of each still to be accepted. -/
  coming : List (HomeReq × Nat)
  /-- The gleaner's next step, 1 to 3, while a write is parked (R356); 0 idle. -/
  gleaner : Nat
  /-- The partitions of the parked writes for which growth has been asked of Wilzia and not answered (step 3). -/
  asked : List (Option Nat)
  link : Link
  /-- Completions on the link in the order of their flits, with the flits of each still to be accepted, and the link's
  direction toward the compute die (R343). One without flits has reached the compute die, and waits to enter the torus. -/
  replies : List (HomeDone × Nat)
  back : Link
  tlb : List TlbEntry
  /-- In self-refresh (Table 16-2). -/
  asleep : Bool
  /-- Locator and sector that Wilzia and the home give out next (log 97, DESIGN CHOICE, safe). -/
  nextLoc : Nat
  nextSector : Nat
  deriving DecidableEq, Repr

/-- A sector account (Table 14-4), per partition and stack. -/
structure Account where
  used : Nat
  qshare : Nat
  /-- The part of the share that Wilzia granted from its reserve pool, within the function's allowance (R356). -/
  extra : Nat
  gleaned : BitVec 32
  oos : BitVec 16
  parks : BitVec 16
  parkfull : BitVec 16
  deriving DecidableEq, Repr

def Account.zero : Account := { used := 0, qshare := 0, extra := 0, gleaned := 0#32, oos := 0#16, parks := 0#16, parkfull := 0#16 }

/-- A demand-allocated range (R349, R418). -/
structure Demand where
  va : Nat
  len : Nat
  r : Bool
  w : Bool
  big : Bool
  deriving DecidableEq, Repr

/-- A tuple of a FENCE (R320). -/
structure FenceTuple where
  addr : BitVec 64
  value : BitVec 64
  cmp : BitVec 4
  held : Bool
  deriving DecidableEq, Repr

/-- A FENCE that waits at the head of a queue, with its slots and IRQ bit. -/
structure FenceWait where
  slots : Nat
  irq : Bool
  tuples : List FenceTuple
  tmo : Nat
  since : Nat
  deriving DecidableEq, Repr

/-- A COPY under way (R322): where its packet stands, what it moves, its requests that homes have still to
answer, whether one was refused, and whether what is under way is its counter's write. A SIGNAL's write is a job of
no length. -/
structure CopyJob where
  id : Nat
  slot : BitVec 16
  signal : Bool
  host : BitVec 64
  dev : BitVec 64
  len : Nat
  toDevice : Bool
  cntva : BitVec 64
  cntval : BitVec 64
  irq : Bool
  left : Nat
  refused : Bool
  counting : Bool
  deriving DecidableEq, Repr

/-- A host queue (Table 13-1) with what its parser holds. -/
structure HostQueue where
  qbase : BitVec 64
  qcfg : BitVec 64
  tail : BitVec 16
  head : BitVec 16
  eslot : BitVec 16
  ecode : BitVec 4
  err : Bool
  skip : Nat
  /-- The header of the packet at HEAD, once the parser has read it. -/
  peeked : Option (BitVec 64)
  fence : Option FenceWait
  copies : List CopyJob
  /-- PREEMPT and KILL packets with IRQ set that have not ended: the launches they name, and whether they wait for
  their ends rather than their saves (Table 13-3). -/
  ends : List (List Nat × Bool)
  /-- Bytes that COPYs have sent to the host: bus address and bytes, the latest first. -/
  sent : List (BitVec 64 × List (BitVec 8))
  /-- Interrupts raised toward the host. -/
  irqs : Nat
  deriving DecidableEq, Repr

def HostQueue.reset : HostQueue :=
  { qbase := 0#64, qcfg := 0#64, tail := 0#16, head := 0#16, eslot := 0#16, ecode := 0#4, err := false,
    skip := 0, peeked := none, fence := none, copies := [], ends := [], sent := [], irqs := 0 }

/-- A request that a function's fault queue carries (R415). -/
structure FaultReq where
  token : BitVec 32
  va : BitVec 64
  pid : BitVec 12
  mode : BitVec 2
  core : Nat
  ctx : Nat
  deriving DecidableEq, Repr

/-- A function (R409, R415, R418). -/
structure Function where
  enabled : Bool
  keyGen : Nat
  tvec : BitVec 64
  trapVa : BitVec 64
  trapLen : Nat
  /-- HRTnA and HRTnB, n = 0 to 15 (Tables 2-4a, 2-4b). -/
  hrt : AMap (BitVec 64 × BitVec 64)
  quota : Nat
  allowance : Nat
  /-- The allowance from the next bind on (R418). -/
  nextAllowance : Nat
  /-- Sectors charged to the reserve draw (R354). -/
  draw : Nat
  demand : List Demand
  queues : AMap HostQueue
  fqbase : BitVec 64
  fqcfg : BitVec 64
  fqtail : BitVec 64
  fqhead : BitVec 64
  faults : List FaultReq
  nextToken : BitVec 32
  /-- Records that the device has written to the fault queue's ring in host memory: bus address and bytes, the latest
  first. -/
  records : List (BitVec 64 × List (BitVec 8))
  deriving DecidableEq, Repr

def Function.reset : Function :=
  { enabled := false, keyGen := 0, tvec := 0#64, trapVa := 0#64, trapLen := 0, hrt := [], quota := 0,
    allowance := 0, nextAllowance := 0, draw := 0, demand := [], queues := [], fqbase := 0#64, fqcfg := 0#64, fqtail := 0#64,
    fqhead := 0#64, faults := [], nextToken := 0#32, records := [] }

/-- A LAUNCH packet's fields (R318). -/
structure LaunchFields where
  cls : BitVec 2
  weight : Nat
  tag : BitVec 32
  irq : Bool
  kind1 : Bool
  ndm1 : Nat
  wm1 : Nat
  hm1 : Nat
  entry : BitVec 64
  codebase : BitVec 64
  codelen : Nat
  argva : BitVec 64
  limg : BitVec 64
  slen : Nat
  llen : Nat
  simg : BitVec 64
  recva : BitVec 64
  cntva : BitVec 64
  cntval : BitVec 64
  podgrp : BitVec 11
  deriving DecidableEq, Repr

/-- STATE of a bind record (Table 13-9). -/
inductive PartState where
  | unbound
  | binding
  | running
  | preempting
  | savedShadow
  | savedMemory
  | restoring
  | killed
  deriving DecidableEq, Repr

/-- What a save area or shadow holds: the cores, quads, clusters, memory and metadata of a partition. -/
structure SaveImage where
  cores : AMap Core
  quads : AMap Quad
  clusters : AMap Cluster
  mem : List Host.Cell
  races : List RaceRec
  live : List Nat
  inflight : List (Nat × Nat)
  deriving DecidableEq, Repr

/-- A save area in DRAM as its directory entry names it (R338): base and length, its sectors of Wilzia's reserve pool, the
key that its blocks are encrypted under (R362), the partition's state, and the context records that it holds, by core and
context (R314). The entry's PID, FUNC and TAG are those of the partition. -/
structure SaveArea where
  base : BitVec 64
  len : BitVec 64
  sectors : Nat
  key : BitVec 256
  image : SaveImage
  records : List (Nat × Nat × List (BitVec 8))
  deriving DecidableEq, Repr

/-- A launch from its acceptance to its end, and the partition it becomes (R317, R328, R335). -/
structure Part where
  fn : Nat
  queue : Nat
  launch : LaunchFields
  /-- Acceptance, on the wall clock. -/
  accepted : Nat
  /-- Accepted and not yet bound. -/
  pending : Bool
  /-- Held by a PREEMPT packet of mode 0 (R323). -/
  held : Bool
  state : PartState
  pid : BitVec 12
  dieMask : BitVec 16
  rect : BitVec 16
  tvec : BitVec 64
  seed : BitVec 64
  key : BitVec 32
  saveDir : BitVec 64
  hrt : AMap (BitVec 64 × BitVec 64)
  /-- Place in the partition directory (R410), and the entry of the key table that holds the partition's key (R362). -/
  slot : Nat
  keyEntry : Nat
  /-- Run clock: 1.8 GHz cycles spent running (R203, R336). -/
  clock : Nat
  startClock : Nat
  halted : Bool
  preemptHeld : Bool
  toMemory : Bool
  /-- The image in the clusters' shadows (R337). -/
  image : Option SaveImage
  /-- The save area, and whether the save-directory entry is VALID (R338). -/
  area : Option SaveArea
  saveValid : Bool
  parked : Nat
  /-- Clusters whose sweep has not ended, and when the flood of the kill began (R340). -/
  sweeping : List Nat
  killedAt : Nat
  status : Nat
  /-- A bind asked for whose 10 ms cap has passed (R334). -/
  capped : Bool
  deriving DecidableEq, Repr

/-- Emergency states (Table 16-2). -/
inductive Emergency where
  | normal
  | saving
  | refresh
  | tripped
  | recovery
  deriving DecidableEq, Repr

/-- A die's power and heat (R399, R402, Table 16-3). -/
structure DiePower where
  /-- The supply current and its limit ILIM, which Wilzia sets, and since when the current has been below 90 percent of it. -/
  current : Nat
  ilim : Nat
  lowSince : Option Nat
  /-- The limit is in force, since when, and when it was last released: a quad in mid-window keeps it to the window's end. -/
  limited : Bool
  limitedAt : Nat
  released : Option Nat
  limcnt : BitVec 16
  temp : Nat
  thcut : BitVec 8
  /-- In mW. -/
  budget : Rat
  deriving DecidableEq, Repr

/-- A die at power-on; its current, ILIM, temperature and budget have no stated reset (DESIGN CHOICE, log 2). -/
def DiePower.reset : DiePower :=
  { current := 0, ilim := 0, lowSince := none, limited := false, limitedAt := 0, released := none, limcnt := 0#16, temp := 0, thcut := 0#8, budget := 468750 }

/-- A request of the set-up mailbox under way (R417). -/
structure Mailbox where
  req : BitVec 64
  args : Vector (BitVec 64) 5
  busy : Bool
  res : BitVec 64
  /-- The result that FUNCTION_REQUEST_DONE will show. -/
  pendingRes : Option (BitVec 8)
  deriving DecidableEq, Repr

/-- The report of a parked context (Table 12-10): its context record, with the reason. -/
structure ParkReport where
  core : Nat
  ctx : Nat
  reason : BitVec 64
  record : List (BitVec 8)
  deriving DecidableEq, Repr

/-- The Wilzia image in flash (R413): its number, and what the boot ROM finds in it, once it has been checked. -/
structure FlashImage where
  id : Nat
  check : Option ImageCheck
  deriving DecidableEq, Repr

/-- The module as a whole (R384 to R386, R401 to R418). -/
structure Module where
  flash : FlashImage
  /-- The number of the image that runs. -/
  running : Nat
  stage : Nat
  bootErr : Nat
  rcvaddr : BitVec 64
  rcvlen : BitVec 64
  rcvgo : Bool
  mailbox : Mailbox
  nonce : List (BitVec 8)
  attBusy : Bool
  report : List (BitVec 8)
  temp : Nat
  warned : Bool
  emergency : Emergency
  budget : Nat
  power : Nat
  /-- When the budget tree's period began (R393). -/
  periodAt : Nat
  dies : Vector DiePower 16
  /-- When the temperature was last taken (R401). -/
  sampledAt : Nat
  /-- Budgets of clusters and quads in mW (R394). -/
  clusterBudget : AMap Rat
  quadBudget : AMap Rat
  /-- Sectors of Wilzia's reserve pool that save areas hold (R338, R362). -/
  reserved : Nat
  /-- Parity failures of clusters that held nothing saved (R407). -/
  parityErrors : Nat
  /-- Stacks that lost their contents at a trip (R405). -/
  lostStacks : List Nat
  /-- Lifetime counters in flash (R416). -/
  lifetime : AMap (BitVec 64)
  /-- Counts not yet written to flash (R416). -/
  lifetimeLive : AMap (BitVec 64)
  podNumber : BitVec 6
  podFormed : Bool
  /-- Route tables: port by module, and for I/O die 1 by 64 + module (R385). -/
  routes : AMap Nat
  /-- Pod arrivals at the root by pid: module and phase (R386). -/
  podArrivals : List (Nat × Nat × Nat)
  /-- By pod PID, the other modules whose partitions take part in the open phase of POD, and in the next (R207, R209). -/
  podPeers : AMap (List Nat × List Nat)
  /-- Pod PIDs the root has allotted: pid, function, group (R330). -/
  podPids : List (BitVec 12 × Nat × BitVec 11)
  /-- The open phase of POD by pod PID, the PIDs whose arrival for it this module has sent to its root, and arrivals of other
  modules that have come over Ikirath and that the root has not counted (R386). -/
  podPhase : AMap Nat
  podSent : List Nat
  podInbox : List (Nat × Nat × Nat)
  ikirath : AMap Link
  ikPorts : AMap IkPort
  cxlDown : List Nat
  /-- Notices that Wilzia and the host receive, newest first: a code and a value (R306, R402). -/
  notices : List (Nat × BitVec 64)
  /-- Reports of parked contexts to the host, newest first. -/
  reports : List ParkReport
  /-- Completions of the host's AtomicOps, newest first: the old value, or none for Completer Abort (R366). -/
  hostDone : List (Option (BitVec 128))
  /-- The key table of the base and I/O dies by entry (R362). -/
  keys : AMap (BitVec 256)
  /-- The queue that the packet parser of an endpoint served last (R342). -/
  turns : AMap Nat
  deriving DecidableEq, Repr

/-- The module at power-on. -/
def Module.reset : Module :=
  { flash := { id := 0, check := none }, running := 0, stage := 0, bootErr := 0, rcvaddr := 0#64, rcvlen := 0#64, rcvgo := false,
    mailbox := { req := 0#64, args := Vector.replicate 5 0#64, busy := false, res := 0#64, pendingRes := none },
    nonce := List.replicate 48 0#8, attBusy := false, report := [], temp := 0, warned := false,
    emergency := .normal, budget := 7500, power := 0, periodAt := 0, dies := Vector.replicate 16 DiePower.reset,
    sampledAt := 0, clusterBudget := [], quadBudget := [], reserved := 0, parityErrors := 0, lostStacks := [],
    lifetime := [], lifetimeLive := [], podNumber := 0#6, podFormed := false, routes := [],
    podArrivals := [], podPeers := [], podPids := [], podPhase := [], podSent := [], podInbox := [], ikirath := [], ikPorts := [], cxlDown := [], notices := [], reports := [], hostDone := [], keys := [], turns := [] }

end Sys2Proof.Machine
end

