-- ==== Sys2Proof/Machine/State.lean ====
section
/-! DEFINITION. The state of the machine, its faults and refusals, and the state after reset. -/

namespace Sys2Proof.Machine

/-- Which agent moves next, and what it contributes (log 1, DESIGN CHOICE, safe). -/
inductive Move where
  /-- Time passes: this many cycles of 1.8 GHz (log 4, DESIGN CHOICE, safe). -/
  | advance (cycles : Nat)
  /-- A core takes an issue cycle (R30). -/
  | issue (core : Nat)
  /-- The control context of a core that is bound to start starts (R25). -/
  | start (core : Nat)
  /-- A request that travels the networks reaches its home's link or port (R344, R368). -/
  | arrive (home index : Nat)
  /-- The other modules whose partitions take part in the next phase of POD for a pod PID are these; the number is that of the
  first phase that this module's partition takes part in (R207, R386). -/
  | peers (pid phase : Nat) (modules : List Nat)
  /-- A message of another module sets out toward this one over an Ikirath port: a request for a page of this module, or an
  arrival or release of POD (R49, R384 to R386). -/
  | peer (port : Nat) (m : IkMsg)
  /-- The neighbour at an Ikirath port frees a buffer of a class (R384). -/
  | credit (port : Nat) (cls : MsgClass)
  /-- The parser has read the header of the packet at a queue's HEAD (R316, R342). -/
  | peek (fn queue : Nat) (header : BitVec 64)
  /-- The boot ROM has read and checked the image in flash, and starts Wilzia or stops (R413). -/
  | verified
  /-- The host updates the image in flash through Wilzia; what the boot ROM will find in it (R413). -/
  | update (check : ImageCheck)
  /-- The module's power is taken away and comes back (R413). -/
  | powerCycle
  /-- The supply current of a die and its limit are these from now on, in mA (R399). -/
  | supply (die current limit : Nat)
  /-- An agent other than a core's issue slot acts. -/
  | event (i : Instr)
  deriving DecidableEq, Repr

/-- Why the machine stops with a fault. No rule of the spec stops the module, so the model has one, for states
that the machine cannot reach. -/
inductive Fault where
  /-- Raised when a step meets a state that breaks an invariant of the model; safe, since the machine is
  stopped instead of being given an effect. -/
  | brokenState (what : String)
  deriving DecidableEq, Repr

/-- Why a step has no meaning. -/
inductive Refusal where
  /-- Raised by the dispatch for an instruction that has no meaning yet; safe. -/
  | notModelled (mnemonic : String)
  /-- Raised by an event's meaning when the agenda asks for it in a state in which the device cannot take that
  step; safe, since no state of the device is given an effect that it does not have. -/
  | notEnabled (mnemonic : String)
  deriving DecidableEq, Repr

/-- The machine. -/
structure State where
  /-- Contexts and core registers by core number, the COORD value (R14, R22). -/
  cores : AMap Core
  quads : AMap Quad
  clusters : AMap Cluster
  /-- On-chip and device memory: addresses rising, no byte 0 listed (log 3, DESIGN CHOICE, unsafe). -/
  mem : List Host.Cell
  /-- Race records of open regions (R100). -/
  races : List RaceRec
  /-- Writes of cores to on-chip memory that some context's read need not see, newest first (R93 to R97, R104). -/
  olds : List OldWrite
  /-- Granules with LIVE set (R55), by key of their first byte. -/
  live : List Nat
  /-- Granules with IN-FLIGHT set and the core that issued the operation (R55, Table 4-5). -/
  inflight : List (Nat × Nat)
  /-- 8-byte SRAM words with an uncorrectable error (R301). -/
  eccBad : List Nat
  /-- Entries of the translation tables in the homes' DRAM, by (home × 2^32 + locator of the table) × 512 + index (R347). -/
  tables : AMap (BitVec 64)
  /-- Translation contexts by PID: the locator of the root of a partition's tables, the same at every home (R347). -/
  contexts : AMap Nat
  /-- Pieces that Wilzia has mapped, by function × 2^32 + va / 2^16. -/
  pages : AMap PageEntry
  /-- Block maps, by (home × 2^32 + locator of the map) × 256 + block of the piece (R351). -/
  blocks : AMap BlockEntry
  /-- Minor counters of blocks by function × 2^40 + va / 2^8 (R362, R363). -/
  minors : AMap Nat
  /-- Major counters of 16 KiB regions by function × 2^34 + va / 2^14 (R362, R363). -/
  majors : AMap Nat
  /-- Counters of the integrity trees' children, by (home × 16 + level) × 2^48 + index, and majors of their nodes (R364). -/
  nodes : AMap Nat
  nodeMajors : AMap Nat
  /-- Homes: stacks 0 to 31, then CXL ports as 32 + port, then what is sent to peer modules as 40 + module. -/
  bases : AMap Stack
  /-- Sector accounts by partition × 64 + home (R354). -/
  accounts : AMap Account
  functions : AMap Function
  /-- Launches and partitions by launch id, in order of acceptance. -/
  parts : AMap Part
  net : List Packet
  grants : Grants
  /-- Slots of channels that flits have left, with the cycle, until the upstream router counts them free (R375). -/
  freed : List (Nat × Nat)
  modl : Module
  /-- Core and context that the instruction in hand belongs to, or that issued last. -/
  cur : Nat × Nat
  agenda : List Move
  /-- Wall-clock time in cycles of 1.8 GHz (log 4, DESIGN CHOICE, safe). -/
  now : Nat
  /-- Index of the next free value (log 5, DESIGN CHOICE, safe). -/
  fresh : Nat
  /-- Next id of a packet, piece, command or launch. -/
  nextId : Nat
  deriving DecidableEq, Repr

/-- The machine after power-on (R413): the boot ROM has not run, nothing is bound, memory lists nothing. -/
def State.reset : State :=
  { cores := [], quads := [], clusters := [], mem := [], races := [], olds := [], live := [], inflight := [], eccBad := [],
    tables := [], contexts := [], pages := [], blocks := [], minors := [], majors := [], nodes := [], nodeMajors := [], bases := [], accounts := [], functions := [], parts := [],
    net := [], grants := [], freed := [], modl := Module.reset, cur := (0, 0), agenda := [], now := 0, fresh := 0,
    nextId := 1 }

end Sys2Proof.Machine
end

