-- ==== Sys2Proof/Machine/Operands.lean ====
section
/-! DEFINITION. Operands: bit fields, mesh and device addresses (R39 to R49), coordinates and logical indices
(R14, R22 to R24), registers of the context in hand, and the memory as bytes. -/

namespace Sys2Proof.Machine

/-- Bits [lo + w − 1 : lo] as a number. -/
def fld (v : BitVec 64) (lo w : Nat) : Nat := v.toNat / 2 ^ lo % 2 ^ w

/-- A number as a word. -/
def word (n : Nat) : BitVec 64 := BitVec.ofNat 64 n

/-- One bit. -/
def bitOf (v : BitVec 64) (i : Nat) : Bool := v.toNat.testBit i

/-- A Boolean as 0 or 1. -/
def b2n (b : Bool) : Nat := if b then 1 else 0

/-- SignExt(v, w) of the low w bits of a number to 64 bits. -/
def sext (w v : Nat) : BitVec 64 := ((BitVec.ofNat w v).signExtend 64)

/-- A field of a word replaced. -/
def setFld (v : BitVec 64) (lo w n : Nat) : BitVec 64 :=
  word (v.toNat - fld v lo w * 2 ^ lo + (n % 2 ^ w) * 2 ^ lo)

/-- Signed(v). -/
def sgn (v : BitVec 64) : Int := v.toInt

-- Cores, quads, clusters, dies (R14). A core is named by its COORD value.

def clusterOf (core : Nat) : Nat := core / 16
def quadOf (core : Nat) : Nat := core / 4
def dieOf (core : Nat) : Nat := core / 4096
def inCluster (core : Nat) : Nat := core % 16
/-- Row of a cluster within its die. -/
def rowOf (cluster : Nat) : Nat := cluster / 16 % 16
def colOf (cluster : Nat) : Nat := cluster % 16
def clusterDie (cluster : Nat) : Nat := cluster / 256

/-- The shape of a partition as PSHAPE and bind records hold it (Table 1-5). -/
structure Shape where
  mask : Nat
  h : Nat
  w : Nat
  y0 : Nat
  x0 : Nat
  deriving DecidableEq, Repr

def shapeOf (mask : BitVec 16) (rect : BitVec 16) : Shape :=
  let r := rect.toNat
  { mask := mask.toNat, h := r / 4096 + 1, w := r / 256 % 16 + 1, y0 := r / 16 % 16, x0 := r % 16 }

/-- From a PSHAPE value. -/
def shapeOfReg (p : BitVec 64) : Shape := shapeOf (p.extractLsb' 16 16) (p.extractLsb' 0 16)

/-- The dies of a shape in rising order. -/
def Shape.dies (p : Shape) : List Nat := (List.range 16).filter (fun d => p.mask.testBit d)

/-- A single-die partition tests its rectangle, a multi-die one only the die (R51 step 3). -/
def Shape.hasCluster (p : Shape) (cl : Nat) : Bool :=
  p.mask.testBit (clusterDie cl) &&
    (decide (p.dies.length ≠ 1) ||
      (decide (p.y0 ≤ rowOf cl ∧ rowOf cl < p.y0 + p.h) && decide (p.x0 ≤ colOf cl ∧ colOf cl < p.x0 + p.w)))

/-- The clusters of a shape in the order of their logical indices. -/
def Shape.clusters (p : Shape) : List Nat :=
  p.dies.flatMap fun d =>
    (List.range p.h).flatMap fun y => (List.range p.w).map fun x => d * 256 + (p.y0 + y) * 16 + (p.x0 + x)

/-- The number of cores. -/
def Shape.cores (p : Shape) : Nat := p.dies.length * p.h * p.w * 16

/-- The logical index of a core (R24). -/
def Shape.indexOf (p : Shape) (core : Nat) : Nat :=
  let cl := clusterOf core
  let k := (p.dies.filter (fun d => d < dieOf core)).length
  ((k * p.h + (rowOf cl - p.y0)) * p.w + (colOf cl - p.x0)) * 16 + inCluster core

/-- The core with a logical index, if there is one. -/
def Shape.coreOf (p : Shape) (idx : Nat) : Option Nat :=
  if idx < p.cores then
    let c := idx / 16
    let x := c % p.w
    let y := c / p.w % p.h
    let k := c / p.w / p.h
    (p.dies[k]?).map fun d => (d * 256 + (p.y0 + y) * 16 + (p.x0 + x)) * 16 + idx % 16
  else none

-- The state by core and context.

def State.core (s : State) (c : Nat) : Core := amGet Core.reset s.cores c
def State.setCore (s : State) (c : Nat) (v : Core) : State := { s with cores := amSet s.cores c v }
def State.modCore (s : State) (c : Nat) (f : Core → Core) : State := s.setCore c (f (s.core c))
def State.ctxAt (s : State) (c k : Nat) : Ctx := amGet (Ctx.reset k) (s.core c).ctxs k
def State.setCtxAt (s : State) (c k : Nat) (v : Ctx) : State :=
  s.setCore c { s.core c with ctxs := amSet (s.core c).ctxs k v }
def State.modCtxAt (s : State) (c k : Nat) (f : Ctx → Ctx) : State := s.setCtxAt c k (f (s.ctxAt c k))

/-- The core in hand. -/
def State.me (s : State) : Core := s.core s.cur.1
/-- The context in hand. -/
def State.cx (s : State) : Ctx := s.ctxAt s.cur.1 s.cur.2
def State.setCx (s : State) (v : Ctx) : State := s.setCtxAt s.cur.1 s.cur.2 v
def State.modCx (s : State) (f : Ctx → Ctx) : State := s.setCx (f s.cx)
def State.modMe (s : State) (f : Core → Core) : State := s.modCore s.cur.1 f

def State.quad (s : State) (q : Nat) : Quad := amGet Quad.reset s.quads q
def State.setQuad (s : State) (q : Nat) (v : Quad) : State := { s with quads := amSet s.quads q v }
def State.modQuad (s : State) (q : Nat) (f : Quad → Quad) : State := s.setQuad q (f (s.quad q))
def State.cluster (s : State) (c : Nat) : Cluster := amGet Cluster.reset s.clusters c
def State.setCluster (s : State) (c : Nat) (v : Cluster) : State := { s with clusters := amSet s.clusters c v }
def State.modCluster (s : State) (c : Nat) (f : Cluster → Cluster) : State := s.setCluster c (f (s.cluster c))
def State.ring (s : State) (cl n : Nat) : Ring := amGet Ring.zero (s.cluster cl).rings n
def State.setRing (s : State) (cl n : Nat) (r : Ring) : State :=
  s.modCluster cl fun c => { c with rings := amSet c.rings n r }

-- Registers (R15, R114, R130).

/-- X(r): x0 reads as 0. -/
def Ctx.xr (c : Ctx) (r : BitVec 5) : BitVec 64 := if r = 0#5 then 0#64 else c.x.get r.toFin

/-- X(d) := v: a write to x0 is discarded; another sets the register's presence bit. -/
def Ctx.setX (c : Ctx) (d : BitVec 5) (v : BitVec 64) : Ctx :=
  if d = 0#5 then c
  else { c with x := c.x.set d.toNat v d.isLt, present := c.present ||| (1#32 <<< d.toNat) }

def Ctx.fr (c : Ctx) (r : BitVec 5) : BitVec 64 := c.f.get r.toFin
def Ctx.setF (c : Ctx) (d : BitVec 5) (v : BitVec 64) : Ctx := { c with f := c.f.set d.toNat v d.isLt }
def Ctx.vr (c : Ctx) (r : BitVec 5) : VReg := c.v.get (Fin.ofNat 16 r.toNat)
def Ctx.setV (c : Ctx) (d : BitVec 5) (v : VReg) : Ctx :=
  { c with v := c.v.set (d.toNat % 16) v (Nat.mod_lt _ (by decide)) }

def State.x (s : State) (r : BitVec 5) : BitVec 64 := s.cx.xr r
def State.setX (s : State) (d : BitVec 5) (v : BitVec 64) : State := s.setCx (s.cx.setX d v)

/-- The context in hand goes on n bytes further, any wait over. -/
def State.bump (s : State) (n : Nat) : State := s.modCx fun c => { c with pc := c.pc + word n, wait := none }

/-- The context in hand goes on at an address. -/
def State.jump (s : State) (pc : BitVec 64) : State := s.modCx fun c => { c with pc := pc, wait := none }

/-- A helper is any context but 0 (R15). -/
def State.inHelper (s : State) : Bool := s.cur.2 != 0

/-- The shape of the core in hand's partition. -/
def State.shape (s : State) (c : Nat) : Shape := shapeOfReg (s.core c).pshape

-- Mesh addresses (Table 2-1).

/-- A resolved mesh address: cluster, unit from 1 to 18, offset. -/
structure Mesh where
  cluster : Nat
  unit : Nat
  off : Nat
  deriving DecidableEq, Repr

/-- Sizes of Table 2-2. -/
def unitSize (u : Nat) : Nat :=
  if u ≤ 16 then 0x6000 else if u = 17 then 0x100000 else if u = 18 then 0x800 else 0

/-- A 4-bit delta added modulo 16 (R42). -/
def addDelta (own delta : Nat) : Nat := (own + delta) % 16

/-- The checks of R43 and the resolution of R42 for an access of `size` bytes by a core. None is ADDR. -/
def resolve (core : Nat) (ea : BitVec 64) (size : Nat) : Option Mesh :=
  let form := fld ea 46 2
  let unit := fld ea 29 5
  let off := fld ea 0 29
  let own := clusterOf core
  if fld ea 48 16 ≠ 0 ∨ form = 3 ∨ 19 ≤ unit ∨ unitSize unit < off + size then none
  else if form = 0 ∧ fld ea 34 12 ≠ 0 then none
  else
    let cl :=
      if form = 0 then own
      else if form = 1 then
        addDelta (clusterDie own) (fld ea 42 4) * 256 + addDelta (rowOf own) (fld ea 38 4) * 16
          + addDelta (colOf own) (fld ea 34 4)
      else fld ea 34 12
    if unit = 0 then (if cl = own then some { cluster := cl, unit := 1 + inCluster core, off := off } else none)
    else some { cluster := cl, unit := unit, off := off }

/-- The absolute form of a resolved address (R140), which is also its key in the memory. -/
def Mesh.key (m : Mesh) : Nat := 2 ^ 47 + m.cluster * 2 ^ 34 + m.unit * 2 ^ 29 + m.off

/-- The absolute mesh address with a key. -/
def keyWord (k : Nat) : BitVec 64 := word k

/-- The place that a key of on-chip memory names. -/
def meshOfKey (k : Nat) : Mesh := { cluster := k / 2 ^ 34 % 4096, unit := k / 2 ^ 29 % 32, off := k % 2 ^ 29 }

/-- Device memory follows the mesh in the model's memory: by function and VA. -/
def devKey (fn va : Nat) : Nat := 2 ^ 64 + fn * 2 ^ 48 + va % 2 ^ 48

/-- The granule of a key (R55). -/
def granuleOf (k : Nat) : Nat := k / 32 * 32

/-- The granules that an access touches. -/
def granulesOf (k size : Nat) : List Nat :=
  (List.range ((k % 32 + size + 31) / 32)).map fun i => granuleOf k + 32 * i

-- Memory.

/-- One byte; a byte not listed is 0 (log 3, DESIGN CHOICE, unsafe). -/
def memGet (m : List Host.Cell) (k : Nat) : BitVec 8 := amGet 0#8 m k

/-- One byte written; a zero byte is not listed. -/
def memSet (m : List Host.Cell) (k : Nat) (b : BitVec 8) : List Host.Cell :=
  if b = 0#8 then amDel m k else amSet m k b

/-- n bytes as a little-endian number (R4). -/
def memRead (m : List Host.Cell) (k : Nat) : Nat → Nat
  | 0 => 0
  | n + 1 => (memGet m k).toNat + 256 * memRead m (k + 1) n

/-- The low n bytes of a number written little-endian. -/
def memWrite (m : List Host.Cell) (k : Nat) : Nat → Nat → List Host.Cell
  | 0, _ => m
  | n + 1, v => memWrite (memSet m k (BitVec.ofNat 8 v)) (k + 1) n (v / 256)

/-- Bytes written in order. -/
def memPut (m : List Host.Cell) (k : Nat) : List (BitVec 8) → List Host.Cell
  | [] => m
  | b :: bs => memPut (memSet m k b) (k + 1) bs

/-- n bytes in order. -/
def memBytes (m : List Host.Cell) (k : Nat) : Nat → List (BitVec 8)
  | 0 => []
  | n + 1 => memGet m k :: memBytes m (k + 1) n

/-- A number from bytes, little-endian. -/
def bytesNat : List (BitVec 8) → Nat
  | [] => 0
  | b :: bs => b.toNat + 256 * bytesNat bs

/-- The low n bytes of a number. -/
def natBytes : Nat → Nat → List (BitVec 8)
  | 0, _ => []
  | n + 1, v => BitVec.ofNat 8 v :: natBytes n (v / 256)

/-- The canonical form: addresses strictly rising, no byte 0 listed. -/
def Memory.wf : List Host.Cell → Bool
  | [] => true
  | [(_, b)] => b != 0#8
  | (k, b) :: (k', b') :: m => b != 0#8 && decide (k < k') && Memory.wf ((k', b') :: m)

-- Partitions.

/-- A partition whose record is in use, so that its clusters are its own (R329). -/
def PartState.bound (p : PartState) : Bool :=
  match p with
  | .binding | .running | .preempting | .restoring => true
  | _ => false

def Part.shape (p : Part) : Shape := shapeOf p.dieMask p.rect

/-- The launch id of the partition that holds a cluster now. -/
def State.partOf (s : State) (cl : Nat) : Option Nat :=
  (s.parts.find? fun e => e.2.state.bound && e.2.shape.hasCluster cl).map Prod.fst

/-- A partition not listed is not bound. -/
def Part.none : Part :=
  { fn := 0, queue := 0,
    launch := { cls := 0#2, weight := 0, tag := 0#32, irq := false, kind1 := false, ndm1 := 0, wm1 := 0, hm1 := 0,
                entry := 0#64, codebase := 0#64, codelen := 0, argva := 0#64, limg := 0#64, slen := 0, llen := 0,
                simg := 0#64, recva := 0#64, cntva := 0#64, cntval := 0#64, podgrp := 0#11 },
    accepted := 0, pending := false, held := false, state := .unbound, pid := 0#12, dieMask := 0#16,
    rect := 0#16, tvec := 0#64, seed := 0#64, key := 0#32, saveDir := 0#64, hrt := [], slot := 0, keyEntry := 0, clock := 0,
    startClock := 0, halted := false, preemptHeld := false, toMemory := false, image := .none,
    area := .none, saveValid := false, parked := 0, sweeping := [], killedAt := 0, status := 0, capped := false }

def State.part (s : State) (p : Nat) : Part := amGet Part.none s.parts p
def State.setPart (s : State) (p : Nat) (v : Part) : State := { s with parts := amSet s.parts p v }
def State.modPart (s : State) (p : Nat) (f : Part → Part) : State := s.setPart p (f (s.part p))

/-- The partition of a core. -/
def State.partOfCore (s : State) (c : Nat) : Part :=
  match s.partOf (clusterOf c) with
  | some p => s.part p
  | none => Part.none

/-- The run clock of a core's partition: cycles spent running (R203). -/
def State.clockOf (s : State) (c : Nat) : Nat := (s.partOfCore c).clock

def State.fn (s : State) (f : Nat) : Function := amGet Function.reset s.functions f
def State.modFn (s : State) (f : Nat) (g : Function → Function) : State :=
  { s with functions := amSet s.functions f (g (s.fn f)) }

/-- The clock of an operating point in MHz (Table 16-1). -/
def opMHz (op : Nat) : Nat :=
  match op with
  | 0 => 450 | 1 => 600 | 2 => 750 | 3 => 900 | 4 => 1100 | 5 => 1300 | 6 => 1550 | _ => 1800

/-- The clock of a quad: of two points, while one changes to the other, the lower (R392). -/
def Quad.mhz (q : Quad) : Nat :=
  match q.opNext with
  | some o => min (opMHz q.op) (opMHz o)
  | none => opMHz q.op

/-- CYCLE: cycles of the quad clock while running (Table 12-3, R392) (log 36, DEDUCED, unsafe). -/
def State.cycleOf (s : State) (c : Nat) : Nat :=
  let r := s.core c
  r.cycleBase + (s.clockOf c - r.cycleAt) * (s.quad (quadOf c)).mhz / 1800

/-- CYCLE of the listed cores that a test names is counted anew from here, at whatever clock follows. -/
def State.settleCycles (s : State) (f : Nat → Bool) : State :=
  let settle (e : Nat × Core) : Nat × Core :=
    if f e.1 then (e.1, { e.2 with cycleBase := s.cycleOf e.1, cycleAt := s.clockOf e.1 }) else e
  { s with cores := s.cores.map settle }

/-- The limiter of a core's die holds it, or was released after the core's window began (R399). -/
def State.limited (s : State) (c : Nat) : Bool :=
  let d := s.modl.dies.get (Fin.ofNat 16 (c / 4096))
  d.limited ||
    match d.released with
    | some t => decide ((s.now - t) * (s.quad (quadOf c)).mhz / 1800 < s.cycleOf c % 16)
    | none => false

/-- The partition of a cluster runs, or stops for a pre-emption. -/
def State.inService (s : State) (cl : Nat) : Bool :=
  match s.partOf cl with
  | some p => (s.part p).state == .running || (s.part p).state == .preempting
  | none => false

/-- The effective FDUTY (R398, R400); at least 1 for a running core (R395; log 80, DEDUCED, safe). -/
def State.dutyOf (s : State) (c : Nat) : Nat :=
  let d := (s.core c).fduty
  max (b2n (s.inService (clusterOf c))) (if s.limited c then min d 4 else d)

/-- The effective MDUTY of a quad's unit; at least 1 with queued work (R395). -/
def State.unitDuty (s : State) (q : Nat) : Nat :=
  let u := (s.quad q).unit
  max (b2n (s.inService (q / 4) && !u.fifo.isEmpty)) (if s.limited (4 * q) then min u.mduty 2 else u.mduty)

/-- A fresh id. -/
def State.takeId (s : State) : State × Nat := ({ s with nextId := s.nextId + 1 }, s.nextId)

/-- A free value (log 5, DESIGN CHOICE, safe). -/
def State.takeFresh (s : State) : State × BitVec 64 := ({ s with fresh := s.fresh + 1 }, Config.freeWord s.fresh)

end Sys2Proof.Machine
end

