-- ==== Sys2Proof/Machine/Hazards.lean ====
section
/-! DEFINITION. Which registers each instruction names (R113), which ordering class it has (Table 6-2, R201) and
which instructions pass through the FP/vector queue (R31). -/

namespace Sys2Proof.Machine

/-- A register of one of the three classes. -/
inductive Reg where
  | x (n : Nat)
  | f (n : Nat)
  | v (n : Nat)
  deriving DecidableEq, Repr

/-- The registers an instruction reads and writes. -/
structure Uses where
  rd : List Reg
  wr : List Reg
  deriving DecidableEq, Repr

def rx (r : BitVec 5) : Reg := .x r.toNat
def rf (r : BitVec 5) : Reg := .f r.toNat
def rv (r : BitVec 5) : Reg := .v r.toNat

/-- x destination, x sources. -/
def usesX (d : BitVec 5) (src : List (BitVec 5)) : Uses := { rd := src.map rx, wr := [rx d] }
/-- x sources alone. -/
def usesS (src : List (BitVec 5)) : Uses := { rd := src.map rx, wr := [] }
/-- f destination, f sources. -/
def usesF (d : BitVec 5) (src : List (BitVec 5)) : Uses := { rd := src.map rf, wr := [rf d] }
/-- v destination, v sources. -/
def usesV (d : BitVec 5) (src : List (BitVec 5)) : Uses := { rd := src.map rv, wr := [rv d] }

/-- A pair of x registers (R114). -/
def rpair (r : BitVec 5) : List Reg := [.x r.toNat, .x (r.toNat + 1)]

/-- Ordering classes (Table 6-2). -/
inductive OrdClass where
  | none
  | plain
  | drain
  | serial
  deriving DecidableEq, Repr

/-- CSRs whose reading is Drain (R163): FCSR, SRBASE, OBS and those of streams, lathe and bit buffer. -/
def csrDrain (n : BitVec 12) : Bool :=
  let n := n.toNat
  decide (n ≤ 2) || decide (8 ≤ n ∧ n ≤ 0xA) || decide (0x10 ≤ n ∧ n ≤ 0x13) || decide (0x100 ≤ n ∧ n < 0x140)

/-- CSRs of the control context alone, but for SPOS, which a helper names as ILLEGAL_REG too (R298). -/
def csrControl (n : BitVec 12) : Bool :=
  let n := n.toNat
  decide (8 ≤ n ∧ n ≤ 0xA) || decide (0x10 ≤ n ∧ n ≤ 0x13) || decide (0x100 ≤ n ∧ n < 0x140) || n == 0x307

def csrClass (n : BitVec 12) (writes : Bool) : OrdClass :=
  if writes then .serial else if csrDrain n then .drain else .none

def amoClass (q l : BitVec 1) : OrdClass := if q = 1#1 ∨ l = 1#1 then .serial else .plain

/-- A register that a helper does not own, or a v register that no context owns (R16, R113). -/
def Reg.bad (helper : Bool) : Reg → Bool
  | .x n => helper && decide (16 ≤ n)
  | .f n => helper && decide (8 ≤ n)
  | .v n => decide (16 ≤ n) || (helper && decide (4 ≤ n))

end Sys2Proof.Machine

namespace Sys2Proof

open Machine

/-- The registers that the fields of an encoding name. An event names none. -/
def Instr.uses : Instr → Uses
  | .add d a b | .sll d a b | .slt d a b | .sltu d a b | .xor d a b | .srl d a b | .or d a b | .and d a b
  | .sub d a b | .sra d a b | .mul d a b | .mulh d a b | .mulhsu d a b | .mulhu d a b | .div d a b
  | .divu d a b | .rem d a b | .remu d a b | .min d a b | .max d a b | .minu d a b | .maxu d a b
  | .mkaddr d a b | .spawn d a b => usesX d [a, b]
  | .clz d a | .ctz d a | .popc d a | .brev d a | .sextb d a | .sexth d a | .sextw d a | .absaddr d a
  | .addi d a _ | .slti d a _ | .sltiu d a _ | .xori d a _ | .ori d a _ | .andi d a _ | .slli d a _
  | .srli d a _ | .srai d a _ | .lb d a _ | .lh d a _ | .lw d a _ | .ld d a _ | .lbu d a _ | .lhu d a _
  | .lwu d a _ | .jalr d a _ | .bfx d a _ _ | .csrrw d a _ | .csrrs d a _ | .csrrc d a _ | .bbdec d a _
  | .ldaq d a _ _ | .tbwait d a | .tbtest d a | .dqsteal d a | .fkey d a => usesX d [a]
  | .bfi d a _ _ => usesX d [a, d]
  | .lih d _ | .addpc d _ | .jal d _ | .csrrwi d _ _ | .csrrsi d _ _ | .csrrci d _ _ | .bbget d _
  | .bbpeek d _ | .ptest d _ | .mtake d | .dqpop d | .dqlen d | .rclaim d _ | .rtake d _ => usesX d []
  | .sb a b _ | .sh a b _ | .sw a b _ | .sd a b _ | .beq a b _ | .bne a b _ | .blt a b _ | .bge a b _
  | .bltu a b _ | .bgeu a b _ | .strl a b _ _ | .bbinit a b | .tbact a b | .sendr a b _ | .xdisc a b => usesS [a, b]
  | .sskip a _ | .frep a _ | .bbemit a _ | .tbarr a | .tbretire a | .mfree a | .dqpush a | .rinit a _
  | .rcommit a | .rfree a | .xresume a | .xcancel a | .ptouch a _ | .mzero a _ | .mfence a | .fres a _
  | .frel a => usesS [a]
  | .tbinit a b c | .tbexp a b c | .xmsg a b c _ | .xcopy a b c _ _ | .xamo a b c _ _ | .mma a b c _
  | .mstore a b c _ | .mdrain a b c _ _ | .fold a b c _ _ => usesS [a, b, c]
  | .xsub b c _ => usesS [b, c]
  | .xpub a c _ => usesS [a, c]
  | .mload a b _ => usesS [a, b]
  | .amoswap d a b _ _ _ _ | .amoadd d a b _ _ _ _ | .amoand d a b _ _ _ _ | .amoor d a b _ _ _ _
  | .amoxor d a b _ _ _ _ | .amomin d a b _ _ _ _ | .amomax d a b _ _ _ _ | .amominu d a b _ _ _ _
  | .amomaxu d a b _ _ _ _ | .famoadd d a b _ _ _ _ => usesX d [a, b]
  | .amocas d a b _ _ _ _ => usesX d [a, b, d]
  | .amocasQ d a b _ _ _ => { rd := rx a :: rpair b ++ rpair d, wr := rpair d }
  | .flh d a _ | .flw d a _ | .fld d a _ => { rd := [rx a], wr := [rf d] }
  | .fsh a b _ | .fsw a b _ | .fsd a b _ => { rd := [rx a, rf b], wr := [] }
  | .fadd d a b _ _ | .fsub d a b _ _ | .fmul d a b _ _ | .fdiv d a b _ _ => usesF d [a, b]
  | .fsqrt d a _ _ => usesF d [a]
  | .fsgnj d a b _ | .fsgnjn d a b _ | .fsgnjx d a b _ | .fmin d a b _ | .fmax d a b _ => usesF d [a, b]
  | .fle d a b _ | .flt d a b _ | .feq d a b _ => { rd := [rf a, rf b], wr := [rx d] }
  | .fclass d a _ => { rd := [rf a], wr := [rx d] }
  | .fcvtFloatFloat d a _ _ _ _ => usesF d [a]
  | .fcvtFloatInt d a _ _ _ _ => { rd := [rf a], wr := [rx d] }
  | .fcvtIntFloat d a _ _ _ => { rd := [rx a], wr := [rf d] }
  | .fmvx d a _ => { rd := [rf a], wr := [rx d] }
  | .fmvf d a _ => { rd := [rx a], wr := [rf d] }
  | .fmadd d a b c _ _ | .fmsub d a b c _ _ | .fnmadd d a b c _ _ | .fnmsub d a b c _ _ => usesF d [a, b, c]
  | .sbind d k _ => { rd := [], wr := [if k = 1#1 then rv d else rf d] }
  | .vld d a _ _ => { rd := [rx a], wr := [rv d] }
  | .vst a b _ => { rd := [rx a, rv b], wr := [] }
  | .vlds d a b _ _ => { rd := [rx a, rx b], wr := [rv d] }
  | .vsts d a b _ => { rd := [rv d, rx a, rx b], wr := [] }
  | .vgather d a b _ _ => { rd := [rx a, rv b], wr := [rv d] }
  | .vscatter d a b _ => { rd := [rv d, rx a, rv b], wr := [] }
  | .vldb d a _ => { rd := [rx a, rv d], wr := [rv d] }
  | .vadd d a b _ | .vsub d a b _ | .vmul d a b _ => usesV d [a, b]
  | .vmin d a b | .vmax d a b | .vand d a b | .vor d a b | .vxor d a b | .vshl d a b | .vshr d a b
  | .vsra d a b | .vcmp d a b _ | .vperm d a b | .vshuf d a b => usesV d [a, b]
  | .vabs d a | .vneg d a | .vexp2 d a | .vrcp d a | .vrsq d a | .vmov d a => usesV d [a]
  | .vfma d a b c _ | .vfms d a b c _ | .vnfma d a b c _ => usesV d [a, b, c]
  | .vsel d a b c => usesV d [a, b, c]
  | .vredAdd d a _ => { rd := [rv a], wr := [rf d] }
  | .vredMin d a | .vredMax d a => { rd := [rv a], wr := [rf d] }
  | .vdot d a b _ => { rd := [rv a, rv b], wr := [rf d] }
  | .vcvt d a _ _ _ => usesV d [a]
  | .vqnt d a _ _ _ => usesV d [a]
  | .vdqnt d a _ _ => usesV d [a]
  | .vslideUp d a b | .vslideDown d a b => { rd := [rv a, rx b], wr := [rv d] }
  | .vbcastX d a => { rd := [rx a, rv d], wr := [rv d] }
  | .vbcastF d a => { rd := [rf a, rv d], wr := [rv d] }
  | .vmvx d a b => { rd := [rv a, rx b], wr := [rx d] }
  | .vmvf d a b => { rd := [rv a, rx b], wr := [rf d] }
  | .vtag d a _ => usesV d [a]
  | .vsideRead d a => { rd := [rv a], wr := [rx d] }
  | .vsideWrite d a => { rd := [rx a, rv d], wr := [rv d] }
  | .add16 d b | .sub16 d b | .and16 d b | .or16 d b | .xor16 d b | .sll16 d b | .srl16 d b => usesX d [d, b]
  | .mv16 d b => usesX d [b]
  | .addi16 d _ => usesX d [d]
  | .fadd16 d b | .fsub16 d b | .fmul16 d b | .fmax16 d b => usesF d [d, b]
  | .vadd16 d b | .vsub16 d b | .vmul16 d b => usesV d [d, b]
  | .pclr n => { rd := [], wr := [rx n] }
  | .ecall => { rd := [], wr := [] }
  | _ => { rd := [], wr := [] }

/-- The FP and vector instructions, which pass through the queue of the control context (R31). -/
def Instr.queued : Instr → Bool
  | .flh .. | .flw .. | .fld .. | .fsh .. | .fsw .. | .fsd .. | .fadd .. | .fsub .. | .fmul .. | .fdiv ..
  | .fsqrt .. | .fsgnj .. | .fsgnjn .. | .fsgnjx .. | .fmin .. | .fmax .. | .fle .. | .flt .. | .feq ..
  | .fclass .. | .fcvtFloatFloat .. | .fcvtFloatInt .. | .fcvtIntFloat .. | .fmvx .. | .fmvf .. | .fmadd ..
  | .fmsub .. | .fnmadd .. | .fnmsub .. | .vld .. | .vst .. | .vlds .. | .vsts .. | .vgather ..
  | .vscatter .. | .vldb .. | .vadd .. | .vsub .. | .vmul .. | .vmin .. | .vmax .. | .vand .. | .vor ..
  | .vxor .. | .vshl .. | .vshr .. | .vsra .. | .vcmp .. | .vabs .. | .vneg .. | .vfma .. | .vfms ..
  | .vnfma .. | .vsel .. | .vredAdd .. | .vredMin .. | .vredMax .. | .vdot .. | .vcvt .. | .vqnt ..
  | .vdqnt .. | .vperm .. | .vshuf .. | .vslideUp .. | .vslideDown .. | .vbcastX .. | .vbcastF ..
  | .vexp2 .. | .vrcp .. | .vrsq .. | .vmov .. | .vmvx .. | .vmvf .. | .vtag .. | .vsideRead ..
  | .vsideWrite .. | .fadd16 .. | .fsub16 .. | .fmul16 .. | .fmax16 .. | .vadd16 .. | .vsub16 ..
  | .vmul16 .. => true
  | _ => false

/-- Scalar loads, which may issue inside the window of R102. -/
def Instr.isLoad : Instr → Bool
  | .lb .. | .lh .. | .lw .. | .ld .. | .lbu .. | .lhu .. | .lwu .. => true
  | _ => false

/-- Instructions that take a slot of the quad's vector unit (R18): those that name a v register. -/
def Instr.isVec (i : Instr) : Bool :=
  i.queued && (i.uses.rd ++ i.uses.wr).any fun r => match r with | .v _ => true | _ => false

/-- FP and vector loads. -/
def Instr.fpLoad : Instr → Bool
  | .flh .. | .flw .. | .fld .. | .vld .. | .vlds .. | .vgather .. | .vldb .. => true
  | _ => false

/-- Instructions of the integer pipe that access memory, besides the Serial ones. -/
def Instr.intMem : Instr → Bool
  | .lb .. | .lh .. | .lw .. | .ld .. | .lbu .. | .lhu .. | .lwu .. | .sb .. | .sh .. | .sw .. | .sd ..
  | .bbget .. | .bbpeek .. | .bbskip .. | .bbdec .. | .bbemit .. | .bbflush | .bbalign
  | .amoswap .. | .amoadd .. | .amoand .. | .amoor .. | .amoxor .. | .amomin .. | .amomax .. | .amominu ..
  | .amomaxu .. | .amocas .. | .amocasQ .. | .famoadd .. => true
  | _ => false

/-- FP and vector instructions that access memory by themselves; a pop or a push makes any other one do so. -/
def Instr.fpMem : Instr → Bool
  | .flh .. | .flw .. | .fld .. | .fsh .. | .fsw .. | .fsd .. | .vld .. | .vst .. | .vlds .. | .vsts ..
  | .vgather .. | .vscatter .. | .vldb .. => true
  | _ => false

/-- Instructions of the streams, the lathe and the bit buffer, and those of presence bits: ILLEGAL_REG in a
helper (R16, R217). -/
def Instr.controlOnly : Instr → Bool
  | .sbind .. | .sunbind .. | .sskip .. | .ssync .. | .frep .. | .frepi .. | .bbinit .. | .bbget ..
  | .bbpeek .. | .bbskip .. | .bbdec .. | .bbemit .. | .bbflush | .bbalign | .pclr .. | .ptest .. => true
  | _ => false

/-- The ordering class of an encoded instruction. -/
def Instr.cls : Instr → OrdClass
  | .csrrw _ _ c => csrClass c true
  | .csrrwi _ c _ => csrClass c true
  | .csrrs _ a c | .csrrc _ a c => csrClass c (a != 0#5)
  | .csrrsi _ c u | .csrrci _ c u => csrClass c (u != 0#5)
  | .ecall | .ebreak | .tret | .isync => .serial
  | .sbind .. | .sunbind .. | .sskip .. | .ssync .. | .tbtest .. => .drain
  | .amoswap _ _ _ q l _ _ | .amoadd _ _ _ q l _ _ | .amoand _ _ _ q l _ _ | .amoor _ _ _ q l _ _
  | .amoxor _ _ _ q l _ _ | .amomin _ _ _ q l _ _ | .amomax _ _ _ q l _ _ | .amominu _ _ _ q l _ _
  | .amomaxu _ _ _ q l _ _ | .amocas _ _ _ q l _ _ | .famoadd _ _ _ q l _ _ => amoClass q l
  | .amocasQ _ _ _ q l _ => amoClass q l
  | .fence .. | .ldaq .. | .strl .. | .bar .. | .bararr .. | .barwait .. | .tbinit .. | .tbexp .. | .tbarr ..
  | .tbwait .. | .tbact .. | .tbretire .. | .sendr .. | .pclr .. | .xmsg .. | .mtake .. | .mfree ..
  | .spawn .. | .hexit | .hwait .. | .dqpush .. | .dqpop .. | .dqsteal .. | .rinit .. | .rclaim ..
  | .rcommit .. | .rtake .. | .rfree .. | .xcopy .. | .xsub .. | .xpub .. | .xamo .. | .xresume ..
  | .xcancel .. | .xdisc .. | .ptouch .. | .mma .. | .mzero .. | .mload .. | .mstore .. | .mdrain ..
  | .mfence .. | .fold .. | .fres .. | .frel .. => .serial
  | .lb .. | .lh .. | .lw .. | .ld .. | .lbu .. | .lhu .. | .lwu .. | .sb .. | .sh .. | .sw .. | .sd ..
  | .bbget .. | .bbpeek .. | .bbskip .. | .bbdec .. | .bbemit .. | .bbflush | .bbalign => .plain
  | i => if i.fpMem then .plain else .none

/-- Whether an instruction writes a CSR, which the window of R102 holds back. -/
def Instr.writesCsr : Instr → Bool
  | .csrrw .. | .csrrwi .. => true
  | .csrrs _ a _ | .csrrc _ a _ => a != 0#5
  | .csrrsi _ _ u | .csrrci _ _ u => u != 0#5
  | .bbinit .. | .bbget .. | .bbskip .. | .bbdec .. | .bbemit .. | .bbflush | .bbalign | .bbpeek ..
  | .frep .. | .frepi .. => true
  | _ => false

/-- Whether the instruction raises ILLEGAL_REG in a context (R113, R118, R220). VQNT of FP32 also reads the
register after its source; that it is owned is checked with its tags. -/
def Instr.illegalReg (i : Instr) (helper : Bool) : Bool :=
  (i.uses.rd.any (Reg.bad helper)) || (i.uses.wr.any (Reg.bad helper)) || (helper && i.controlOnly)
    || (!helper && (i == .hexit))

end Sys2Proof
end

