-- ==== Sys2Proof/Machine/Translate.lean ====
section
/-! DEFINITION. Where a device address lives: homes (R47 to R49), the translation tables (R347, R348) and what a home knows
of a block (R351, R364, R365). -/

namespace Sys2Proof.Machine

-- Homes.

/-- The home of a page (R49). -/
inductive Home where
  | stack (n : Nat)
  | cxl (port : Nat)
  | peer (m : Nat)
  deriving DecidableEq, Repr

/-- The stack of a 64 KiB piece: the XOR of the seven fields of va (R49). -/
def stackOf (va : Nat) : Nat :=
  let f (lo : Nat) : Nat := va / 2 ^ lo % 32
  f 16 ^^^ f 21 ^^^ f 26 ^^^ f 31 ^^^ f 36 ^^^ f 41 ^^^ (va / 2 ^ 46 % 4)

/-- The first valid entry of a home range table that holds the address (R48). -/
def homeOf (hrt : AMap (BitVec 64 × BitVec 64)) (va : Nat) : Option Home :=
  match hrt.find? fun e =>
      bitOf e.2.1 63 && fld e.2.1 61 2 != 3 && decide (fld e.2.1 21 27 ≤ va / 2 ^ 21 % 2 ^ 27)
        && decide (va / 2 ^ 21 % 2 ^ 27 ≤ fld e.2.2 21 27) with
  | none => none
  | some e =>
    match fld e.2.1 61 2 with
    | 0 => some (.stack (stackOf va))
    | 1 => some (.cxl (fld e.2.1 48 6))
    | _ => some (.peer (fld e.2.1 48 6))

def Stack.reset (n : Nat) : Stack :=
  { poolfree := (Config.poolFree n).toNat, parked := [], reaching := [], requests := [], coming := [], gleaner := 0,
    asked := [], link := Link.up, replies := [], back := Link.up, tlb := [], asleep := false, nextLoc := 128, nextSector := 0 }

def State.base (s : State) (n : Nat) : Stack := amGet (Stack.reset n) s.bases n
def State.modBase (s : State) (n : Nat) (f : Stack → Stack) : State := { s with bases := amSet s.bases n (f (s.base n)) }

/-- Number of the home that a stack, a port or a peer is in State.bases. -/
def Home.index : Home → Nat
  | .stack n => n
  | .cxl p => 32 + p
  | .peer m => 40 + m

/-- Ports toward a module in the route tables of the two I/O dies (R385). -/
def State.portsTo (s : State) (m : Nat) : List Nat :=
  (amGet? s.modl.routes m).toList ++ (amGet? s.modl.routes (64 + m)).toList

/-- The way to a peer module: none without a route; a request fails where no route's link is up (R47, R384). -/
def State.away (s : State) (m : Nat) : Except HandBack Nat :=
  match s.portsTo m with
  | [] => .error .perm
  | ports => if ports.all fun p => (amGet Link.up s.modl.ikirath p).down then .error .poison else .ok (40 + m)

/-- The home that serves an address under a home range table; or why none does (R47 to R49, R345, R369). -/
def State.homeFor (s : State) (hrt : AMap (BitVec 64 × BitVec 64)) (va : BitVec 64) : Except HandBack Nat :=
  if fld va 48 6 ≠ s.modl.podNumber.toNat then s.away (fld va 48 6)
  else
    match homeOf hrt (fld va 0 48) with
    | none => .error .perm
    | some (.peer m) => s.away m
    | some (.stack n) => if (s.base n).link.down then .error .poison else .ok n
    | some (.cxl p) => if s.modl.cxlDown.contains p then .error .poison else .ok (32 + p)

/-- Bytes of a peer module's space follow those of this module in the model's memory: what this module has last written or
been told of them. -/
def peerKey (m fn va : Nat) : Nat := 2 ^ 80 + m * 2 ^ 64 + fn * 2 ^ 48 + va % 2 ^ 48

/-- The number in the model's memory of the byte that a device VA names for a function under a home range table. -/
def State.byteKey (s : State) (fn : Nat) (hrt : AMap (BitVec 64 × BitVec 64)) (va : BitVec 64) : Nat :=
  if fld va 48 6 ≠ s.modl.podNumber.toNat then peerKey (fld va 48 6) fn (fld va 0 48)
  else
    match homeOf hrt (fld va 0 48) with
    | some (.peer m) => peerKey m fn (fld va 0 48)
    | _ => devKey fn (fld va 0 48)

/-- The number of the first byte of a block at a home. -/
def homeKey (home fn b : Nat) : Nat := if 40 ≤ home then peerKey (home - 40) fn (256 * b) else devKey fn (256 * b)

-- Tables (R347).

/-- The key of a piece in State.pages. -/
def pageKey (fn va : Nat) : Nat := fn * 2 ^ 32 + va % 2 ^ 48 / 2 ^ 16
/-- The number of a block among those of all functions. -/
def blockKey (fn va : Nat) : Nat := fn * 2 ^ 40 + va % 2 ^ 48 / 2 ^ 8

/-- The lowest VA bit that indexes a level. -/
def levelShift : Nat → Nat
  | 0 => 39
  | 1 => 30
  | 2 => 21
  | _ => 16

/-- The index of an address at a level: 512 entries, 32 at level 3. -/
def levelIndex (level va : Nat) : Nat := va % 2 ^ 48 / 2 ^ levelShift level % (if level < 3 then 512 else 32)

/-- The key of an entry of a table at a home. -/
def tableKey (home loc index : Nat) : Nat := (home * 2 ^ 32 + loc) * 512 + index

/-- LOC of an entry (Table 14-1). -/
def locatorOf (e : BitVec 64) : Nat := fld e 16 32

/-- What a valid entry is. -/
inductive EntryKind where
  | table
  | leaf
  deriving DecidableEq, Repr

/-- An entry as a walk takes it at a level: a KIND of 3, a leaf at the wrong level or a nonzero reserved field counts as
V = 0 (Table 14-1). -/
def entryKind (level : Nat) (e : BitVec 64) : Option EntryKind :=
  if !bitOf e 63 || fld e 48 11 != 0 || fld e 0 16 != 0 then none
  else
    match fld e 61 2 with
    | 0 => if level < 3 then some .table else none
    | 1 => if level = 3 then some .leaf else none
    | 2 => if level = 2 then some .leaf else none
    | _ => none

/-- The entry of a table for an address. -/
def State.entryAt (s : State) (home loc level va : Nat) : BitVec 64 := amGet 0#64 s.tables (tableKey home loc (levelIndex level va))

/-- A walk at a home from a table down some levels, each table at the locator that the entry above names: the leaf, or
whether the entry that ends it is malformed. -/
def State.walkFrom (s : State) (home loc va : Nat) : List Nat → Except Bool (BitVec 64)
  | [] => .error false
  | l :: ls =>
    let e := s.entryAt home loc l va
    match entryKind l e with
    | none => .error (bitOf e 63)
    | some .table => s.walkFrom home (locatorOf e) va ls
    | some .leaf => .ok e

/-- The locator of the root of a function's tables, at every home (log 97, DESIGN CHOICE, safe). -/
def rootLoc (fn : Nat) : Nat := fn + 1

/-- The root for a PID, as its translation context names it; a host packet, which has no PID, is translated by the tables of
its function (R347). -/
def State.root (s : State) (fn : Nat) (pid : BitVec 12) : Option Nat :=
  if pid = 0#12 then some (rootLoc fn) else amGet? s.contexts pid.toNat

/-- The walk of an address at a home for a PID. -/
def State.leafFor (s : State) (home fn : Nat) (pid : BitVec 12) (va : Nat) : Except Bool (BitVec 64) :=
  match s.root fn pid with
  | none => .error false
  | some r => s.walkFrom home r va [0, 1, 2, 3]

/-- The walk of a function's tables at a home. Wilzia points every partition of one function at the same tables (R347). -/
def State.leafAt (s : State) (home fn va : Nat) : Except Bool (BitVec 64) := s.walkFrom home (rootLoc fn) va [0, 1, 2, 3]

/-- A walk has found a leaf. -/
def isLeaf (r : Except Bool (BitVec 64)) : Bool :=
  match r with
  | .ok _ => true
  | .error _ => false

/-- Whether a home maps a function's address. -/
def State.mappedAt (s : State) (home fn va : Nat) : Bool := isLeaf (s.leafAt home fn va)

/-- What a leaf allows (Table 14-1). -/
def leafAllows (e : BitVec 64) (write : Bool) : Bool := bitOf e (if write then 59 else 60)

/-- The outcome of a walk for one access at a home (R348). -/
def State.walk (s : State) (home fn : Nat) (pid : BitVec 12) (va : Nat) (write : Bool) : Option HandBack :=
  match s.leafFor home fn pid va with
  | .error _ => some .notPresent
  | .ok e => if leafAllows e write then none else some .perm

/-- A valid entry with a kind, rights and a locator. -/
def mkEntry (kind : Nat) (r w : Bool) (loc : Nat) : BitVec 64 :=
  word (2 ^ 63 + kind * 2 ^ 61 + b2n r * 2 ^ 60 + b2n w * 2 ^ 59 + loc % 2 ^ 32 * 2 ^ 16)

/-- Locators in a row that Wilzia gives a table or block maps at a home: the next ones never given out
(log 97, DESIGN CHOICE, safe). -/
def State.newLoc (s : State) (home n : Nat) : State × Nat :=
  (s.modBase home fun b => { b with nextLoc := b.nextLoc + n }, (s.base home).nextLoc)

/-- The table that some levels lead to. -/
def State.tableFrom (s : State) (home loc va : Nat) : List Nat → Option Nat
  | [] => some loc
  | l :: ls =>
    let e := s.entryAt home loc l va
    if entryKind l e = some .table then s.tableFrom home (locatorOf e) va ls else none

/-- The tables down to a level exist: entries of the levels above that are not tables become ones. With the last one. -/
def State.needTables (s : State) (home loc va : Nat) : List Nat → State × Nat
  | [] => (s, loc)
  | l :: ls =>
    let e := s.entryAt home loc l va
    if entryKind l e = some .table then s.needTables home (locatorOf e) va ls
    else
      let n := s.newLoc home 1
      ({ n.1 with tables := amSet n.1.tables (tableKey home loc (levelIndex l va)) (mkEntry 0 false false n.2) }).needTables home n.2 va ls

/-- Every TLB forgets a function's pieces that satisfy a test, before the change is reported; a write that is parked
in one of them was translated before, and completes under the old entry (R350). -/
def State.forget (s : State) (fn : Nat) (f : Nat → Bool) : State :=
  { s with bases := s.bases.map fun (b : Nat × Stack) =>
      (b.1, { b.2 with tlb := b.2.tlb.filter fun e => !(e.fn == fn && f e.page),
                       parked := b.2.parked.map fun w =>
                         { w with old := w.old || (w.req.fn == fn && w.req.blocks.any fun k => f (k / 256)) } }) }

/-- The pieces of a 2 MiB page that a home maps, by their places in it, in ascending VA order. -/
def State.runOf (s : State) (home fn page : Nat) : List Nat :=
  (List.range 32).filter fun i => (amGet? s.pages (fn * 2 ^ 32 + page * 32 + i)).any fun g => g.home == home

/-- A 2 MiB leaf becomes a table of 64 KiB leaves with its rights, one for each block map of its run. -/
def State.splitLeaf (s : State) (home fn va : Nat) : State :=
  match s.tableFrom home (rootLoc fn) va [0, 1] with
  | none => s
  | some l =>
    let k := tableKey home l (levelIndex 2 va)
    let e := amGet 0#64 s.tables k
    if entryKind 2 e = some .leaf then
      let n := s.newLoc home 1
      let leaf (p : Nat × Nat) : BitVec 64 := mkEntry 1 (leafAllows e false) (leafAllows e true) (locatorOf e + p.2)
      let run := (s.runOf home fn (va % 2 ^ 48 / 2 ^ 21)).zipIdx
      let top := amSet n.1.tables k (mkEntry 0 false false n.2)
      { n.1 with tables := run.foldl (fun t p => amSet t (tableKey home n.2 p.1) (leaf p)) top }
    else s

/-- The home at which Wilzia maps a function's address: that of the function's home range table, on this module. -/
def State.ownHome (s : State) (fn va : Nat) : Option Nat :=
  match homeOf (s.fn fn).hrt va with
  | some (.stack n) => some n
  | some (.cxl p) => some (32 + p)
  | _ => none

/-- Pieces of one page are mapped at their home: one of 64 KiB by an entry of level 3, those of a 2 MiB page by a leaf of
level 2 whose locator names a run of block maps (R347). -/
def State.mapAt (s : State) (home fn : Nat) (pgs : List Nat) (r w big : Bool) : State :=
  let va := 65536 * pgs.headD 0
  let s := if big then s else s.splitLeaf home fn va
  let t := s.needTables home (rootLoc fn) va (if big then [0, 1] else [0, 1, 2])
  let n := t.1.newLoc home pgs.length
  { n.1 with
    tables := amSet n.1.tables (tableKey home t.2 (levelIndex (if big then 2 else 3) va)) (mkEntry (if big then 2 else 1) r w n.2),
    pages := pgs.foldl (fun m pg => amSet m (fn * 2 ^ 32 + pg) { home := home, discard := false, marker := 0 }) n.1.pages }

/-- The mapping of a piece goes. -/
def State.unmapEntry (s : State) (fn pg : Nat) : State :=
  let va := 65536 * pg
  match amGet? s.pages (fn * 2 ^ 32 + pg) with
  | none => s
  | some g =>
    let t := (s.forget fn (· == pg)).splitLeaf g.home fn va
    let u := { t with pages := amDel t.pages (fn * 2 ^ 32 + pg) }
    match t.tableFrom g.home (rootLoc fn) va [0, 1, 2] with
    | some l => { u with tables := amDel u.tables (tableKey g.home l (levelIndex 3 va)) }
    | none => u

/-- The tables that lie some levels below others, those among them: home and locator, as home × 2^32 + locator. -/
def State.tablesBelow (s : State) (ts : List Nat) : Nat → List Nat
  | 0 => ts
  | n + 1 =>
    let below := s.tables.filter fun e => ts.contains (e.1 / 512) && fld e.2 61 2 == 0
    ts ++ s.tablesBelow (below.map fun e => e.1 / 512 / 2 ^ 32 * 2 ^ 32 + locatorOf e.2) n

/-- The tables of a function go from every home. -/
def State.dropTables (s : State) (fn : Nat) : State :=
  let ts := s.tablesBelow ((List.range 40).map fun h => h * 2 ^ 32 + rootLoc fn) 3
  { s with tables := s.tables.filter fun e => !ts.contains (e.1 / 512) }

-- Blocks.

def State.block (s : State) (b : Nat) : BlockEntry := amGet BlockEntry.empty s.blocks b
def State.setBlock (s : State) (b : Nat) (v : BlockEntry) : State := { s with blocks := amSet s.blocks b v }

/-- The block map of a piece at its home, as the locator of its leaf names it: home × 2^32 + locator (R347, R351). -/
def State.mapOf (s : State) (home fn va : Nat) : Option Nat :=
  match s.leafAt home fn va with
  | .error _ => none
  | .ok e =>
    let before := if fld e 61 2 = 2 then
        ((s.runOf home fn (va % 2 ^ 48 / 2 ^ 21)).filter fun i => decide (i < va / 2 ^ 16 % 32)).length
      else 0
    some (home * 2 ^ 32 + locatorOf e + before)

/-- The key of block b (va / 256) of a function in the block map of its piece at a home. No map has key 0. -/
def State.blockNo (s : State) (home fn b : Nat) : Nat :=
  match s.mapOf home fn (256 * b) with
  | some m => m * 256 + b % 256
  | none => 0

/-- The entry of a function's block. -/
def State.blockOf (s : State) (home fn b : Nat) : BlockEntry := s.block (s.blockNo home fn b)

/-- The failure of a block's contents at a read or merge (R364, R365). -/
def State.blockFail (s : State) (home fn va : Nat) : Option HandBack :=
  let b := s.blockOf home fn (va % 2 ^ 48 / 256)
  if b.macBad then some .integrity else if b.poison then some .poison else none

-- Access by a partition's instruction fetch or a host packet.

/-- PIDs 1 to 2,047 are this module's own; a peer knows only pod PIDs (R49, R330). -/
def podPid (pid : BitVec 12) : Bool := decide (2048 ≤ pid.toNat)

/-- Why a read or write of a device VA by a function under a home range table is handed back, if it is: the
module (R47), the home (R48, R49), the link, the page. What a peer answers is log 12, DESIGN CHOICE, safe. -/
def State.serve (s : State) (fn : Nat) (pid : BitVec 12) (hrt : AMap (BitVec 64 × BitVec 64)) (ea : BitVec 64) (write : Bool) :
    Option HandBack :=
  match s.homeFor hrt ea with
  | .error e => some e
  | .ok h => if 40 ≤ h then (if podPid pid then none else some .perm) else s.walk h fn pid (fld ea 0 48) write

end Sys2Proof.Machine
end

