-- ==== Sys2Proof/Machine/Blocks.lean ====
section
/-! DEFINITION. How blocks lie in the sectors of their home (R351, R352, R368), and when a home may serve a request
(R344, R36). -/

namespace Sys2Proof.Machine

/-- 8-byte words of a block. -/
def blockWords : List (BitVec 8) → Nat → List Nat
  | _, 0 => []
  | bs, n + 1 => bytesNat (bs.take 8) :: blockWords (bs.drop 8) n

/-- The first encoding of Table 14-2 that applies to a block's contents (R352). -/
def encodingOf (bs : List (BitVec 8)) : Encoding :=
  let ws := blockWords bs 32
  let nz := (ws.filter (· != 0)).length
  if nz = 0 then .zero
  else if ws.all (· == ws.headD 0) then .rep
  else if 4 + 8 * nz ≤ 192 then .sparse
  else .raw

/-- The encoded bytes of a block (Table 14-2). -/
def encoded (bs : List (BitVec 8)) : List (BitVec 8) :=
  let ws := blockWords bs 32
  match encodingOf bs with
  | .zero => []
  | .rep => natBytes 8 (ws.headD 0)
  | .sparse =>
    natBytes 4 ((List.range 32).map fun i => if ws.getD i 0 = 0 then 0 else 2 ^ i).sum
      ++ (ws.filter (· != 0)).flatMap (natBytes 8)
  | .raw => bs

/-- Sectors of a block's contents (Table 14-2). -/
def sectorsOf (bs : List (BitVec 8)) : Nat :=
  let nz := ((blockWords bs 32).filter (· != 0)).length
  match encodingOf bs with
  | .zero => 0
  | .rep => 1
  | .sparse => (4 + 8 * nz + 63) / 64
  | .raw => 4

/-- Words by a mask: those that it lists, in order, and 0 for the others. -/
def spread : List Bool → List (BitVec 8) → List (BitVec 8)
  | [], _ => []
  | true :: ms, bs => bs.take 8 ++ spread ms (bs.drop 8)
  | false :: ms, bs => List.replicate 8 0#8 ++ spread ms bs

/-- The 256 bytes that an encoding stands for (Table 14-2). -/
def decoded (e : Encoding) (bs : List (BitVec 8)) : List (BitVec 8) :=
  match e with
  | .zero => List.replicate 256 0#8
  | .rep => (List.replicate 32 (bs.take 8)).flatten
  | .sparse => spread ((List.range 32).map (bytesNat (bs.take 4)).testBit) (bs.drop 4)
  | .raw => bs.take 256

/-- The number of a sector's first byte in the model's memory. -/
def sectorKey (home n : Nat) : Nat := 2 ^ 72 + (home * 2 ^ 48 + n) * 64

/-- What a block's sectors hold. -/
def State.storedBytes (s : State) (home : Nat) (e : BlockEntry) : List (BitVec 8) :=
  e.sectors.flatMap fun n => memBytes s.mem (sectorKey home n) 64

/-- The bytes of block b (va / 256) of a function at its home: its block map says where they lie and how (R351). -/
def State.blockBytes (s : State) (home fn b : Nat) : List (BitVec 8) :=
  let e := s.blockOf home fn b
  decoded e.enc (s.storedBytes home e)

/-- Bytes of a function's memory from an address, in blocks of one home or of several; zeros for a block that fails its check
(log 99, DEDUCED, unsafe). -/
def State.deviceBytes (s : State) (fn : Nat) (hrt : AMap (BitVec 64 × BitVec 64)) (a n : Nat) : List (BitVec 8) :=
  (((List.range ((a % 256 + n + 255) / 256)).flatMap fun i =>
    let b := a / 256 + i
    match homeOf hrt (256 * b) with
    | some (.peer m) => memBytes s.mem (peerKey m fn (256 * b)) 256
    | some h => if (s.blockFail h.index fn (256 * b)).isSome then List.replicate 256 0#8 else s.blockBytes h.index fn b
    | none => List.replicate 256 0#8).drop (a % 256)).take n

/-- Bytes go to sectors, 64 to each. -/
def fillSectors (m : List Host.Cell) (home : Nat) : List Nat → List (BitVec 8) → List Host.Cell
  | [], _ => m
  | n :: ns, bs => fillSectors (memPut m (sectorKey home n) (bs.take 64)) home ns (bs.drop 64)

/-- A block's contents are stored under an encoding in given sectors. -/
def State.store (s : State) (home k : Nat) (e : BlockEntry) (enc : Encoding) (places : List Nat) (bytes : List (BitVec 8)) : State :=
  { s.setBlock k { e with enc := enc, sectors := places } with mem := fillSectors s.mem home places bytes }

/-- Sectors of a stack's block once it holds m: those it has, and as many more as it needs, which no block has had before
(R351; log 97, DESIGN CHOICE, safe). -/
def placeSectors (old : List Nat) (m next : Nat) : List Nat :=
  old.take m ++ (List.range (m - old.length)).map fun i => next + i

/-- The four sectors of a block of a CXL port, which holds its pages whole (R368), by the key of its entry. -/
def cxlSectors (k : Nat) : List Nat := (List.range 4).map fun i => k % 2 ^ 40 * 4 + i

-- Requests.

/-- Two requests touch a block in common. -/
def sameBlock (a b : HomeReq) : Bool := a.fn == b.fn && a.blocks.any b.blocks.contains

/-- Nothing accepted earlier for one of a request's blocks is still to be applied, parked writes among it. -/
def Stack.free (b : Stack) (i : Nat) (r : HomeReq) : Bool :=
  !(b.requests.take i).any (sameBlock r) && !b.parked.any fun w => sameBlock r w.req

/-- 2 µs in cycles of 1.8 GHz. -/
def youngerLimit : Nat := 3600

/-- A request of a stack that could be applied has waited 2 µs: no younger one goes before it (R36). -/
def Stack.overdue (b : Stack) (now i : Nat) : Bool :=
  (List.range i).any fun j =>
    match b.requests[j]? with
    | some r => b.free j r && decide (r.since + youngerLimit ≤ now)
    | none => false

/-- The home may serve a request that i accepted ones precede: it is awake, nothing accepted earlier holds the request's
blocks, and no older request is overdue (R344, R36). -/
def State.servable (s : State) (home i : Nat) (r : HomeReq) : Bool :=
  let b := s.base home
  b.free i r && !b.asleep && !(decide (home < 32) && b.overdue s.now i)

/-- A failed integrity check is reported to Wilzia (R364). -/
def State.checkFails (s : State) (e : HandBack) (fn b : Nat) : State :=
  if e = .integrity then { s with modl := { s.modl with notices := (5, word (256 * b)) :: (8, word fn) :: s.modl.notices } } else s

/-- A read of a device VA's block by this module that no engine sends: a fetch or a host packet's. -/
def plainRead (fn : Nat) (va : BitVec 64) : HomeReq :=
  { writer := .host fn 64 0, part := none, fn := fn, blocks := [fld va 0 48 / 256], body := .read, va := va }

/-- A read of a device VA must still wait at its home: behind a parked write or an earlier request of its block (R344,
R353), or for the stack to wake. -/
def State.readWaits (s : State) (fn : Nat) (hrt : AMap (BitVec 64 × BitVec 64)) (va : BitVec 64) : Bool :=
  match s.homeFor hrt va with
  | .error _ => false
  | .ok h => decide (h < 40) && !s.servable h (s.base h).requests.length (plainRead fn va)

end Sys2Proof.Machine
end

