-- ==== Sys2Proof/Machine/Packets.lean ====
section
/-! DEFINITION. Packets at their two ends: form and header (R374, Table 15-2), injection queues (R380), ejection (R373,
R379). -/

namespace Sys2Proof.Machine

/-- Flits of a packet with b payload bytes (R374). -/
def flitsOf (b : Nat) : Nat := 1 + (b - 16 + 31) / 32

/-- The bytes that a completion of a home carries. -/
def HomeDone.bytes (d : HomeDone) : List (BitVec 8) := d.got.flatMap Prod.snd ++ d.result

/-- The bytes that a request to a home carries. -/
def HomeReq.bytes (r : HomeReq) : List (BitVec 8) :=
  match r.body with
  | .read => []
  | .write bs => bs.map fun b => b.2.1
  | .atomic _ n _ a b => natBytes n a.toNat ++ natBytes n b.toNat

/-- The payload of a packet with a number (R374); the rest of a body travels in OPD. Of a matrix command, an FRES or FREL,
and an answer without data the spec gives no layout (log 83, DESIGN CHOICE, safe). -/
def PktBody.payload (id : Nat) : PktBody → List (BitVec 8)
  | .sendr _ _ v => natBytes 8 v.toNat
  | .xmsg _ _ _ _ _ d => d
  | .matrix .. => (List.range 32).map (Config.payload id)
  | .operand _ o | .result o .. => o.data
  | .access _ _ _ _ d | .ack _ _ _ d | .landing _ _ _ d => d
  | .fetch .. => []
  | .fetched _ _ _ got => got.flatMap Prod.snd
  | .home _ r => r.bytes
  | .homeDone d => d.bytes
  | .msgAnswer .. | .request .. | .answer .. => (List.range 8).map (Config.payload id)

/-- CLASS (Table 15-1). -/
def classCode : MsgClass → Nat
  | .request => 0
  | .response => 1
  | .fold => 2

/-- The router that holds a place of a packet. -/
def PktPlace.router : PktPlace → Nat
  | .inject r => r
  | .channel r _ _ => r
  | .eject r => r

/-- Where a packet's head is. -/
def Packet.place (p : Packet) : PktPlace :=
  match p.path with
  | h :: _ => h.place
  | [] => .eject p.dst

/-- The header's control fields (Table 15-2), with TYPE and OPD as their codes that the spec does not give (log 83, DESIGN
CHOICE, safe). -/
def Packet.header (p : Packet) : BitVec 128 :=
  BitVec.ofNat 128 (classCode p.cls * 2 ^ 126 + b2n p.wy * 2 ^ 125 + b2n p.wx * 2 ^ 124 + p.dst % 2 ^ 12 * 2 ^ 112
    + p.pid.toNat * 2 ^ 100 + p.src % 2 ^ 12 * 2 ^ 88 + p.agent % 32 * 2 ^ 83 + p.nflit % 128 * 2 ^ 76
    + (Config.operation p.id).toNat)

/-- A flit of a packet, 32 bytes from bit 0 on (R374): the first holds the control fields in bits [127:0] and 16 bytes of
payload in bits [255:128], each further one 32 bytes of payload; past its end there are zeros. -/
def Packet.flit (p : Packet) (k : Nat) : List (BitVec 8) :=
  let pay := p.body.payload p.id
  ((if k = 0 then natBytes 16 p.header.toNat ++ pay.take 16 else (pay.drop (32 * k - 16)).take 32)
    ++ List.replicate 32 0#8).take 32

/-- Whether some of a packet is still in its source's injection queue. -/
def Packet.queued (p : Packet) : Bool := p.path.any fun h => match h.place with | .inject _ => true | _ => false

/-- Packets of an agent of a cluster and class that wait in the injection queue. -/
def State.waiting (s : State) (cl agent : Nat) (cls : MsgClass) : Nat :=
  (s.net.filter fun p => p.src == cl && p.agent == agent && p.cls == cls && p.queued).length

/-- Whether an agent's injection queue has room (R380). -/
def State.canInject (s : State) (src dst agent : Nat) (cls : MsgClass) : Bool :=
  src == dst || decide (s.waiting src agent cls < 4)

/-- Cycles from issue to the head's first link, and from its last link to its delivery less one (R379). -/
def injectDelay : Nat := 3
def ejectDelay : Nat := 2

/-- Sends a packet from an agent of a cluster to another; within a cluster it does not enter the torus (R379). -/
def State.inject (s : State) (src dst agent : Nat) (cls : MsgClass) (ordered : Bool) (pid : BitVec 12)
    (body : PktBody) : State :=
  let p := s.takeId
  let n := flitsOf (body.payload p.2).length
  { p.1 with net := p.1.net ++ [
    { id := p.2, cls := cls, src := src, dst := dst, agent := agent, pid := pid, nflit := n, body := body,
      path := [{ place := if src = dst then .eject dst else .inject src, via := .eject, got := n }],
      ready := if src = dst then s.now else s.now + injectDelay, wx := false, wy := false, escape := ordered,
      ordered := ordered }] }

/-- The PID of a cluster's bound partition (R341). -/
def State.pidAt (s : State) (cl : Nat) : BitVec 12 :=
  match s.partOf cl with
  | some p => (s.part p).pid
  | none => 0#12

/-- The whole of a packet has left the network at its target. -/
def Packet.home (p : Packet) : Bool :=
  match p.path with
  | [h] => h.place == .eject p.dst
  | _ => false

/-- A packet that its target can act on, if it is there: the whole of it has been delivered, and of the ordered packets of
its source agent to this cluster none is before it (R381). -/
def State.arrived (s : State) (id : Nat) : Option Packet :=
  s.net.find? fun p => p.id == id && p.home && decide (p.ready ≤ s.now)
    && (!p.ordered || s.net.all fun q => !(q.ordered && q.src == p.src && q.agent == p.agent && q.dst == p.dst && decide (q.id < p.id)))

def State.dropPacket (s : State) (id : Nat) : State := { s with net := s.net.filter fun p => p.id != id }

/-- A write becomes known to a party. -/
def OldWrite.learn (e : OldWrite) (k : Knows) : OldWrite := if e.known.contains k then e else { e with known := k :: e.known }

/-- What is known to any of some parties becomes known to another. -/
def State.handOn (s : State) (f : Knows → Bool) (t : Knows) : State :=
  { s with olds := s.olds.map fun e => if e.known.any f then e.learn t else e }

/-- The next packet is a release from some party (Table 4-2). -/
def State.releasePacket (s : State) (source : Option Knows) : State := s.handOn (fun k => some k == source) (.packet s.nextId)

/-- The cluster whose router a home's packets enter and leave the torus at: of a stack the die on whose outer edge its link
lies, of a CXL port or a peer a die beside its I/O die (log 26, DESIGN CHOICE, safe). -/
def State.homeRouter (s : State) (home : Nat) : Nat :=
  let side (i : Nat) : Nat := 7 * i * 256 + 128 + 15 * i
  if home < 32 then home / 2 * 256 + (if home < 16 then 0 else 240) + 4 + 8 * (home % 2)
  else if home < 40 then side ((home - 32) / 4)
  else side (if (amGet? s.modl.routes (home - 40)).isSome then 0 else 1)

/-- Sends a packet, or holds it while the agent's part of the injection queue is full (R380): behind those of the agent
that are held. -/
def State.sendOrHold (s : State) (src dst agent : Nat) (cls : MsgClass) (ordered : Bool) (pid : BitVec 12)
    (body : PktBody) (source : Option Knows := none) : State :=
  let before := (s.cluster src).held.any fun h => match h with | .packet _ a k _ _ _ _ => a == agent && k == cls | _ => false
  if before || !s.canInject src dst agent cls then
    s.modCluster src fun u => { u with held := u.held ++ [.packet dst agent cls ordered pid body source] }
  else (s.releasePacket source).inject src dst agent cls ordered pid body

/-- A held packet that the injection queue now has room for enters it. -/
def State.offerPacket (s : State) (cl : Nat) : State :=
  match (s.cluster cl).held.find? fun h => match h with | .packet d a k _ _ _ _ => s.canInject cl d a k | _ => false with
  | some (.packet d a k o pid b f) =>
    ((s.modCluster cl fun u => { u with held := u.held.erase (.packet d a k o pid b f) }).releasePacket f).inject cl d a k o pid b
  | _ => s

/-- The packet of a context's access, or of its answer, that has been delivered. -/
def State.delivered (s : State) (f : PktBody → Bool) : Option Packet :=
  (s.net.find? fun p => f p.body && (s.arrived p.id).isSome)

end Sys2Proof.Machine
end

