-- ==== Sys2Proof/Machine/Record.lean ====
section
/-! DEFINITION. The context records of save areas and of parked contexts (R314, Tables 12-12 and 12-13). -/

namespace Sys2Proof.Machine

def Ctx.port (x : Ctx) (n : Nat) : Port := x.ports.get (Fin.ofNat 4 n)

/-- CSR k of a port. -/
def Port.csr (p : Port) (k : Nat) : BitVec 64 :=
  if k = 0 then p.base
  else if k ≤ 4 then p.b.get (Fin.ofNat 4 (k - 1))
  else if k ≤ 8 then p.st.get (Fin.ofNat 4 (k - 5))
  else if k = 9 then p.idx
  else if k = 10 then p.pos
  else p.ctl

/-- Words in order as bytes. -/
def wordsBytes (ws : List (BitVec 64)) : List (BitVec 8) := ws.flatMap fun w => natBytes 8 w.toNat

/-- The data of v registers, then 16 bytes for each: block side, tag, zeros. -/
def vregBytes (vs : List VReg) : List (BitVec 8) :=
  (vs.flatMap fun v => natBytes 64 v.data.toNat)
    ++ vs.flatMap fun v => wordsBytes [v.side, v.tag.setWidth 64]

/-- The status word of a control-context record. -/
def Ctx.statusWord (x : Ctx) : BitVec 64 :=
  word (b2n (x.level == .k) + b2n x.wake * 2 + b2n x.finished * 4 + b2n x.parked * 8 + min x.resume.length 8 * 16)

/-- A control-context record, 2,560 bytes (Table 12-12). -/
def Ctx.controlRecord (x : Ctx) : List (BitVec 8) :=
  wordsBytes (word (x.present.toNat / 2 * 2) :: x.x.toList.drop 1) ++ wordsBytes x.f.toList ++ vregBytes x.v.toList
    ++ wordsBytes [x.pc, x.statusWord]
    ++ wordsBytes ((List.range 8).map fun i => x.resume.getD i 0#64)
    ++ wordsBytes ([x.fcsr, x.srbase, x.obs, x.raceinfo, x.rdsplit, x.pidx, x.lbase, x.liter, x.lstat, x.bbptr, x.bbend,
        x.bbwin, x.bbcnt, x.uicause, x.uival, x.uixfer, x.tstatus, x.tcause, x.tval, x.tepc, x.tipc, x.tscratch,
        x.spos] ++ x.tdq.toList)
    ++ List.replicate 56 0#8
    ++ wordsBytes (x.ports.toList.flatMap fun p => (List.range 12).map p.csr)

/-- A helper record, 640 bytes (Table 12-13): of one that is not live only the status word. -/
def Ctx.helperRecord (x : Ctx) : List (BitVec 8) :=
  let status := wordsBytes [word (b2n x.live + b2n (x.level == .k) * 2 + b2n x.wake * 4 + b2n x.parked * 8)]
  if x.live then
    status ++ wordsBytes ((x.x.toList.take 16).drop 1) ++ wordsBytes (x.f.toList.take 8) ++ vregBytes (x.v.toList.take 4)
      ++ wordsBytes [x.pc, x.fcsr, x.srbase, x.obs, x.raceinfo, x.rdsplit, x.pidx, x.uicause, x.uival, x.uixfer,
          x.tstatus, x.tcause, x.tval, x.tepc, x.tipc, x.tscratch]
  else status ++ List.replicate 632 0#8

/-- The record of context k. -/
def Ctx.record (x : Ctx) (k : Nat) : List (BitVec 8) := if k = 0 then x.controlRecord else x.helperRecord

end Sys2Proof.Machine
end

