-- ==== Sys2Proof/Machine/Ops.lean ====
section
/-! DEFINITION. The shared operations: traps and their return (R296 to R304), the checks and the access of
on-chip memory (R51, R55, R56, R100 to R103), fetch (R19, R107, R108), and the gate that every encoded instruction passes before it acts (R30, R31, R102, R117, R132). -/

namespace Sys2Proof.Machine

/-- The outcome of a meaning. -/
abbrev Out := Host.Outcome State Fault Refusal

/-- A precise trap: its cause (Table 12-4), TVAL, RACEINFO if it is a RACE, and SPOS if a pop or push raised
it. With `post` it is no trap: the instruction needs the answer to that access first, and has no effect yet (R102). -/
structure Trap where
  cause : BitVec 8
  tval : BitVec 64
  race : Option (BitVec 64)
  spos : Option (BitVec 64)
  post : Option Access := none
  deriving DecidableEq, Repr

/-- A trap with a cause and a value alone. -/
def trap (cause : BitVec 8) (tval : BitVec 64) : Trap := { cause := cause, tval := tval, race := none, spos := none }

def cIllegal : BitVec 8 := 0x01#8
def cIllegalReg : BitVec 8 := 0x02#8
def cPriv : BitVec 8 := 0x03#8
def cAlign : BitVec 8 := 0x04#8
def cProt : BitVec 8 := 0x05#8
def cAddr : BitVec 8 := 0x06#8
def cStream : BitVec 8 := 0x07#8
def cFormat : BitVec 8 := 0x08#8
def cRace : BitVec 8 := 0x09#8
def cBarTimeout : BitVec 8 := 0x0A#8
def cPresenceTimeout : BitVec 8 := 0x0B#8
def cBarrierWord : BitVec 8 := 0x0C#8
def cBitbuf : BitVec 8 := 0x0D#8
def cDeque : BitVec 8 := 0x0E#8
def cEcall : BitVec 8 := 0x0F#8
def cEbreak : BitVec 8 := 0x10#8
def cSramUncorr : BitVec 8 := 0x11#8
def cCapability : BitVec 8 := 0x12#8

/-- What an instruction's effect comes to: a state, or a trap with the state it is taken in (the state before
the instruction, but for a long form, R184). -/
abbrev Run := Except (State × Trap) State

-- Regions and race records (R100 to R103).

/-- A synchronisation operation ends the context's region: its records are removed. -/
def State.endRegion (s : State) (c k : Nat) : State :=
  { s with races := s.races.filter fun r => !(r.core == c && r.ctx == k) }

/-- The granules a context has on record. -/
def State.recorded (s : State) (c k : Nat) : List Nat :=
  ((s.races.filter fun r => r.core == c && r.ctx == k).map RaceRec.granule).dedup

/-- One granule goes on record; the 513th distinct one of a region splits it (R103). -/
def State.addRace (s : State) (c k g : Nat) (wrote sync : Bool) : State :=
  let r : RaceRec := { granule := g, core := c, ctx := k, wrote := wrote, sync := sync }
  if s.races.contains r then s
  else
    let own := s.recorded c k
    if own.contains g || decide (own.length < 512) then { s with races := s.races ++ [r] }
    else
      let s := s.endRegion c k
      let s := s.modCtxAt c k fun x => { x with rdsplit := x.rdsplit + 1#64 }
      { s with races := s.races ++ [r] }

def State.addRaces (s : State) (c k : Nat) (wrote sync : Bool) : List Nat → State
  | [] => s
  | g :: gs => (s.addRace c k g wrote sync).addRaces c k wrote sync gs

/-- RACEINFO (Table 4-5). -/
def raceInfo (eng wr : Bool) (ctx index : Nat) : BitVec 64 :=
  word (b2n eng * 2 ^ 35 + b2n wr * 2 ^ 34 + ctx * 2 ^ 30 + index)

/-- RACEINFO for an engine operation that holds a granule IN-FLIGHT; its destination access writes. -/
def State.engInfo (s : State) (issuer : Nat) : BitVec 64 :=
  raceInfo true true 0 ((s.shape issuer).indexOf issuer)

/-- The conflicting record of another core on some granule that RACEINFO describes (R99, R101): of several, the one made
first; so too of several IN-FLIGHT holders the one that marked first (log 87, DESIGN CHOICE, unsafe). -/
def State.conflict (s : State) (c : Nat) (gs : List Nat) (wrote sync : Bool) : Option RaceRec :=
  s.races.find? fun r =>
    gs.contains r.granule && r.core != c && (wrote || r.wrote) && !(sync && r.sync)

/-- The granule checks of R56 for a core access: BARRIER_WORD, then RACE (log 52, DEDUCED, unsafe). A record of an open
region conflicts though the pair is ordered by a fork (R101; log 102, DEDUCED, unsafe). -/
def State.granuleTrap (s : State) (c : Nat) (ea : BitVec 64) (gs : List Nat) (wrote sync : Bool) : Option Trap :=
  if gs.any s.live.contains then some (trap cBarrierWord ea)
  else
    match s.inflight.find? fun p => gs.contains p.1 with
    | some p => some { trap cRace ea with race := some (s.engInfo p.2) }
    | none =>
      match s.conflict c gs wrote sync with
      | some r =>
        some { trap cRace ea with race := some (raceInfo false r.wrote r.ctx ((s.shape r.core).indexOf r.core)) }
      | none => none

-- The protection unit (R51, R52).

/-- Rights of a region, by bit of Table 2-7. -/
inductive Right where
  | r
  | w
  | x
  deriving DecidableEq, Repr

def Right.bit : Right → Nat
  | .r => 56
  | .w => 57
  | .x => 58

/-- One enabled region covers every byte with the rights (R51 step 4). -/
def regionOk (prgn : Vector (BitVec 64) 8) (m : Mesh) (size : Nat) (rights : List Right) : Bool :=
  prgn.toList.any fun p =>
    bitOf p 63 && (bitOf p 62 == (m.unit == 17)) && rights.all (fun g => bitOf p g.bit)
      && decide (fld p 32 15 * 32 ≤ m.off ∧ m.off + size ≤ (fld p 32 15 + fld p 16 16) * 32)

/-- R51 steps 1 to 4 under given regions for an access to units 0 to 17; unit 18 is refused with PROT unless
`window` (R45). -/
def State.checkIn (s : State) (prgn : Vector (BitVec 64) 8) (c : Nat) (ea : BitVec 64) (size align : Nat)
    (rights : List Right) (window : Bool) : Except Trap Mesh :=
  match resolve c ea size with
  | none => .error (trap cAddr ea)
  | some m =>
    if ea.toNat % align ≠ 0 then .error (trap cAlign ea)
    else if !(s.shape c).hasCluster m.cluster then .error (trap cProt ea)
    else if m.unit = 18 then (if window then .ok m else .error (trap cProt ea))
    else if regionOk prgn m size rights then .ok m
    else .error (trap cProt ea)

/-- R51 steps 1 to 4 under the core's regions. -/
def State.check (s : State) (c : Nat) (ea : BitVec 64) (size align : Nat) (rights : List Right)
    (window : Bool) : Except Trap Mesh := s.checkIn (s.core c).prgn c ea size align rights window

-- SRAM words with errors (R301).

/-- The first word with an uncorrectable error among the bytes of an access. -/
def State.eccWord (s : State) (key size : Nat) : Option Nat :=
  s.eccBad.find? fun w => decide (w < key + size ∧ key < w + 8)

/-- A store clears the error of every word it writes whole. -/
def clearEcc (bad : List Nat) (key size : Nat) : List Nat :=
  bad.filter fun w => !decide (key ≤ w ∧ w + 8 ≤ key + size)

-- Prefetched elements (R173).

/-- Elements kept: those before the first that read one of the granules. -/
def keepElems (gs : List Nat) : List Elem → List Elem
  | [] => []
  | e :: es => if e.granules.any gs.contains then [] else e :: keepElems gs es

/-- A store of the control context discards what its ports prefetched from the granules. -/
def Ctx.dropFetched (x : Ctx) (gs : List Nat) : Ctx :=
  { x with ports := x.ports.map fun p => { p with fifo := keepElems gs p.fifo } }

/-- An acquire, a FENCE with a nonzero mask or a barrier wait discards every prefetched element (R105). -/
def Ctx.dropAll (x : Ctx) : Ctx := { x with ports := x.ports.map fun p => { p with fifo := [] } }

def State.dropFetched (s : State) (c k : Nat) (gs : List Nat) : State :=
  if k = 0 then s.modCtxAt c 0 fun x => x.dropFetched gs else s

/-- A new region begins; in the control context every prefetched element is discarded (R100, R105). -/
def State.newRegion (s : State) (c k : Nat) : State :=
  let t := s.endRegion c k
  if k = 0 then t.modCtxAt c 0 Ctx.dropAll else t

-- Observers, reach and happens-before (R92 to R97, R104).

/-- The core observers of a mask of core a: those of its highest core bit (R92). -/
def coreObserver (mask : BitVec 8) (a b : Nat) : Bool :=
  if mask.getLsbD 3 then true
  else if mask.getLsbD 2 then dieOf a == dieOf b
  else if mask.getLsbD 1 then clusterOf a == clusterOf b
  else if mask.getLsbD 0 then quadOf a == quadOf b
  else false

/-- Whether an on-chip byte lies in the reach of a mask of a core: the union of the reaches of its bits (Table 4-4). -/
def inReach (mask : BitVec 8) (core key : Nat) : Bool :=
  let m := meshOfKey key
  mask.getLsbD 3 || mask.getLsbD 4 || mask.getLsbD 5
    || (mask.getLsbD 2 && clusterDie m.cluster == dieOf core)
    || (mask.getLsbD 1 && m.cluster == clusterOf core)
    || (mask.getLsbD 0 && m.cluster == clusterOf core && decide (1 ≤ m.unit ∧ m.unit ≤ 16)
          && (m.unit - 1) / 4 == inCluster core / 4)

/-- Two ranges of bytes meet. -/
def bytesMeet (a m b n : Nat) : Bool := decide (a < b + n ∧ b < a + m)

/-- A party begins anew and knows nothing. -/
def State.unlearn (s : State) (f : Knows → Bool) : State :=
  { s with olds := s.olds.map fun e => { e with known := e.known.filter fun t => !f t } }

/-- What a context knows, and a mask reaches from its core, becomes known to another. -/
def State.tell (s : State) (c k : Nat) (mask : BitVec 8) (target : Knows) : State :=
  { s with olds := s.olds.map fun e => if e.known.contains (.thread c k) && inReach mask c e.key then e.learn target else e }

/-- A FENCE or release of a context with COPY or MAT in its mask: every later fork of the context carries what it knows
(R94). -/
def State.forkable (s : State) (c k : Nat) (mask : BitVec 8) : State :=
  { s with olds := s.olds.map fun e =>
      if e.known.contains (.thread c k) then
        let d := if mask.getLsbD 4 then e.learn (.copied c k) else e
        if mask.getLsbD 5 then d.learn (.given c k) else d
      else e }

/-- A release of a context at a location, with its mask. -/
def State.releaseAt (s : State) (c k key n : Nat) (mask : BitVec 8) : State :=
  (s.forkable c k mask).tell c k mask (.cell key n c mask)

/-- Releases left at a location that a context reads with a mask, where each is a core observer of the other's (R93). -/
def heardBy (e : OldWrite) (c key n : Nat) (mask : BitVec 8) : List (Nat × BitVec 8) :=
  e.known.filterMap fun k =>
    match k with
    | .cell a m o w => if bytesMeet a m key n && coreObserver w o c && coreObserver mask c o then some (o, w) else none
    | _ => none

/-- An acquire of a context that reads a location. -/
def State.acquireAt (s : State) (c k key n : Nat) (mask : BitVec 8) : State :=
  { s with olds := s.olds.map fun e => if (heardBy e c key n mask).isEmpty then e else e.learn (.thread c k) }

/-- A relaxed atomic that reads a location: a FENCE makes it an acquire (R96). -/
def State.hearAt (s : State) (c k key n : Nat) : State :=
  { s with olds := s.olds.map fun e => (heardBy e c key n 0xFF#8).foldl (fun e r => e.learn (.heard c k r.1 r.2)) e }

/-- A relaxed atomic that writes a location: a FENCE before it makes it a release (R96). -/
def State.fencedAt (s : State) (c k key n : Nat) : State :=
  { s with olds := s.olds.map fun e =>
      e.known.foldl (fun e t => match t with | .fence a b w => if a = c ∧ b = k then e.learn (.cell key n c w) else e | _ => e) e }

/-- A FENCE with a nonzero mask (R96): its acquire half, then its release half, which covers what happens before the
FENCE (log 84, DEDUCED, safe). -/
def State.fenceOlds (s : State) (c k : Nat) (mask : BitVec 8) : State :=
  (({ s with olds := s.olds.map fun e =>
      if e.known.any (fun t => match t with
          | .heard a b o _ => a == c && b == k && coreObserver mask c o
          | _ => false) then e.learn (.thread c k) else e } : State).forkable c k mask).tell c k mask (.fence c k mask)

/-- A write that is no atomic breaks the chain of releases at a location (Table 4-2). -/
def State.breakChain (s : State) (key n : Nat) : State :=
  { s with olds := s.olds.map fun e =>
      { e with known := e.known.filter fun t => match t with | .cell a m _ _ => !bytesMeet a m key n | _ => true } }

/-- A write of a party replaces some bytes. -/
def State.overwritten (s : State) (writer : Option (Nat × Nat)) (t : Knows) (key n : Nat) : State :=
  { s with olds := { key := key, old := memBytes s.mem key n, known := [t], writer := writer } :: s.olds }

/-- A context's write replaces some bytes. -/
def State.replaced (s : State) (c k key n : Nat) : State := s.overwritten (some (c, k)) (.thread c k) key n

/-- The newest writes over some bytes that a read of a context need not see. -/
def State.unseen (s : State) (c k key n : Nat) : List OldWrite :=
  (s.olds.filter fun e => bytesMeet e.key e.old.length key n).takeWhile fun e => !e.known.contains (.thread c k)

/-- Bytes from a place on as they were before a write. -/
def OldWrite.undo (key : Nat) (bs : List (BitVec 8)) (e : OldWrite) : List (BitVec 8) :=
  bs.mapIdx fun i b => if e.key ≤ key + i ∧ key + i < e.key + e.old.length then e.old.getD (key + i - e.key) b else b

/-- What a plain read of at most 8 bytes by a context returns: the value of some write that no write known to the
context follows, which one is free (R97, R104). -/
def State.viewUnit (s : State) (c k key n : Nat) : State × Nat :=
  match s.unseen c k key n with
  | [] => (s, memRead s.mem key n)
  | es =>
    ({ s with fresh := s.fresh + 1 },
     bytesNat ((es.take (Config.freeNat s.fresh % (es.length + 1))).foldl (OldWrite.undo key) (memBytes s.mem key n)))

/-- What a plain read returns, 8 bytes at a time (R89, R104). -/
def State.viewFrom (s : State) (c k key n : Nat) : Nat → State × Nat
  | 0 => (s, 0)
  | f + 1 =>
    if n ≤ 8 then s.viewUnit c k key n
    else
      let a := s.viewUnit c k key 8
      let b := a.1.viewFrom c k (key + 8) (n - 8) f
      (b.1, a.2 + b.2 * 2 ^ 64)

def State.view (s : State) (c k key n : Nat) : State × Nat := s.viewFrom c k key n (n / 8 + 1)

/-- A release of Table 4-2 with the mask 0x3F, to what it pairs with (log 6, DESIGN CHOICE, unsafe). -/
def State.releaseTo (s : State) (c k : Nat) (t : Knows) : State :=
  (((s.endRegion c k).forkable c k 0x3F#8).unlearn (· == t)).tell c k 0x3F#8 t

/-- An acquire or join of Table 4-2 with the mask 0x3F, from what it pairs with (log 6, DESIGN CHOICE, unsafe). -/
def State.acquire (s : State) (c k : Nat) (f : Knows → Bool) : State := (s.newRegion c k).handOn f (.thread c k)

/-- What belongs to a context that has not started yet or has gone. -/
def Knows.ofThread (c k : Nat) : Knows → Bool
  | .thread a b | .copied a b | .given a b | .exited a b | .fence a b _ | .heard a b _ _ => a == c && b == k
  | _ => false

/-- A helper begins, with what its fork carries (R94). -/
def State.newThread (s : State) (c k : Nat) (f : Knows → Bool) : State :=
  (s.unlearn (Knows.ofThread c k)).handOn f (.thread c k)

/-- A write that a context has made itself and that lies in some places. -/
def OldWrite.ownIn (e : OldWrite) (c k : Nat) (places : List (Nat × Nat)) : Bool :=
  e.writer == some (c, k) && e.known.contains (.thread c k) && places.any fun p => bytesMeet e.key e.old.length p.1 p.2

/-- A fork of a context (R94): it carries what a FENCE or release before it covers, known as `wide`, and the context's own
earlier writes to the operands. -/
def State.forkTo (s : State) (c k : Nat) (wide : Knows) (operands : List (Nat × Nat)) (ts : List Knows) : State :=
  { s with olds := s.olds.map fun e =>
      if e.known.contains wide || e.ownIn c k operands then ts.foldl OldWrite.learn e else e }

/-- The issue of an engine operation forks it; its operands are those that it comes to read. -/
def State.forkOp (s : State) (c k entry : Nat) : State :=
  let t := s.forkTo c k (.copied c k) [] [.op c entry]
  { t with olds := t.olds.map fun e =>
      if e.writer == some (c, k) && e.known.contains (.thread c k) then e.learn (.issued c entry) else e }

/-- An engine operation reads operands. -/
def State.opReads (s : State) (c entry : Nat) (operands : List (Nat × Nat)) : State :=
  { s with olds := s.olds.map fun e =>
      if e.known.contains (.issued c entry) && operands.any fun p => bytesMeet e.key e.old.length p.1 p.2 then
        e.learn (.op c entry)
      else e }

/-- Any agent that writes on-chip bytes: they change, and errors of words written whole are cleared. -/
def State.poke (s : State) (key : Nat) (bytes : List (BitVec 8)) : State :=
  { s with mem := memPut s.mem key bytes, eccBad := clearEcc s.eccBad key bytes.length }

/-- A unit that is no core writes data, known to a party. -/
def State.lay (s : State) (t : Knows) (key : Nat) (bytes : List (BitVec 8)) : State :=
  ((s.breakChain key bytes.length).overwritten none t key bytes.length).poke key bytes

/-- A checked core read of `size` bytes at a place: granule rules, race record, value. A synchronisation access reads the
last write (R97). -/
def State.readAt (s : State) (c k : Nat) (ea : BitVec 64) (m : Mesh) (size : Nat) (sync : Bool) :
    Except Trap (State × Nat) :=
  let gs := granulesOf m.key size
  match s.granuleTrap c ea gs false sync with
  | some t => .error t
  | none =>
    match s.eccWord m.key size with
    | some w => .error (trap cSramUncorr (keyWord w))
    | none =>
      let t := s.addRaces c k false sync gs
      .ok (if sync then (t, memRead t.mem m.key size) else t.view c k m.key size)

/-- A checked core write. -/
def State.writeAt (s : State) (c k : Nat) (ea : BitVec 64) (m : Mesh) (bytes : List (BitVec 8)) (sync : Bool) :
    Except Trap State :=
  let gs := granulesOf m.key bytes.length
  match s.granuleTrap c ea gs true sync with
  | some t => .error t
  | none =>
    let t := ((s.addRaces c k true sync gs).breakChain m.key bytes.length).replaced c k m.key bytes.length
    .ok ((t.poke m.key bytes).dropFetched c k gs)

-- Parking and the end of contexts (R309, R251).

/-- A matrix command of a core has ended (R87). -/
def State.commandEnds (s : State) (c : Nat) : State :=
  s.modCore c fun k => { k with matrixOut := k.matrixOut - 1 }

/-- Clears the 32 elements of a row. -/
def clearRow (row : Nat) (ws : AMap (BitVec 32)) : AMap (BitVec 32) :=
  ws.filter fun e => !decide (row * 32 ≤ e.1 ∧ e.1 < row * 32 + 32)

/-- A row of an accumulator retires: its map bit goes, with `clear` its elements too; the last row of a drain that
has cleared every row leaves ATAG NONE (R248), and the last row of a drain ends the MDRAIN (R251). -/
def State.retireRow (s : State) (r : DrainRow) (clear : Bool) : State :=
  let q := s.quad r.quad
  let a := q.unit.accs.get (Fin.ofNat 4 r.acc)
  let rows := a.rows &&& ~~~(1#32 <<< r.row)
  let drains := q.unit.draining.map fun d => if d.1.id = r.cmd then (d.1, d.2.1 - 1, d.2.2 && clear) else d
  let done := drains.filter fun d => d.2.1 = 0
  let a' : Acc := { words := if clear then clearRow r.row a.words else a.words,
                    atag := if done.any fun d => d.1.id == r.cmd && d.2.2 then .none else a.atag, rows := rows }
  let u := { q.unit with accs := q.unit.accs.set (r.acc % 4) a' (Nat.mod_lt _ (by decide)),
                         draining := drains.filter fun d => d.2.1 ≠ 0 }
  done.foldl (fun s d => s.commandEnds d.1.core) (s.setQuad r.quad { q with unit := u })

/-- The launch id of a core's partition, 0 if it has none. -/
def State.pidOf (s : State) (c : Nat) : Nat := (s.partOf (clusterOf c)).getD 0

/-- PARK (Table 12-10): the context stops for good; a control context counts as finished with exit value 0, a
helper as free, and a row it held retires without being cleared (R309). Parking is no release: its race records stay.
Wilzia and the host are told, the host with the context record and the reason. -/
def State.park (s : State) (c k : Nat) (reason : BitVec 64) : State :=
  let x := s.ctxAt c k
  let s := match x.row with
    | some r => s.retireRow r false
    | none => s
  let s := s.modCtxAt c k fun x =>
    { x with parked := true, live := false, finished := decide (k = 0), exitValue := 0#64, row := none,
             wait := none, queue := [] }
  let s := match s.partOf (clusterOf c) with
    | some p => s.modPart p fun q => { q with parked := q.parked + 1 }
    | none => s
  { s with modl := { s.modl with
      notices := (1, reason) :: s.modl.notices,
      reports := { core := c, ctx := k, reason := reason,
                   record := ({ x with parked := true, finished := decide (k = 0) } : Ctx).record k } :: s.modl.reports } }

-- Traps (R302 to R304).

/-- TSTATUS after an entry: PL and PKTE from before, KTE 0, DQS 0, DQN. -/
def tstatusEntry (t : BitVec 64) (level : Level) (dqn : Nat) : BitVec 64 :=
  word (fld t 20 4 * 2 ^ 20 + dqn * 2 ^ 16 + b2n (bitOf t 1) * 4 + b2n (level == .k))

/-- The PCs of the deferred instructions in TDQ0 onward. -/
def setTdq (old : Vector (BitVec 64) 8) (pcs : List (BitVec 64)) : Vector (BitVec 64) 8 :=
  Vector.ofFn fun i => pcs.getD i.val (old.get i)

/-- Counts a RACE for the lifetime counters (R416) (log 70, DESIGN CHOICE, unsafe). -/
def State.countLife (s : State) (w n : Nat) : State :=
  { s with modl := { s.modl with
      lifetimeLive := amSet s.modl.lifetimeLive w (amGet 0#64 s.modl.lifetimeLive w + word n) } }

/-- TrapEntry of R302 in context k of core c: what is saved, the level and the PC; a trap at K level with KTE 0
is a double trap, which parks the context (R304). `tepc` is the PC of the trapping instruction, `defer` the
deferred ones, `tipc` where the integer pipe resumes. -/
def State.takeTrap (s : State) (c k : Nat) (t : Trap) (tepc : BitVec 64) (defer : List (BitVec 64))
    (tipc : BitVec 64) : State :=
  let x := s.ctxAt c k
  let s := if t.cause = cRace then s.countLife 128 1 else s
  let x := { x with regBad := x.regBad && !(t.cause == cSramUncorr && t.tval == 0#64), raceinfo := t.race.getD x.raceinfo, spos := t.spos.getD x.spos, wait := none, reply := none,
                    answers := [], used := 0, queue := [], qwait := none, resume := [], refetch := false }
  if x.level = .k ∧ bitOf x.tstatus 1 = false then
    let u := (s.setCtxAt c k x).park c k 0xFFFFFFFF#64
    { u with modl := { u.modl with notices := (2, word t.cause.toNat) :: (3, t.tval) :: u.modl.notices } }
  else
    s.setCtxAt c k { x with
      tstatus := tstatusEntry x.tstatus x.level defer.length, tcause := word t.cause.toNat, tval := t.tval,
      tepc := tepc, tdq := if k = 0 then setTdq x.tdq defer else x.tdq, tipc := tipc, level := .k,
      pc := (s.core c).tvec, latheHeld := decide (k = 0),
      heldBefore := if k = 0 then x.latheHeld :: x.heldBefore else x.heldBefore }

-- Fetch (R19, R107, R108).

/-- A halfword enters a cache of 16 KiB; where it is full, one that the device chooses leaves it (R18;
log 7, DESIGN CHOICE, unsafe). -/
def fillCache (cache : AMap (BitVec 16)) (pc : Nat) (h : BitVec 16) (victim : Nat) : AMap (BitVec 16) :=
  amSet (if cache.length < 8192 then cache else cache.eraseIdx (victim % 8192)) pc h

/-- One halfword at a PC for a context: through the quad's cache and the engine for a device VA, straight from SRAM
for a mesh address under the context's own copy of the regions (R310; log 51, DEDUCED, unsafe). -/
def State.fetchHalf (s : State) (c k : Nat) (pc : BitVec 64) : Except Trap (State × BitVec 16) :=
  if bitOf pc 63 then
    match amGet? (s.quad (quadOf c)).icache pc.toNat with
    | some h => .ok (s, h)
    | none =>
      let p := s.partOfCore c
      let a := fld pc 0 48
      let filled (h : BitVec 16) : State × BitVec 16 :=
        ({ s with fresh := s.fresh + 1 }.modQuad (quadOf c) fun q =>
          { q with icache := fillCache q.icache pc.toNat h (Config.freeNat s.fresh) }, h)
      if fld pc 54 9 ≠ 0 then .error (trap cProt pc)
      else
        match s.serve p.fn p.pid p.hrt pc false, s.homeFor p.hrt pc with
        | none, .ok home =>
          if 40 ≤ home then .ok (filled ((Config.freeWord s.fresh).setWidth 16))
          else if (s.blockFail home p.fn a).isSome then .error (trap cProt pc)
          else .ok (filled (BitVec.ofNat 16 (bytesNat (((s.blockBytes home p.fn (a / 256)).drop (a % 256)).take 2))))
        | _, _ => .error (trap cProt pc)
  else
    match s.checkIn (s.ctxAt c k).fetchPrgn c pc 2 1 [.x] false with
    | .error t => .error t
    | .ok m =>
      match s.eccWord m.key 2 with
      | some w => .error (trap cSramUncorr (keyWord w))
      | none => .ok (s, BitVec.ofNat 16 (memRead s.mem m.key 2))

/-- A halfword of a context's code that the cache lacks must still wait at its home. -/
def State.halfWaits (s : State) (c : Nat) (pc : BitVec 64) : Bool :=
  bitOf pc 63 && (amGet? (s.quad (quadOf c)).icache pc.toNat).isNone && fld pc 54 9 == 0
    && s.readWaits (s.partOfCore c).fn (s.partOfCore c).hrt pc

/-- A fetch of n halfwords from a PC must still wait (R344, R353). -/
def State.fetchWaits (s : State) (c : Nat) (pc : BitVec 64) (n : Nat) : Bool :=
  (List.range n).any fun i => s.halfWaits c (pc + word (2 * i))

/-- A fetch whose block fails its check is reported to Wilzia (R364). -/
def State.fetchFails (s : State) (c : Nat) (pc : BitVec 64) : State :=
  let p := s.partOfCore c
  let failed (va : BitVec 64) : Option (HandBack × Nat) :=
    match bitOf va 63, s.homeFor p.hrt va with
    | true, .ok home => if 40 ≤ home then none else (s.blockFail home p.fn (fld va 0 48)).map fun e => (e, fld va 0 48 / 256)
    | _, _ => none
  match (failed pc).or (failed (pc + 2#64)) with
  | some e => s.checkFails e.1 p.fn e.2
  | none => s

/-- The instruction at a PC; a pattern that is none decodes to the event ILLEGAL_ENCODING (R117). -/
def State.fetch (s : State) (c k : Nat) (pc : BitVec 64) : Except Trap (State × Instr) :=
  if bitOf pc 0 then .error (trap cAlign pc)
  else
    match s.fetchHalf c k pc with
    | .error t => .error t
    | .ok (s1, lo) =>
      if lo.extractLsb' 0 1 = 0#1 then
        match decodeHalves lo none with
        | .ok (i, _) => .ok (s1, i)
        | .error _ => .ok (s1, .illegalEncoding true (lo.setWidth 32))
      else
        match s1.fetchHalf c k (pc + 2#64) with
        | .error t => .error t
        | .ok (s2, hi) =>
          match decodeHalves lo (some hi) with
          | .ok (i, _) => .ok (s2, i)
          | .error _ => .ok (s2, .illegalEncoding false (hi ++ lo))

-- The gate (R30, R31, R102, R113, R130, R132).

/-- The lathe has a repetition to issue: active, and not between a trap's entry and its TRET (R179). -/
def Ctx.latheActive (x : Ctx) : Bool := bitOf x.lstat 12 && !x.latheHeld

/-- Instructions that the queue or the lathe has still to execute. -/
def Ctx.ahead (x : Ctx) : List Instr :=
  x.queue.map QEntry.ins ++ (if x.latheActive then x.body.map Prod.fst else [])

/-- Registers but x0, which carries nothing. -/
def realRegs (rs : List Reg) : List Reg := rs.filter fun r => r != .x 0

def regsMeet (a b : List Reg) : Bool := (realRegs a).any (realRegs b).contains

/-- An instruction whose fields name the register of an enabled port accesses memory (R172). -/
def Ctx.touchesPort (x : Ctx) (i : Instr) : Bool :=
  x.ports.toList.any fun p =>
    bitOf p.ctl 13 &&
      (i.uses.rd ++ i.uses.wr).contains (if bitOf p.ctl 14 then .v (fld p.ctl 15 5) else .f (fld p.ctl 15 5))

def Ctx.queueMem (x : Ctx) (i : Instr) : Bool := i.fpMem || x.touchesPort i

/-- An integer instruction waits for queued ones that write what it reads or writes or read what it writes,
and a memory access for queued memory accesses (R31, R130). -/
def Ctx.hazard (x : Ctx) (i : Instr) : Bool :=
  x.ahead.any fun q =>
    regsMeet q.uses.wr i.uses.rd || regsMeet q.uses.rd i.uses.wr || regsMeet q.uses.wr i.uses.wr
      || (i.intMem && x.queueMem q)

/-- Registers that unacknowledged accesses have still to write. -/
def Ctx.pendRegs (x : Ctx) : List Reg :=
  x.pending.flatMap fun p =>
    match p.dest with
    | .reg d _ => [rx d]
    | .pair d => rpair d
    | .none | .part => []

def Act.isWrite : Act → Bool
  | .read _ => false
  | .write _ _ | .amo .. => true

/-- The access of a synchronisation operation, which no younger access overtakes. -/
def Act.isSync : Act → Bool
  | .read sync => sync
  | .write _ sync => sync
  | .amo _ _ _ aq rl => aq || rl

/-- A load, to an x, f or v register, that pushes nothing. -/
def Ctx.loads (x : Ctx) (i : Instr) : Bool := i.isLoad || (i.fpLoad && !x.touchesPort i)

/-- The window of R102: only loads and integer instructions that write no CSR issue in it; none while a
synchronisation operation's access is in it (log 9, DESIGN CHOICE, unsafe), or an access that was refused. -/
def Ctx.windowHold (x : Ctx) (i : Instr) : Bool :=
  !x.pending.isEmpty &&
    (!(x.loads i || (!i.queued && i.cls == .none && !i.writesCsr))
      || (i.cls != .none && x.pending.any fun p => p.acc.act.isSync)
      || (x.pending.any fun p => p.acked && p.fail.isSome)
      || regsMeet x.pendRegs i.uses.rd || regsMeet x.pendRegs i.uses.wr)

/-- A FREP or FREPI waits while a repetition is active (R178), and while instructions that the lathe issued are in
the queue: a trap of one of them sets LITER and LSTAT back for its own repetition (log 71, DEDUCED, unsafe). -/
def Ctx.holdsLathe (x : Ctx) (i : Instr) : Bool :=
  match i with
  | .frep .. | .frepi .. => bitOf x.lstat 12 || x.queue.any fun e => e.lathe.isSome
  | _ => false

/-- Order of Table 6-2 and room in the queue: whether the instruction must wait before it issues. -/
def Ctx.holds (x : Ctx) (helper : Bool) (i : Instr) : Bool :=
  x.windowHold i ||
    (!helper &&
      (x.holdsLathe i || !x.resume.isEmpty || x.refetch ||
        if i.queued then
          decide (8 ≤ x.queue.length) || x.latheActive || x.queue.any fun e => e.lathe.isSome
       else
         match i.cls with
         | .drain | .serial => !x.ahead.isEmpty
         | _ => x.hazard i))

/-- What the gate says of an instruction of the context in hand. -/
inductive Gate where
  | go
  | trap (t : Trap)
  | absent (reg : Nat)
  | hold
  deriving DecidableEq, Repr

/-- The first x source whose presence bit is clear (R17). -/
def Ctx.absentReg (x : Ctx) (i : Instr) : Option Nat :=
  (i.uses.rd.filterMap fun r => match r with | .x n => some n | _ => none).find? fun n =>
    n != 0 && !x.present.toNat.testBit n

/-- ILLEGAL_REG (R113), then presence (R130), then the waits of Table 6-2. -/
def State.gate (s : State) (i : Instr) : Gate :=
  if i.illegalReg s.inHelper then .trap (trap cIllegalReg i.bits)
  else
    match (if s.inHelper then none else s.cx.absentReg i) with
    | some n => .absent n
    | none => if s.cx.holds s.inHelper i then .hold else .go

/-- Records a blocking wait; one already under way for the same thing goes on (R37, R203). -/
def State.await (s : State) (kind : WaitKind) (tval : BitVec 64) : State :=
  match s.cx.wait with
  | some w =>
    if w.kind = kind then s
    else s.modCx fun x => { x with wait := some { kind := kind, since := s.clockOf s.cur.1, tval := tval } }
  | none => s.modCx fun x => { x with wait := some { kind := kind, since := s.clockOf s.cur.1, tval := tval } }

/-- Whether older work of the context must end before a trap of the integer pipe is taken (R32, R102). -/
def Ctx.trapWaits (x : Ctx) (helper : Bool) : Bool :=
  !x.pending.isEmpty || (!helper && (!x.ahead.isEmpty || !x.resume.isEmpty || x.refetch))

/-- A trap of the instruction at the PC of the context in hand, in a state `t`: taken once older work has
ended, with TIPC = TEPC and nothing deferred (R302). -/
def State.raise (s t : State) (tr : Trap) : Out :=
  if s.cx.trapWaits s.inHelper then .next s
  else .next (t.takeTrap s.cur.1 s.cur.2 tr s.cx.pc [] s.cx.pc)

/-- Whether the core's partition stops for pre-emption, so that its queue drains but takes no trap (R312). -/
def State.stopping (s : State) (c : Nat) : Bool :=
  match s.partOf (clusterOf c) with
  | some p => (s.part p).state == .preempting && !(s.part p).halted
  | none => false

-- Accesses that leave the core (R102).

/-- The issuing core's own local memory, whose accesses leave no window (R102). -/
def ownLocal (c : Nat) (m : Mesh) : Bool := m.cluster == clusterOf c && m.unit == 1 + inCluster c

/-- A load waits for an unacknowledged store to one of its granules (R102, R149). -/
def Ctx.storeOverlap (x : Ctx) (gs : List Nat) : Bool :=
  x.pending.any fun p => p.acc.act.isWrite && (granulesOf p.acc.key p.acc.size).any gs.contains

/-- The cluster that an access goes to. -/
def Access.cluster (a : Access) : Nat := (meshOfKey a.key).cluster

/-- The payload of an access's packet, and of its answer with a value. -/
def Access.sent (a : Access) : List (BitVec 8) :=
  match a.act with
  | .read _ => []
  | .write bs _ => bs
  | .amo _ b .. => natBytes a.size b
def Access.back (a : Access) (v : Nat) : List (BitVec 8) :=
  match a.act with
  | .write .. => []
  | .read _ | .amo .. => natBytes a.size v

/-- The agent that answers for a place: the core whose local memory it is, else the engine (log 85, DEDUCED, safe). -/
def answerer (m : Mesh) : Nat := if 1 ≤ m.unit ∧ m.unit ≤ 16 then m.unit - 1 else 16

/-- An access of a context is sent: it is unacknowledged from now on, and its packet sets out (R102, R373). -/
def State.addPending (s : State) (c k : Nat) (a : Access) (dest : Dest) : State :=
  let p := s.takeId
  (p.1.modCtxAt c k fun x => { x with pending := x.pending ++
    [{ id := p.2, acc := a, dest := dest, pc0 := x.pc, x0 := x.x, present0 := x.present, held := false,
       performed := false, acked := false, value := 0, fail := none }] }).inject (clusterOf c) a.cluster (inCluster c) .request
    false (s.pidAt (clusterOf c)) (.access c k p.2 (answerer (meshOfKey a.key)) a.sent)

/-- The injection queue has room for an access of a core (R380). -/
def State.roomFor (s : State) (c : Nat) (a : Access) : Bool := s.canInject (clusterOf c) a.cluster (inCluster c) .request

/-- Whether the instruction in progress may send an access now: it has none on its way, the window and the
injection queue have room, only loads enter a window that is open, and none meets an unacknowledged store (R102). -/
def State.maySend (s : State) (c k : Nat) (a : Access) : Bool :=
  let x := s.ctxAt c k
  decide (x.pending.length < 4) && !(x.pending.any fun p => p.dest == .part)
    && (x.pending.isEmpty || !a.act.isWrite) && !x.storeOverlap (granulesOf a.key a.size) && s.roomFor c a

/-- An access of the instruction in hand, of the queue, the bit buffer or an XMSG, which takes its effect only once every access outside the
core's own local memory has been answered: with the answer at hand, or in the own local memory, the value read;
otherwise the access to send. -/
def State.access (s : State) (ea : BitVec 64) (m : Mesh) (size : Nat) (data : Option (List (BitVec 8))) :
    Except Trap (State × Nat) :=
  if ownLocal s.cur.1 m then
    match data with
    | none => s.readAt s.cur.1 s.cur.2 ea m size false
    | some bs => (s.writeAt s.cur.1 s.cur.2 ea m bs false).map fun t => (t, 0)
  else
    match s.cx.answers[s.cx.used]? with
    | some a =>
      match a.fail with
      | some f =>
        .error { trap f.1 (if f.1 = cSramUncorr then f.2 else ea) with race := if f.1 = cRace then some f.2 else none }
      | none => .ok (s.modCx fun x => { x with used := x.used + 1 }, a.value)
    | none =>
      let act : Act := match data with
        | none => .read false
        | some bs => .write bs false
      .error { trap 0#8 ea with post := some { ea := ea, key := m.key, size := size, act := act } }

/-- An instruction has completed: the answers that it used go. -/
def Ctx.answered (x : Ctx) : Ctx := { x with answers := x.answers.drop x.used, used := 0 }

/-- An instruction has trapped: no answer stays. -/
def Ctx.noAnswers (x : Ctx) : Ctx := { x with answers := [], used := 0 }

/-- The outcome of an instruction of the integer pipe or of a helper. -/
def State.finish (s : State) (r : Run) : Out :=
  match r with
  | .ok t => .next t
  | .error e => s.raise e.1 e.2

/-- Passes an instruction through the gate to its effect. -/
def gated (i : Instr) (s : State) (k : State → Out) : Out :=
  match s.gate i with
  | .go => k s
  | .trap t => s.raise s t
  | .absent n => .next (s.await (.presence n) (word n))
  | .hold => .next s

/-- An instruction whose effect is a state or a trap. -/
def gatedRun (i : Instr) (s : State) (k : State → Run) : Out := gated i s fun s => s.finish (k s)

/-- An instruction that takes its effect in order with the others, an FP or vector instruction of a helper among them: it completes once nothing older is
unacknowledged, or sends its next access, or traps. -/
def State.inOrder (s : State) (len : Nat) (r : Run) : Out :=
  match r with
  | .ok t => if s.cx.pending.isEmpty then .next ((t.modCx Ctx.answered).bump len) else .next s
  | .error (t, tr) =>
    match tr.post with
    | some a => .next (if s.maySend s.cur.1 s.cur.2 a then s.addPending s.cur.1 s.cur.2 a .part else s)
    | none => s.raise t tr

/-- An instruction whose accesses may need answers before it takes its effect (R102). -/
def gatedOrder (i : Instr) (s : State) (k : State → Run) : Out := gated i s fun s => s.inOrder i.len (k s)

/-- An FP or vector instruction: in the control context it enters the queue; in a helper it executes in order
(R31). -/
def viaQueue (i : Instr) (s : State) (k : State → Run) : Out :=
  gated i s fun s =>
    if s.inHelper then s.inOrder i.len (k s)
    else
      .next ((s.modCx fun x =>
        { x with queue := x.queue ++ [{ ins := i, pc := x.pc, lathe := none, seq := s.nextId }] }).bump i.len)

/-- An event that the device cannot take in this state. -/
def notNow (name : String) : Out := .refused (.notEnabled name)

end Sys2Proof.Machine
end

