-- ==== Sys2Proof/Machine/Alu.lean ====
section
/-! DEFINITION. Integer arithmetic, logic, bit fields and mesh addresses (R133 to R140), and their 16-bit forms
(R112). -/

namespace Sys2Proof.Machine

/-- An integer instruction that writes one value to X(rd) and goes on (R130, R133). -/
def writesX (i : Instr) (d : BitVec 5) (v : State → BitVec 64) (len : Nat) (s : State) : Out :=
  gated i s fun s => .next ((s.setX d (v s)).bump len)

-- The functions of Tables 6-3, 6-4 and 6-5.

def aluSll (a b : BitVec 64) : BitVec 64 := a <<< (b.toNat % 64)
def aluSrl (a b : BitVec 64) : BitVec 64 := a >>> (b.toNat % 64)
def aluSra (a b : BitVec 64) : BitVec 64 := a.sshiftRight (b.toNat % 64)
def aluSlt (a b : BitVec 64) : BitVec 64 := if a.toInt < b.toInt then 1#64 else 0#64
def aluSltu (a b : BitVec 64) : BitVec 64 := if a.toNat < b.toNat then 1#64 else 0#64
def aluMin (a b : BitVec 64) : BitVec 64 := if a.toInt < b.toInt then a else b
def aluMax (a b : BitVec 64) : BitVec 64 := if a.toInt < b.toInt then b else a
def aluMinu (a b : BitVec 64) : BitVec 64 := if a.toNat < b.toNat then a else b
def aluMaxu (a b : BitVec 64) : BitVec 64 := if a.toNat < b.toNat then b else a

/-- Bits [127:64] of an exact product (R135). -/
def high64 (z : Int) : BitVec 64 := BitVec.ofInt 64 (z / 2 ^ 64)
def aluMulh (a b : BitVec 64) : BitVec 64 := high64 (a.toInt * b.toInt)
def aluMulhsu (a b : BitVec 64) : BitVec 64 := high64 (a.toInt * b.toNat)
def aluMulhu (a b : BitVec 64) : BitVec 64 := high64 ((a.toNat : Int) * b.toNat)

/-- Truncated division with the corner cases of Table 6-4. -/
def aluDiv (a b : BitVec 64) : BitVec 64 :=
  if b = 0#64 then BitVec.allOnes 64 else BitVec.ofInt 64 (a.toInt.tdiv b.toInt)
def aluDivu (a b : BitVec 64) : BitVec 64 :=
  if b = 0#64 then BitVec.allOnes 64 else word (a.toNat / b.toNat)
def aluRem (a b : BitVec 64) : BitVec 64 :=
  if b = 0#64 then a else BitVec.ofInt 64 (a.toInt.tmod b.toInt)
def aluRemu (a b : BitVec 64) : BitVec 64 := if b = 0#64 then a else word (a.toNat % b.toNat)

/-- Leading zeros among the low n bits. -/
def clzFrom (a : BitVec 64) : Nat → Nat
  | 0 => 0
  | n + 1 => if bitOf a n then 0 else 1 + clzFrom a n

/-- Trailing zeros, looking at n bits from bit 64 − n on. -/
def ctzFrom (a : BitVec 64) : Nat → Nat
  | 0 => 0
  | n + 1 => if bitOf a (63 - n) then 0 else 1 + ctzFrom a n

def aluClz (a : BitVec 64) : BitVec 64 := word (clzFrom a 64)
def aluCtz (a : BitVec 64) : BitVec 64 := word (ctzFrom a 64)
def aluPopc (a : BitVec 64) : BitVec 64 := word (((List.range 64).filter fun i => bitOf a i).length)
def aluBrev (a : BitVec 64) : BitVec 64 := a.reverse

/-- SignExt(imm, 12). -/
def imm12 (i : BitVec 12) : BitVec 64 := i.signExtend 64

/-- SignExt((imm20 × 2^12)[31:0], 32). -/
def imm20 (i : BitVec 20) : BitVec 64 := ((i ++ 0#12 : BitVec 32)).signExtend 64

def execAdd (d a b : BitVec 5) (s : State) : Out := writesX (.add d a b) d (fun s => s.x a + s.x b) 4 s
def execSub (d a b : BitVec 5) (s : State) : Out := writesX (.sub d a b) d (fun s => s.x a - s.x b) 4 s
def execSll (d a b : BitVec 5) (s : State) : Out := writesX (.sll d a b) d (fun s => aluSll (s.x a) (s.x b)) 4 s
def execSlt (d a b : BitVec 5) (s : State) : Out := writesX (.slt d a b) d (fun s => aluSlt (s.x a) (s.x b)) 4 s
def execSltu (d a b : BitVec 5) (s : State) : Out := writesX (.sltu d a b) d (fun s => aluSltu (s.x a) (s.x b)) 4 s
def execXor (d a b : BitVec 5) (s : State) : Out := writesX (.xor d a b) d (fun s => s.x a ^^^ s.x b) 4 s
def execSrl (d a b : BitVec 5) (s : State) : Out := writesX (.srl d a b) d (fun s => aluSrl (s.x a) (s.x b)) 4 s
def execOr (d a b : BitVec 5) (s : State) : Out := writesX (.or d a b) d (fun s => s.x a ||| s.x b) 4 s
def execAnd (d a b : BitVec 5) (s : State) : Out := writesX (.and d a b) d (fun s => s.x a &&& s.x b) 4 s
def execSra (d a b : BitVec 5) (s : State) : Out := writesX (.sra d a b) d (fun s => aluSra (s.x a) (s.x b)) 4 s
def execMul (d a b : BitVec 5) (s : State) : Out := writesX (.mul d a b) d (fun s => s.x a * s.x b) 4 s
def execMulh (d a b : BitVec 5) (s : State) : Out := writesX (.mulh d a b) d (fun s => aluMulh (s.x a) (s.x b)) 4 s
def execMulhsu (d a b : BitVec 5) (s : State) : Out :=
  writesX (.mulhsu d a b) d (fun s => aluMulhsu (s.x a) (s.x b)) 4 s
def execMulhu (d a b : BitVec 5) (s : State) : Out := writesX (.mulhu d a b) d (fun s => aluMulhu (s.x a) (s.x b)) 4 s
def execDiv (d a b : BitVec 5) (s : State) : Out := writesX (.div d a b) d (fun s => aluDiv (s.x a) (s.x b)) 4 s
def execDivu (d a b : BitVec 5) (s : State) : Out := writesX (.divu d a b) d (fun s => aluDivu (s.x a) (s.x b)) 4 s
def execRem (d a b : BitVec 5) (s : State) : Out := writesX (.rem d a b) d (fun s => aluRem (s.x a) (s.x b)) 4 s
def execRemu (d a b : BitVec 5) (s : State) : Out := writesX (.remu d a b) d (fun s => aluRemu (s.x a) (s.x b)) 4 s
def execMin (d a b : BitVec 5) (s : State) : Out := writesX (.min d a b) d (fun s => aluMin (s.x a) (s.x b)) 4 s
def execMax (d a b : BitVec 5) (s : State) : Out := writesX (.max d a b) d (fun s => aluMax (s.x a) (s.x b)) 4 s
def execMinu (d a b : BitVec 5) (s : State) : Out := writesX (.minu d a b) d (fun s => aluMinu (s.x a) (s.x b)) 4 s
def execMaxu (d a b : BitVec 5) (s : State) : Out := writesX (.maxu d a b) d (fun s => aluMaxu (s.x a) (s.x b)) 4 s
def execClz (d a : BitVec 5) (s : State) : Out := writesX (.clz d a) d (fun s => aluClz (s.x a)) 4 s
def execCtz (d a : BitVec 5) (s : State) : Out := writesX (.ctz d a) d (fun s => aluCtz (s.x a)) 4 s
def execPopc (d a : BitVec 5) (s : State) : Out := writesX (.popc d a) d (fun s => aluPopc (s.x a)) 4 s
def execBrev (d a : BitVec 5) (s : State) : Out := writesX (.brev d a) d (fun s => aluBrev (s.x a)) 4 s
def execSextb (d a : BitVec 5) (s : State) : Out := writesX (.sextb d a) d (fun s => sext 8 (s.x a).toNat) 4 s
def execSexth (d a : BitVec 5) (s : State) : Out := writesX (.sexth d a) d (fun s => sext 16 (s.x a).toNat) 4 s
def execSextw (d a : BitVec 5) (s : State) : Out := writesX (.sextw d a) d (fun s => sext 32 (s.x a).toNat) 4 s

def execAddi (d a : BitVec 5) (i : BitVec 12) (s : State) : Out :=
  writesX (.addi d a i) d (fun s => s.x a + imm12 i) 4 s
def execSlti (d a : BitVec 5) (i : BitVec 12) (s : State) : Out :=
  writesX (.slti d a i) d (fun s => aluSlt (s.x a) (imm12 i)) 4 s
def execSltiu (d a : BitVec 5) (i : BitVec 12) (s : State) : Out :=
  writesX (.sltiu d a i) d (fun s => aluSltu (s.x a) (imm12 i)) 4 s
def execXori (d a : BitVec 5) (i : BitVec 12) (s : State) : Out :=
  writesX (.xori d a i) d (fun s => s.x a ^^^ imm12 i) 4 s
def execOri (d a : BitVec 5) (i : BitVec 12) (s : State) : Out :=
  writesX (.ori d a i) d (fun s => s.x a ||| imm12 i) 4 s
def execAndi (d a : BitVec 5) (i : BitVec 12) (s : State) : Out :=
  writesX (.andi d a i) d (fun s => s.x a &&& imm12 i) 4 s
def execSlli (d a : BitVec 5) (h : BitVec 6) (s : State) : Out :=
  writesX (.slli d a h) d (fun s => s.x a <<< h.toNat) 4 s
def execSrli (d a : BitVec 5) (h : BitVec 6) (s : State) : Out :=
  writesX (.srli d a h) d (fun s => s.x a >>> h.toNat) 4 s
def execSrai (d a : BitVec 5) (h : BitVec 6) (s : State) : Out :=
  writesX (.srai d a h) d (fun s => (s.x a).sshiftRight h.toNat) 4 s

/-- LIH (R134). -/
def execLih (d : BitVec 5) (i : BitVec 20) (s : State) : Out := writesX (.lih d i) d (fun _ => imm20 i) 4 s
/-- ADDPC (R134): PC is the address of the ADDPC. -/
def execAddpc (d : BitVec 5) (i : BitVec 20) (s : State) : Out :=
  writesX (.addpc d i) d (fun s => s.cx.pc + imm20 i) 4 s

/-- Bits [pos + len − 1 : pos], zero-extended (R138). -/
def bfxVal (a : BitVec 64) (pos len : Nat) : BitVec 64 := word (fld a pos len)

/-- The low len bits of a placed at pos of the old value (R138). -/
def bfiVal (old a : BitVec 64) (pos len : Nat) : BitVec 64 :=
  let m := word ((2 ^ len - 1) * 2 ^ pos)
  (old &&& ~~~m) ||| (word (fld a 0 len * 2 ^ pos) &&& m)

/-- BFX (R138): the field l holds len − 1. -/
def execBfx (d a : BitVec 5) (l p : BitVec 6) (s : State) : Out :=
  writesX (.bfx d a l p) d (fun s => bfxVal (s.x a) p.toNat (l.toNat + 1)) 4 s
/-- BFI (R138). -/
def execBfi (d a : BitVec 5) (l p : BitVec 6) (s : State) : Out :=
  writesX (.bfi d a l p) d (fun s => bfiVal (s.x d) (s.x a) p.toNat (l.toNat + 1)) 4 s

/-- The address that MKADDR builds, or the value of its ADDR trap (R139). -/
def mkaddrVal (core : Nat) (sel off : BitVec 64) : Except (BitVec 64) (BitVec 64) :=
  if fld sel 23 41 ≠ 0 then .error sel
  else if fld off 29 35 ≠ 0 then .error off
  else
    let t := word (fld sel 21 2 * 2 ^ 46 + fld sel 4 12 * 2 ^ 34 + fld sel 16 5 * 2 ^ 29 + off.toNat)
    if (resolve core t 1).isNone then .error t else .ok t

/-- The address that ABSADDR writes, or none for its ADDR trap (R140). -/
def absaddrVal (core : Nat) (t : BitVec 64) : Option (BitVec 64) :=
  if bitOf t 63 then some t
  else (resolve core t 1).map fun m => keyWord m.key

/-- MKADDR (R139). -/
def execMkaddr (d a b : BitVec 5) (s : State) : Out :=
  gatedRun (.mkaddr d a b) s fun s =>
    match mkaddrVal s.cur.1 (s.x a) (s.x b) with
    | .ok v => .ok ((s.setX d v).bump 4)
    | .error v => .error (s, trap cAddr v)

/-- ABSADDR (R140). -/
def execAbsaddr (d a : BitVec 5) (s : State) : Out :=
  gatedRun (.absaddr d a) s fun s =>
    match absaddrVal s.cur.1 (s.x a) with
    | some v => .ok ((s.setX d v).bump 4)
    | none => .error (s, trap cAddr (s.x a))

def execAdd16 (d b : BitVec 5) (s : State) : Out := writesX (.add16 d b) d (fun s => s.x d + s.x b) 2 s
def execSub16 (d b : BitVec 5) (s : State) : Out := writesX (.sub16 d b) d (fun s => s.x d - s.x b) 2 s
def execAnd16 (d b : BitVec 5) (s : State) : Out := writesX (.and16 d b) d (fun s => s.x d &&& s.x b) 2 s
def execOr16 (d b : BitVec 5) (s : State) : Out := writesX (.or16 d b) d (fun s => s.x d ||| s.x b) 2 s
def execXor16 (d b : BitVec 5) (s : State) : Out := writesX (.xor16 d b) d (fun s => s.x d ^^^ s.x b) 2 s
def execSll16 (d b : BitVec 5) (s : State) : Out := writesX (.sll16 d b) d (fun s => aluSll (s.x d) (s.x b)) 2 s
def execSrl16 (d b : BitVec 5) (s : State) : Out := writesX (.srl16 d b) d (fun s => aluSrl (s.x d) (s.x b)) 2 s
def execMv16 (d b : BitVec 5) (s : State) : Out := writesX (.mv16 d b) d (fun s => s.x b) 2 s
def execAddi16 (d i : BitVec 5) (s : State) : Out := writesX (.addi16 d i) d (fun s => s.x d + i.signExtend 64) 2 s

end Sys2Proof.Machine
end

