-- ==== Sys2Proof/Machine/Flags.lean ====
section
/-! DEFINITION. Number formats, exact values, rounding and the flags that they raise (03_formats.md, R64 to
R86). Every arithmetic unit of the machine, scalar, vector, engine, matrix and fold, uses these functions;
the flags they answer reach an FCSR only where R73 says so. -/

namespace Sys2Proof.Machine

/-- The five sticky flags in the order of FCSR bits [4:0] (Table 3-6): NV, DZ, OF, UF, NX. -/
abbrev Flg := BitVec 5

def flgNV : Flg := 16#5
def flgDZ : Flg := 8#5
def flgOF : Flg := 4#5
def flgUF : Flg := 2#5
def flgNX : Flg := 1#5

/-- What the top exponent of a format means (Table 3-2). -/
inductive FmtKind where
  /-- Infinities and NaNs as FP64. -/
  | ieee
  /-- E4M3: no infinity, one NaN code per sign. -/
  | e4m3
  /-- E2M1: neither. -/
  | e2m1
  deriving DecidableEq, Repr

/-- A floating-point format (R65, Table 3-2): its width, the width p of its fraction, its bias. -/
structure Fmt where
  w : Nat
  p : Nat
  bias : Nat
  kind : FmtKind
  deriving DecidableEq, Repr

def fp64 : Fmt := { w := 64, p := 52, bias := 1023, kind := .ieee }
def fp32 : Fmt := { w := 32, p := 23, bias := 127, kind := .ieee }
def fp16 : Fmt := { w := 16, p := 10, bias := 15, kind := .ieee }
def bf16 : Fmt := { w := 16, p := 7, bias := 127, kind := .ieee }
def e5m2 : Fmt := { w := 8, p := 2, bias := 15, kind := .ieee }
def e4m3 : Fmt := { w := 8, p := 3, bias := 7, kind := .e4m3 }
def e2m1 : Fmt := { w := 4, p := 1, bias := 1, kind := .e2m1 }

/-- All ones in the exponent field. -/
def Fmt.emax (f : Fmt) : Nat := 2 ^ (f.w - 1 - f.p) - 1

/-- The code of the largest finite magnitude (Table 3-2). -/
def Fmt.maxCode (f : Fmt) : Nat :=
  match f.kind with
  | .ieee => f.emax * 2 ^ f.p - 1
  | .e4m3 => 126
  | .e2m1 => 7

/-- What an overflow to infinity delivers, without its sign: infinity, or the NaN code of E4M3
(Table 3-9); E2M1 has neither and keeps its largest value. -/
def Fmt.infCode (f : Fmt) : Nat :=
  match f.kind with
  | .ieee => f.emax * 2 ^ f.p
  | .e4m3 => 127
  | .e2m1 => 7

/-- The canonical NaN (R66). -/
def Fmt.nanCode (f : Fmt) : Nat :=
  match f.kind with
  | .ieee => f.emax * 2 ^ f.p + 2 ^ (f.p - 1)
  | .e4m3 => 127
  | .e2m1 => 0

/-- The sign bit at its place. -/
def Fmt.signBit (f : Fmt) (neg : Bool) : Nat := if neg then 2 ^ (f.w - 1) else 0

/-- The value of a code, held exactly: (−1)^neg × man × 2^exp, and where `sticky` is set a further
magnitude strictly between 0 and 2^exp, which division and roots leave. -/
inductive Num where
  | nan (signalling : Bool)
  | inf (neg : Bool)
  | fin (neg : Bool) (man : Nat) (exp : Int) (sticky : Bool)
  deriving DecidableEq, Repr

/-- Plus zero. -/
def Num.zero : Num := .fin false 0 0 false

/-- A value without a remainder. -/
def Num.mk' (neg : Bool) (man : Nat) (exp : Int) : Num := .fin neg man exp false

/-- An integer as an exact value. -/
def Num.ofInt (z : Int) : Num := .fin (decide (z < 0)) z.natAbs 0 false

def Num.isNan : Num → Bool
  | .nan _ => true
  | _ => false

def Num.isInf : Num → Bool
  | .inf _ => true
  | _ => false

def Num.isZero : Num → Bool
  | .fin _ 0 _ false => true
  | _ => false

def Num.isNeg : Num → Bool
  | .nan _ => false
  | .inf n => n
  | .fin n _ _ _ => n

def Num.neg : Num → Num
  | .nan s => .nan s
  | .inf n => .inf (!n)
  | .fin n m e k => .fin (!n) m e k

def Num.abs : Num → Num
  | .nan s => .nan s
  | .inf _ => .inf false
  | .fin _ m e k => .fin false m e k

/-- NV for a signalling NaN (R66). -/
def Num.sigFlag : Num → Flg
  | .nan true => flgNV
  | _ => 0#5

/-- Times a power of two. -/
def Num.scale (k : Int) : Num → Num
  | .nan s => .nan s
  | .inf n => .inf n
  | .fin n m e t => .fin n m (e + k) t

/-- The value of a code (R65). NaNs of the 8-bit formats are quiet (R66). -/
def Fmt.decode (f : Fmt) (bits : Nat) : Num :=
  let neg := bits.testBit (f.w - 1)
  let mag := bits % 2 ^ (f.w - 1)
  let e := mag / 2 ^ f.p
  let fr := mag % 2 ^ f.p
  let plain := if e = 0 then Num.mk' neg fr (1 - (f.bias : Int) - f.p)
    else Num.mk' neg (2 ^ f.p + fr) ((e : Int) - f.bias - f.p)
  match f.kind with
  | .ieee =>
    if e = f.emax then
      if fr = 0 then .inf neg else .nan (f.w != 8 && !fr.testBit (f.p - 1))
    else plain
  | .e4m3 => if mag = 127 then .nan false else plain
  | .e2m1 => plain

/-- A rounding: its mode (Table 3-7), SRSEED and the logical index J of R76. -/
structure Rnd where
  mode : BitVec 3
  seed : BitVec 64
  j : BitVec 64
  deriving DecidableEq, Repr

/-- RNE, whatever the context holds. -/
def Rnd.rne : Rnd := { mode := 0#3, seed := 0#64, j := 0#64 }

/-- The same rounding for the element whose logical index is k further on. -/
def Rnd.at (r : Rnd) (k : Nat) : Rnd := { r with j := r.j + BitVec.ofNat 64 k }

def Rnd.isRDN (r : Rnd) : Bool := r.mode == 2#3

/-- The mix of seed and index of R76. -/
def srHash (seed j : BitVec 64) : BitVec 64 :=
  let z := seed ^^^ (j * 0x9E3779B97F4A7C15#64)
  let z := (z ^^^ (z >>> 30)) * 0xBF58476D1CE4E5B9#64
  let z := (z ^^^ (z >>> 27)) * 0x94D049BB133111EB#64
  z ^^^ (z >>> 31)

/-- A magnitude in whole steps of a grid, and whether rounding lost anything. -/
structure Steps where
  n : Nat
  inexact : Bool
  deriving DecidableEq, Repr

/-- One rounding of the magnitude man × 2^exp (plus a remainder if sticky) onto multiples of 2^q, by Table
3-7 and R76. -/
def roundSteps (r : Rnd) (neg : Bool) (man : Nat) (exp : Int) (sticky : Bool) (q : Int) : Steps :=
  if q ≤ exp then
    let lo := man * 2 ^ (exp - q).toNat
    let up := sticky && ((r.mode == 2#3 && neg) || (r.mode == 3#3 && !neg))
    { n := if up then lo + 1 else lo, inexact := sticky }
  else
    let k := (q - exp).toNat
    let lo := man / 2 ^ k
    let rem := man % 2 ^ k
    let half := 2 ^ (k - 1)
    let inexact := rem != 0 || sticky
    let up :=
      match r.mode.toNat with
      | 0 => decide (half < rem) || (rem == half && (sticky || lo % 2 == 1))
      | 1 => false
      | 2 => neg && inexact
      | 3 => !neg && inexact
      | 4 => decide (half ≤ rem)
      | _ => inexact && decide (((srHash r.seed r.j) >>> 32).toNat < rem * 2 ^ 32 / 2 ^ k)
    { n := if up then lo + 1 else lo, inexact := inexact }

/-- A code with the flags that making it raised. -/
structure Res where
  code : Nat
  fl : Flg
  deriving DecidableEq, Repr

/-- The exponent of the leading one of man × 2^exp. -/
def leadExp (man : Nat) (exp : Int) : Int := exp + (man.log2 : Int)

/-- One rounding of a value into a format (R74, R77, the float rows of Table 3-9): subnormals kept, overflow
and tininess by R74, and saturation as `sat` says. -/
def roundTo (f : Fmt) (sat : Bool) (r : Rnd) (x : Num) : Res :=
  match x with
  | .nan s => { code := f.nanCode, fl := if s then flgNV else 0#5 }
  | .inf neg => { code := f.signBit neg + (if sat then f.maxCode else f.infCode), fl := 0#5 }
  | .fin neg man exp sticky =>
    if man = 0 && !sticky then { code := f.signBit neg, fl := 0#5 }
    else
      let emin : Int := 1 - (f.bias : Int)
      let e := leadExp man exp
      let q := max e emin - f.p
      let st := roundSteps r neg man exp sticky q
      let code := st.n + (q - (emin - f.p)).toNat * 2 ^ f.p
      if f.maxCode < code then
        let toMax := sat || r.mode == 1#3 || (r.mode == 2#3 && !neg) || (r.mode == 3#3 && neg)
        { code := f.signBit neg + (if toMax then f.maxCode else f.infCode), fl := flgOF ||| flgNX }
      else
        let un := roundSteps r neg man exp sticky (e - f.p)
        let tiny :=
          if r.mode == 5#3 then decide (e < emin)
          else decide (e < emin) && decide (un.n < 2 ^ (emin - (e - f.p)).toNat)
        let fl := if st.inexact then (if tiny then flgUF ||| flgNX else flgNX) else 0#5
        { code := f.signBit neg + code, fl := fl }

/-- An integer type as the destination of a conversion: its width and whether it is signed (Table 3-1). -/
structure IntTy where
  w : Nat
  signed : Bool
  deriving DecidableEq, Repr

def IntTy.lo (t : IntTy) : Int := if t.signed then -(2 ^ (t.w - 1) : Int) else 0
def IntTy.hi (t : IntTy) : Int := if t.signed then 2 ^ (t.w - 1) - 1 else 2 ^ t.w - 1

/-- The low bits of an integer. -/
def IntTy.wrap (t : IntTy) (z : Int) : Nat := (z % (2 ^ t.w : Int)).toNat

/-- The value of a code of an integer type. -/
def IntTy.value (t : IntTy) (code : Nat) : Int :=
  if t.signed && code.testBit (t.w - 1) then (code : Int) - 2 ^ t.w else code

/-- The nearer end of the range. -/
def IntTy.clamp (t : IntTy) (z : Int) : Int := max t.lo (min t.hi z)

/-- Float to integer (Table 3-9). -/
def toInt (t : IntTy) (sat : Bool) (r : Rnd) (x : Num) : Res :=
  match x with
  | .nan _ => { code := if sat then 0 else t.wrap t.lo, fl := flgNV }
  | .inf neg =>
    { code := t.wrap (if sat then (if neg then t.lo else t.hi) else t.lo), fl := flgNV }
  | .fin neg man exp sticky =>
    let st := roundSteps r neg man exp sticky 0
    let z : Int := if neg then -(st.n : Int) else st.n
    if t.lo ≤ z ∧ z ≤ t.hi then { code := t.wrap z, fl := if st.inexact then flgNX else 0#5 }
    else { code := t.wrap (if sat then t.clamp z else t.lo), fl := flgNV }

/-- Integer to integer (Table 3-9). -/
def intToInt (t : IntTy) (sat : Bool) (z : Int) : Res :=
  if t.lo ≤ z ∧ z ≤ t.hi then { code := t.wrap z, fl := 0#5 }
  else if sat then { code := t.wrap (t.clamp z), fl := flgNV }
  else { code := t.wrap z, fl := 0#5 }

/-- A value with the flags that forming it raised. -/
structure Val where
  v : Num
  fl : Flg
  deriving DecidableEq, Repr

/-- The signed mantissa at a common, lower exponent. -/
def alignTo (neg : Bool) (man : Nat) (exp low : Int) : Int :=
  let m : Int := (man * 2 ^ (exp - low).toNat : Nat)
  if neg then -m else m

/-- The exact sum of two values (Table 6-7, R74): x − x is +0, but −0 in RDN. -/
def addNum (rdn : Bool) (a b : Num) : Val :=
  match a, b with
  | .nan s, y => { v := .nan false, fl := (if s then flgNV else 0#5) ||| y.sigFlag }
  | x, .nan s => { v := .nan false, fl := (if s then flgNV else 0#5) ||| x.sigFlag }
  | .inf n, .inf m => if n == m then { v := .inf n, fl := 0#5 } else { v := .nan false, fl := flgNV }
  | .inf n, _ => { v := .inf n, fl := 0#5 }
  | _, .inf m => { v := .inf m, fl := 0#5 }
  | .fin n1 m1 e1 _, .fin n2 m2 e2 _ =>
    let low := min e1 e2
    let z := alignTo n1 m1 e1 low + alignTo n2 m2 e2 low
    if z = 0 then
      { v := .fin (if n1 == n2 && m1 == 0 then n1 else rdn) 0 0 false, fl := 0#5 }
    else { v := .fin (decide (z < 0)) z.natAbs low false, fl := 0#5 }

/-- The exact product (Table 6-7). -/
def mulNum (a b : Num) : Val :=
  match a, b with
  | .nan s, y => { v := .nan false, fl := (if s then flgNV else 0#5) ||| y.sigFlag }
  | x, .nan s => { v := .nan false, fl := (if s then flgNV else 0#5) ||| x.sigFlag }
  | .inf n, y => if y.isZero then { v := .nan false, fl := flgNV } else { v := .inf (n != y.isNeg), fl := 0#5 }
  | x, .inf m => if x.isZero then { v := .nan false, fl := flgNV } else { v := .inf (x.isNeg != m), fl := 0#5 }
  | .fin n1 m1 e1 _, .fin n2 m2 e2 _ => { v := .fin (n1 != n2) (m1 * m2) (e1 + e2) false, fl := 0#5 }

/-- The exact a × b + c (R153): 0 × ∞ gives NaN and NV whatever c is. -/
def fmaNum (rdn : Bool) (a b c : Num) : Val :=
  let p := mulNum a b
  let s := addNum rdn p.v c
  { v := s.v, fl := p.fl ||| s.fl }

/-- The quotient, exact up to a remainder far below any format (Table 6-7). -/
def divNum (a b : Num) : Val :=
  match a, b with
  | .nan s, y => { v := .nan false, fl := (if s then flgNV else 0#5) ||| y.sigFlag }
  | x, .nan s => { v := .nan false, fl := (if s then flgNV else 0#5) ||| x.sigFlag }
  | .inf _, .inf _ => { v := .nan false, fl := flgNV }
  | .inf n, y => { v := .inf (n != y.isNeg), fl := 0#5 }
  | x, .inf m => { v := .fin (x.isNeg != m) 0 0 false, fl := 0#5 }
  | .fin n1 m1 e1 _, .fin n2 m2 e2 _ =>
    if m2 = 0 then
      if m1 = 0 then { v := .nan false, fl := flgNV } else { v := .inf (n1 != n2), fl := flgDZ }
    else if m1 = 0 then { v := .fin (n1 != n2) 0 0 false, fl := 0#5 }
    else
      let k := 130 + m2.log2
      let q := m1 * 2 ^ k / m2
      { v := .fin (n1 != n2) q (e1 - e2 - k) (decide (q * m2 ≠ m1 * 2 ^ k)), fl := 0#5 }

/-- Newton's iteration for the integer square root, at most `fuel` times. -/
def isqrtLoop : Nat → Nat → Nat → Nat
  | 0, _, r => r
  | fuel + 1, n, r =>
    let r' := (r + n / r) / 2
    if r ≤ r' then r else isqrtLoop fuel n r'

/-- The integer square root. -/
def isqrt (n : Nat) : Nat := if n = 0 then 0 else isqrtLoop 300 n (2 ^ (n.log2 / 2 + 1))

/-- The square root, exact up to a remainder (Table 6-7). -/
def sqrtNum (a : Num) : Val :=
  match a with
  | .nan s => { v := .nan false, fl := if s then flgNV else 0#5 }
  | .inf true => { v := .nan false, fl := flgNV }
  | .inf false => { v := .inf false, fl := 0#5 }
  | .fin neg man exp _ =>
    if man = 0 then { v := .fin neg 0 0 false, fl := 0#5 }
    else if neg then { v := .nan false, fl := flgNV }
    else
      let man := if exp % 2 = 0 then man else man * 2
      let exp := if exp % 2 = 0 then exp else exp - 1
      let n := man * 2 ^ 260
      let s := isqrt n
      { v := .fin false s (exp / 2 - 130) (decide (s * s ≠ n)), fl := 0#5 }

/-- |a| ≤ |b| of finite values. -/
def leMag (m1 : Nat) (e1 : Int) (m2 : Nat) (e2 : Int) : Bool :=
  let low := min e1 e2
  decide (m1 * 2 ^ (e1 - low).toNat ≤ m2 * 2 ^ (e2 - low).toNat)

/-- a < b by value, with −0 = +0; not for NaN. -/
def ltNum (a b : Num) : Bool :=
  match a, b with
  | .nan _, _ => false
  | _, .nan _ => false
  | .inf n, .inf m => n && !m
  | .inf n, _ => n
  | _, .inf m => !m
  | .fin n1 m1 e1 _, .fin n2 m2 e2 _ =>
    let low := min e1 e2
    decide (alignTo n1 m1 e1 low < alignTo n2 m2 e2 low)

/-- a = b by value, with −0 = +0; not for NaN. -/
def eqNum (a b : Num) : Bool := !a.isNan && !b.isNan && !ltNum a b && !ltNum b a

/-- R83: −0 is below +0, and a NaN operand yields NaN. -/
def minNum (a b : Num) : Val :=
  let fl := a.sigFlag ||| b.sigFlag
  if a.isNan || b.isNan then { v := .nan false, fl := fl }
  else if ltNum a b then { v := a, fl := fl }
  else if ltNum b a then { v := b, fl := fl }
  else { v := if a.isNeg then a else b, fl := fl }

/-- R83 for the maximum. -/
def maxNum (a b : Num) : Val :=
  let fl := a.sigFlag ||| b.sigFlag
  if a.isNan || b.isNan then { v := .nan false, fl := fl }
  else if ltNum a b then { v := b, fl := fl }
  else if ltNum b a then { v := a, fl := fl }
  else { v := if a.isNeg then b else a, fl := fl }

/-- Rounds a value formed with flags. -/
def Val.round (f : Fmt) (r : Rnd) (x : Val) : Res :=
  let y := roundTo f false r x.v
  { code := y.code, fl := x.fl ||| y.fl }

/-- ExactSum of R81: NaN and infinities first; an exact zero is −0 only if every term is −0, or in RDN. A quiet NaN beside
infinities of both signs raises no NV (log 101, DEDUCED, unsafe). -/
def exactSum (rdn : Bool) (ts : List Num) : Val :=
  let sig := ts.foldl (fun f t => f ||| t.sigFlag) (0#5)
  if ts.any Num.isNan then { v := .nan false, fl := sig }
  else
    let pos := ts.any (fun t => t.isInf && !t.isNeg)
    let negI := ts.any (fun t => t.isInf && t.isNeg)
    if pos && negI then { v := .nan false, fl := flgNV }
    else if pos then { v := .inf false, fl := 0#5 }
    else if negI then { v := .inf true, fl := 0#5 }
    else
      let low := ts.foldl (fun l t => match t with | .fin _ _ e _ => min l e | _ => l) (0 : Int)
      let z := ts.foldl (fun a t => match t with | .fin n m e _ => a + alignTo n m e low | _ => a) (0 : Int)
      if z = 0 then
        let allNeg := ts.all (fun t => t.isZero && t.isNeg)
        { v := .fin (allNeg || rdn) 0 0 false, fl := 0#5 }
      else { v := .fin (decide (z < 0)) z.natAbs low false, fl := 0#5 }

/-- The exact products of two rows of values and the flags of 0 × ∞ among them. -/
def products (as bs : List Num) : List Num × Flg :=
  let ps := List.zipWith mulNum as bs
  (ps.map Val.v, ps.foldl (fun f p => f ||| p.fl) (0#5))

/-- One level of the tree of R82. -/
def treeLevel (op : Nat → Num → Num → Val × Num) : Nat → List Num → List Num × Flg × Nat
  | k, a :: b :: rest =>
    let n := op k a b
    let t := treeLevel op (k + 1) rest
    (n.2 :: t.1, n.1.fl ||| t.2.1, t.2.2)
  | k, [a] => ([a], 0#5, k)
  | k, [] => ([], 0#5, k)

/-- The pairwise tree of R82 over at most 2^fuel values; `op k` is node k. -/
def tree (op : Nat → Num → Num → Val × Num) : Nat → Nat → List Num → Num × Flg
  | _, _, [a] => (a, 0#5)
  | _, _, [] => (.zero, 0#5)
  | 0, _, a :: _ => (a, 0#5)
  | fuel + 1, k, ts =>
    let l := treeLevel op k ts
    let u := tree op fuel l.2.2 l.1
    (u.1, l.2.1 ||| u.2)

/-- A node of an adding tree: the sum rounded into the accumulator format. -/
def addNode (f : Fmt) (r : Rnd) (k : Nat) (a b : Num) : Val × Num :=
  let s := addNum r.isRDN a b
  let y := s.round f (r.at k)
  ({ v := s.v, fl := y.fl }, f.decode y.code)

/-- The special value of E2M1 code 8 and the scale of a block applied to a decoded element (R70). No E2M1 element is −0
(R67): a SPEC of 0x80, whose E4M3 value is −0, makes code 8 the value +0 (log 88, DEDUCED, unsafe). -/
def scaledValue (f : Fmt) (code scale spec : Nat) : Num :=
  if scale = 255 then .nan false
  else
    let v := if f.kind = .e2m1 && code == 8 then (if spec = 128 then Num.zero else e4m3.decode spec) else f.decode code
    v.scale ((scale : Int) - 127)

/-- The largest finite magnitude of a format as mantissa and exponent. -/
def Fmt.maxMag (f : Fmt) : Nat × Int :=
  match f.decode f.maxCode with
  | .fin _ m e _ => (m, e)
  | _ => (0, 0)

/-- The smallest integer e with m ≤ MAXF × 2^e (Table 3-10), for m = man × 2^exp > 0. -/
def scaleExp (maxF : Nat × Int) (man : Nat) (exp : Int) : Int :=
  let e0 := leadExp man exp - leadExp maxF.1 maxF.2
  if leMag man exp maxF.1 (maxF.2 + e0) then e0 else e0 + 1

/-- A quantised block: 32 codes, the scale, the special value and the flags. -/
structure QBlock where
  codes : List Nat
  scale : Nat
  spec : Nat
  fl : Flg
  deriving DecidableEq, Repr

/-- The magnitude of a finite value. -/
def Num.mag : Num → Nat × Int
  | .fin _ m e _ => (m, e)
  | _ => (0, 0)

/-- The element of largest magnitude and its index; the lowest index among equals (R79). -/
def maxMagAt : List Num → Nat → Nat × (Nat × Int) → Nat × (Nat × Int)
  | [], _, best => best
  | x :: xs, i, best =>
    let m := x.mag
    maxMagAt xs (i + 1) (if leMag m.1 m.2 best.2.1 best.2.2 then best else (i, m))

/-- UF, set when the scale would lie below 2^−127 (Table 3-10, third row). -/
def clampFlag (e : Int) : Flg := if e < -127 then flgUF else 0#5

/-- Quantisation of one block (R78, R79). `r` gives the rounding of each element. No element becomes −0, the special one
neither (R67; log 88, DEDUCED, unsafe). -/
def quantBlock (f : Fmt) (r : Nat → Rnd) (xs : List Num) : QBlock :=
  let n := xs.length
  let sig := xs.foldl (fun a x => a ||| x.sigFlag) (0#5)
  if xs.any (fun x => x.isNan || x.isInf) then
    { codes := List.replicate n 0, scale := 255, spec := 0, fl := sig }
  else
    let best := maxMagAt xs 0 (0, (0, 0))
    if best.2.1 = 0 then { codes := List.replicate n 0, scale := 127, spec := 0, fl := 0#5 }
    else if f.kind = .e2m1 then
      let s := best.1
      let others := xs.mapIdx (fun i x => if i = s then Num.zero else x)
      let m2 := (maxMagAt others 0 (0, (0, 0))).2
      let e := if m2.1 = 0 then scaleExp e4m3.maxMag best.2.1 best.2.2 else scaleExp e2m1.maxMag m2.1 m2.2
      let uf := clampFlag e
      let e := max e (-127)
      let sp := roundTo e4m3 true (r s) ((xs.getD s .zero).scale (-e))
      let rs := xs.mapIdx (fun i x => roundTo e2m1 true (r i) (x.scale (-e)))
      { codes := rs.mapIdx (fun i y => if i = s then 8 else if y.code % 8 = 0 then 0 else y.code),
        scale := (e + 127).toNat, spec := if sp.code = 128 then 0 else sp.code,
        fl := (rs.mapIdx (fun i y => if i = s then 0#5 else y.fl)).foldl (fun a b => a ||| b) (sp.fl ||| uf) }
    else
      let e := scaleExp f.maxMag best.2.1 best.2.2
      let uf := clampFlag e
      let e := max e (-127)
      let rs := xs.mapIdx (fun i x => roundTo f true (r i) (x.scale (-e)))
      { codes := rs.map Res.code, scale := (e + 127).toNat, spec := 0,
        fl := rs.foldl (fun a y => a ||| y.fl) uf }

/-- The constants 2^(2^−i), i = 1 to 64, scaled by 2^192, by repeated square roots. -/
def exp2Roots : Nat → Nat → List Nat
  | 0, _ => []
  | n + 1, c =>
    let r := isqrt (c * 2 ^ 192)
    r :: exp2Roots n r

/-- The product of the roots that the bits of a fraction select; bit k − 1 of `frac` selects the first. -/
def exp2Prod : List Nat → Nat → Nat → Nat → Nat
  | [], _, _, acc => acc
  | c :: cs, frac, k, acc =>
    exp2Prod cs frac (k - 1) (if k ≥ 1 && frac.testBit (k - 1) then acc * c / 2 ^ 192 else acc)

/-- 2^x, exact for an integer x and else with a remainder (R196). -/
def exp2Num (x : Num) : Val :=
  match x with
  | .nan s => { v := .nan false, fl := if s then flgNV else 0#5 }
  | .inf false => { v := .inf false, fl := 0#5 }
  | .inf true => { v := .zero, fl := 0#5 }
  | .fin neg man exp _ =>
    if man = 0 then { v := .mk' false 1 0, fl := 0#5 }
    else if leadExp man exp ≥ 10 then
      { v := if neg then .mk' false 1 (-2000) else .mk' false 1 2000, fl := 0#5 }
    else if leadExp man exp < -40 then
      { v := if neg then .fin false (2 ^ 60 - 1) (-60) true else .fin false (2 ^ 60) (-60) true, fl := 0#5 }
    else if exp ≥ 0 then
      let z : Int := (man * 2 ^ exp.toNat : Nat)
      { v := .mk' false 1 (if neg then -z else z), fl := 0#5 }
    else
      let k := (-exp).toNat
      let z : Int := if neg then -(man : Int) else man
      let n := z / (2 ^ k : Int)
      let frac := (z % (2 ^ k : Int)).toNat
      if frac = 0 then { v := .mk' false 1 n, fl := 0#5 }
      else { v := .fin false (exp2Prod (exp2Roots 64 (2 ^ 193)) frac k (2 ^ 192)) (n - 192) true, fl := 0#5 }

/-- 1 / √x (R196). -/
def rsqrtNum (x : Num) : Val :=
  match x with
  | .nan s => { v := .nan false, fl := if s then flgNV else 0#5 }
  | .inf true => { v := .nan false, fl := flgNV }
  | .inf false => { v := .zero, fl := 0#5 }
  | .fin neg man exp _ =>
    if man = 0 then { v := .inf neg, fl := flgDZ }
    else if neg then { v := .nan false, fl := flgNV }
    else
      let man := if exp % 2 = 0 then man else man * 2
      let exp := if exp % 2 = 0 then exp else exp - 1
      let q := isqrt (2 ^ 260 / man)
      { v := .fin false q (-(exp / 2) - 130) (decide (q * q * man ≠ 2 ^ 260)), fl := 0#5 }

/-- 1 / x (R196). -/
def rcpNum (x : Num) : Val := divNum (.mk' false 1 0) x

end Sys2Proof.Machine
end

