-- ==== Sys2Proof/Machine/Access.lean ====
section
/-! DEFINITION. The engine control window (R45, R264, Tables 2-8 and 9-11), accesses at their targets (R88, R100, R204), and the window of unacknowledged accesses with its
acknowledgements (R102). -/

namespace Sys2Proof.Machine

-- The engine control window.

def SlotState.code : SlotState → Nat
  | .free => 0
  | .claimed => 1
  | .committed => 2
  | .taken => 3

/-- Words 0 to 7 of a descriptor (Table 2-8). -/
def Ring.word (r : Ring) (i : Nat) : BitVec 64 :=
  let st := (r.slots.zipIdx.map fun p => p.1.code * 4 ^ p.2).sum
  match i with
  | 0 => Machine.word (r.fmt.toNat * 2 ^ 60 + b2n r.en * 2 ^ 59 + r.count * 2 ^ 44 + r.slotsz * 2 ^ 30 + r.base * 2 ^ 6)
  | 1 => Machine.word (r.tail * 2 ^ 8 + r.head)
  | 2 => Machine.word (st % 2 ^ 64)
  | 3 => Machine.word (st / 2 ^ 64)
  | _ => 0#64

def Fold.entry (f : Fold) (e : Nat) : FoldEntry := amGet FoldEntry.free f.entries e

def FoldEntry.isFree (e : FoldEntry) : Bool := e.res.isNone && e.held.isNone

/-- An entry's word (Table 9-11). -/
def FoldEntry.word (e : FoldEntry) : BitVec 64 :=
  let st := match e.res, e.held with
    | none, none => 0
    | some _, none => 1
    | none, some _ => 2
    | some _, some _ => 3
  let size := match e.res, e.held with
    | some r, _ => r.2
    | none, some h => h.1.size
    | none, none => 0
  let count := match e.res with
    | some r => r.1
    | none => 0
  Machine.word (st * 2 ^ 62 + size * 2 ^ 59 + count * 2 ^ 51 + (if e.isFree then 0 else e.key.toNat))

/-- The fold window (Table 9-11), by offset from 0x400. FRESW shows the number of waiting FRES modulo 128; any number may wait
(log 106, DESIGN CHOICE, unsafe). -/
def Fold.word (f : Fold) (off : Nat) : BitVec 64 :=
  let es := (List.range 64).map f.entry
  match off / 8 with
  | 0 => Machine.word (b2n (!f.fres.isEmpty) * 2 ^ 23 + f.fres.length % 128 * 2 ^ 16
      + (es.filter fun e => e.res.isSome).length * 2 ^ 8 + (es.filter FoldEntry.isFree).length)
  | 1 => Machine.word (f.pid.toNat * 2 ^ 32 + f.oto)
  | 2 => f.orphans
  | 3 => f.refused
  | 4 => f.piddrop
  | 5 => f.combines
  | n => if 8 ≤ n ∧ n < 72 then (f.entry (n - 8)).word else 0#64

/-- A read of the control window by LW or LD (Table 2-3, R264). -/
def State.windowRead (s : State) (m : Mesh) (size : Nat) : Nat :=
  let w := if m.off < 0x400 then (s.ring m.cluster (m.off / 64)).word (m.off / 8 % 8)
    else (s.cluster m.cluster).fold.word (m.off - 0x400)
  w.toNat / 2 ^ (8 * (m.off % 8)) % 2 ^ (8 * size)

-- Accesses.

/-- X(rd) of a load of n bytes (R146). -/
def loadVal (size : Nat) (signed : Bool) (v : Nat) : BitVec 64 := if signed then sext (8 * size) v else word v

/-- New value of Table 8-1 for n bytes; none where a comparison fails. `cmp` is what CAS compares with. -/
def amoNew (op n old a cmp : Nat) : Option Nat :=
  let w := 8 * n
  let sv (v : Nat) : Int := IntTy.value { w := w, signed := true } v
  match op with
  | 0 => some a
  | 1 => some ((old + a) % 2 ^ w)
  | 2 => some (old &&& a)
  | 3 => some (old ||| a)
  | 4 => some (old ^^^ a)
  | 5 => some (if sv a < sv old then a else old)
  | 6 => some (if sv old < sv a then a else old)
  | 7 => some (min old a)
  | 8 => some (max old a)
  | 9 | 10 => if old = cmp then some a else none
  | _ =>
    let f := if n = 4 then fp32 else fp64
    some ((addNum false (f.decode old) (f.decode a)).round f .rne).code

/-- An atomic access of a context at a checked place: granule rules, one read and perhaps one write as one access, its
record at the place in its region that R100 gives it. -/
def State.atomicAt (s : State) (c k : Nat) (ea : BitVec 64) (m : Mesh) (n : Nat) (aq rl : Bool) (mask : BitVec 8)
    (new : Nat → Option Nat) : Except Trap (State × Nat) :=
  let gs := granulesOf m.key n
  let old := memRead s.mem m.key n
  match s.granuleTrap c ea gs (new old).isSome true with
  | some t => .error t
  | none =>
    match s.eccWord m.key n with
    | some w => .error (trap cSramUncorr (keyWord w))
    | none =>
      let s := if aq then (s.newRegion c k).acquireAt c k m.key n mask else s.hearAt c k m.key n
      let s := s.addRaces c k (new old).isSome true gs
      let s := match new old with
        | some v =>
          let t := s.replaced c k m.key n
          let u := if rl then t.releaseAt c k m.key n mask else t.fencedAt c k m.key n
          (u.poke m.key (natBytes n v)).dropFetched c k gs
        | none => s.dropFetched c k gs
      .ok (if rl && !aq then s.endRegion c k else s, old)

/-- An access performs at its target, or is refused there (R88, R101); one to the control window has no granules. An LDAQ's access is the first of the region
that it begins, an STRL's the last of the region that it ends (R100). -/
def State.performAct (s : State) (c k : Nat) (a : Access) (m : Mesh) : Except Trap (State × Nat) :=
  match a.act with
  | .read false => if m.unit = 18 then .ok (s, s.windowRead m a.size) else s.readAt c k a.ea m a.size false
  | .read true => (((s.newRegion c k).acquireAt c k m.key a.size a.mask)).readAt c k a.ea m a.size true
  | .write bs false => (s.writeAt c k a.ea m bs false).map fun t => (t, 0)
  | .write bs true =>
    (s.writeAt c k a.ea m bs true).map fun t => ((t.releaseAt c k m.key a.size a.mask).endRegion c k, 0)
  | .amo op b cmp aq rl => s.atomicAt c k a.ea m a.size aq rl a.mask fun old => amoNew op a.size old b cmp

-- The window of R102.

/-- The value of an access reaches its register. -/
def Ctx.deliver (x : Ctx) (a : Access) (dest : Dest) (v : Nat) : Ctx :=
  match dest with
  | .reg d signed => x.setX d (loadVal a.size signed v)
  | .pair d => (x.setX d (word v)).setX (d + 1#5) (word (v / 2 ^ 64))
  | .none | .part => x

/-- An access of an instruction of the integer pipe to another place than the core's own local memory enters the
window, at most four deep, and the injection queue, and the instruction leaves the issue slot. -/
def State.send (s : State) (a : Access) (dest : Dest) : State :=
  if 4 ≤ s.cx.pending.length || !s.roomFor s.cur.1 a then s else (s.addPending s.cur.1 s.cur.2 a dest).bump 4

/-- The value of an access reaches the context in hand. -/
def State.receive (s : State) (a : Access) (dest : Dest) (v : Nat) : State :=
  match dest with
  | .none | .part => s
  | d => s.modCx fun x => x.deliver a d v

/-- The access of an instruction of the integer pipe to a checked place: in the core's own local memory it performs at
once, elsewhere it is sent (R102). -/
def State.issueAccess (s : State) (a : Access) (m : Mesh) (dest : Dest) : Out :=
  if ownLocal s.cur.1 m then
    match s.performAct s.cur.1 s.cur.2 a m with
    | .error t => s.raise s t
    | .ok (t, v) => .next ((t.receive a dest v).bump 4)
  else .next (s.send a dest)

/-- What an unacknowledged access meets at its target: the access performed, or why not, the second word being
RACEINFO or the failing word's address. -/
def State.meet (s : State) (c k : Nat) (p : Pending) : State × Pending :=
  match s.performAct c k p.acc (meshOfKey p.acc.key) with
  | .ok (t, v) => (t, { p with performed := true, value := v })
  | .error t => (s, { p with performed := true, fail := some (t.cause, t.race.getD t.tval) })

/-- The packet of a context's access, if it is at its target. -/
def State.accessAt (s : State) (c k id : Nat) : Option Packet :=
  s.delivered fun b => match b with | .access c' k' i .. => c' == c && k' == k && i == id | _ => false

/-- The answer to a context's access, if it is back. -/
def State.answerAt (s : State) (c k id : Nat) : Option Packet :=
  s.delivered fun b => match b with | .ack c' k' i _ => c' == c && k' == k && i == id | _ => false

/-- Room for the answer of an access, without which its target does not take it (R373). -/
def State.answerRoom (s : State) (c : Nat) (p : Pending) : Bool :=
  s.canInject p.acc.cluster (clusterOf c) (answerer (meshOfKey p.acc.key)) .response

/-- An access performs or is refused, and its answer sets out, or is held for room in the injection queue (R380). -/
def State.performPending (s : State) (c k : Nat) (p : Pending) (pkt : Packet) : State × Pending :=
  let r := (s.dropPacket pkt.id).meet c k p
  (r.1.sendOrHold p.acc.cluster (clusterOf c) (answerer (meshOfKey p.acc.key)) .response false pkt.pid
    (.ack c k p.id (p.acc.back r.2.value)), r.2)

/-- Replaces a context's unacknowledged access by its id. -/
def State.setPending (s : State) (c k : Nat) (p : Pending) : State :=
  s.modCtxAt c k fun x => { x with pending := x.pending.map fun q => if q.id = p.id then p else q }

/-- The core whose local memory a place lies in has not started (R25). -/
def State.unstarted (s : State) (m : Mesh) : Bool :=
  decide (1 ≤ m.unit ∧ m.unit ≤ 16) && (s.ctxAt (m.cluster * 16 + (m.unit - 1)) 0).starting

/-- REMOTE_ACCESS_PERFORM (R88, R102): the target SRAM of an unacknowledged access of a context makes its
granule checks and performs or refuses it. A store to a core that has not started is held by the target cluster
(R25). -/
def execRemoteAccessPerform (core ctx id : Nat) (s : State) : Out :=
  match (s.ctxAt core ctx).pending.find? fun p => p.id == id && !p.performed && !p.held, s.accessAt core ctx id with
  | some p, some pkt =>
    if p.acc.act.isWrite && s.unstarted (meshOfKey p.acc.key) then .next (s.setPending core ctx { p with held := true })
    else if !s.answerRoom core p then notNow "REMOTE_ACCESS_PERFORM"
    else
      let r := s.performPending core ctx p pkt
      .next (r.1.setPending core ctx r.2)
  | _, _ => notNow "REMOTE_ACCESS_PERFORM"

/-- A value reaches a register, and the register images of younger accesses (R102). -/
def Ctx.commitLoad (x : Ctx) (p : Pending) (rest : List Pending) : Ctx :=
  let y := x.deliver p.acc p.dest p.value
  { y with pending := rest.map fun q =>
      let z := ({ x with x := q.x0, present := q.present0 } : Ctx).deliver p.acc p.dest p.value
      { q with x0 := z.x, present0 := z.present } }

/-- PC and x registers as they were before an access, and the younger instructions of the queue dropped (R102). -/
def Ctx.rollback (x : Ctx) (p : Pending) : Ctx :=
  { x with pc := p.pc0, x := p.x0, present := p.present0, pending := [], answers := [], used := 0,
           queue := x.queue.filter fun e => decide (e.seq ≤ p.id) }

/-- Whether an instruction older than an access has still to end: in the queue, in the lathe, or to be reissued. -/
def Ctx.olderWork (x : Ctx) (p : Pending) : Bool :=
  (x.queue.any fun e => decide (e.seq ≤ p.id)) || x.latheActive || !x.resume.isEmpty || x.refetch

/-- The trap that a refused access comes to. -/
def Pending.trap (p : Pending) (f : BitVec 8 × BitVec 64) : Trap :=
  { cause := f.1, tval := if f.1 = cSramUncorr then f.2 else p.acc.ea, race := if f.1 = cRace then some f.2 else none,
    spos := none }

/-- Acknowledged accesses leave the window from its old end. The answer to an FP or vector instruction goes to it. The
oldest access of the integer pipe that was refused returns PC and x registers to their values before it and traps
there, once every older instruction has ended (R32, R102); the packets of younger accesses end at their targets without
effect. Where older work of the lathe or of a reissue is left and the
partition stops, it returns there without a trap (R312; log 92, DEDUCED, safe). -/
def State.settle (s : State) (c k : Nat) : Nat → State
  | 0 => s
  | n + 1 =>
    let x := s.ctxAt c k
    match x.pending with
    | [] => s
    | p :: rest =>
      if !p.acked then s
      else if p.dest = .part then
        (s.setCtxAt c k { x with pending := rest,
                                 answers := x.answers ++ [{ value := p.value, fail := p.fail }] }).settle c k n
      else
        match p.fail with
        | none => (s.setCtxAt c k (x.commitLoad p rest)).settle c k n
        | some f =>
          if k = 0 ∧ x.olderWork p = true then
            -- Neither the lathe nor a reissue moves while the partition stops: the access is made again after the restore.
            if s.stopping c && !x.queue.any fun e => decide (e.seq ≤ p.id) then
              s.setCtxAt c k (x.rollback p)
            else s
          else (s.setCtxAt c k (x.rollback p)).takeTrap c k (p.trap f) p.pc0 [] p.pc0

/-- REMOTE_ACK (R102): the acknowledgement of an access that has performed or been refused. -/
def execRemoteAck (core ctx id : Nat) (s : State) : Out :=
  match (s.ctxAt core ctx).pending.find? fun p => p.id == id && p.performed && !p.acked, s.answerAt core ctx id with
  | some p, some pkt => .next (((s.dropPacket pkt.id).setPending core ctx { p with acked := true }).settle core ctx 4)
  | _, _ => notNow "REMOTE_ACK"

end Sys2Proof.Machine
end

