-- ==== Sys2Proof/Machine/Control.lean ====
section
/-! DEFINITION. Branches and jumps (R141 to R144). -/

namespace Sys2Proof.Machine

/-- A branch: its target is its own address plus SignExt(imm, 12) × 2 (R141). -/
def branch (i : Instr) (cond : State → Bool) (imm : BitVec 12) (s : State) : Out :=
  gated i s fun s =>
    .next (s.jump (if cond s then s.cx.pc + imm12 imm * 2#64 else s.cx.pc + 4#64))

def execBeq (a b : BitVec 5) (i : BitVec 12) (s : State) : Out := branch (.beq a b i) (fun s => s.x a == s.x b) i s
def execBne (a b : BitVec 5) (i : BitVec 12) (s : State) : Out := branch (.bne a b i) (fun s => s.x a != s.x b) i s
def execBlt (a b : BitVec 5) (i : BitVec 12) (s : State) : Out :=
  branch (.blt a b i) (fun s => decide ((s.x a).toInt < (s.x b).toInt)) i s
def execBge (a b : BitVec 5) (i : BitVec 12) (s : State) : Out :=
  branch (.bge a b i) (fun s => decide ((s.x b).toInt ≤ (s.x a).toInt)) i s
def execBltu (a b : BitVec 5) (i : BitVec 12) (s : State) : Out :=
  branch (.bltu a b i) (fun s => decide ((s.x a).toNat < (s.x b).toNat)) i s
def execBgeu (a b : BitVec 5) (i : BitVec 12) (s : State) : Out :=
  branch (.bgeu a b i) (fun s => decide ((s.x b).toNat ≤ (s.x a).toNat)) i s

/-- JAL (R142). -/
def execJal (d : BitVec 5) (i : BitVec 20) (s : State) : Out :=
  gated (.jal d i) s fun s =>
    .next ((s.setX d (s.cx.pc + 4#64)).jump (s.cx.pc + i.signExtend 64 * 2#64))

/-- JALR (R143): rs1 is read before rd is written; an odd target raises ALIGN. -/
def execJalr (d a : BitVec 5) (i : BitVec 12) (s : State) : Out :=
  gatedRun (.jalr d a i) s fun s =>
    let t := s.x a + imm12 i
    if bitOf t 0 then .error (s, trap cAlign t) else .ok ((s.setX d (s.cx.pc + 4#64)).jump t)

end Sys2Proof.Machine
end

