-- ==== Sys2Proof/Machine/Memory.lean ====
section
/-! DEFINITION. Scalar loads and stores (R145 to R149). -/

namespace Sys2Proof.Machine

/-- A load of `size` bytes (R145, R146, R148). `window` says whether unit 18 permits it. -/
def load (i : Instr) (d a : BitVec 5) (imm : BitVec 12) (size : Nat) (signed window : Bool) (s : State) : Out :=
  gated i s fun s =>
    let c := s.cur.1
    let ea := s.x a + imm12 imm
    match s.check c ea size size [.r] window with
    | .error t => s.raise s t
    | .ok m =>
      if s.cx.storeOverlap (granulesOf m.key size) then .next s
      else s.issueAccess { ea := ea, key := m.key, size := size, act := .read false } m (.reg d signed)

/-- A store of the low `size` bytes of X(rs2) (R145, R147, R148). -/
def store (i : Instr) (a b : BitVec 5) (imm : BitVec 12) (size : Nat) (s : State) : Out :=
  gated i s fun s =>
    let c := s.cur.1
    let ea := s.x a + imm12 imm
    match s.check c ea size size [.w] false with
    | .error t => s.raise s t
    | .ok m =>
      let act := Act.write (natBytes size (s.x b).toNat) false
      s.issueAccess { ea := ea, key := m.key, size := size, act := act } m .none

def execLb (d a : BitVec 5) (i : BitVec 12) (s : State) : Out := load (.lb d a i) d a i 1 true false s
def execLh (d a : BitVec 5) (i : BitVec 12) (s : State) : Out := load (.lh d a i) d a i 2 true false s
def execLw (d a : BitVec 5) (i : BitVec 12) (s : State) : Out := load (.lw d a i) d a i 4 true true s
def execLd (d a : BitVec 5) (i : BitVec 12) (s : State) : Out := load (.ld d a i) d a i 8 false true s
def execLbu (d a : BitVec 5) (i : BitVec 12) (s : State) : Out := load (.lbu d a i) d a i 1 false false s
def execLhu (d a : BitVec 5) (i : BitVec 12) (s : State) : Out := load (.lhu d a i) d a i 2 false false s
def execLwu (d a : BitVec 5) (i : BitVec 12) (s : State) : Out := load (.lwu d a i) d a i 4 false false s
def execSb (a b : BitVec 5) (i : BitVec 12) (s : State) : Out := store (.sb a b i) a b i 1 s
def execSh (a b : BitVec 5) (i : BitVec 12) (s : State) : Out := store (.sh a b i) a b i 2 s
def execSw (a b : BitVec 5) (i : BitVec 12) (s : State) : Out := store (.sw a b i) a b i 4 s
def execSd (a b : BitVec 5) (i : BitVec 12) (s : State) : Out := store (.sd a b i) a b i 8 s

end Sys2Proof.Machine
end

