-- ==== Sys2Proof/Machine/System.lean ====
section
/-! DEFINITION. CSR access (R162, R163, R298), the system instructions (R164 to R168, R303), requests to Wilzia
(R308), the end of a control context (R35) and the timeouts (R37). -/

namespace Sys2Proof.Machine

-- Issue cycles.

/-- The core belongs to a partition that runs. -/
def State.runs (s : State) (c : Nat) : Bool :=
  match s.partOf (clusterOf c) with
  | some p => (s.part p).state == .running && !(s.part p).halted
  | none => false

/-- The allowed cycles of a duty (R33, R396). -/
def dutyAllows (duty cycle : Nat) : Bool := decide (cycle * duty % 16 < duty)

def State.dutyOk (s : State) (c : Nat) : Bool := dutyAllows (s.dutyOf c) (s.cycleOf c)

/-- The issue slot of a core is free in this cycle of its quad's clock (R30), and its duty allows the cycle. -/
def State.slotOpen (s : State) (c : Nat) : Bool :=
  s.runs c && s.dutyOk c && decide ((s.core c).issueFree ≤ s.cycleOf c)

/-- The issue slot of a core is taken for this cycle. -/
def State.takeSlot (s : State) (c : Nat) : State := s.modCore c fun r => { r with issueFree := s.cycleOf c + 1 }

/-- A context has issued in this cycle (R30). -/
def State.issuedBy (s : State) (c k : Nat) : State := (s.modCore c fun r => { r with lastIssue := k }).takeSlot c

-- The CSR map (Table 12-1).

/-- A column of Table 12-1. -/
inductive Col where
  | rw
  | r
  | none
  deriving DecidableEq, Repr

/-- Columns U and K, and whether every field is RO. -/
structure CsrInfo where
  u : Col
  k : Col
  ro : Bool
  deriving DecidableEq, Repr

/-- The row of Table 12-1 for a number; none is unassigned. -/
def csrInfo (n : Nat) : Option CsrInfo :=
  let rw : Option CsrInfo := some { u := .rw, k := .rw, ro := false }
  let r : Option CsrInfo := some { u := .r, k := .r, ro := true }
  let kw : Option CsrInfo := some { u := .r, k := .rw, ro := false }
  let kOnly : Option CsrInfo := some { u := .none, k := .rw, ro := false }
  if n = 3 then r
  else if n ≤ 5 then rw
  else if 8 ≤ n ∧ n ≤ 0xA then kw
  else if 0x10 ≤ n ∧ n ≤ 0x13 then rw
  else if n = 0x20 ∨ n = 0x21 then rw
  else if n = 0x22 then kw
  else if n = 0x23 ∨ n = 0x24 then rw
  else if n = 0x25 then r
  else if n = 0x28 ∨ n = 0x29 then rw
  else if n = 0x2A ∨ n = 0x2B ∨ n = 0x30 then r
  else if n = 0x31 then rw
  else if n = 0x38 then r
  else if n = 0x39 then rw
  else if 0x40 ≤ n ∧ n ≤ 0x42 then r
  else if 0x100 ≤ n ∧ n < 0x140 ∧ n % 16 < 12 then rw
  else if n = 0x200 ∨ n = 0x201 then r
  else if n = 0x202 ∨ n = 0x203 then kw
  else if 0x210 ≤ n ∧ n < 0x218 then kw
  else if 0x220 ≤ n ∧ n < 0x240 then some { u := .none, k := .r, ro := true }
  else if n = 0x300 ∨ n = 0x301 then kOnly
  else if 0x302 ≤ n ∧ n ≤ 0x304 then kw
  else if 0x305 ≤ n ∧ n ≤ 0x30F then kOnly
  else none

/-- The checks of a CSR access in the order of R163. -/
def State.csrTrap (s : State) (i : Instr) (n : BitVec 12) (writes : Bool) : Option Trap :=
  match csrInfo n.toNat with
  | none => some (trap cIllegal i.bits)
  | some info =>
    let col := if s.cx.level = .k then info.k else info.u
    if s.inHelper && csrControl n then some (trap cIllegalReg i.bits)
    else if col = .none then some (trap cPriv i.bits)
    else if writes && info.ro then some (trap cIllegal i.bits)
    else if writes && col == .r then some (trap cPriv i.bits)
    else none

-- Field maps.

/-- FCSR (Table 3-6): an RM of 6 or 7 stores 0. -/
def fcsrMap (v : BitVec 64) : BitVec 64 :=
  if 6 ≤ fld v 5 3 then word (fld v 0 5) else word (fld v 0 8)

/-- WAITTO and PRSTO (Table 1-9). -/
def countMap (v : BitVec 64) : BitVec 64 := if fld v 0 20 = 0 then 1#64 else word (fld v 0 20)

/-- XWGT (Table 8-9). -/
def xwgtMap (v : BitVec 64) : BitVec 64 := if fld v 0 4 = 0 then 1#64 else word (fld v 0 4)

/-- XRBASE (Table 8-10). -/
def xrbaseMap (v : BitVec 64) : BitVec 64 :=
  let b := fld v 6 9
  word (b2n (bitOf v 63 && decide (b * 64 + 1024 ≤ 0x6000)) * 2 ^ 63 + b * 64)

/-- BBCNT (Table 7-8). -/
def bbcntMap (v : BitVec 64) : BitVec 64 :=
  word ((if fld v 7 2 = 3 then 0 else fld v 7 2) * 128 + min (fld v 0 7) 64)

/-- MRSIZE (Table 2-10). -/
def mrsizeMap (v : BitVec 64) : BitVec 64 :=
  let n := fld v 0 5
  if 8 ≤ n ∧ n ≤ 14 then word n else 0#64

/-- PRGNn (Table 2-7). -/
def prgnMap (v : BitVec 64) : BitVec 64 :=
  word (fld v 62 2 * 2 ^ 62 + fld v 56 3 * 2 ^ 56 + fld v 32 15 * 2 ^ 32 + min (fld v 16 16) 32768 * 2 ^ 16)

/-- LSTAT (Table 7-3). -/
def lstatMap (v : BitVec 64) : BitVec 64 := word (fld v 8 5 * 256 + fld v 0 4)

/-- SSnCTL (Table 7-1): a v port with a register above v15 or a tag above 13 stores EN = 0. -/
def ctlMap (v : BitVec 64) : BitVec 64 :=
  let w := word (fld v 3 21 * 8)
  if bitOf w 13 && bitOf w 14 && (decide (16 ≤ fld w 15 5) || decide (14 ≤ fld w 20 4)) then setFld w 13 1 0 else w

/-- The writable fields of TSTATUS (Table 12-2); CTX stays. -/
def tstatusMap (old v : BitVec 64) : BitVec 64 :=
  word (fld old 20 4 * 2 ^ 20 + min (fld v 16 4) 8 * 2 ^ 16 + min (fld v 12 4) 8 * 2 ^ 12 + fld v 0 3)

/-- BARSTAT (Table 8-3). -/
def Core.barstat (k : Core) : BitVec 64 :=
  word (((List.finRange 7).map fun i => k.barPhase.get i % 2 * 2 ^ (16 + i.val)).sum + k.barArr.toNat)

-- Ports.

def Ctx.setPort (x : Ctx) (n : Nat) (p : Port) : Ctx :=
  { x with ports := x.ports.set (n % 4) p (Nat.mod_lt _ (by decide)) }

/-- A write to CSR k of a port: an enabled port's prefetched elements are discarded (R169). -/
def Port.setCsr (p : Port) (k : Nat) (v : BitVec 64) : Port :=
  let p := if bitOf p.ctl 13 then { p with fifo := [], held := false } else p
  if k = 0 then { p with base := v }
  else if k ≤ 4 then { p with b := p.b.set ((k - 1) % 4) (word (fld v 0 20)) (Nat.mod_lt _ (by decide)) }
  else if k ≤ 8 then { p with st := p.st.set ((k - 5) % 4) v (Nat.mod_lt _ (by decide)) }
  else if k = 9 then { p with idx := v }
  else if k = 10 then { p with pos := word (fld v 0 48) }
  else { p with ctl := ctlMap v, fifo := [], held := false }

/-- The value of an assigned CSR in the context in hand. -/
def State.csrRead (s : State) (n : Nat) : BitVec 64 :=
  let x := s.cx
  let k := s.me
  if 0x100 ≤ n ∧ n < 0x140 then (x.port ((n - 0x100) / 16)).csr (n % 16)
  else if 0x210 ≤ n ∧ n < 0x218 then k.prgn.get (Fin.ofNat 8 (n - 0x210))
  else if 0x220 ≤ n ∧ n < 0x240 then
    let e := amGet (0#64, 0#64) (s.partOfCore s.cur.1).hrt ((n - 0x220) / 2)
    if n % 2 = 0 then e.1 else e.2
  else if 0x308 ≤ n ∧ n < 0x310 then (if s.inHelper then 0#64 else x.tdq.get (Fin.ofNat 8 (n - 0x308)))
  else
    match n with
    | 0x000 => x.fcsr
    | 0x001 => x.srbase
    | 0x002 => x.obs
    | 0x003 => x.raceinfo
    | 0x004 => x.rdsplit
    | 0x005 => x.pidx
    | 0x008 => x.lbase
    | 0x009 => x.liter
    | 0x00A => x.lstat
    | 0x010 => x.bbptr
    | 0x011 => x.bbend
    | 0x012 => x.bbwin
    | 0x013 => x.bbcnt
    | 0x020 => k.waitto
    | 0x021 => k.prsto
    | 0x022 => k.xwgt
    | 0x023 => k.xrbase
    | 0x024 => k.barcfg
    | 0x025 => k.barstat
    | 0x028 => k.mrbase
    | 0x029 => k.mrsize
    | 0x02A => k.mrhead
    | 0x02B => k.mrtail
    | 0x030 => word (s.dutyOf s.cur.1)
    | 0x031 => k.opreq
    | 0x038 => word (s.cycleOf s.cur.1)
    | 0x039 => k.uivec
    | 0x040 => x.uicause
    | 0x041 => x.uival
    | 0x042 => x.uixfer
    | 0x200 => word s.cur.1
    | 0x201 => k.pshape
    | 0x202 => k.srseed
    | 0x203 => k.capkey
    | 0x300 => k.tvec
    | 0x301 => x.tstatus
    | 0x302 => x.tcause
    | 0x303 => x.tval
    | 0x304 => x.tepc
    | 0x305 => x.tipc
    | 0x306 => x.tscratch
    | 0x307 => x.spos
    | _ => 0#64

/-- A write of MRBASE or MRSIZE empties the ring (R61). -/
def Core.emptyRing (k : Core) : Core := { k with mrhead := 0#64, mrtail := 0#64, records := [] }

/-- A write to an assigned, writable CSR in the context in hand, by its field map. -/
def State.csrWrite (s : State) (n : Nat) (v : BitVec 64) : State :=
  let x := s.cx
  if 0x100 ≤ n ∧ n < 0x140 then
    s.setCx (x.setPort ((n - 0x100) / 16) ((x.port ((n - 0x100) / 16)).setCsr (n % 16) v))
  else if 0x210 ≤ n ∧ n < 0x218 then
    let s := s.modMe fun k =>
      { k with prgn := k.prgn.set ((n - 0x210) % 8) (prgnMap v) (Nat.mod_lt _ (by decide)) }
    s.modCtxAt s.cur.1 0 Ctx.dropAll
  else if 0x308 ≤ n ∧ n < 0x310 then
    if s.inHelper then s
    else s.setCx { x with tdq := x.tdq.set ((n - 0x308) % 8) v (Nat.mod_lt _ (by decide)) }
  else
    match n with
    | 0x000 => s.setCx { x with fcsr := fcsrMap v }
    | 0x001 => s.setCx { x with srbase := v }
    | 0x002 => s.setCx { x with obs := word (fld v 8 56 * 256 + 0xFF) }
    | 0x004 => s.setCx { x with rdsplit := v }
    | 0x005 => s.setCx { x with pidx := word (fld v 0 7) }
    | 0x008 => s.setCx { x with lbase := v, latheHeld := true }
    | 0x009 => s.setCx { x with liter := v, latheHeld := true }
    | 0x00A => s.setCx { x with lstat := lstatMap v, latheHeld := true }
    | 0x010 => s.setCx { x with bbptr := v }
    | 0x011 => s.setCx { x with bbend := v }
    | 0x012 => s.setCx { x with bbwin := v }
    | 0x013 => s.setCx { x with bbcnt := bbcntMap v }
    | 0x020 => s.modMe fun k => { k with waitto := countMap v }
    | 0x021 => s.modMe fun k => { k with prsto := countMap v }
    | 0x022 => s.modMe fun k => { k with xwgt := xwgtMap v }
    | 0x023 => s.modMe fun k => { k with xrbase := xrbaseMap v }
    | 0x024 => s.modMe fun k => { k with barcfg := word (fld v 0 7) }
    | 0x028 => s.modMe fun k => { k with mrbase := word (fld v 3 12 * 8) }.emptyRing
    | 0x029 => s.modMe fun k => { k with mrsize := mrsizeMap v }.emptyRing
    | 0x031 => s.modMe fun k => { k with opreq := word (fld v 0 3) }
    | 0x039 => s.modMe fun k => { k with uivec := word (fld v 1 63 * 2) }
    | 0x202 => s.modMe fun k => { k with srseed := v }
    | 0x203 => s.modMe fun k => { k with capkey := word (fld v 63 1 * 2 ^ 63 + fld v 0 32) }
    | 0x300 => s.modMe fun k => { k with tvec := word (fld v 1 63 * 2) }
    | 0x301 => s.setCx { x with tstatus := tstatusMap x.tstatus v }
    | 0x302 => s.setCx { x with tcause := word (fld v 0 8) }
    | 0x303 => s.setCx { x with tval := v }
    | 0x304 => s.setCx { x with tepc := v }
    | 0x305 => s.setCx { x with tipc := v }
    | 0x306 => s.setCx { x with tscratch := v }
    | 0x307 => s.setCx { x with spos := word (fld v 0 50) }
    | _ => s

/-- A CSR instruction: its checks, the new value if it writes, X(rd) := the old value (R162). -/
def csrOp (i : Instr) (d : BitVec 5) (n : BitVec 12) (new : BitVec 64 → State → BitVec 64) (s : State) : Out :=
  if i.illegalReg s.inHelper then s.raise s (trap cIllegalReg i.bits)
  else
    match s.csrTrap i n i.writesCsr with
    | some t => s.raise s t
    | none =>
      gated i s fun s =>
        let old := s.csrRead n.toNat
        let t := if i.writesCsr then s.csrWrite n.toNat (new old s) else s
        .next ((t.setX d old).bump 4)

def execCsrrw (d a : BitVec 5) (c : BitVec 12) (s : State) : Out :=
  csrOp (.csrrw d a c) d c (fun _ s => s.x a) s
def execCsrrs (d a : BitVec 5) (c : BitVec 12) (s : State) : Out :=
  csrOp (.csrrs d a c) d c (fun old s => old ||| s.x a) s
def execCsrrc (d a : BitVec 5) (c : BitVec 12) (s : State) : Out :=
  csrOp (.csrrc d a c) d c (fun old s => old &&& ~~~(s.x a)) s
def execCsrrwi (d : BitVec 5) (c : BitVec 12) (u : BitVec 5) (s : State) : Out :=
  csrOp (.csrrwi d c u) d c (fun _ _ => u.setWidth 64) s
def execCsrrsi (d : BitVec 5) (c : BitVec 12) (u : BitVec 5) (s : State) : Out :=
  csrOp (.csrrsi d c u) d c (fun old _ => old ||| u.setWidth 64) s
def execCsrrci (d : BitVec 5) (c : BitVec 12) (u : BitVec 5) (s : State) : Out :=
  csrOp (.csrrci d c u) d c (fun old _ => old &&& ~~~(u.setWidth 64)) s

-- System instructions.

/-- ILLEGAL_ENCODING (R117): ILLEGAL with the bits fetched. -/
def execIllegalEncoding (short : Bool) (bits : BitVec 32) (s : State) : Out :=
  s.raise s (trap cIllegal (if short then (bits.extractLsb' 0 16).setWidth 64 else bits.setWidth 64))

/-- EBREAK (R166). -/
def execEbreak (s : State) : Out := gated .ebreak s fun s => s.raise s (trap cEbreak 0#64)

/-- What TRET restores in the control context (R303): the level and KTE; the deferred instructions from DQS on
are to be fetched and executed first; an active repetition fetches its body anew; the PC is TIPC. Ports whose pop or
push trapped prefetch again (R174). The TRET of a trap inside a K handler leaves the lathe as that trap found it (R179). -/
def Ctx.tret (x : Ctx) (helper : Bool) : Ctx :=
  let y := { x with level := if bitOf x.tstatus 0 then .k else .u,
                    tstatus := setFld x.tstatus 1 1 (b2n (bitOf x.tstatus 2)), pc := x.tipc, wait := none }
  if helper then y
  else { y with ports := x.ports.map fun p => { p with held := false },
                resume := (x.tdq.toList.take (fld x.tstatus 16 4)).drop (fld x.tstatus 12 4),
                latheHeld := y.level == .k && x.heldBefore.headD false,
                heldBefore := if y.level = .k then x.heldBefore.tail else [],
                refetch := bitOf x.lstat 12 && !(y.level == .k && x.heldBefore.headD false) }

/-- TRET (R303): PRIV at U level. -/
def execTret (s : State) : Out :=
  gatedRun .tret s fun s =>
    if s.cx.level = .u then .error (s, trap cPriv Instr.tret.bits)
    else .ok (s.modCx fun x => x.tret s.inHelper)

/-- WFE (R167): completes on the wake latch, clearing it, and otherwise waits. -/
def execWfe (s : State) : Out :=
  gated .wfe s fun s =>
    if s.cx.wake then .next ((s.modCx fun x => { x with wake := false }).bump 4) else .next (s.await .wfe 0#64)

/-- WFE_RELEASE (R167): the latch, the expiry of WAITTO or the device's own choice ends a WFE. -/
def execWfeRelease (core ctx : Nat) (s : State) : Out :=
  if ((s.ctxAt core ctx).wait.map Wait.kind) = some .wfe then
    .next (s.modCtxAt core ctx fun x => { x with wake := false, wait := none, pc := x.pc + 4#64 })
  else notNow "WFE_RELEASE"

/-- ISYNC (R168, R310): the quad's instruction cache is invalidated, and the context's fetches follow the core's
regions as they are now. -/
def execIsync (s : State) : Out :=
  gated .isync s fun s =>
    .next (((s.modQuad (quadOf s.cur.1) fun q => { q with icache := [] }).modCx fun x =>
      { x with fetchPrgn := s.me.prgn }).bump 4)

-- ECALL.

/-- ECALL-exit (R35): as a release, the control context stops with a0 as its exit value. -/
def State.exitControl (s : State) (c : Nat) : State :=
  (s.modCtxAt c 0 fun x =>
    { x with live := false, finished := true, exitValue := x.xr 10#5, wait := none }).endRegion c 0

/-- The selector and operand of a request to Wilzia: a7, or a5 in a helper, and a0 (R308). -/
def Ctx.request (x : Ctx) (k : Nat) : BitVec 64 := x.xr (if k = 0 then 17#5 else 15#5)

/-- The x registers that an ECALL reads (R165, R308): a7, a0 for an exit, a0 to a5 for a request. -/
def Ctx.ecallReads (x : Ctx) : List Nat :=
  17 :: (if x.level = .k then [10, 11, 12, 13, 14, 15] else if x.xr 17#5 = 0#64 then [10] else [])

/-- ECALL (R165, R308): at U level in the control context an exit or a trap; ILLEGAL_REG in a helper at U level;
at K level a request that waits for Wilzia. -/
def execEcall (s : State) : Out :=
  let x := s.cx
  if x.level = .u ∧ s.inHelper then s.raise s (trap cIllegalReg Instr.ecall.bits)
  else
    match (if s.inHelper then none else x.ecallReads.find? fun n => !x.present.toNat.testBit n) with
    | some n => .next (s.await (.presence n) (word n))
    | none =>
      gated .ecall s fun s =>
        if x.level = .k then .next (s.await .wilzia 0#64)
        else if x.xr 17#5 = 0#64 then .next (s.exitControl s.cur.1)
        else s.raise s (trap cEcall (x.xr 17#5))

/-- ECALL_EXIT (R35): the control context that has come to an ECALL with a7 = 0 at U level stops, once its queue
has drained and its pushes are written, in an issue cycle of its core (R30, R33). -/
def execEcallExit (core : Nat) (s : State) : Out :=
  let x := s.ctxAt core 0
  if x.live && x.level == .u && x.xr 17#5 == 0#64 && x.present.toNat.testBit 17 && x.present.toNat.testBit 10
      && !x.holds false .ecall && s.slotOpen core then
    match s.fetch core 0 x.pc with
    | .ok (t, .ecall) => .next ((t.issuedBy core 0).exitControl core)
    | _ => notNow "ECALL_EXIT"
  else notNow "ECALL_EXIT"

/-- A context that waits for Wilzia. -/
def State.asks (s : State) (c k : Nat) : Bool := ((s.ctxAt c k).wait.map Wait.kind) == some .wilzia

/-- The cores of a shape. -/
def Shape.coreList (p : Shape) : List Nat :=
  p.clusters.flatMap fun cl => (List.range 16).map fun i => cl * 16 + i

/-- PARK (Table 12-10). -/
def execPark (core ctx : Nat) (s : State) : Out :=
  if s.asks core ctx && (s.ctxAt core ctx).request ctx == 0#64 then
    .next (s.park core ctx ((s.ctxAt core ctx).xr 10#5))
  else notNow "PARK"

/-- SETOTO (Table 12-10): OTO on every fold of the partition; 14 is stored as 15. -/
def execSetoto (core ctx : Nat) (s : State) : Out :=
  let x := s.ctxAt core ctx
  let a := (x.xr 10#5).toNat
  if s.asks core ctx && x.request ctx == 1#64 && decide (a ≤ 15) && x.reply.isNone then
    let t := (s.shape core).clusters.foldl (fun t cl =>
      t.modCluster cl fun u => { u with fold := { u.fold with oto := if a = 14 then 15 else a } }) s
    .next (t.modCtxAt core ctx fun y => { y with reply := some (.wilzia 0#64) })
  else notNow "SETOTO"

/-- SETSEED (Table 12-10): SRSEED on every core of the partition. -/
def execSetseed (core ctx : Nat) (s : State) : Out :=
  let x := s.ctxAt core ctx
  if s.asks core ctx && x.request ctx == 2#64 && x.reply.isNone then
    let t := (s.shape core).coreList.foldl (fun t c => t.modCore c fun k => { k with srseed := x.xr 10#5 }) s
    .next (t.modCtxAt core ctx fun y => { y with reply := some (.wilzia 0#64) })
  else notNow "SETSEED"

/-- WILZIA_ANSWER (R308): a0 := 0 once SETOTO or SETSEED has been served, and all ones for a request that is
not served; beyond Table 12-10 the answer is a free value. PARK has no answer (log 53, DESIGN CHOICE, safe). -/
def execWilziaAnswer (core ctx : Nat) (s : State) : Out :=
  let x := s.ctxAt core ctx
  let sel := (x.request ctx).toNat
  let answer (s : State) (v : BitVec 64) : Out :=
    .next (s.modCtxAt core ctx fun y => { y.setX 10#5 v with pc := y.pc + 4#64, wait := none, reply := none })
  if !s.asks core ctx then notNow "WILZIA_ANSWER"
  else
    match x.reply with
    | some (.wilzia v) => answer s v
    | _ =>
      if (3 ≤ sel ∧ sel ≤ 255) ∨ (sel = 1 ∧ 15 < (x.xr 10#5).toNat) then answer s (BitVec.allOnes 64)
      else if 255 < sel then answer s.takeFresh.1 s.takeFresh.2
      else notNow "WILZIA_ANSWER"

end Sys2Proof.Machine
end

