-- ==== Sys2Proof/Machine/Issue.lean ====
section
/-! DEFINITION. When a blocking wait is over (R37), how time passes (R203, R336), and the timeouts (R37, R203). -/

namespace Sys2Proof.Machine

/-- A partition's run clock counts: from its start to each halt, so while it drains for a pre-emption too, and after a
kill until the launch has ended (R299, R326, R336). -/
def Part.counts (p : Part) : Bool := (p.state == .running || p.state == .preempting || p.state == .killed) && !p.halted

/-- Time passes: the wall clock, and the run clock of every partition that runs (R203, R336). -/
def State.elapse (s : State) (n : Nat) : State :=
  { s with now := s.now + n,
           parts := s.parts.map fun e =>
             if e.2.counts then (e.1, { e.2 with clock := e.2.clock + n }) else e }

/-- Matrix commands of a core that have not ended at a quad, or are on their way to it (R252). -/
def State.quadCommands (s : State) (c q : Nat) : Nat :=
  let u := (s.quad q).unit
  (u.fifo.filter fun m => m.core == c).length + (u.loading.filter fun m => m.core == c).length
    + (u.draining.filter fun d => d.1.core == c).length
    + (s.net.filter fun p => match p.body with | .matrix q' m => q' == q && m.core == c | _ => false).length

/-- PEND as a signed number (Table 8-4). -/
def tbPend (w : BitVec 64) : Int := (w.extractLsb' 0 32).toInt
def tbArem (w : BitVec 64) : Nat := fld w 44 12

/-- A barrier is DONE once it has flipped in its phase: nothing remains (R210, R212; log 10, DEDUCED, unsafe). -/
def tbDone (w : BitVec 64) : Bool := tbArem w == 0 && decide (tbPend w ≤ 0)

/-- The status word at a barrier's key. -/
def State.tbWord (s : State) (key : Nat) : BitVec 64 := word (memRead s.mem key 8)

def State.isLive (s : State) (key : Nat) : Bool := s.live.contains (granuleOf key)

def Ring.slot (r : Ring) (i : Nat) : SlotState := r.slots.getD i .free

/-- Whether what a wait waits for has come. The answers of homes, folds and Wilzia complete their instructions
themselves. -/
def State.waitMet (s : State) (c k : Nat) (w : Wait) : Bool :=
  match w.kind with
  | .presence n => (s.ctxAt c k).present.toNat.testBit n
  | .barrier net ph => decide (ph < (s.core c).barPhase.get (Fin.ofNat 7 net))
  | .transfer key _ => !s.isLive key || tbDone (s.tbWord key)
  | .ring n take =>
    let r := s.ring (clusterOf c) n
    !r.en || (if take then r.slot r.head == .committed else r.slot r.tail == .free)
  | .helper h => !(s.ctxAt c h).live
  | .engineRing => (List.range 16).any fun e => (amGet? (s.cluster (clusterOf c)).ops (inCluster c * 16 + e)).isNone
  | .matrixQueue q => decide ((s.core c).matrixOut < 16) && decide ((s.quad q).unit.fifo.length < 16)
  | .mfence q => s.quadCommands c q == 0
  | .wfe => (s.ctxAt c k).wake
  | .ptouch m => decide (4 ≤ m)
  | .foldAnswer _ | .wilzia => false

/-- The state with a context in hand. -/
def State.at (s : State) (c k : Nat) : State := { s with cur := (c, k) }

-- Timeouts (R37, R203).

/-- Waits that WAITTO bounds and BAR_TIMEOUT ends. -/
def WaitKind.timed : WaitKind → Bool
  | .barrier _ _ | .transfer _ _ | .ring _ _ | .helper _ | .engineRing | .ptouch _ | .matrixQueue _
  | .mfence _ => true
  | .presence _ | .wilzia | .wfe | .foldAnswer _ => false

/-- The cluster at whose fold a context's FRES waits for an entry, a wait that WAITTO bounds too (R258). -/
def State.fresWaits (s : State) (core ctx : Nat) (w : Wait) : Option Nat :=
  match w.kind with
  | .foldAnswer cl => if (s.cluster cl).fold.fres.any fun f => f.core == core && f.ctx == ctx then some cl else none
  | _ => none

/-- An FRES that has timed out no longer waits at its fold. -/
def State.dropFres (s : State) (core ctx : Nat) (at_ : Option Nat) : State :=
  match at_ with
  | none => s
  | some cl => s.modCluster cl fun u =>
      { u with fold := { u.fold with fres := u.fold.fres.filter fun f => !(f.core == core && f.ctx == ctx) } }

/-- Whether a wait has lasted `us` microseconds of the partition's running time. -/
def State.expired (s : State) (c : Nat) (w : Wait) (us : BitVec 64) : Bool :=
  decide (us.toNat * 1800 ≤ s.clockOf c - w.since)

/-- BAR_TIMEOUT (R37): the trap is taken at the waiting instruction, whose condition has not been met. -/
def execBarTimeout (core ctx : Nat) (s : State) : Out :=
  let x := s.ctxAt core ctx
  match x.wait with
  | some w =>
    let fres := s.fresWaits core ctx w
    if (w.kind.timed || fres.isSome) && s.expired core w (s.core core).waitto && !s.waitMet core ctx w then
      .next ((s.dropFres core ctx fres).takeTrap core ctx (trap cBarTimeout w.tval) x.pc [] x.pc)
    else notNow "BAR_TIMEOUT"
  | none => notNow "BAR_TIMEOUT"

/-- The absent register that a wait is for, once PRSTO has expired and while the register is still absent. -/
def State.absentFor (s : State) (core ctx : Nat) (w : Option Wait) : Option Nat :=
  match w with
  | some w =>
    match w.kind with
    | .presence n =>
      if s.expired core w (s.core core).prsto && !(s.ctxAt core ctx).present.toNat.testBit n then some n else none
    | _ => none
  | none => none

/-- A control context's wait for an absent register at a body instruction of the lathe, or at an instruction to be
reissued, has expired: the trap is taken there, once every older instruction has ended (R17, R32, R179, R303). -/
def State.queueAbsent (s : State) (core n : Nat) : Option State :=
  let x := s.ctxAt core 0
  if !x.queue.isEmpty || !x.pending.isEmpty then none
  else
    match x.resume with
    | pc :: rest => some (s.takeTrap core 0 (trap cPresenceTimeout (word n)) pc (pc :: rest) x.pc)
    | [] =>
      match x.body[fld x.lstat 0 4]? with
      | some b => some (s.takeTrap core 0 (trap cPresenceTimeout (word n)) b.2 [] x.pc)
      | none => none

/-- PRESENCE_TIMEOUT (R37), once older work has ended (R32). -/
def execPresenceTimeout (core ctx : Nat) (s : State) : Out :=
  let x := s.ctxAt core ctx
  match (if ctx = 0 then (s.absentFor core 0 x.qwait).bind (s.queueAbsent core) else none) with
  | some t => .next t
  | none =>
    match s.absentFor core ctx x.wait with
    | some n =>
      if x.trapWaits (ctx != 0) then notNow "PRESENCE_TIMEOUT"
      else .next (s.takeTrap core ctx (trap cPresenceTimeout (word n)) x.pc [] x.pc)
    | none => notNow "PRESENCE_TIMEOUT"

end Sys2Proof.Machine
end

