-- ==== Sys2Proof/Machine/Streams.lean ====
section
/-! DEFINITION. Stream ports (R169 to R175): element addresses, prefetch, pops and pushes, and the reading and writing
of f and v registers through them; SBIND, SUNBIND, SSKIP, SSYNC and STREAM_PREFETCH. -/

namespace Sys2Proof.Machine

-- Patterns (R170).

def Port.en (p : Port) : Bool := bitOf p.ctl 13
def Port.isV (p : Port) : Bool := bitOf p.ctl 14
def Port.reg (p : Port) : Nat := fld p.ctl 15 5
def Port.writes (p : Port) : Bool := bitOf p.ctl 12
def Port.dims (p : Port) : Nat := fld p.ctl 3 2 + 1

/-- Element counts c_d of the dimensions in use. -/
def Port.counts (p : Port) : List Nat := (p.b.toList.take p.dims).map fun c => fld c 0 20 + 1

/-- T (R170). -/
def Port.total (p : Port) : Nat := min p.counts.prod (2 ^ 48)

/-- Bytes of an element. -/
def Port.size (p : Port) : Nat := if p.isV then 64 else 2 ^ fld p.ctl 5 2

/-- Σ k_d × STRIDE_d. -/
def strideSum : List Nat → List (BitVec 64) → Nat → BitVec 64
  | c :: cs, st :: sts, k => word (k % c) * st + strideSum cs sts (k / c)
  | _, _, _ => 0#64

/-- The pattern address of a position. -/
def Port.address (p : Port) (k : Nat) : BitVec 64 := p.base + strideSum p.counts p.st.toList k

/-- A failed check as a mark (R174): RACE and SRAM_UNCORR stay, every other cause becomes STREAM. -/
def markOf (t : Trap) : BitVec 8 × BitVec 64 :=
  if t.cause = cRace ∨ t.cause = cSramUncorr then (t.cause, t.tval) else (cStream, t.tval)

/-- A checked read by the control context of a core for a stream (R173). -/
def State.streamRead (s : State) (c : Nat) (ea : BitVec 64) (size : Nat) :
    Except Trap (State × Nat × List Nat) :=
  match s.check c ea size size [.r] false with
  | .error t => .error t
  | .ok m =>
    match s.readAt c 0 ea m size false with
    | .error t => .error t
    | .ok (t, v) => .ok (t, v, granulesOf m.key size)

/-- The element address of a position, through the index in indirect mode. -/
def State.elemAddr (s : State) (c : Nat) (p : Port) (k : Nat) : Except Trap (State × BitVec 64 × List Nat) :=
  if bitOf p.ctl 11 then
    match s.streamRead c (p.address k) (if bitOf p.ctl 10 then 4 else 2) with
    | .error t => .error t
    | .ok (t, u, gs) => .ok (t, p.idx + word (u * 2 ^ fld p.ctl 7 3), gs)
  else .ok (s, p.address k, [])

/-- The granules that an address names, if it names a place. -/
def granulesAt (c : Nat) (ea : BitVec 64) (size : Nat) : List Nat :=
  match resolve c ea size with
  | none => []
  | some m => granulesOf m.key size

/-- A marked element; like any other it is discarded by a store to its granules or its index's (R173). -/
def failed (t : Trap) (gs : List Nat) : Elem :=
  { addr := t.tval, data := 0#512, fail := some (markOf t), raceInfo := t.race.getD 0#64, granules := gs }

/-- The element of a position, read and checked now (R173, R174). -/
def State.readElem (s : State) (c : Nat) (p : Port) (k : Nat) : State × Elem :=
  match s.elemAddr c p k with
  | .error t => (s, failed t (granulesAt c (p.address k) (if bitOf p.ctl 10 then 4 else 2)))
  | .ok (s1, a, gs) =>
    match s1.streamRead c a p.size with
    | .error t => (s1, failed t (gs ++ granulesAt c a p.size))
    | .ok (s2, v, gs2) =>
      (s2, { addr := a, data := BitVec.ofNat 512 v, fail := none, raceInfo := 0#64, granules := gs ++ gs2 })

/-- STREAM_PREFETCH (R173): a read port reads the next element ahead of SSnPOS, at most four. A port whose pop has
trapped waits for TRET (R174). -/
def execStreamPrefetch (core port : Nat) (s : State) : Out :=
  let x := s.ctxAt core 0
  let p := x.port port
  let k := p.pos.toNat + p.fifo.length
  if s.runs core && x.live && p.en && !p.writes && !p.held && decide (p.fifo.length < 4) && decide (k < p.total) then
    let r := s.readElem core p k
    .next (r.1.modCtxAt core 0 fun y => y.setPort port { y.port port with fifo := (y.port port).fifo ++ [r.2] })
  else notNow "STREAM_PREFETCH"

-- Pops and pushes (R172). `s` is the state before the instruction, `t` the state so far.

/-- The enabled port bound to a register of a class, if any; helpers have none. Of two that SSnCTL writes have bound to one
register, the lowest-numbered is taken (log 103, DESIGN CHOICE, unsafe). -/
def State.portOf (s : State) (v : Bool) (r : BitVec 5) : Option Nat :=
  if s.inHelper then none
  else (List.range 4).find? fun n => (s.cx.port n).en && (s.cx.port n).isV == v && (s.cx.port n).reg == r.toNat

/-- STREAM for misuse of a bound register, or beyond the pattern (log 55, DEDUCED, unsafe). -/
def streamTrap (n : Nat) (p : Port) : Trap :=
  { cause := cStream, tval := 0#64, race := none, spos := some (word (n * 2 ^ 48 + p.pos.toNat)) }

/-- The state in which a pop or push traps: that before the instruction, with the records that its reads made
and the faulting port's prefetched elements discarded; it prefetches again after TRET (R174). -/
def State.streamFail (s t : State) (n : Nat) : State :=
  { s with races := t.races, fresh := t.fresh }.modCx fun x => x.setPort n { x.port n with fifo := [], held := true }

/-- SSnPOS after a pop or push: 48 bits, so that after the last element of a pattern of 2^48 it reads 0 (log 32,
DESIGN CHOICE, unsafe). -/
def Port.nextPos (p : Port) : BitVec 64 := word (fld (p.pos + 1#64) 0 48)

/-- Pops the next element of a read port. -/
def State.pop (s t : State) (n : Nat) : Except (State × Trap) (State × BitVec 512) :=
  let p := t.cx.port n
  if p.total ≤ p.pos.toNat then .error (s, streamTrap n p)
  else
    let r : State × Elem × List Elem := match p.fifo with
      | e :: es => (t, e, es)
      | [] => let r := t.readElem t.cur.1 p p.pos.toNat; (r.1, r.2, [])
    match r.2.1.fail with
    | some f =>
      .error (s.streamFail r.1 n,
        { cause := f.1, tval := f.2, race := if f.1 = cRace then some r.2.1.raceInfo else none,
          spos := if f.1 = cSramUncorr then none else some (word (n * 2 ^ 48 + p.pos.toNat)) })
    | none =>
      .ok (r.1.modCx fun x => x.setPort n { x.port n with fifo := r.2.2, pos := p.nextPos }, r.2.1.data)

/-- Pushes bytes through a write port. -/
def State.push (s t : State) (n : Nat) (v : BitVec 512) : Run :=
  let p := t.cx.port n
  let at_ := some (word (n * 2 ^ 48 + p.pos.toNat))
  let no (u : State) (tr : Trap) : Run :=
    let m := markOf tr
    if tr.post.isSome then .error (s, tr)
    else
      .error (s.streamFail u n,
        { cause := m.1, tval := m.2, race := if m.1 = cRace then tr.race else none,
          spos := if m.1 = cSramUncorr then none else at_ })
  if p.total ≤ p.pos.toNat then .error (s, streamTrap n p)
  else
    match t.elemAddr t.cur.1 p p.pos.toNat with
    | .error tr => no t tr
    | .ok (u, ea, _) =>
      match u.check u.cur.1 ea p.size p.size [.w] false with
      | .error tr => no u tr
      | .ok m =>
        match u.access ea m p.size (some (natBytes p.size v.toNat)) with
        | .error tr => no u tr
        | .ok (w, _) => .ok (w.modCx fun x => x.setPort n { x.port n with pos := p.nextPos })

/-- F(r) as a source: an element of a read port bound to it, or the register. -/
def State.readF (s t : State) (r : BitVec 5) : Except (State × Trap) (State × BitVec 64) :=
  match t.portOf false r with
  | none => .ok (t, t.cx.fr r)
  | some n =>
    if (t.cx.port n).writes then .error (s, streamTrap n (t.cx.port n))
    else (s.pop t n).map fun p => (p.1, p.2.setWidth 64)

/-- F(d) := v: through a write port bound to it, or into the register. The sources have been popped before: an element
that fails traps before a read port's register as destination does (log 103, DESIGN CHOICE, unsafe). -/
def State.writeF (s t : State) (d : BitVec 5) (v : BitVec 64) : Run :=
  match t.portOf false d with
  | none => .ok (t.modCx fun x => x.setF d v)
  | some n =>
    if (t.cx.port n).writes then s.push t n (v.setWidth 512) else .error (s, streamTrap n (t.cx.port n))

-- Block sides (R71).

/-- Elements are scaled with 2^0: rule 3 of R71. -/
def freshSide (tag : BitVec 4) : BitVec 64 :=
  if tag = 12#4 then 0x007F007F007F007F#64 else if tag = 10#4 ∨ tag = 11#4 then 0x007F007F#64 else 0#64

/-- The fields of the side that a format uses: rule 2 of R71. -/
def sideMask (tag : BitVec 4) : BitVec 64 :=
  if tag = 12#4 then BitVec.allOnes 64 else if tag = 10#4 ∨ tag = 11#4 then 0x00FF00FF#64 else 0#64

/-- V(r) as a source. -/
def State.readV (s t : State) (r : BitVec 5) : Except (State × Trap) (State × VReg) :=
  match t.portOf true r with
  | none => .ok (t, t.cx.vr r)
  | some n =>
    let p := t.cx.port n
    if p.writes then .error (s, streamTrap n p)
    else
      let tag := BitVec.ofNat 4 (fld p.ctl 20 4)
      (s.pop t n).map fun q => (q.1, { data := q.2, tag := tag, side := freshSide tag })

/-- V(d) := v, after the sources have been popped, as for F (log 103, DESIGN CHOICE, unsafe). -/
def State.writeV (s t : State) (d : BitVec 5) (v : VReg) : Run :=
  match t.portOf true d with
  | none => .ok (t.modCx fun x => x.setV d v)
  | some n => if (t.cx.port n).writes then s.push t n v.data else .error (s, streamTrap n (t.cx.port n))

/-- The old contents of V(d), which no bound register yields (R172). -/
def State.oldV (s t : State) (d : BitVec 5) : Except (State × Trap) VReg :=
  match t.portOf true d with
  | none => .ok (t.cx.vr d)
  | some n => .error (s, streamTrap n (t.cx.port n))

-- The port instructions (R171).

/-- Clears EN of a port and discards its elements. -/
def Port.unbind (p : Port) : Port := { p with ctl := setFld p.ctl 13 1 0, fifo := [], held := false }

/-- SBIND: every other port bound to the register is unbound; the port takes the register. -/
def execSbind (d : BitVec 5) (k : BitVec 1) (p : BitVec 2) (s : State) : Out :=
  gatedRun (.sbind d k p) s fun s =>
    let x := s.cx
    let n := p.toNat
    let c := (x.port n).ctl
    if k = 1#1 ∧ 14 ≤ fld c 20 4 then .error (s, trap cFormat (word (fld c 20 4 * 2 ^ 12)))
    else
      let y := (List.range 4).foldl (fun (y : Ctx) j =>
        if j ≠ n ∧ (y.port j).en ∧ (y.port j).isV = (k == 1#1) ∧ (y.port j).reg = d.toNat
        then y.setPort j (y.port j).unbind else y) x
      let c' := setFld (setFld (setFld c 15 5 d.toNat) 14 1 k.toNat) 13 1 1
      .ok ((s.setCx (y.setPort n { y.port n with ctl := c', fifo := [], held := false })).bump 4)

/-- SUNBIND: SSnPOS is kept; an unbound port is left alone. -/
def execSunbind (p : BitVec 2) (s : State) : Out :=
  gated (.sunbind p) s fun s =>
    .next ((s.modCx fun x =>
      if (x.port p.toNat).en then x.setPort p.toNat (x.port p.toNat).unbind else x).bump 4)

/-- SSKIP: SSnPOS := min(SSnPOS + X(rs1), T) (log 32, DESIGN CHOICE, unsafe). -/
def execSskip (a : BitVec 5) (p : BitVec 2) (s : State) : Out :=
  gated (.sskip a p) s fun s =>
    .next ((s.modCx fun x =>
      let q := x.port p.toNat
      x.setPort p.toNat { q with pos := word (min (q.pos.toNat + (x.xr a).toNat) q.total % 2 ^ 48), fifo := [] }).bump 4)

/-- SSYNC: the named read ports discard what they prefetched; pushes have performed once the queue is empty. -/
def execSsync (m : BitVec 4) (s : State) : Out :=
  gated (.ssync m) s fun s =>
    .next ((s.modCx fun x => (List.range 4).foldl (fun (y : Ctx) n =>
      if m.toNat.testBit n ∧ !(y.port n).writes then y.setPort n { y.port n with fifo := [] } else y) x).bump 4)

end Sys2Proof.Machine
end

