-- ==== Sys2Proof/Machine/VecData.lean ====
section
/-! DEFINITION. The elements of v registers by tag (R69, R70, Tables 3-4 and 3-5), tag checks (R72), and the
rounding and flags of the context in hand (R73 to R76). -/

namespace Sys2Proof.Machine

/-- Width in bits of an element (Table 3-4). -/
def tagWidth (t : BitVec 4) : Nat :=
  match t.toNat with
  | 3 | 8 | 9 => 16
  | 4 | 7 => 32
  | 5 | 6 => 64
  | 12 => 4
  | _ => 8

/-- Elements per register. -/
def tagCount (t : BitVec 4) : Nat := 512 / tagWidth t

def tagF (t : BitVec 4) : Bool := decide (6 ≤ t.toNat ∧ t.toNat ≤ 9)
def tagN (t : BitVec 4) : Bool := decide (1 ≤ t.toNat ∧ t.toNat ≤ 5)
def tagS (t : BitVec 4) : Bool := decide (10 ≤ t.toNat ∧ t.toNat ≤ 12)
def tagOk (t : BitVec 4) : Bool := decide (t.toNat ≤ 13)

/-- The float format of an F or S tag. -/
def tagFmt (t : BitVec 4) : Fmt :=
  match t.toNat with
  | 6 => fp64
  | 8 => bf16
  | 9 => fp16
  | 10 => e5m2
  | 11 => e4m3
  | 12 => e2m1
  | _ => fp32

/-- The integer type of an N tag; U8 alone is unsigned. -/
def tagInt (t : BitVec 4) : IntTy := { w := tagWidth t, signed := t != 2#4 }

/-- n codes of width w from the low end of a number. -/
def unpack (w : Nat) : Nat → Nat → List Nat
  | 0, _ => []
  | n + 1, v => v % 2 ^ w :: unpack w n (v / 2 ^ w)

/-- Codes of width w packed from the low end. -/
def pack (w : Nat) : List Nat → Nat
  | [] => 0
  | c :: cs => c % 2 ^ w + 2 ^ w * pack w cs

/-- The codes of a register's elements. -/
def VReg.codes (v : VReg) : List Nat := unpack (tagWidth v.tag) (tagCount v.tag) v.data.toNat

/-- A register from codes in its tag's width. -/
def VReg.of (tag : BitVec 4) (side : BitVec 64) (cs : List Nat) : VReg :=
  { data := BitVec.ofNat 512 (pack (tagWidth tag) cs), tag := tag, side := side &&& sideMask tag }

/-- SCALEk and SPECk (Table 3-5). -/
def sideScale (side : BitVec 64) (k : Nat) : Nat := fld side (16 * k) 8
def sideSpec (side : BitVec 64) (k : Nat) : Nat := fld side (16 * k + 8) 8

/-- The value of an element by its tag and block (R65, R70, Table 3-1). -/
def elemValue (tag : BitVec 4) (scale spec code : Nat) : Num :=
  if tagS tag then scaledValue (tagFmt tag) code scale spec
  else if tagF tag then (tagFmt tag).decode code
  else .ofInt ((tagInt tag).value code)

/-- The values of a register's elements. -/
def VReg.nums (v : VReg) : List Num :=
  v.codes.mapIdx fun i c => elemValue v.tag (sideScale v.side (i / 32)) (sideSpec v.side (i / 32)) c

/-- The elements as integers, for an N tag. -/
def VReg.ints (v : VReg) : List Int := v.codes.map (tagInt v.tag).value

/-- TVAL of FORMAT (R72): up to three source tags and the destination's. -/
def formatTrap (srcs : List (BitVec 4)) (dst : BitVec 4) : Trap :=
  trap cFormat (word (pack 4 (srcs.map BitVec.toNat) + dst.toNat * 2 ^ 12))

/-- FORMAT unless a condition on the tags holds. -/
def needTags (s : State) (ok : Bool) (srcs : List (BitVec 4)) (dst : BitVec 4) : Except (State × Trap) Unit :=
  if ok then .ok () else .error (s, formatTrap srcs dst)

/-- The rounding of an instruction of the context in hand (R74 to R76). -/
def State.rnd (s : State) (r : BitVec 3) : Rnd :=
  { mode := if r = 7#3 then BitVec.ofNat 3 (fld s.cx.fcsr 5 3) else r, seed := s.me.srseed, j := s.cx.srbase }

/-- Sets sticky flags in FCSR (R73). -/
def State.flags (s : State) (fl : Flg) : State := s.modCx fun x => { x with fcsr := x.fcsr ||| fl.setWidth 64 }

/-- Joins flags. -/
def joinFlags (fs : List Flg) : Flg := fs.foldl (fun a b => a ||| b) 0#5

end Sys2Proof.Machine
end

