-- ==== Sys2Proof/Machine/Fp.lean ====
section
/-! DEFINITION. Scalar floating point (R150 to R161) and its 16-bit forms (R112). Each `run` is an instruction's
effect when it executes; each `exec` passes it through the queue of R31. -/

namespace Sys2Proof.Machine

/-- .S or .D. -/
def fmtSD (f : BitVec 1) : Fmt := if f = 1#1 then fp64 else fp32

/-- S, D, H, B. -/
def fmt4 (e : BitVec 2) : Fmt :=
  match e.toNat with
  | 0 => fp32
  | 1 => fp64
  | 2 => fp16
  | _ => bf16

/-- An FP load of `size` bytes (R151). -/
def runFload (d a : BitVec 5) (imm : BitVec 12) (size : Nat) (s : State) : Run :=
  let ea := s.x a + imm12 imm
  match s.check s.cur.1 ea size size [.r] false with
  | .error t => .error (s, t)
  | .ok m =>
    match s.access ea m size none with
    | .error t => .error (s, t)
    | .ok (t, v) => s.writeF t d (word v)

/-- An FP store of the low `size` bytes (R151). -/
def runFstore (a b : BitVec 5) (imm : BitVec 12) (size : Nat) (s : State) : Run := do
  let ea := s.x a + imm12 imm
  let (t, v) ← s.readF s b
  match t.check t.cur.1 ea size size [.w] false with
  | .error tr => .error (s, tr)
  | .ok m =>
    match t.access ea m size (some (natBytes size v.toNat)) with
    | .error tr => .error (s, tr)
    | .ok (u, _) => .ok u

def runFlh (d a : BitVec 5) (i : BitVec 12) : State → Run := runFload d a i 2
def runFlw (d a : BitVec 5) (i : BitVec 12) : State → Run := runFload d a i 4
def runFld (d a : BitVec 5) (i : BitVec 12) : State → Run := runFload d a i 8
def runFsh (a b : BitVec 5) (i : BitVec 12) : State → Run := runFstore a b i 2
def runFsw (a b : BitVec 5) (i : BitVec 12) : State → Run := runFstore a b i 4
def runFsd (a b : BitVec 5) (i : BitVec 12) : State → Run := runFstore a b i 8

/-- Writes a rounded result and its flags (R150, R73). -/
def State.putF (s t : State) (d : BitVec 5) (r : Res) : Run :=
  (s.writeF t d (word r.code)).map fun u => u.flags r.fl

/-- A two-source operation rounded once (R152). -/
def runF2 (op : Bool → Num → Num → Val) (d a b : BitVec 5) (f : BitVec 1) (r : BitVec 3) (s : State) : Run := do
  let fm := fmtSD f
  let (t, x) ← s.readF s a
  let (t, y) ← s.readF t b
  let rn := s.rnd r
  s.putF t d ((op rn.isRDN (fm.decode x.toNat) (fm.decode y.toNat)).round fm rn)

def runFadd (d a b : BitVec 5) (f : BitVec 1) (r : BitVec 3) : State → Run := runF2 addNum d a b f r
def runFsub (d a b : BitVec 5) (f : BitVec 1) (r : BitVec 3) : State → Run :=
  runF2 (fun k x y => addNum k x y.neg) d a b f r
def runFmul (d a b : BitVec 5) (f : BitVec 1) (r : BitVec 3) : State → Run := runF2 (fun _ => mulNum) d a b f r
def runFdiv (d a b : BitVec 5) (f : BitVec 1) (r : BitVec 3) : State → Run := runF2 (fun _ => divNum) d a b f r

/-- FSQRT (R152). -/
def runFsqrt (d a : BitVec 5) (f : BitVec 1) (r : BitVec 3) (s : State) : Run := do
  let fm := fmtSD f
  let (t, x) ← s.readF s a
  s.putF t d ((sqrtNum (fm.decode x.toNat)).round fm (s.rnd r))

/-- A fused multiply-add (R153): `np` negates the product, `nc` the addend. -/
def runFused (np nc : Bool) (d a b c : BitVec 5) (f : BitVec 1) (r : BitVec 3) (s : State) : Run := do
  let fm := fmtSD f
  let (t, x) ← s.readF s a
  let (t, y) ← s.readF t b
  let (t, z) ← s.readF t c
  let rn := s.rnd r
  let p := fm.decode x.toNat
  let w := fm.decode z.toNat
  s.putF t d ((fmaNum rn.isRDN (if np then p.neg else p) (fm.decode y.toNat) (if nc then w.neg else w)).round fm rn)

def runFmadd (d a b c : BitVec 5) (f : BitVec 1) (r : BitVec 3) : State → Run := runFused false false d a b c f r
def runFmsub (d a b c : BitVec 5) (f : BitVec 1) (r : BitVec 3) : State → Run := runFused false true d a b c f r
def runFnmadd (d a b c : BitVec 5) (f : BitVec 1) (r : BitVec 3) : State → Run := runFused true true d a b c f r
def runFnmsub (d a b c : BitVec 5) (f : BitVec 1) (r : BitVec 3) : State → Run := runFused true false d a b c f r

/-- FMIN and FMAX (R154): no rounding is lost, so no flag but NV is set. -/
def runFminmax (op : Num → Num → Val) (d a b : BitVec 5) (f : BitVec 1) (s : State) : Run := do
  let fm := fmtSD f
  let (t, x) ← s.readF s a
  let (t, y) ← s.readF t b
  s.putF t d ((op (fm.decode x.toNat) (fm.decode y.toNat)).round fm .rne)

def runFmin (d a b : BitVec 5) (f : BitVec 1) : State → Run := runFminmax minNum d a b f
def runFmax (d a b : BitVec 5) (f : BitVec 1) : State → Run := runFminmax maxNum d a b f

/-- A compare into an x register (R155): with `quiet` only a signalling NaN sets NV. -/
def runFcmp (rel : Num → Num → Bool) (quiet : Bool) (d a b : BitVec 5) (f : BitVec 1) (s : State) : Run := do
  let fm := fmtSD f
  let (t, x) ← s.readF s a
  let (t, y) ← s.readF t b
  let u := fm.decode x.toNat
  let v := fm.decode y.toNat
  let fl := if quiet then u.sigFlag ||| v.sigFlag else if u.isNan || v.isNan then flgNV else 0#5
  .ok ((t.setX d (word (b2n (rel u v)))).flags fl)

def leNum (a b : Num) : Bool := ltNum a b || eqNum a b

def runFle (d a b : BitVec 5) (f : BitVec 1) : State → Run := runFcmp leNum false d a b f
def runFlt (d a b : BitVec 5) (f : BitVec 1) : State → Run := runFcmp ltNum false d a b f
def runFeq (d a b : BitVec 5) (f : BitVec 1) : State → Run := runFcmp eqNum true d a b f

/-- The class of a code (R156). -/
def fclassOf (fm : Fmt) (code : Nat) : Nat :=
  let e := code % 2 ^ (fm.w - 1) / 2 ^ fm.p
  match fm.decode code with
  | .nan true => 8
  | .nan false => 9
  | .inf true => 0
  | .inf false => 7
  | .fin neg m _ _ =>
    if m = 0 then (if neg then 3 else 4)
    else if e = 0 then (if neg then 2 else 5)
    else (if neg then 1 else 6)

def runFclass (d a : BitVec 5) (f : BitVec 1) (s : State) : Run := do
  let (t, x) ← s.readF s a
  .ok (t.setX d (word (2 ^ fclassOf (fmtSD f) (x.toNat % 2 ^ (fmtSD f).w))))

/-- Sign injection (R157): `sg a b` is the sign of the result. -/
def runFsign (sg : Bool → Bool → Bool) (d a b : BitVec 5) (f : BitVec 1) (s : State) : Run := do
  let fm := fmtSD f
  let (t, x) ← s.readF s a
  let (t, y) ← s.readF t b
  let k := fm.w - 1
  s.writeF t d (word (x.toNat % 2 ^ k + b2n (sg (x.toNat.testBit k) (y.toNat.testBit k)) * 2 ^ k))

def runFsgnj (d a b : BitVec 5) (f : BitVec 1) : State → Run := runFsign (fun _ b => b) d a b f
def runFsgnjn (d a b : BitVec 5) (f : BitVec 1) : State → Run := runFsign (fun _ b => !b) d a b f
def runFsgnjx (d a b : BitVec 5) (f : BitVec 1) : State → Run := runFsign (fun a b => a != b) d a b f

/-- FCVT between float formats (R158): into e from g. -/
def runFcvtFloatFloat (d a : BitVec 5) (e : BitVec 2) (sat : BitVec 1) (g : BitVec 2) (r : BitVec 3) (s : State) :
    Run := do
  let (t, x) ← s.readF s a
  s.putF t d (roundTo (fmt4 e) (sat == 1#1) (s.rnd r) ((fmt4 g).decode (x.toNat % 2 ^ (fmt4 g).w)))

/-- W, WU, L, LU. -/
def intTy4 (t : BitVec 2) : IntTy := { w := if t.toNat < 2 then 32 else 64, signed := t.toNat % 2 == 0 }

/-- FCVT to an integer (R159). -/
def runFcvtFloatInt (d a : BitVec 5) (e : BitVec 2) (sat : BitVec 1) (ty : BitVec 2) (r : BitVec 3) (s : State) :
    Run := do
  let (t, x) ← s.readF s a
  let q := toInt (intTy4 ty) (sat == 1#1) (s.rnd r) ((fmt4 e).decode (x.toNat % 2 ^ (fmt4 e).w))
  let v := if ty = 0#2 then sext 32 q.code else word q.code
  .ok ((t.setX d v).flags q.fl)

/-- FCVT from an integer (R160). -/
def runFcvtIntFloat (d a : BitVec 5) (e ty : BitVec 2) (r : BitVec 3) (s : State) : Run :=
  let k := intTy4 ty
  s.putF s d (roundTo (fmt4 e) false (s.rnd r) (.ofInt (k.value ((s.x a).toNat % 2 ^ k.w))))

/-- Bits that FMVX and FMVF move (R161). -/
def moveWidth (w : BitVec 2) : Nat :=
  match w.toNat with
  | 0 => 32
  | 1 => 64
  | _ => 16

def runFmvx (d a : BitVec 5) (w : BitVec 2) (s : State) : Run := do
  let (t, x) ← s.readF s a
  .ok (t.setX d (word (x.toNat % 2 ^ moveWidth w)))

def runFmvf (d a : BitVec 5) (w : BitVec 2) (s : State) : Run :=
  s.writeF s d (word ((s.x a).toNat % 2 ^ moveWidth w))

def execFlh (d a : BitVec 5) (i : BitVec 12) (s : State) : Out := viaQueue (.flh d a i) s (runFlh d a i)
def execFlw (d a : BitVec 5) (i : BitVec 12) (s : State) : Out := viaQueue (.flw d a i) s (runFlw d a i)
def execFld (d a : BitVec 5) (i : BitVec 12) (s : State) : Out := viaQueue (.fld d a i) s (runFld d a i)
def execFsh (a b : BitVec 5) (i : BitVec 12) (s : State) : Out := viaQueue (.fsh a b i) s (runFsh a b i)
def execFsw (a b : BitVec 5) (i : BitVec 12) (s : State) : Out := viaQueue (.fsw a b i) s (runFsw a b i)
def execFsd (a b : BitVec 5) (i : BitVec 12) (s : State) : Out := viaQueue (.fsd a b i) s (runFsd a b i)
def execFadd (d a b : BitVec 5) (f : BitVec 1) (r : BitVec 3) (s : State) : Out :=
  viaQueue (.fadd d a b f r) s (runFadd d a b f r)
def execFsub (d a b : BitVec 5) (f : BitVec 1) (r : BitVec 3) (s : State) : Out :=
  viaQueue (.fsub d a b f r) s (runFsub d a b f r)
def execFmul (d a b : BitVec 5) (f : BitVec 1) (r : BitVec 3) (s : State) : Out :=
  viaQueue (.fmul d a b f r) s (runFmul d a b f r)
def execFdiv (d a b : BitVec 5) (f : BitVec 1) (r : BitVec 3) (s : State) : Out :=
  viaQueue (.fdiv d a b f r) s (runFdiv d a b f r)
def execFsqrt (d a : BitVec 5) (f : BitVec 1) (r : BitVec 3) (s : State) : Out :=
  viaQueue (.fsqrt d a f r) s (runFsqrt d a f r)
def execFsgnj (d a b : BitVec 5) (f : BitVec 1) (s : State) : Out := viaQueue (.fsgnj d a b f) s (runFsgnj d a b f)
def execFsgnjn (d a b : BitVec 5) (f : BitVec 1) (s : State) : Out := viaQueue (.fsgnjn d a b f) s (runFsgnjn d a b f)
def execFsgnjx (d a b : BitVec 5) (f : BitVec 1) (s : State) : Out := viaQueue (.fsgnjx d a b f) s (runFsgnjx d a b f)
def execFmin (d a b : BitVec 5) (f : BitVec 1) (s : State) : Out := viaQueue (.fmin d a b f) s (runFmin d a b f)
def execFmax (d a b : BitVec 5) (f : BitVec 1) (s : State) : Out := viaQueue (.fmax d a b f) s (runFmax d a b f)
def execFle (d a b : BitVec 5) (f : BitVec 1) (s : State) : Out := viaQueue (.fle d a b f) s (runFle d a b f)
def execFlt (d a b : BitVec 5) (f : BitVec 1) (s : State) : Out := viaQueue (.flt d a b f) s (runFlt d a b f)
def execFeq (d a b : BitVec 5) (f : BitVec 1) (s : State) : Out := viaQueue (.feq d a b f) s (runFeq d a b f)
def execFclass (d a : BitVec 5) (f : BitVec 1) (s : State) : Out := viaQueue (.fclass d a f) s (runFclass d a f)
def execFcvtFloatFloat (d a : BitVec 5) (e : BitVec 2) (k : BitVec 1) (g : BitVec 2) (r : BitVec 3) (s : State) : Out :=
  viaQueue (.fcvtFloatFloat d a e k g r) s (runFcvtFloatFloat d a e k g r)
def execFcvtFloatInt (d a : BitVec 5) (e : BitVec 2) (k : BitVec 1) (t : BitVec 2) (r : BitVec 3) (s : State) : Out :=
  viaQueue (.fcvtFloatInt d a e k t r) s (runFcvtFloatInt d a e k t r)
def execFcvtIntFloat (d a : BitVec 5) (e t : BitVec 2) (r : BitVec 3) (s : State) : Out :=
  viaQueue (.fcvtIntFloat d a e t r) s (runFcvtIntFloat d a e t r)
def execFmvx (d a : BitVec 5) (w : BitVec 2) (s : State) : Out := viaQueue (.fmvx d a w) s (runFmvx d a w)
def execFmvf (d a : BitVec 5) (w : BitVec 2) (s : State) : Out := viaQueue (.fmvf d a w) s (runFmvf d a w)
def execFmadd (d a b c : BitVec 5) (f : BitVec 1) (r : BitVec 3) (s : State) : Out :=
  viaQueue (.fmadd d a b c f r) s (runFmadd d a b c f r)
def execFmsub (d a b c : BitVec 5) (f : BitVec 1) (r : BitVec 3) (s : State) : Out :=
  viaQueue (.fmsub d a b c f r) s (runFmsub d a b c f r)
def execFnmadd (d a b c : BitVec 5) (f : BitVec 1) (r : BitVec 3) (s : State) : Out :=
  viaQueue (.fnmadd d a b c f r) s (runFnmadd d a b c f r)
def execFnmsub (d a b c : BitVec 5) (f : BitVec 1) (r : BitVec 3) (s : State) : Out :=
  viaQueue (.fnmsub d a b c f r) s (runFnmsub d a b c f r)

-- 16-bit forms (R112): .S, with the rounding mode of FCSR.

def runFadd16 (d b : BitVec 5) : State → Run := runF2 addNum d d b 0#1 7#3
def runFsub16 (d b : BitVec 5) : State → Run := runF2 (fun k x y => addNum k x y.neg) d d b 0#1 7#3
def runFmul16 (d b : BitVec 5) : State → Run := runF2 (fun _ => mulNum) d d b 0#1 7#3
def runFmax16 (d b : BitVec 5) : State → Run := runFminmax maxNum d d b 0#1

def execFadd16 (d b : BitVec 5) (s : State) : Out := viaQueue (.fadd16 d b) s (runFadd16 d b)
def execFsub16 (d b : BitVec 5) (s : State) : Out := viaQueue (.fsub16 d b) s (runFsub16 d b)
def execFmul16 (d b : BitVec 5) (s : State) : Out := viaQueue (.fmul16 d b) s (runFmul16 d b)
def execFmax16 (d b : BitVec 5) (s : State) : Out := viaQueue (.fmax16 d b) s (runFmax16 d b)

end Sys2Proof.Machine
end

