-- ==== Sys2Proof/Machine/Vector.lean ====
section
/-! DEFINITION. Vector arithmetic, comparison, reduction, conversion, permutation and movement (R180, R185 to R196)
and its 16-bit forms (R112). -/

namespace Sys2Proof.Machine

/-- A lane result: its code and flags. -/
abbrev Lanes := List Res

def laneCodes (l : Lanes) : List Nat := l.map Res.code
def laneFlags (l : Lanes) : Flg := joinFlags (l.map Res.fl)

/-- Writes lanes under a tag, and their flags. -/
def State.putV (s t : State) (d : BitVec 5) (tag : BitVec 4) (l : Lanes) : Run :=
  (s.writeV t d (VReg.of tag 0#64 (laneCodes l))).map fun u => u.flags (laneFlags l)

/-- Two sources with equal tags (R185). Sources are popped before the tags are checked: a pop that fails, or that lies
beyond the pattern, raises its STREAM or RACE where the tags would raise FORMAT too (log 72, DESIGN CHOICE,
unsafe). -/
def State.readVV (s : State) (a b : BitVec 5) (ok : BitVec 4 → Bool) :
    Except (State × Trap) (State × VReg × VReg) := do
  let (t, x) ← s.readV s a
  let (t, y) ← s.readV t b
  needTags s (x.tag == y.tag && ok x.tag) [x.tag, y.tag] 0#4
  .ok (t, x, y)

/-- VADD, VSUB, VMUL (Table 7-6): F rounds by rm; N wraps for 7, saturates for 0, and else is FORMAT. -/
def runArith (fop : Bool → Num → Num → Val) (iop : Int → Int → Int) (d a b : BitVec 5) (r : BitVec 3)
    (s : State) : Run := do
  let (t, x, y) ← s.readVV a b fun g => tagF g || (tagN g && (r == 0#3 || r == 7#3))
  if tagF x.tag then
    let rn := s.rnd r
    let fm := tagFmt x.tag
    s.putV t d x.tag ((List.zipWith (fop rn.isRDN) x.nums y.nums).mapIdx fun i v => v.round fm (rn.at i))
  else
    let ty := tagInt x.tag
    s.putV t d x.tag ((List.zipWith iop x.ints y.ints).map fun z =>
      { code := ty.wrap (if r = 0#3 then ty.clamp z else z), fl := 0#5 })

def runVadd (d a b : BitVec 5) (r : BitVec 3) : State → Run := runArith addNum (· + ·) d a b r
def runVsub (d a b : BitVec 5) (r : BitVec 3) : State → Run :=
  runArith (fun k x y => addNum k x y.neg) (· - ·) d a b r
def runVmul (d a b : BitVec 5) (r : BitVec 3) : State → Run := runArith (fun _ => mulNum) (· * ·) d a b r

/-- VMIN, VMAX (Table 7-6). -/
def runVminmax (fop : Num → Num → Val) (iop : Int → Int → Int) (d a b : BitVec 5) (s : State) : Run := do
  let (t, x, y) ← s.readVV a b fun g => tagF g || tagN g
  if tagF x.tag then
    s.putV t d x.tag ((List.zipWith fop x.nums y.nums).map fun v => v.round (tagFmt x.tag) .rne)
  else
    s.putV t d x.tag ((List.zipWith iop x.ints y.ints).map fun z => { code := (tagInt x.tag).wrap z, fl := 0#5 })

def runVmin (d a b : BitVec 5) : State → Run := runVminmax minNum min d a b
def runVmax (d a b : BitVec 5) : State → Run := runVminmax maxNum max d a b

/-- VAND, VOR, VXOR: all 512 bits; the side of vs1 (R185). -/
def runVbits (op : BitVec 512 → BitVec 512 → BitVec 512) (d a b : BitVec 5) (s : State) : Run := do
  let (t, x, y) ← s.readVV a b tagOk
  s.writeV t d { x with data := op x.data y.data, side := x.side &&& sideMask x.tag }

def runVand (d a b : BitVec 5) : State → Run := runVbits (· &&& ·) d a b
def runVor (d a b : BitVec 5) : State → Run := runVbits (· ||| ·) d a b
def runVxor (d a b : BitVec 5) : State → Run := runVbits (· ^^^ ·) d a b

/-- VSHL, VSHR, VSRA: by the low log2 w bits of b. `op w a n` gives the code. -/
def runVshift (op : Nat → Nat → Nat → Nat) (d a b : BitVec 5) (s : State) : Run := do
  let (t, x, y) ← s.readVV a b tagN
  let w := tagWidth x.tag
  s.putV t d x.tag (List.zipWith (fun p q => { code := op w p (q % w), fl := 0#5 }) x.codes y.codes)

def runVshl (d a b : BitVec 5) : State → Run := runVshift (fun w p n => p * 2 ^ n % 2 ^ w) d a b
def runVshr (d a b : BitVec 5) : State → Run := runVshift (fun _ p n => p / 2 ^ n) d a b
def runVsra (d a b : BitVec 5) : State → Run :=
  runVshift (fun w p n =>
    let ty : IntTy := { w := w, signed := true }
    ty.wrap (ty.value p / 2 ^ n)) d a b

/-- The relations of VCMP (R186): EQ, NE, LT, LE, and on codes LTU, LEU. -/
def cmpNum (cc : BitVec 3) (a b : Num) : Bool :=
  match cc.toNat with
  | 0 => eqNum a b
  | 1 => !eqNum a b
  | 2 => ltNum a b
  | _ => leNum a b

def cmpCode (cc : BitVec 3) (a b : Nat) : Bool := if cc = 4#3 then decide (a < b) else decide (a ≤ b)

/-- NV of one comparison. -/
def cmpFlag (cc : BitVec 3) (a b : Num) : Flg :=
  if cc.toNat < 2 then a.sigFlag ||| b.sigFlag else if a.isNan || b.isNan then flgNV else 0#5

/-- The integer tag of a width. -/
def maskTag (w : Nat) : BitVec 4 := if w = 8 then 1#4 else if w = 16 then 3#4 else if w = 32 then 4#4 else 5#4

/-- VCMP (R186). -/
def runVcmp (d a b : BitVec 5) (cc : BitVec 3) (s : State) : Run := do
  let (t, x, y) ← s.readVV a b fun g =>
    if cc.toNat ≤ 3 then tagF g || tagN g || g == 10#4 || g == 11#4 else tagN g
  let w := tagWidth x.tag
  let ones (k : Bool) : Nat := if k then 2 ^ w - 1 else 0
  s.putV t d (maskTag w)
    (if cc.toNat ≤ 3 then
      List.zipWith (fun p q => { code := ones (cmpNum cc p q), fl := cmpFlag cc p q }) x.nums y.nums
    else List.zipWith (fun p q => { code := ones (cmpCode cc p q), fl := 0#5 }) x.codes y.codes)

/-- VABS, VNEG: `fop` on the code of an F element, `iop` on an integer. -/
def runVunary (fop : Nat → Nat → Nat) (iop : Int → Int) (d a : BitVec 5) (s : State) : Run := do
  let (t, x) ← s.readV s a
  needTags s (tagF x.tag || tagN x.tag) [x.tag] 0#4
  let w := tagWidth x.tag
  if tagF x.tag then s.putV t d x.tag (x.codes.map fun c => { code := fop w c, fl := 0#5 })
  else s.putV t d x.tag (x.ints.map fun z => { code := (tagInt x.tag).wrap (iop z), fl := 0#5 })

def runVabs (d a : BitVec 5) : State → Run := runVunary (fun w c => c % 2 ^ (w - 1)) (fun z => z.natAbs) d a
def runVneg (d a : BitVec 5) : State → Run := runVunary (fun w c => c ^^^ 2 ^ (w - 1)) (fun z => -z) d a

/-- VSEL (R187): RAW and E8M0 have elements of 8 bits, and a mask byte of E2M1 selects two elements. -/
def runVsel (d a b c : BitVec 5) (s : State) : Run := do
  let (t, x) ← s.readV s a
  let (t, y) ← s.readV t b
  let (t, m) ← s.readV t c
  let w := if x.tag = 12#4 then 8 else tagWidth x.tag
  needTags s (x.tag == y.tag && tagOk x.tag && tagN m.tag && tagWidth m.tag == w) [x.tag, y.tag, m.tag] 0#4
  let n := 512 / w
  let cs := List.zipWith (fun k (p : Nat × Nat) => if k ≠ 0 then p.1 else p.2) (unpack w n m.data.toNat)
    (List.zip (unpack w n x.data.toNat) (unpack w n y.data.toNat))
  s.writeV t d { x with data := BitVec.ofNat 512 (pack w cs), side := x.side &&& sideMask x.tag }

/-- VFMA, VFMS, VNFMA (R188). -/
def runVfused (np nc : Bool) (d a b c : BitVec 5) (r : BitVec 3) (s : State) : Run := do
  let (t, x) ← s.readV s a
  let (t, y) ← s.readV t b
  let (t, z) ← s.readV t c
  needTags s (x.tag == y.tag && y.tag == z.tag && tagF x.tag) [x.tag, y.tag, z.tag] 0#4
  let rn := s.rnd r
  let fm := tagFmt x.tag
  s.putV t d x.tag ((List.zipWith (fun p (q : Num × Num) =>
      fmaNum rn.isRDN (if np then Num.neg p else p) q.1 (if nc then q.2.neg else q.2)) x.nums
      (List.zip y.nums z.nums)).mapIdx fun i v => v.round fm (rn.at i))

def runVfma (d a b c : BitVec 5) (r : BitVec 3) : State → Run := runVfused false false d a b c r
def runVfms (d a b c : BitVec 5) (r : BitVec 3) : State → Run := runVfused false true d a b c r
def runVnfma (d a b c : BitVec 5) (r : BitVec 3) : State → Run := runVfused true false d a b c r

-- Reductions and dot products.

/-- A value taken into FP32 (R82): the value held and the flags of taking it. -/
def intoFp32 (x : Num) : Num × Flg :=
  let r := roundTo fp32 false .rne x
  (fp32.decode r.code, r.fl)

/-- The leaves of a reduction in FP32, or exactly in FP64. -/
def leaves (v : VReg) : List Num × Flg :=
  if v.tag = 6#4 then (v.nums, 0#5)
  else ((v.nums.map fun x => (intoFp32 x).1), joinFlags (v.nums.map fun x => (intoFp32 x).2))

def accFmt (tag : BitVec 4) : Fmt := if tag = 6#4 then fp64 else fp32

/-- VRED.ADD (R189). -/
def runVredAdd (d a : BitVec 5) (r : BitVec 3) (s : State) : Run := do
  let (t, x) ← s.readV s a
  needTags s (tagF x.tag || tagN x.tag || tagS x.tag) [x.tag] 0#4
  if tagN x.tag then s.writeF t d (BitVec.ofInt 64 x.ints.sum)
  else
    let fm := accFmt x.tag
    let l := leaves x
    let y := tree (addNode fm (s.rnd r)) 8 0 l.1
    let z := roundTo fm false .rne y.1
    s.putF t d { code := z.code, fl := l.2 ||| y.2 }

/-- VRED.MIN, VRED.MAX (R189). -/
def runVredMinmax (fop : Num → Num → Val) (iop : Int → Int → Int) (d a : BitVec 5) (s : State) : Run := do
  let (t, x) ← s.readV s a
  needTags s (tagF x.tag || tagN x.tag || tagS x.tag) [x.tag] 0#4
  if tagN x.tag then s.writeF t d (BitVec.ofInt 64 (x.ints.foldl iop (x.ints.headD 0)))
  else
    let l := leaves x
    let y := tree (fun _ p q => (fop p q, (fop p q).v)) 8 0 l.1
    let z := roundTo (accFmt x.tag) false .rne y.1
    s.putF t d { code := z.code, fl := l.2 ||| y.2 }

def runVredMin (d a : BitVec 5) : State → Run := runVredMinmax minNum min d a
def runVredMax (d a : BitVec 5) : State → Run := runVredMinmax maxNum max d a

/-- The pairs of tags that VDOT accepts (R190). -/
def dotTags (a b : BitVec 4) : Bool :=
  (a == b && (tagF a || a == 1#4 || a == 2#4 || a == 3#4 || a == 12#4))
    || ((a == 10#4 || a == 11#4) && (b == 10#4 || b == 11#4))

/-- The elements of a block before its scale. -/
def VReg.blockNums (v : VReg) (k : Nat) : List Num :=
  ((v.codes.drop (32 * k)).take 32).map fun c => elemValue v.tag 127 (sideSpec v.side k) c

/-- The sum of a group of a scaled dot product, exactly (R190). -/
def dotGroup (rdn : Bool) (x y : VReg) (k : Nat) : Val :=
  let sx := sideScale x.side k
  let sy := sideScale y.side k
  if sx = 255 ∨ sy = 255 then { v := .nan false, fl := 0#5 }
  else
    let p := products (x.blockNums k) (y.blockNums k)
    let e := exactSum rdn p.1
    { v := e.v.scale ((sx : Int) + sy - 254), fl := p.2 ||| e.fl }

/-- VDOT (R190). -/
def runVdot (d a b : BitVec 5) (r : BitVec 3) (s : State) : Run := do
  let (t, x) ← s.readV s a
  let (t, y) ← s.readV t b
  needTags s (dotTags x.tag y.tag) [x.tag, y.tag] 0#4
  let rn := s.rnd r
  if tagN x.tag then s.writeF t d (BitVec.ofInt 64 (List.zipWith (· * ·) x.ints y.ints).sum)
  else if tagF x.tag then
    let p := products x.nums y.nums
    let e := exactSum rn.isRDN p.1
    s.putF t d (({ v := e.v, fl := p.2 ||| e.fl } : Val).round (accFmt x.tag) rn)
  else
    let n := tagCount x.tag / 32
    let gs := (List.range n).map fun k => (dotGroup rn.isRDN x y k).round fp32 (rn.at k)
    let u := tree (addNode fp32 (rn.at n)) 3 0 (gs.map fun g => fp32.decode g.code)
    let z := roundTo fp32 false .rne u.1
    s.putF t d { code := z.code, fl := joinFlags (gs.map Res.fl) ||| u.2 }

-- Conversion and quantisation.

/-- One element converted by Table 3-9 (R77, R191). -/
def convert (dst : BitVec 4) (sat : Bool) (r : Rnd) (src : BitVec 4) (x : Num) (z : Int) : Res :=
  if tagF dst then roundTo (tagFmt dst) sat r x
  else if tagN src then intToInt (tagInt dst) sat z
  else toInt (tagInt dst) sat r x

/-- VCVT (R191). -/
def runVcvt (d a : BitVec 5) (sat : BitVec 1) (tag : BitVec 4) (r : BitVec 3) (s : State) : Run := do
  let (t, x) ← s.readV s a
  needTags s ((tagF x.tag || tagN x.tag || tagS x.tag) && (tagF tag || tagN tag)) [x.tag] tag
  let rn := s.rnd r
  s.putV t d tag (((List.zip x.nums x.ints).take (tagCount tag)).mapIdx fun i p =>
    convert tag (sat == 1#1) (rn.at i) x.tag p.1 p.2)

/-- The second register of VQNT's pair, which no field names: where a write port is bound to it, reading it is STREAM;
where a read port is, it pops nothing and holds what it held at SBIND (log 72, DESIGN CHOICE, unsafe). -/
def State.secondV (s t : State) (r : BitVec 5) : Except (State × Trap) VReg :=
  match t.portOf true r with
  | none => .ok (t.cx.vr r)
  | some n => if (t.cx.port n).writes then .error (s, streamTrap n (t.cx.port n)) else .ok (t.cx.vr r)

/-- VQNT (R192): FP32 takes the register pair; block 0 is quantised and the others are empty. SAT changes
nothing. The flags are those of Table 3-10 (log 33, DEDUCED, unsafe). -/
def runVqnt (d a : BitVec 5) (_sat : BitVec 1) (tag : BitVec 4) (r : BitVec 3) (s : State) : Run := do
  let (t, x) ← s.readV s a
  let pair := x.tag == 7#4 && a.extractLsb' 0 1 == 0#1
  let y ← if pair then s.secondV t (a + 1#5) else .ok x
  needTags s (tagS tag && (x.tag == 8#4 || x.tag == 9#4 || (pair && y.tag == 7#4)))
    (if pair then [x.tag, y.tag] else [x.tag]) tag
  let rn := s.rnd r
  let q := quantBlock (tagFmt tag) rn.at (if x.tag = 7#4 then x.nums ++ y.nums else x.nums)
  let side := setFld (setFld (freshSide tag) 0 8 q.scale) 8 8 q.spec
  (s.writeV t d (VReg.of tag side q.codes)).map fun u => u.flags q.fl

/-- VDQNT (R193). -/
def runVdqnt (d a : BitVec 5) (tag : BitVec 4) (r : BitVec 3) (s : State) : Run := do
  let (t, x) ← s.readV s a
  needTags s (tagS x.tag && (tag == 7#4 || tag == 8#4 || tag == 9#4)) [x.tag] tag
  let rn := s.rnd r
  s.putV t d tag ((x.nums.take (tagCount tag)).mapIdx fun i v => roundTo (tagFmt tag) false (rn.at i) v)

-- Permutation and movement.

/-- VPERM (R194). -/
def runVperm (d a b : BitVec 5) (s : State) : Run := do
  let (t, x) ← s.readV s a
  let (t, y) ← s.readV t b
  let n := tagCount x.tag
  needTags s (tagOk x.tag && tagN y.tag && decide (n ≤ tagCount y.tag)) [x.tag, y.tag] 0#4
  s.writeV t d (VReg.of x.tag x.side ((y.codes.take n).map fun k => x.codes.getD (k % n) 0))

/-- VSHUF (R194). -/
def runVshuf (d a b : BitVec 5) (s : State) : Run := do
  let (t, x) ← s.readV s a
  let (t, y) ← s.readV t b
  needTags s (tagOk x.tag && (y.tag == 1#4 || y.tag == 2#4)) [x.tag, y.tag] 0#4
  let bs := unpack 8 64 x.data.toNat
  s.writeV t d { x with data := BitVec.ofNat 512 (pack 8 (y.codes.map fun k => if k < 128 then bs.getD (k % 64) 0 else 0)),
                        side := x.side &&& sideMask x.tag }

/-- Codes moved by k places up (`up`) or down, zeros entering. -/
def slideCodes (up : Bool) (k : Nat) (cs : List Nat) : List Nat :=
  (List.range cs.length).map fun i =>
    if up then (if i < k then 0 else cs.getD (i - k) 0) else cs.getD (i + k) 0

/-- The blocks of a side moved by k; a vacated block takes SCALE 0x7F and SPEC 0 (R194). -/
def slideSide (tag : BitVec 4) (up : Bool) (k : Nat) (side : BitVec 64) : BitVec 64 :=
  let n := tagCount tag / 32
  let bs := (List.range n).map fun j =>
    if up then (if j < k then 0x7F else fld side (16 * (j - k)) 16)
    else (if j + k < n then fld side (16 * (j + k)) 16 else 0x7F)
  word (pack 16 bs)

/-- VSLIDE (R194). -/
def runVslide (up : Bool) (d a b : BitVec 5) (s : State) : Run := do
  let (t, x) ← s.readV s a
  let k := (s.x b).toNat
  needTags s (tagOk x.tag && (!tagS x.tag || k % 32 == 0)) [x.tag] 0#4
  s.writeV t d (VReg.of x.tag (if tagS x.tag then slideSide x.tag up (k / 32) x.side else x.side)
    (slideCodes up k x.codes))

def runVslideUp (d a b : BitVec 5) : State → Run := runVslide true d a b
def runVslideDown (d a b : BitVec 5) : State → Run := runVslide false d a b

/-- VBCAST (R195): every element of vd := the low bits of a scalar; tag and side are kept. -/
def bcast (v : VReg) (z : BitVec 64) : VReg :=
  { v with data := BitVec.ofNat 512 (pack (tagWidth v.tag)
    (List.replicate (tagCount v.tag) (z.toNat % 2 ^ tagWidth v.tag))) }

def runVbcastX (d a : BitVec 5) (s : State) : Run := do
  let v ← s.oldV s d
  s.writeV s d (bcast v (s.x a))

def runVbcastF (d a : BitVec 5) (s : State) : Run := do
  let v ← s.oldV s d
  let (t, z) ← s.readF s a
  s.writeV t d (bcast v z)

/-- VEXP2, VRCP, VRSQ (R196): FP32 alone, rounded RNE. -/
def runVfun (op : Num → Val) (d a : BitVec 5) (s : State) : Run := do
  let (t, x) ← s.readV s a
  needTags s (x.tag == 7#4) [x.tag] 0#4
  s.putV t d 7#4 (x.nums.map fun v => (op v).round fp32 .rne)

def runVexp2 (d a : BitVec 5) : State → Run := runVfun exp2Num d a
def runVrcp (d a : BitVec 5) : State → Run := runVfun rcpNum d a
def runVrsq (d a : BitVec 5) : State → Run := runVfun rsqrtNum d a

/-- VMOV (R195). -/
def runVmov (d a : BitVec 5) (s : State) : Run := do
  let (t, x) ← s.readV s a
  needTags s (tagOk x.tag) [x.tag] 0#4
  s.writeV t d { x with side := x.side &&& sideMask x.tag }

/-- VMVX (R195): sign-extended for I8, I16 and I32. -/
def runVmvx (d a b : BitVec 5) (s : State) : Run := do
  let (t, x) ← s.readV s a
  needTags s (tagOk x.tag) [x.tag] 0#4
  let c := x.codes.getD (s.x b).toNat 0
  let signed := x.tag == 1#4 || x.tag == 3#4 || x.tag == 4#4
  .ok (t.setX d (if signed then sext (tagWidth x.tag) c else word c))

/-- VMVF (R195). -/
def runVmvf (d a b : BitVec 5) (s : State) : Run := do
  let (t, x) ← s.readV s a
  needTags s (tagOk x.tag) [x.tag] 0#4
  s.writeF t d (word (x.codes.getD (s.x b).toNat 0))

/-- VTAG (R195). -/
def runVtag (d a : BitVec 5) (tag : BitVec 4) (s : State) : Run := do
  let (t, x) ← s.readV s a
  needTags s (tagOk x.tag && tagOk tag) [x.tag] tag
  s.writeV t d { data := x.data, tag := tag, side := freshSide tag }

/-- VSIDE with fn3 0 (R195). -/
def runVsideRead (d a : BitVec 5) (s : State) : Run := do
  let (t, x) ← s.readV s a
  needTags s (tagOk x.tag) [x.tag] 0#4
  .ok (t.setX d x.side)

/-- VSIDE with fn3 1 (R195). -/
def runVsideWrite (d a : BitVec 5) (s : State) : Run := do
  let v ← s.oldV s d
  s.writeV s d { v with side := s.x a &&& sideMask v.tag }

-- 16-bit forms: fn3 = 7.

def runVadd16 (d b : BitVec 5) : State → Run := runArith addNum (· + ·) d d b 7#3
def runVsub16 (d b : BitVec 5) : State → Run := runArith (fun k x y => addNum k x y.neg) (· - ·) d d b 7#3
def runVmul16 (d b : BitVec 5) : State → Run := runArith (fun _ => mulNum) (· * ·) d d b 7#3

def execVadd (d a b : BitVec 5) (r : BitVec 3) (s : State) : Out := viaQueue (.vadd d a b r) s (runVadd d a b r)
def execVsub (d a b : BitVec 5) (r : BitVec 3) (s : State) : Out := viaQueue (.vsub d a b r) s (runVsub d a b r)
def execVmul (d a b : BitVec 5) (r : BitVec 3) (s : State) : Out := viaQueue (.vmul d a b r) s (runVmul d a b r)
def execVmin (d a b : BitVec 5) (s : State) : Out := viaQueue (.vmin d a b) s (runVmin d a b)
def execVmax (d a b : BitVec 5) (s : State) : Out := viaQueue (.vmax d a b) s (runVmax d a b)
def execVand (d a b : BitVec 5) (s : State) : Out := viaQueue (.vand d a b) s (runVand d a b)
def execVor (d a b : BitVec 5) (s : State) : Out := viaQueue (.vor d a b) s (runVor d a b)
def execVxor (d a b : BitVec 5) (s : State) : Out := viaQueue (.vxor d a b) s (runVxor d a b)
def execVshl (d a b : BitVec 5) (s : State) : Out := viaQueue (.vshl d a b) s (runVshl d a b)
def execVshr (d a b : BitVec 5) (s : State) : Out := viaQueue (.vshr d a b) s (runVshr d a b)
def execVsra (d a b : BitVec 5) (s : State) : Out := viaQueue (.vsra d a b) s (runVsra d a b)
def execVcmp (d a b : BitVec 5) (c : BitVec 3) (s : State) : Out := viaQueue (.vcmp d a b c) s (runVcmp d a b c)
def execVabs (d a : BitVec 5) (s : State) : Out := viaQueue (.vabs d a) s (runVabs d a)
def execVneg (d a : BitVec 5) (s : State) : Out := viaQueue (.vneg d a) s (runVneg d a)
def execVsel (d a b c : BitVec 5) (s : State) : Out := viaQueue (.vsel d a b c) s (runVsel d a b c)
def execVfma (d a b c : BitVec 5) (r : BitVec 3) (s : State) : Out :=
  viaQueue (.vfma d a b c r) s (runVfma d a b c r)
def execVfms (d a b c : BitVec 5) (r : BitVec 3) (s : State) : Out :=
  viaQueue (.vfms d a b c r) s (runVfms d a b c r)
def execVnfma (d a b c : BitVec 5) (r : BitVec 3) (s : State) : Out :=
  viaQueue (.vnfma d a b c r) s (runVnfma d a b c r)
def execVredAdd (d a : BitVec 5) (r : BitVec 3) (s : State) : Out := viaQueue (.vredAdd d a r) s (runVredAdd d a r)
def execVredMin (d a : BitVec 5) (s : State) : Out := viaQueue (.vredMin d a) s (runVredMin d a)
def execVredMax (d a : BitVec 5) (s : State) : Out := viaQueue (.vredMax d a) s (runVredMax d a)
def execVdot (d a b : BitVec 5) (r : BitVec 3) (s : State) : Out := viaQueue (.vdot d a b r) s (runVdot d a b r)
def execVcvt (d a : BitVec 5) (k : BitVec 1) (t : BitVec 4) (r : BitVec 3) (s : State) : Out :=
  viaQueue (.vcvt d a k t r) s (runVcvt d a k t r)
def execVqnt (d a : BitVec 5) (k : BitVec 1) (t : BitVec 4) (r : BitVec 3) (s : State) : Out :=
  viaQueue (.vqnt d a k t r) s (runVqnt d a k t r)
def execVdqnt (d a : BitVec 5) (t : BitVec 4) (r : BitVec 3) (s : State) : Out :=
  viaQueue (.vdqnt d a t r) s (runVdqnt d a t r)
def execVperm (d a b : BitVec 5) (s : State) : Out := viaQueue (.vperm d a b) s (runVperm d a b)
def execVshuf (d a b : BitVec 5) (s : State) : Out := viaQueue (.vshuf d a b) s (runVshuf d a b)
def execVslideUp (d a b : BitVec 5) (s : State) : Out := viaQueue (.vslideUp d a b) s (runVslideUp d a b)
def execVslideDown (d a b : BitVec 5) (s : State) : Out := viaQueue (.vslideDown d a b) s (runVslideDown d a b)
def execVbcastX (d a : BitVec 5) (s : State) : Out := viaQueue (.vbcastX d a) s (runVbcastX d a)
def execVbcastF (d a : BitVec 5) (s : State) : Out := viaQueue (.vbcastF d a) s (runVbcastF d a)
def execVexp2 (d a : BitVec 5) (s : State) : Out := viaQueue (.vexp2 d a) s (runVexp2 d a)
def execVrcp (d a : BitVec 5) (s : State) : Out := viaQueue (.vrcp d a) s (runVrcp d a)
def execVrsq (d a : BitVec 5) (s : State) : Out := viaQueue (.vrsq d a) s (runVrsq d a)
def execVmov (d a : BitVec 5) (s : State) : Out := viaQueue (.vmov d a) s (runVmov d a)
def execVmvx (d a b : BitVec 5) (s : State) : Out := viaQueue (.vmvx d a b) s (runVmvx d a b)
def execVmvf (d a b : BitVec 5) (s : State) : Out := viaQueue (.vmvf d a b) s (runVmvf d a b)
def execVtag (d a : BitVec 5) (t : BitVec 4) (s : State) : Out := viaQueue (.vtag d a t) s (runVtag d a t)
def execVsideRead (d a : BitVec 5) (s : State) : Out := viaQueue (.vsideRead d a) s (runVsideRead d a)
def execVsideWrite (d a : BitVec 5) (s : State) : Out := viaQueue (.vsideWrite d a) s (runVsideWrite d a)
def execVadd16 (d b : BitVec 5) (s : State) : Out := viaQueue (.vadd16 d b) s (runVadd16 d b)
def execVsub16 (d b : BitVec 5) (s : State) : Out := viaQueue (.vsub16 d b) s (runVsub16 d b)
def execVmul16 (d b : BitVec 5) (s : State) : Out := viaQueue (.vmul16 d b) s (runVmul16 d b)

end Sys2Proof.Machine
end

