-- ==== Sys2Proof/Machine/VecMem.lean ====
section
/-! DEFINITION. Vector memory (R182 to R184). -/

namespace Sys2Proof.Machine

/-- A checked 64-byte read. -/
def State.vecRead (s : State) (ea : BitVec 64) (size : Nat) : Except Trap (State × Nat) :=
  match s.check s.cur.1 ea size size [.r] false with
  | .error t => .error t
  | .ok m => s.access ea m size none

/-- A checked write. -/
def State.vecWrite (s : State) (ea : BitVec 64) (bytes : List (BitVec 8)) : Except Trap State :=
  match s.check s.cur.1 ea bytes.length bytes.length [.w] false with
  | .error t => .error t
  | .ok m => (s.access ea m bytes.length (some bytes)).map Prod.fst

/-- Address of VLD and VST: SignExt(imm[7:0], 8) × 64. -/
def vldAddr (s : State) (a : BitVec 5) (o : BitVec 8) : BitVec 64 := s.x a + o.signExtend 64 * 64#64

/-- VLD (R182). -/
def runVld (d a : BitVec 5) (tag : BitVec 4) (o : BitVec 8) (s : State) : Run := do
  needTags s (tagOk tag) [] tag
  match s.vecRead (vldAddr s a o) 64 with
  | .error t => .error (s, t)
  | .ok (t, v) => s.writeV t d { data := BitVec.ofNat 512 v, tag := tag, side := freshSide tag }

/-- VST (R182). -/
def runVst (a b : BitVec 5) (o : BitVec 8) (s : State) : Run := do
  let (t, x) ← s.readV s b
  needTags s (tagOk x.tag) [x.tag] 0#4
  match t.vecWrite (vldAddr s a o) (natBytes 64 x.data.toNat) with
  | .error tr => .error (s, tr)
  | .ok u => .ok u

/-- VLDB (R182). -/
def runVldb (d a : BitVec 5) (imm : BitVec 12) (s : State) : Run := do
  let v ← s.oldV s d
  match s.vecRead (s.x a + imm12 imm) 8 with
  | .error t => .error (s, t)
  | .ok (t, w) => s.writeV t d { v with side := word w &&& sideMask v.tag }

-- Long forms (R183, R184).

/-- Replaces the chunk i of eb bytes of a register's data. -/
def setChunk (data : BitVec 512) (eb i v : Nat) : BitVec 512 :=
  let n := data.toNat
  let lo := 2 ^ (8 * eb * i)
  let w := 2 ^ (8 * eb)
  BitVec.ofNat 512 (n - n / lo % w * lo + v % w * lo)

def getChunk (data : BitVec 512) (eb i : Nat) : Nat := data.toNat / 2 ^ (8 * eb * i) % 2 ^ (8 * eb)

/-- The state of a long form that traps at chunk i: PIDX names the chunk, and nothing was popped. -/
def State.longStop (s t : State) (i : Nat) : State :=
  t.modCx fun x =>
    { x with pidx := word i,
             ports := Vector.ofFn fun n =>
               let p := x.ports.get n
               let q := s.cx.ports.get n
               { p with pos := q.pos, fifo := if p.pos = q.pos then p.fifo else [] } }

/-- Chunks i onward of a load, `fuel` of them, into the data so far. -/
def longLoad (s : State) (d : BitVec 5) (tag : BitVec 4) (eb : Nat) (addr : Nat → BitVec 64) :
    Nat → Nat → State → BitVec 512 → Run
  | 0, _, t, data =>
    .ok (t.modCx fun x => { x.setV d { data := data, tag := tag, side := freshSide tag } with pidx := 0#64 })
  | fuel + 1, i, t, data =>
    match t.vecRead (addr i) eb with
    | .error tr =>
      .error (s.longStop (t.modCx fun x => x.setV d { data := data, tag := tag, side := freshSide tag }) i, tr)
    | .ok (u, v) => longLoad s d tag eb addr fuel (i + 1) u (setChunk data eb i v)

/-- Chunks i onward of a store. -/
def longStore (s : State) (eb : Nat) (addr : Nat → BitVec 64) (data : BitVec 512) : Nat → Nat → State → Run
  | 0, _, t => .ok (t.modCx fun x => { x with pidx := 0#64 })
  | fuel + 1, i, t =>
    match t.vecWrite (addr i) (natBytes eb (getChunk data eb i)) with
    | .error tr => .error (s.longStop t i, tr)
    | .ok u => longStore s eb addr data fuel (i + 1) u

/-- Bytes of a chunk. -/
def chunkBytes (e : BitVec 2) : Nat := 2 ^ e.toNat

/-- A strided address (R183). -/
def strided (s : State) (a b : BitVec 5) (i : Nat) : BitVec 64 := s.x a + word i * s.x b

/-- An indexed address: element i of vi, signed but for U8. -/
def indexed (s : State) (a : BitVec 5) (vi : VReg) (eb i : Nat) : BitVec 64 :=
  s.x a + BitVec.ofInt 64 (vi.ints.getD i 0 * eb)

def firstChunk (s : State) : Nat := fld s.cx.pidx 0 7

/-- VLDS (R183). A bound destination raises STREAM: a load of chunks keeps the old bytes (log 11, DEDUCED, unsafe). -/
def runVlds (d a b : BitVec 5) (e : BitVec 2) (tag : BitVec 4) (s : State) : Run := do
  needTags s (tagOk tag) [] tag
  let v ← s.oldV s d
  let eb := chunkBytes e
  longLoad s d tag eb (strided s a b) (64 / eb - firstChunk s) (firstChunk s) s v.data

/-- VSTS (R183). -/
def runVsts (d a b : BitVec 5) (e : BitVec 2) (s : State) : Run := do
  let (t, v) ← s.readV s d
  needTags s (tagOk v.tag) [v.tag] 0#4
  let eb := chunkBytes e
  longStore s eb (strided s a b) v.data (64 / eb - firstChunk s) (firstChunk s) t

/-- The index register's tag: N with an element for each chunk (R183). -/
def indexOk (vi : VReg) (eb : Nat) : Bool := tagN vi.tag && decide (64 / eb ≤ tagCount vi.tag)

/-- VGATHER (R183). -/
def runVgather (d a b : BitVec 5) (e : BitVec 2) (tag : BitVec 4) (s : State) : Run := do
  let (t, vi) ← s.readV s b
  let eb := chunkBytes e
  needTags s (tagOk tag && indexOk vi eb) [vi.tag] tag
  let v ← s.oldV s d
  longLoad s d tag eb (indexed s a vi eb) (64 / eb - firstChunk s) (firstChunk s) t v.data

/-- VSCATTER (R183) (log 50, DEDUCED, unsafe). -/
def runVscatter (d a b : BitVec 5) (e : BitVec 2) (s : State) : Run := do
  let (t, vi) ← s.readV s b
  let (t, v) ← s.readV t d
  let eb := chunkBytes e
  needTags s (indexOk vi eb && tagOk v.tag) [vi.tag, v.tag] 0#4
  longStore s eb (indexed s a vi eb) v.data (64 / eb - firstChunk s) (firstChunk s) t

def execVld (d a : BitVec 5) (t : BitVec 4) (o : BitVec 8) (s : State) : Out :=
  viaQueue (.vld d a t o) s (runVld d a t o)
def execVst (a b : BitVec 5) (o : BitVec 8) (s : State) : Out := viaQueue (.vst a b o) s (runVst a b o)
def execVldb (d a : BitVec 5) (i : BitVec 12) (s : State) : Out := viaQueue (.vldb d a i) s (runVldb d a i)
def execVlds (d a b : BitVec 5) (e : BitVec 2) (t : BitVec 4) (s : State) : Out :=
  viaQueue (.vlds d a b e t) s (runVlds d a b e t)
def execVsts (d a b : BitVec 5) (e : BitVec 2) (s : State) : Out := viaQueue (.vsts d a b e) s (runVsts d a b e)
def execVgather (d a b : BitVec 5) (e : BitVec 2) (t : BitVec 4) (s : State) : Out :=
  viaQueue (.vgather d a b e t) s (runVgather d a b e t)
def execVscatter (d a b : BitVec 5) (e : BitVec 2) (s : State) : Out :=
  viaQueue (.vscatter d a b e) s (runVscatter d a b e)

end Sys2Proof.Machine
end

