-- ==== Sys2Proof/Machine/Lathe.lean ====
section
/-! DEFINITION. The FP/vector queue of the control context (R31, R32, R302, R312) and the lathe (R176 to R179). -/

namespace Sys2Proof.Machine

/-- The effect of a queued instruction when it executes. No other instruction enters the queue; one that a
TDQ register names is refused as ILLEGAL (log 13, DESIGN CHOICE, unsafe). -/
def runQueued : Instr → State → Run
  | .flh d a i, s => runFlh d a i s
  | .flw d a i, s => runFlw d a i s
  | .fld d a i, s => runFld d a i s
  | .fsh a b i, s => runFsh a b i s
  | .fsw a b i, s => runFsw a b i s
  | .fsd a b i, s => runFsd a b i s
  | .fadd d a b f r, s => runFadd d a b f r s
  | .fsub d a b f r, s => runFsub d a b f r s
  | .fmul d a b f r, s => runFmul d a b f r s
  | .fdiv d a b f r, s => runFdiv d a b f r s
  | .fsqrt d a f r, s => runFsqrt d a f r s
  | .fsgnj d a b f, s => runFsgnj d a b f s
  | .fsgnjn d a b f, s => runFsgnjn d a b f s
  | .fsgnjx d a b f, s => runFsgnjx d a b f s
  | .fmin d a b f, s => runFmin d a b f s
  | .fmax d a b f, s => runFmax d a b f s
  | .fle d a b f, s => runFle d a b f s
  | .flt d a b f, s => runFlt d a b f s
  | .feq d a b f, s => runFeq d a b f s
  | .fclass d a f, s => runFclass d a f s
  | .fcvtFloatFloat d a e k g r, s => runFcvtFloatFloat d a e k g r s
  | .fcvtFloatInt d a e k t r, s => runFcvtFloatInt d a e k t r s
  | .fcvtIntFloat d a e t r, s => runFcvtIntFloat d a e t r s
  | .fmvx d a w, s => runFmvx d a w s
  | .fmvf d a w, s => runFmvf d a w s
  | .fmadd d a b c f r, s => runFmadd d a b c f r s
  | .fmsub d a b c f r, s => runFmsub d a b c f r s
  | .fnmadd d a b c f r, s => runFnmadd d a b c f r s
  | .fnmsub d a b c f r, s => runFnmsub d a b c f r s
  | .vld d a t o, s => runVld d a t o s
  | .vst a b o, s => runVst a b o s
  | .vlds d a b e t, s => runVlds d a b e t s
  | .vsts d a b e, s => runVsts d a b e s
  | .vgather d a b e t, s => runVgather d a b e t s
  | .vscatter d a b e, s => runVscatter d a b e s
  | .vldb d a i, s => runVldb d a i s
  | .vadd d a b r, s => runVadd d a b r s
  | .vsub d a b r, s => runVsub d a b r s
  | .vmul d a b r, s => runVmul d a b r s
  | .vmin d a b, s => runVmin d a b s
  | .vmax d a b, s => runVmax d a b s
  | .vand d a b, s => runVand d a b s
  | .vor d a b, s => runVor d a b s
  | .vxor d a b, s => runVxor d a b s
  | .vshl d a b, s => runVshl d a b s
  | .vshr d a b, s => runVshr d a b s
  | .vsra d a b, s => runVsra d a b s
  | .vcmp d a b c, s => runVcmp d a b c s
  | .vabs d a, s => runVabs d a s
  | .vneg d a, s => runVneg d a s
  | .vfma d a b c r, s => runVfma d a b c r s
  | .vfms d a b c r, s => runVfms d a b c r s
  | .vnfma d a b c r, s => runVnfma d a b c r s
  | .vsel d a b c, s => runVsel d a b c s
  | .vredAdd d a r, s => runVredAdd d a r s
  | .vredMin d a, s => runVredMin d a s
  | .vredMax d a, s => runVredMax d a s
  | .vdot d a b r, s => runVdot d a b r s
  | .vcvt d a k t r, s => runVcvt d a k t r s
  | .vqnt d a k t r, s => runVqnt d a k t r s
  | .vdqnt d a t r, s => runVdqnt d a t r s
  | .vperm d a b, s => runVperm d a b s
  | .vshuf d a b, s => runVshuf d a b s
  | .vslideUp d a b, s => runVslideUp d a b s
  | .vslideDown d a b, s => runVslideDown d a b s
  | .vbcastX d a, s => runVbcastX d a s
  | .vbcastF d a, s => runVbcastF d a s
  | .vexp2 d a, s => runVexp2 d a s
  | .vrcp d a, s => runVrcp d a s
  | .vrsq d a, s => runVrsq d a s
  | .vmov d a, s => runVmov d a s
  | .vmvx d a b, s => runVmvx d a b s
  | .vmvf d a b, s => runVmvf d a b s
  | .vtag d a t, s => runVtag d a t s
  | .vsideRead d a, s => runVsideRead d a s
  | .vsideWrite d a, s => runVsideWrite d a s
  | .fadd16 d b, s => runFadd16 d b s
  | .fsub16 d b, s => runFsub16 d b s
  | .fmul16 d b, s => runFmul16 d b s
  | .fmax16 d b, s => runFmax16 d b s
  | .vadd16 d b, s => runVadd16 d b s
  | .vsub16 d b, s => runVsub16 d b s
  | .vmul16 d b, s => runVmul16 d b s
  | i, s => .error (s, trap cIllegal i.bits)

-- The queue.

/-- LITER and LSTAT set back to name an iteration and body index, ACT 1 (R179). -/
def Ctx.latheBack (x : Ctx) (it : BitVec 32) (idx : BitVec 4) : Ctx :=
  { x with liter := setFld x.liter 0 32 it.toNat, lstat := setFld (setFld x.lstat 0 4 idx.toNat) 12 1 1 }

/-- The oldest lathe entry of a list of entries. -/
def oldestLathe (q : List QEntry) : Option (BitVec 32 × BitVec 4) := q.findSome? QEntry.lathe

/-- Whether an instruction of the queue is younger than an access of the integer pipe that is still unacknowledged, so
that it may send its access but take no effect (R102). -/
def Ctx.behind (x : Ctx) (e : QEntry) : Bool := x.pending.any fun p => p.dest != .part && decide (p.id < e.seq)

/-- Younger accesses of the integer pipe before a trap of the queue: PC and x registers as before the oldest that was
refused (R102). -/
def Ctx.rollFailed (x : Ctx) : Ctx :=
  match x.pending.find? fun p => p.fail.isSome with
  | some p => x.rollback p
  | none => x

/-- What an instruction of the queue has written to x registers is older than every access of the integer pipe that
is still unacknowledged: a rollback keeps it (R102). -/
def Ctx.carry (x : Ctx) (i : Instr) : Ctx :=
  { x with pending := x.pending.map fun p =>
      let z := i.uses.wr.foldl (fun (z : Ctx) r => match r with
        | .x n => z.setX (BitVec.ofNat 5 n) (x.xr (BitVec.ofNat 5 n))
        | .f _ | .v _ => z) ({ x with x := p.x0, present := p.present0 } : Ctx)
      { p with x0 := z.x, present0 := z.present } }

/-- The queue at a trap of its oldest entry (R302): the instructions that the lathe issued are discarded and
will be issued again; the others are deferred, which is what the second part lists. -/
def Ctx.deferQueue (x : Ctx) : Ctx × List (BitVec 64) :=
  let y := match oldestLathe x.queue with
    | some p => x.latheBack p.1 p.2
    | none => x
  ({ y with queue := [] }, (x.queue.filter fun e => e.lathe.isNone).map QEntry.pc)

/-- Core c takes a queue trap in a state: its deferred instructions go to TDQ, or when the partition stops to
the resume list, with no trap. -/
def State.queueTrap (s : State) (c : Nat) (tr : Trap) (tepc : BitVec 64) (defer : List (BitVec 64)) : State :=
  if s.stopping c then s.modCtxAt c 0 fun x => { x with resume := defer }
  else s.takeTrap c 0 tr tepc defer (s.ctxAt c 0).pc

/-- The oldest instruction sends the access that it needs (R102). -/
def State.sendPart (s : State) (c : Nat) (a : Access) : Option State :=
  if s.maySend c 0 a then some (s.addPending c 0 a .part) else none

/-- The oldest queue entry executes: it completes and leaves the queue, or sends an access whose answer it needs, or
traps precisely (R32); none where it must wait. -/
def State.drainHead (s : State) (c : Nat) (e : QEntry) : Option State :=
  let cur := s.cur
  let x := s.ctxAt c 0
  match runQueued e.ins (s.at c 0) with
  | .ok t =>
    if x.behind e then none
    else some { t.modCtxAt c 0 fun x => (({ x with queue := x.queue.tail } : Ctx).carry e.ins).answered with cur := cur }
  | .error (t, tr) =>
    match tr.post with
    | some a => s.sendPart c a
    | none =>
      if x.behind e || x.pending.any fun p => !p.acked then none
      else
        let d := (t.ctxAt c 0).rollFailed.deferQueue
        let u := t.setCtxAt c 0 d.1.noAnswers
        some { u.queueTrap c tr e.pc (if e.lathe.isSome then [] else d.2) with cur := cur }

/-- Begins the wait for an absent register at the head of the lathe or of the resume list, if it has not begun
(R17). -/
def State.awaitQueue (s : State) (c n : Nat) : Option State :=
  let x := s.ctxAt c 0
  if (x.qwait.map Wait.kind) = some (.presence n) then none
  else some (s.setCtxAt c 0 { x with qwait := some { kind := .presence n, since := s.clockOf c, tval := word n } })

-- The quad's vector unit (R18, R36).

/-- The gate's answer for the next instruction of a context. -/
def State.nextGate (s : State) (c k : Nat) : Except Trap (State × Instr × Gate) :=
  let t := s.at c k
  match t.fetch c k t.cx.pc with
  | .error e => .error e
  | .ok (u, i) => .ok (u, i, u.gate i)

/-- A context that no wait keeps from its next instruction, and no fetch. -/
def State.awake (s : State) (c k : Nat) : Bool :=
  let x := s.ctxAt c k
  x.live && !x.finished && (match x.wait with | none => true | some w => s.waitMet c k w) && !s.fetchWaits c x.pc 2

/-- The core's oldest queued instruction is a vector instruction that can go on. -/
def State.queueVec (s : State) (c : Nat) : Bool :=
  match (s.ctxAt c 0).queue with
  | e :: _ => e.ins.isVec && (s.runs c || s.stopping c) && (s.drainHead c e).isSome
  | [] => false

/-- The first instruction to be reissued, once the queue is empty, with its PC and the PCs behind it. -/
def State.nextResume (s : State) (c : Nat) : Option (BitVec 64 × List (BitVec 64)) :=
  let x := s.ctxAt c 0
  match x.queue, x.resume with
  | [], pc :: rest => some (pc, rest)
  | _, _ => none

/-- The absent x source of the first instruction to be reissued (R17). -/
def State.resumeAbsent (s : State) (c : Nat) : Option Nat :=
  (s.nextResume c).bind fun r =>
    match s.fetch c 0 r.1 with
    | .ok (t, i) => if i.illegalReg false then none else (t.ctxAt c 0).absentReg i
    | .error _ => none

/-- The first instruction to be reissued is a vector instruction that can issue. -/
def State.resumeVec (s : State) (c : Nat) : Bool :=
  match s.nextResume c with
  | some r =>
    s.slotOpen c && (s.resumeAbsent c).isNone &&
      match s.fetch c 0 r.1 with
      | .ok (_, i) => i.isVec && !i.illegalReg false
      | .error _ => false
  | none => false

/-- The next instruction of a helper is a vector instruction that can go on. -/
def State.helperVec (s : State) (c k : Nat) : Bool :=
  s.awake c k && !(s.ctxAt c k).regBad &&
    match s.nextGate c k with
    | .ok (u, i, .go) =>
      i.isVec && match runQueued i u with
        | .ok _ => u.cx.pending.isEmpty
        | .error (_, tr) =>
          match tr.post with
          | some a => u.maySend c k a
          | none => !u.cx.trapWaits true
    | _ => false

/-- A core has a ready vector instruction: of its queue, to be reissued, or of a helper in an open issue slot (log 93,
DEDUCED, safe). -/
def State.wantsVec (s : State) (c : Nat) : Bool :=
  s.queueVec c || s.resumeVec c || (s.slotOpen c && ((List.range 10).any fun h => s.helperVec c (h + 1)))

/-- The quad's vector unit serves a core in this cycle: its slot is free, and no other core of the quad whose turn
comes first, round-robin after the core served last, has a ready vector instruction (R18, R36). -/
def State.vecTurn (s : State) (c : Nat) : Bool :=
  let q := quadOf c
  let u := s.quad q
  decide (u.vecFree ≤ s.cycleOf c) &&
    ((((List.range 4).map fun j => q * 4 + (u.vecLast + 1 + j) % 4).takeWhile fun d => d != c).all fun d => !s.wantsVec d)

/-- The vector unit has served a core in this cycle. -/
def State.takeVec (s : State) (c : Nat) : State :=
  s.modQuad (quadOf c) fun u => { u with vecFree := s.cycleOf c + 1, vecLast := c % 4 }

/-- An instruction may execute in this cycle: a vector instruction, only in its core's turn. -/
def State.vecOpen (s : State) (c : Nat) (i : Instr) : Bool := !i.isVec || s.vecTurn c

/-- The first instruction that a TRET or a restore reissues takes the core's issue slot: it is fetched, checked and
executed (R30, R303, R312). None where it must wait. -/
def State.drainResume (s : State) (c : Nat) (pc : BitVec 64) (rest : List (BitVec 64)) : Option State :=
  let stop (t : State) (tr : Trap) : Option State := some ((t.issuedBy c 0).queueTrap c tr pc (pc :: rest))
  match s.fetch c 0 pc with
  | .error tr => stop s tr
  | .ok (t, .illegalEncoding _ bits) => stop t (trap cIllegal (bits.setWidth 64))
  | .ok (t, i) =>
    if i.illegalReg false then stop t (trap cIllegalReg i.bits)
    else if !t.vecOpen c i then none
    else
      let cur := t.cur
      let t := (if i.isVec then t.takeVec c else t).issuedBy c 0
      match runQueued i (t.at c 0) with
      | .ok u =>
        some { u.modCtxAt c 0 fun x => { x with resume := rest, qwait := none }.answered with cur := cur }
      | .error (u, tr) =>
        match tr.post with
        | some a => t.sendPart c a
        | none => (stop u tr).map fun v => { v with cur := cur }

/-- The queue's next step: its oldest instruction, or where it is empty the first instruction to be reissued, which waits
for an absent x source (R17) and else takes an issue cycle that FDUTY allows (R33). Accesses that were refused and waited
for older work are settled after it. -/
def State.drain (s : State) (core : Nat) : Option State :=
  match (s.ctxAt core 0).queue with
  | e :: _ =>
    if s.vecOpen core e.ins then
      ((if e.ins.isVec then s.takeVec core else s).drainHead core e).map fun t => t.settle core 0 4
    else none
  | [] =>
    match s.nextResume core, s.resumeAbsent core with
    | some _, some n => if s.runs core then s.awaitQueue core n else none
    | some r, none => if s.slotOpen core && !s.fetchWaits core r.1 2 then s.drainResume core r.1 r.2 else none
    | none, _ => none

/-- The control context's next issue is of an instruction to be reissued. -/
def State.reissues (s : State) (core : Nat) : Bool :=
  match s.nextResume core with
  | some r =>
    (s.resumeAbsent core).isNone && s.slotOpen core && !s.fetchWaits core r.1 2 && (s.drainResume core r.1 r.2).isSome
  | none => false

/-- FP_VECTOR_QUEUE_DRAIN (R31). -/
def execFpVectorQueueDrain (core : Nat) (s : State) : Out :=
  if s.runs core || s.stopping core then
    match s.drain core with
    | some t => .next t
    | none => notNow "FP_VECTOR_QUEUE_DRAIN"
  else notNow "FP_VECTOR_QUEUE_DRAIN"

-- The lathe.

/-- Length of a fetched pattern, an illegal one by its bit 0 (R107). -/
def fetchedLen : Instr → Nat
  | .illegalEncoding short _ => if short then 2 else 4
  | i => i.len

/-- n instructions from an address on, with their addresses; or the trap of a fetch and the address of the
instruction that could not be fetched. -/
def State.fetchBody (s : State) (c : Nat) :
    Nat → BitVec 64 → Except (Trap × BitVec 64) (State × List (Instr × BitVec 64))
  | 0, _ => .ok (s, [])
  | n + 1, pc =>
    match s.fetch c 0 pc with
    | .error t => .error (t, pc)
    | .ok (u, i) =>
      match u.fetchBody c n (pc + word (fetchedLen i)) with
      | .error e => .error e
      | .ok (v, is_) => .ok (v, (i, pc) :: is_)

def Reg.isX : Reg → Bool
  | .x _ => true
  | _ => false

/-- Instructions permitted in a body (R176): FP and vector instructions that write no x register. -/
def bodyOk (i : Instr) : Bool := i.queued && !(i.uses.wr.any Reg.isX)

/-- The first failure of a body's check (R176 step 2). -/
def bodyTrap : List (Instr × BitVec 64) → Option Trap
  | [] => none
  | (.illegalEncoding _ bits, _) :: _ => some (trap cIllegal (bits.setWidth 64))
  | (i, _) :: rest =>
    if !bodyOk i then some (trap cIllegal i.bits)
    else if i.illegalReg false then some (trap cIllegalReg i.bits)
    else bodyTrap rest

/-- The address after a body. -/
def bodyEnd (start : BitVec 64) (b : List (Instr × BitVec 64)) : BitVec 64 :=
  b.foldl (fun a e => a + word (fetchedLen e.1)) start

/-- FREP and FREPI (R176, R178): L − 1 is `last`. One in a K handler that has cleared ACT issues, and the lathe issues
its body before the TRET: R179 lets it wait no longer (log 71, DEDUCED, unsafe). -/
def frep (i : Instr) (n : BitVec 4) (last : State → Nat) (s : State) : Out :=
  gated i s fun s =>
    let start := s.cx.pc + 4#64
    if s.fetchWaits s.cur.1 start (2 * n.toNat + 2) then .next s else
    match s.fetchBody s.cur.1 (n.toNat + 1) start with
    | .error e => s.raise s e.1
    | .ok (t, b) =>
      match bodyTrap b with
      | some tr => t.raise t tr
      | none =>
        .next ((t.modCx fun x =>
          { x with lbase := start, liter := word (last s * 2 ^ 32), lstat := word (4096 + n.toNat * 256),
                   body := b, latheHeld := false, refetch := false }).jump (bodyEnd start b))

def execFrep (a : BitVec 5) (n : BitVec 4) (s : State) : Out := frep (.frep a n) n (fun s => fld (s.x a) 0 32) s
def execFrepi (c : BitVec 8) (n : BitVec 4) (s : State) : Out := frep (.frepi c n) n (fun _ => c.toNat) s

/-- The state after a body instruction has issued: the next index, and ACT 0 after the last of the last
iteration (R178). Beyond it IDX reads 0 and ITER stays at LAST (log 14, DESIGN CHOICE, unsafe). -/
def Ctx.latheStep (x : Ctx) : Ctx :=
  let idx := fld x.lstat 0 4
  if idx < fld x.lstat 8 4 then { x with lstat := setFld x.lstat 0 4 (idx + 1) }
  else if fld x.liter 0 32 < fld x.liter 32 32 then
    { x with lstat := setFld x.lstat 0 4 0, liter := setFld x.liter 0 32 (fld x.liter 0 32 + 1) }
  else { x with lstat := setFld (setFld x.lstat 0 4 0) 12 1 0 }

/-- The address of the body instruction that LSTAT names: found by the lengths of those before it, as far as they can be
fetched, or as the body that was fetched from LBASE before had it; where neither tells, a free value (log 94, DEDUCED,
safe). -/
def State.bodyPc (s : State) (c : Nat) : State × BitVec 64 :=
  let x := s.ctxAt c 0
  match s.fetchBody c (fld x.lstat 0 4) x.lbase, x.body[fld x.lstat 0 4]? with
  | .ok (_, b), _ => (s, bodyEnd x.lbase b)
  | .error _, some e => if (x.body.head?.map Prod.snd) = some x.lbase then (s, e.2) else s.takeFresh
  | .error _, none => s.takeFresh

/-- The body is fetched again after a TRET or a restore; a failure traps at the body instruction that LITER and
LSTAT name (R179). -/
def State.refetch (s : State) (c : Nat) : State :=
  let x := s.ctxAt c 0
  let fail (t : State) (tr : Trap) : State :=
    let p := t.bodyPc c
    p.1.takeTrap c 0 tr p.2 [] x.pc
  match s.fetchBody c (fld x.lstat 8 4 + 1) x.lbase with
  | .error e => fail s e.1
  | .ok (t, b) =>
    match bodyTrap b with
    | some tr => fail t tr
    | none => t.modCtxAt c 0 fun y => { y with body := b, refetch := false }

/-- The lathe may issue in this cycle: one body instruction a cycle, as FDUTY allows (R33, R178), and none while an
access is unacknowledged (R102). -/
def State.latheOpen (s : State) (core : Nat) : Bool :=
  let x := s.ctxAt core 0
  s.runs core && s.dutyOk core && decide ((s.core core).latheFree ≤ s.cycleOf core) && x.live && bitOf x.lstat 12
    && !x.latheHeld && x.resume.isEmpty && x.pending.all fun p => p.acked

/-- The lathe has a body instruction to issue, whatever FDUTY allows (R393). -/
def State.latheCould (s : State) (core : Nat) : Bool :=
  let x := s.ctxAt core 0
  x.live && bitOf x.lstat 12 && !x.latheHeld && x.resume.isEmpty && decide (x.queue.length < 8)
    && match x.body[fld x.lstat 0 4]? with
      | some b => (x.absentReg b.1).isNone
      | none => false

/-- The lathe's next step; none where it must wait. An absent x source begins a wait that PRSTO bounds (R17, R37). -/
def State.lathe (s : State) (core : Nat) : Option State :=
  let x := s.ctxAt core 0
  if !s.latheOpen core then none
  else if x.refetch then
    (if x.queue.isEmpty && !s.fetchWaits core x.lbase (2 * fld x.lstat 8 4 + 2) then some (s.refetch core) else none)
  else
    match x.body[fld x.lstat 0 4]? with
    | none => none
    | some (i, pc) =>
      match x.absentReg i with
      | some n => s.awaitQueue core n
      | none =>
        if 8 ≤ x.queue.length then none
        else
          let e : QEntry :=
            { ins := i, pc := pc,
              lathe := some (BitVec.ofNat 32 (fld x.liter 0 32), BitVec.ofNat 4 (fld x.lstat 0 4)), seq := 0 }
          some ((s.setCtxAt core 0 { Ctx.latheStep x with queue := x.queue ++ [e], qwait := none }).modCore core fun r =>
            { r with latheFree := s.cycleOf core + 1 })

/-- The absent x source of the lathe's next body instruction, where nothing else but FDUTY keeps the lathe. -/
def State.latheAbsent (s : State) (core : Nat) : Option Nat :=
  let x := s.ctxAt core 0
  if s.runs core && x.live && x.latheActive && x.resume.isEmpty && !x.refetch && x.pending.all fun p => p.acked then
    (x.body[fld x.lstat 0 4]?).bind fun b => x.absentReg b.1
  else none

/-- LATHE_ISSUE (R178): the next body instruction enters the queue, when there is room, its x sources are
present, and FDUTY allows it. -/
def execLatheIssue (core : Nat) (s : State) : Out :=
  match s.lathe core with
  | some t => .next t
  | none => notNow "LATHE_ISSUE"

end Sys2Proof.Machine
end

