-- ==== Sys2Proof/Machine/BitBuf.lean ====
section
/-! DEFINITION. The bit buffer (R197 to R200). -/

namespace Sys2Proof.Machine

def Ctx.bbMode (x : Ctx) : Nat := fld x.bbcnt 7 2
def Ctx.bbCount (x : Ctx) : Nat := fld x.bbcnt 0 7

/-- The window's valid bits as a number of COUNT bits. -/
def Ctx.bbBits (x : Ctx) : Nat := x.bbwin.toNat / 2 ^ (64 - min x.bbCount 64)

/-- WIN with n bits written below its valid ones, as the upper half of 128 bits; the bits below those stay. -/
def Ctx.bbPut (x : Ctx) (n bits : Nat) : Nat :=
  let c := min x.bbCount 64
  x.bbBits * 2 ^ (128 - c) + bits % 2 ^ n * 2 ^ (128 - c - n) + (x.bbwin.toNat % 2 ^ (64 - c - n)) * 2 ^ 64

/-- The window is a number, with COUNT and MODE. -/
def Ctx.setBb (x : Ctx) (mode n win : Nat) : Ctx := { x with bbwin := word win, bbcnt := word (mode * 128 + n) }

/-- A checked access to one byte of the bit stream: BITBUF for a check of R51, RACE and BARRIER_WORD as for an
LBU or SB (R198, R200; log 16, DEDUCED, unsafe). -/
def State.bbCheck (s : State) (ea : BitVec 64) (right : Right) : Except Trap Mesh :=
  match s.check s.cur.1 ea 1 1 [right] false with
  | .error _ => .error (trap cBitbuf ea)
  | .ok m => .ok m

/-- Refill (R198): bytes at BBPTR while COUNT < m and BBPTR < BBEND, `fuel` at most. -/
def State.bbRefill (s : State) (m : Nat) : Nat → Except Trap State
  | 0 => .ok s
  | fuel + 1 =>
    let x := s.cx
    let n := x.bbCount
    if m ≤ n ∨ x.bbend.toNat ≤ x.bbptr.toNat then .ok s
    else
      match s.bbCheck x.bbptr .r with
      | .error t => .error t
      | .ok a =>
        match s.access x.bbptr a 1 none with
        | .error t => .error t
        | .ok (t, v) =>
          (t.modCx fun y => { (y.setBb y.bbMode (n + 8) (x.bbPut 8 v / 2 ^ 64)) with bbptr := y.bbptr + 1#64 }).bbRefill
            m fuel

/-- The read side of an instruction that takes m bits: BITBUF in WRITE mode; the first sets READ; refill. -/
def State.bbRead (s : State) (m : Nat) : Except Trap State :=
  let x := s.cx
  if x.bbMode = 2 then .error (trap cBitbuf 0#64)
  else (s.modCx fun y => { y with bbcnt := setFld y.bbcnt 7 2 1 }).bbRefill m 8

/-- The top n bits, bits beyond COUNT read as 0. -/
def Ctx.bbTop (x : Ctx) (n : Nat) : Nat :=
  if n ≤ x.bbCount then x.bbBits / 2 ^ (x.bbCount - n) else x.bbBits * 2 ^ (n - x.bbCount)

/-- Takes n valid bits: WIN := WIN << n, COUNT −= n. -/
def Ctx.bbTake (x : Ctx) (n : Nat) : Ctx := x.setBb x.bbMode (x.bbCount - n) (x.bbwin <<< n).toNat

/-- n of an encoding is its field plus 1. -/
def bbN (n : BitVec 5) : Nat := n.toNat + 1

/-- A trap of these instructions changes nothing. -/
def bbRun (s : State) (r : Except Trap State) : Run :=
  match r with
  | .error t => .error (s, t)
  | .ok t => .ok t

/-- BBINIT (Table 7-9) (log 54, DEDUCED, unsafe). -/
def execBbinit (a b : BitVec 5) (s : State) : Out :=
  gatedRun (.bbinit a b) s fun s =>
    let x := s.x a
    let y := s.x b
    if bitOf x 63 then .error (s, trap cAddr x)
    else if bitOf y 63 ∨ y.toNat < x.toNat then .error (s, trap cAddr y)
    else .ok ((s.modCx fun c => { c with bbptr := x, bbend := y, bbwin := 0#64, bbcnt := 0#64 }).bump 4)

/-- BBGET and BBSKIP. -/
def bbGet (s : State) (n : Nat) (write : Nat → State → State) : Run :=
  bbRun s (do
    let t ← s.bbRead n
    if t.cx.bbCount < n then .error (trap cBitbuf t.cx.bbend)
    else .ok (write (t.cx.bbTop n) (t.modCx fun x => x.bbTake n)))

def execBbget (d n : BitVec 5) (s : State) : Out :=
  gatedOrder (.bbget d n) s fun s => bbGet s (bbN n) fun v t => t.setX d (word v)

def execBbskip (n : BitVec 5) (s : State) : Out := gatedOrder (.bbskip n) s fun s => bbGet s (bbN n) fun _ t => t

/-- BBPEEK. -/
def execBbpeek (d n : BitVec 5) (s : State) : Out :=
  gatedOrder (.bbpeek d n) s fun s =>
    bbRun s (do
      let t ← s.bbRead (bbN n)
      .ok (t.setX d (word (t.cx.bbTop (bbN n)))))

/-- BBDEC (R199). -/
def execBbdec (d a : BitVec 5) (k : BitVec 4) (s : State) : Out :=
  gatedOrder (.bbdec d a k) s fun s =>
    bbRun s (do
      let t ← s.bbRead (k.toNat + 1)
      let ea := s.x a + word (2 * t.cx.bbTop (k.toNat + 1))
      let m ← t.check t.cur.1 ea 2 2 [.r] false
      let (u, e) ← t.access ea m 2 none
      let len := e % 32
      if len = 0 ∨ k.toNat + 1 < len then .error (trap cBitbuf ea)
      else if u.cx.bbCount < len then .error (trap cBitbuf u.cx.bbend)
      else .ok ((u.modCx fun x => x.bbTake len).setX d (word (e / 32))))

/-- The first failure of n bytes to be written from an address on (R200). The granules of another place are checked
there, as the byte is written (R102). -/
def State.bbWritable (s : State) (ea : BitVec 64) : Nat → Except Trap Unit
  | 0 => .ok ()
  | n + 1 =>
    if s.cx.bbend.toNat ≤ ea.toNat then .error (trap cBitbuf ea)
    else
      match s.bbCheck ea .w with
      | .error t => .error t
      | .ok m =>
        match (if ownLocal s.cur.1 m then s.granuleTrap s.cur.1 ea (granulesOf m.key 1) true false else none) with
        | some t => .error t
        | none => s.bbWritable (ea + 1#64) n

/-- Writes bytes at BBPTR one by one. -/
def State.bbWrite (s : State) : List (BitVec 8) → Except Trap State
  | [] => .ok s
  | b :: bs =>
    let ea := s.cx.bbptr
    match s.bbCheck ea .w with
    | .error t => .error t
    | .ok m =>
      match s.access ea m 1 (some [b]) with
      | .error t => .error t
      | .ok (t, _) => (t.modCx fun x => { x with bbptr := x.bbptr + 1#64 }).bbWrite bs

/-- The whole bytes at the top of `bits`, of which there are `n`, first byte first. -/
def topBytes (bits n : Nat) : List (BitVec 8) :=
  (List.range (n / 8)).map fun j => BitVec.ofNat 8 (bits / 2 ^ (n - 8 * (j + 1)))

/-- BBEMIT (R200). -/
def execBbemit (a n : BitVec 5) (s : State) : Out :=
  gatedOrder (.bbemit a n) s fun s =>
    bbRun s (do
      let x := s.cx
      if x.bbMode = 1 then .error (trap cBitbuf 0#64)
      let k := x.bbCount + bbN n
      let bits := x.bbBits * 2 ^ bbN n + (s.x a).toNat % 2 ^ bbN n
      s.bbWritable x.bbptr (k / 8)
      let t ← s.bbWrite (topBytes bits k)
      .ok (t.modCx fun y => y.setBb 2 (k % 8) (x.bbPut (bbN n) (s.x a).toNat * 2 ^ (k / 8 * 8) / 2 ^ 64 % 2 ^ 64)))

/-- What BBFLUSH does by mode (R200). -/
def State.bbFlush (s : State) : Except Trap State :=
  let x := s.cx
  match x.bbMode with
  | 2 =>
    if x.bbCount = 0 then .ok s
    else do
      s.bbWritable x.bbptr 1
      let t ← s.bbWrite [BitVec.ofNat 8 (x.bbTop 8)]
      .ok (t.modCx fun y => { y with bbcnt := setFld y.bbcnt 0 7 0 })
  | 1 => .ok (s.modCx fun y => { (y.setBb 0 0 0) with bbptr := y.bbptr - word (y.bbCount / 8) })
  | _ => .ok s

def execBbflush (s : State) : Out := gatedOrder .bbflush s fun s => bbRun s s.bbFlush

/-- BBALIGN (Table 7-9). -/
def execBbalign (s : State) : Out :=
  gatedOrder .bbalign s fun s =>
    bbRun s (if s.cx.bbMode = 1 then .ok (s.modCx fun x => x.bbTake (x.bbCount % 8))
             else if s.cx.bbMode = 2 then s.bbFlush else .ok s)

end Sys2Proof.Machine
end

