-- ==== Sys2Proof/Machine/Events.lean ====
section
/-! DEFINITION. What agents do to cores and barriers of their own accord: the wake latch (R167), event queues (R27,
R28), user interrupts (R305), packets (R374, R380), transfer barriers (R210 to R214) and their completion
actions. -/

namespace Sys2Proof.Machine

/-- Sets the wake latch of every context of a core. -/
def State.wakeCore (s : State) (c : Nat) : State :=
  s.modCore c fun k => { k with ctxs := k.ctxs.map fun e => (e.1, { e.2 with wake := true }) }

-- Event queues.

/-- An event takes its place in a queue: behind the events of earlier cycles, and among those of its own cycle in the
order of Table 1-6 (R27). -/
def enterEvent (e : HelperEvent) (q : List HelperEvent) : List HelperEvent :=
  let later (o : HelperEvent) : Bool := o.entered == e.entered && decide (e.source < o.source)
  q.filter (fun o => !later o) ++ e :: q.filter later

/-- Whether a held action starts a helper on a core. -/
def HeldAction.isFor (c : Nat) : HeldAction → Bool
  | .helper c' _ => c' == c
  | .push .. | .packet .. => false

/-- A held event of a core that came in the same cycle as an event, by a later row of Table 1-6. -/
def HeldAction.behind (c : Nat) (e : HelperEvent) : HeldAction → Bool
  | .helper c' o => c' == c && o.entered == e.entered && decide (e.source < o.source)
  | .push .. | .packet .. => false

/-- An event takes its place among the held ones: in order of origin, those of one cycle in the order of Table 1-6
(R27, R28). -/
def holdEvent (c : Nat) (e : HelperEvent) (held : List HeldAction) : List HeldAction :=
  held.takeWhile (fun h => !h.behind c e) ++ .helper c e :: held.dropWhile (fun h => !h.behind c e)

/-- Whether an event of this cycle finds an entry among the 16: a free one, or that of an event of the same cycle and a
later row of Table 1-6, which is then held instead (R27, R28); an active message that has entered is not undone (log 57,
DESIGN CHOICE, safe). -/
def State.hasEntry (s : State) (c source : Nat) : Bool :=
  let q := (s.core c).events
  decide (q.length < 16) || q.any fun o => o.entered == s.now && decide (source < o.source) && o.source != 4

/-- An event enters a core's queue of 16. -/
def State.enqueue (s : State) (c : Nat) (e : HelperEvent) : State :=
  let q := enterEvent { e with entered := s.now } (s.core c).events
  let t := (s.modCore c fun k => { k with events := q.take 16 }).wakeCore c
  (q.drop 16).foldl (fun t o => t.modCluster (clusterOf c) fun u => { u with held := holdEvent c o u.held }) t

/-- What forks the helper of an event, as it stands now, stays with the event (R94). -/
def State.forks (s : State) (e : HelperEvent) : State × HelperEvent :=
  match e.forker with
  | none => (s, e)
  | some k => let id := s.takeId; (id.1.handOn (· == k) (.event id.2), { e with forker := some (.event id.2) })

/-- A user interrupt or completion action due at a core: it enters the queue, or is held by the cluster's engine
behind those held before it (R28). -/
def State.post (s : State) (c : Nat) (e : HelperEvent) : State :=
  let cl := clusterOf c
  let r := s.forks { e with entered := s.now }
  let s := r.1
  let e := r.2
  if s.hasEntry c e.source ∧ !((s.cluster cl).held.any fun h => h.isFor c && !h.behind c e) then s.enqueue c e
  else s.modCluster cl fun u => { u with held := holdEvent c e u.held }

/-- An entry has freed: the oldest held event of the core is offered again. -/
def State.offerHeld (s : State) (c : Nat) : State :=
  let cl := clusterOf c
  match (s.cluster cl).held.find? (HeldAction.isFor c) with
  | some (.helper _ e) =>
    if (s.core c).events.length < 16 then
      (s.modCluster cl fun u =>
        { u with held := u.held.eraseIdx (u.held.findIdx (HeldAction.isFor c)) }).enqueue c e
    else s
  | _ => s

/-- UICAUSE (Table 12-6). -/
def uicauseOf (int sub : Nat) : BitVec 64 := word (int * 256 + sub)

/-- A user interrupt at a core (R305): its helper starts at a handler, or at UIVEC (log 58, DEDUCED, unsafe). `forker` is
the operation whose partial completion forks it (R94). -/
def State.interrupt (s : State) (c int sub : Nat) (uival uixfer : BitVec 64) (handler : Option (BitVec 64))
    (forker : Option Knows := none) : State :=
  s.post c { pc := handler.getD (s.core c).uivec, a0 := uicauseOf int sub, a1 := uival, uicause := uicauseOf int sub,
             uival := uival, uixfer := uixfer, row := none, record := none, source := 3, entered := 0, forker := forker }

-- Transfer barriers.

def tbOwner (w : BitVec 64) : Nat := fld w 56 4

def State.setTb (s : State) (key : Nat) (w : BitVec 64) : State := s.poke key (natBytes 8 w.toNat)

/-- The action word of a barrier. -/
def State.tbAction (s : State) (key : Nat) : BitVec 64 := word (memRead s.mem (key + 8) 8)

/-- The core that a barrier's OWNER field names. -/
def State.tbOwnerCore (s : State) (key : Nat) : Nat := (meshOfKey key).cluster * 16 + tbOwner (s.tbWord key)

/-- A value reaches a register of a control context (R216): also in what a rollback restores. -/
def Ctx.arrive (x : Ctx) (r : BitVec 5) (v : BitVec 64) : Ctx :=
  let y := x.setX r v
  { y with wake := true, pending := x.pending.map fun p =>
      let z := ({ x with x := p.x0, present := p.present0 } : Ctx).setX r v
      { p with x0 := z.x, present0 := z.present } }

/-- The place in the deque of a core that an item pushed now gets, as Knows.item names it. -/
def Core.nextItem (k : Core) : Nat := k.stolen + k.deque.length

/-- An item is pushed onto a deque that has room, by a release from some party (Table 4-2). -/
def State.pushTo (s : State) (c : Nat) (item : BitVec 64) (source : Knows) : State :=
  let t := .item c (s.core c).nextItem
  ((s.unlearn (· == t)).handOn (· == source) t).modCore c fun k => { k with deque := k.deque ++ [item] }

/-- Pushes an item onto a deque, or holds the push while the deque is full (R214). -/
def State.pushItem (s : State) (c : Nat) (item : BitVec 64) (source : Knows) : State :=
  if (s.core c).deque.length < 64 then s.pushTo c item source
  else s.modCluster (clusterOf c) fun u => { u with held := u.held ++ [.push c item source] }

/-- Whether a held action is a push onto a core's deque. -/
def HeldAction.isPush (c : Nat) : HeldAction → Bool
  | .push c' _ _ => c' == c
  | .helper .. | .packet .. => false

/-- A deque entry has freed: the oldest held push is offered again. -/
def State.offerPush (s : State) (c : Nat) : State :=
  let cl := clusterOf c
  match (s.cluster cl).held.find? (HeldAction.isPush c) with
  | some (.push _ item source) =>
    if (s.core c).deque.length < 64 then
      (s.modCluster cl fun u =>
        { u with held := u.held.eraseIdx (u.held.findIdx (HeldAction.isPush c)) }).pushTo c item source
    else s
  | _ => s

/-- The kernel entry of the partition that holds a cluster. -/
def State.entryOf (s : State) (cl : Nat) : BitVec 64 := (s.partOfCore (cl * 16)).launch.entry

/-- The completion action of a flip, by the engine of the barrier's cluster (R214). -/
def State.tbAct (s : State) (key : Nat) : State :=
  let w := s.tbAction key
  let cl := (meshOfKey key).cluster
  match (s.shape (cl * 16)).coreOf (fld w 46 16) with
  | none => s
  | some c =>
    match fld w 62 2 with
    | 1 => s.pushItem c (if fld w 0 46 = 0 then word key else word (fld w 0 46)) (.flipped key)
    | 2 =>
      if fld w 41 5 = 0 then s
      else s.sendOrHold cl (clusterOf c) 16 .request true (s.pidAt cl)
        (.sendr c (BitVec.ofNat 5 (fld w 41 5)) (word (fld w 0 41))) (some (.flipped key))
    | 3 =>
      s.post c { pc := s.entryOf cl + word (2 * fld w 20 26), a0 := word key, a1 := word (fld w 0 20), uicause := 0#64,
                 uival := 0#64, uixfer := 0#64, row := none, record := none, source := 5, entered := 0, forker := some (.flipped key) }
    | _ => s

/-- A waiting TBWAIT completes with the status word at the flip (R212). -/
def Ctx.endTbwait (x : Ctx) (key : Nat) (w : BitVec 64) : Ctx :=
  match x.wait with
  | some v =>
    match v.kind with
    | .transfer k (some d) =>
      if k = key then { x.setX d w with pc := x.pc + 4#64, wait := none, ports := x.dropAll.ports } else x
    | _ => x
  | none => x

/-- Contexts that wait by TBWAIT at a barrier. -/
def Ctx.waitsAt (x : Ctx) (key : Nat) : Bool :=
  match x.wait with
  | some v =>
    match v.kind with
    | .transfer k (some _) => k == key
    | _ => false
  | none => false

/-- The waiters of a barrier. -/
def State.tbWaiters (s : State) (key : Nat) : List (Nat × Nat) :=
  s.cores.flatMap fun c => (c.2.ctxs.filter fun e => e.2.waitsAt key).map fun e => (c.1, e.1)

/-- A flip with a status word that already holds the counts (R212): PH toggles, waiters complete, the owner
wakes, the action starts. -/
def State.tbFlip (s : State) (key : Nat) (w : BitVec 64) : State :=
  let w := w ^^^ 0x1000000000000000#64
  let s := ((s.setTb key w).unlearn (· == .flipped key)).handOn (· == .counted key) (.flipped key)
  let s := (s.tbWaiters key).foldl (fun t p => ((t.endRegion p.1 p.2).handOn (· == .flipped key) (.thread p.1 p.2)).modCtxAt p.1 p.2 fun x => x.endTbwait key w) s
  (s.wakeCore (s.tbOwnerCore key)).tbAct key

/-- TB_OVERRUN at a core (Table 12-7). -/
def State.overrunAt (s : State) (c key : Nat) : State := s.interrupt c 5 0 (word key) 0#64 none

/-- An overrun: OVR is set and the owner told. -/
def State.tbOverrun (s : State) (key : Nat) : State :=
  (s.setTb key (setFld (s.tbWord key) 61 1 1)).overrunAt (s.tbOwnerCore key) key

/-- n counted bytes land at a barrier (Table 8-5); `issuer` is told if the granule is PLAIN. -/
def State.tbLand (s : State) (key n issuer : Nat) : State :=
  if !s.isLive key then s.overrunAt issuer key
  else
    let w := s.tbWord key
    let pend := tbPend w
    let w' := setFld w 0 32 ((pend - n) % (2 ^ 32 : Int)).toNat
    if tbDone w then (s.setTb key w').tbOverrun key
    else if (n : Int) ≤ pend then
      if tbArem w = 0 ∧ pend = n then s.tbFlip key w' else s.setTb key w'
    else
      let w'' := setFld (setFld w' 44 12 0) 61 1 1
      let t := s.setTb key w''
      (t.overrunAt (t.tbOwnerCore key) key).tbFlip key w''

/-- ERR := 1 (R213). -/
def State.tbErr (s : State) (key : Nat) : State :=
  if s.isLive key then s.setTb key (setFld (s.tbWord key) 62 1 1) else s

/-- A landing that marks ERR first, so that a flip shows it. -/
def State.tbCreditErr (s : State) (key n issuer : Nat) : State := (s.tbErr key).tbLand key n issuer

end Sys2Proof.Machine
end

