-- ==== Sys2Proof/Machine/Atomics.lean ====
section
/-! DEFINITION. Atomics (R204), FENCE (R205), LDAQ and STRL (R206). -/

namespace Sys2Proof.Machine

/-- The observer mask that a synchronisation access names by its index (R91). -/
def State.obsMask (s : State) (i : BitVec 3) : BitVec 8 := BitVec.ofNat 8 (fld s.cx.obs (8 * i.toNat) 8)

/-- An atomic of n bytes at X(a) with its operand and what a CAS compares with (R204). -/
def amo (i : Instr) (a : BitVec 5) (op n : Nat) (q l : BitVec 1) (obs : BitVec 3) (b cmp : State → Nat) (dest : Dest) (s : State) : Out :=
  gated i s fun s =>
    let ea := s.x a
    match s.check s.cur.1 ea n n [.r, .w] false with
    | .error t => s.raise s t
    | .ok m =>
      let act := Act.amo op (b s) (cmp s) (q == 1#1) (l == 1#1)
      s.issueAccess { ea := ea, key := m.key, size := n, act := act, mask := s.obsMask obs } m dest

def amoBytes (w : BitVec 1) : Nat := if w = 1#1 then 8 else 4

/-- The low n bytes of an x register. -/
def lowX (r : BitVec 5) (n : Nat) (s : State) : Nat := (s.x r).toNat % 2 ^ (8 * n)

/-- An integer atomic of 4 or 8 bytes: X(rd) := the old value, .W sign-extended. -/
def amoInt (i : Instr) (op : Nat) (d a b : BitVec 5) (q l w : BitVec 1) (obs : BitVec 3) (s : State) : Out :=
  let n := amoBytes w
  amo i a op n q l obs (lowX b n) (lowX d n) (.reg d true) s

def execAmoswap (d a b : BitVec 5) (q l w : BitVec 1) (x : BitVec 3) (s : State) : Out :=
  amoInt (.amoswap d a b q l w x) 0 d a b q l w x s
def execAmoadd (d a b : BitVec 5) (q l w : BitVec 1) (x : BitVec 3) (s : State) : Out :=
  amoInt (.amoadd d a b q l w x) 1 d a b q l w x s
def execAmoand (d a b : BitVec 5) (q l w : BitVec 1) (x : BitVec 3) (s : State) : Out :=
  amoInt (.amoand d a b q l w x) 2 d a b q l w x s
def execAmoor (d a b : BitVec 5) (q l w : BitVec 1) (x : BitVec 3) (s : State) : Out :=
  amoInt (.amoor d a b q l w x) 3 d a b q l w x s
def execAmoxor (d a b : BitVec 5) (q l w : BitVec 1) (x : BitVec 3) (s : State) : Out :=
  amoInt (.amoxor d a b q l w x) 4 d a b q l w x s
def execAmomin (d a b : BitVec 5) (q l w : BitVec 1) (x : BitVec 3) (s : State) : Out :=
  amoInt (.amomin d a b q l w x) 5 d a b q l w x s
def execAmomax (d a b : BitVec 5) (q l w : BitVec 1) (x : BitVec 3) (s : State) : Out :=
  amoInt (.amomax d a b q l w x) 6 d a b q l w x s
def execAmominu (d a b : BitVec 5) (q l w : BitVec 1) (x : BitVec 3) (s : State) : Out :=
  amoInt (.amominu d a b q l w x) 7 d a b q l w x s
def execAmomaxu (d a b : BitVec 5) (q l w : BitVec 1) (x : BitVec 3) (s : State) : Out :=
  amoInt (.amomaxu d a b q l w x) 8 d a b q l w x s
def execAmocas (d a b : BitVec 5) (q l w : BitVec 1) (x : BitVec 3) (s : State) : Out :=
  amoInt (.amocas d a b q l w x) 9 d a b q l w x s

/-- The 128 bits of a register pair. -/
def pairValue (s : State) (r : BitVec 5) : Nat := (s.x r).toNat + (s.x (r + 1#5)).toNat * 2 ^ 64

/-- AMOCAS.Q: pairs, the even register holding bits [63:0]. -/
def execAmocasQ (d a b : BitVec 5) (q l : BitVec 1) (x : BitVec 3) (s : State) : Out :=
  amo (.amocasQ d a b q l x) a 10 16 q l x (fun s => pairValue s b) (fun s => pairValue s d) (.pair d) s

/-- FAMOADD: rounded RNE at the target, no flag; .S zero-extended. -/
def execFamoadd (d a b : BitVec 5) (q l w : BitVec 1) (x : BitVec 3) (s : State) : Out :=
  let n := amoBytes w
  amo (.famoadd d a b q l w x) a 11 n q l x (lowX b n) (fun _ => 0) (.reg d false) s

/-- FENCE (R96): the region ends; a nonzero mask also discards the prefetched elements (R105) and has its two halves.
Every older access of the context has performed once a Serial instruction issues. -/
def execFence (m : BitVec 8) (s : State) : Out :=
  gated (.fence m) s fun s =>
    .next ((if m = 0#8 then s.endRegion s.cur.1 s.cur.2
      else (s.newRegion s.cur.1 s.cur.2).fenceOlds s.cur.1 s.cur.2 m).bump 4)

def sizeOf2 (z : BitVec 2) : Nat := 2 ^ z.toNat

/-- LDAQ (R206): its access is the first of the region that it begins (R100). -/
def execLdaq (d a : BitVec 5) (z : BitVec 2) (x : BitVec 3) (s : State) : Out :=
  gated (.ldaq d a z x) s fun s =>
    let n := sizeOf2 z
    let ea := s.x a
    match s.check s.cur.1 ea n n [.r] false with
    | .error t => s.raise s t
    | .ok m => s.issueAccess { ea := ea, key := m.key, size := n, act := .read true, mask := s.obsMask x } m (.reg d true)

/-- STRL (R206): its access is the last of the region that it ends (R100). -/
def execStrl (a b : BitVec 5) (z : BitVec 2) (x : BitVec 3) (s : State) : Out :=
  gated (.strl a b z x) s fun s =>
    let n := sizeOf2 z
    let ea := s.x a
    match s.check s.cur.1 ea n n [.w] false with
    | .error t => s.raise s t
    | .ok m =>
      s.issueAccess { ea := ea, key := m.key, size := n, act := .write (natBytes n (s.x b).toNat) true, mask := s.obsMask x } m .none

end Sys2Proof.Machine
end

