-- ==== Sys2Proof/Machine/Barrier.lean ====
section
/-! DEFINITION. The hardware barrier networks (R207 to R209) and the transfer-barrier instructions (R211, R212,
R214, R419). -/

namespace Sys2Proof.Machine

/-- The clusters of a shape that satisfy a condition. -/
def Shape.where_ (p : Shape) (f : Nat → Bool) : List Nat :=
  (p.clusters.filter f).flatMap fun cl => (List.range 16).map fun i => cl * 16 + i

/-- The group of a network for a core (Table 8-2). POD has PART's cores on this module. -/
def State.group (s : State) (c net : Nat) : List Nat :=
  let p := s.shape c
  let cl := clusterOf c
  match net with
  | 0 => (List.range 4).map fun i => c / 4 * 4 + i
  | 1 => (List.range 16).map fun i => cl * 16 + i
  | 2 => p.where_ fun e => clusterDie e == clusterDie cl && rowOf e == rowOf cl
  | 3 => p.where_ fun e => clusterDie e == clusterDie cl && colOf e == colOf cl
  | 4 => p.where_ fun e => clusterDie e == clusterDie cl
  | _ => p.coreList

def Core.inPhase (k : Core) (net : Nat) : Bool := k.barPart.toNat.testBit net
def Core.arrivedAt (k : Core) (net : Nat) : Bool := k.barArr.toNat.testBit net
def Core.phase (k : Core) (net : Nat) : Nat := k.barPhase.get (Fin.ofNat 7 net)

/-- Bit net of a 7-bit mask set or cleared. -/
def setBit7 (m : BitVec 7) (net : Nat) (b : Bool) : BitVec 7 :=
  if b then m ||| (1#7 <<< net) else m &&& ~~~(1#7 <<< net)

/-- A phase completes at one core: ARR clears and PH toggles on a participant, and the next participant set is
formed from BARCFG (R209). -/
def Core.completePhase (k : Core) (net : Nat) : Core :=
  let j : Fin 7 := Fin.ofNat 7 net
  let k := if k.inPhase net then
      { k with barArr := setBit7 k.barArr net false, barPhase := k.barPhase.set j (k.phase net + 1) }
    else k
  { k with barPart := setBit7 k.barPart net (bitOf k.barcfg net) }

/-- The arrivals of a phase release to every core that takes part in it (Table 4-2). -/
def State.meetAt (s : State) (cs : List Nat) (net : Nat) : State :=
  let ds := cs.filter fun d => (s.core d).inPhase net
  let mine (t : Knows) : Bool := ds.any fun d => t == .phase d net ((s.core d).phase net)
  ds.foldl (fun t d => t.handOn mine (.phase d net ((s.core d).phase net))) s

def State.completeAll (s : State) (cs : List Nat) (net : Nat) : State :=
  cs.foldl (fun t d => t.modCore d fun k => k.completePhase net) (s.meetAt cs net)

/-- Every participant of a group has arrived. -/
def State.allArrived (s : State) (cs : List Nat) (net : Nat) : Bool :=
  cs.all fun d => !(s.core d).inPhase net || (s.core d).arrivedAt net

/-- The other modules whose partitions take part in the open phase of POD for a PID; none for a module PID (R207). -/
def State.podOthers (s : State) (pid : Nat) : List Nat :=
  if s.modl.podFormed && decide (2048 ≤ pid) then (amGet ([], []) s.modl.podPeers pid).1 else []

/-- A core's partition has peers on other modules: its POD phases complete through the root (R207, R386). -/
def State.podPeers (s : State) (c : Nat) : Bool := !(s.podOthers (s.pidAt (clusterOf c)).toNat).isEmpty

/-- A core arrives; the phase completes when every participant has arrived. A phase that opens without a participant stays open
for good (log 100, DESIGN CHOICE, unsafe). -/
def State.arriveAt (s : State) (c net : Nat) : State :=
  let t := s.modCore c fun k => { k with barArr := setBit7 k.barArr net true }
  let g := t.group c net
  if t.allArrived g net && !(net == 6 && t.podPeers c) then t.completeAll g net else t

/-- The wait for a network that the context in hand has begun. -/
def State.barWaitOn (s : State) (net : Nat) : Option Nat :=
  match s.cx.wait with
  | some w =>
    match w.kind with
    | .barrier n ph => if n = net then some ph else none
    | _ => none
  | none => none

/-- The wait half (R209): an acquire once the phase has completed. -/
def State.barFinish (s : State) (net ph : Nat) : Out :=
  if ph < s.me.phase net then .next ((s.acquire s.cur.1 s.cur.2 (· == .phase s.cur.1 net ph)).bump 4)
  else .next (s.await (.barrier net ph) (word net))

/-- A core outside the open phase's participant set raises PROT (R209). -/
def barEntry (i : Instr) (net : Nat) (s : State) (k : State → Out) : Out :=
  gated i s fun s =>
    match s.barWaitOn net with
    | some ph => if ph < s.me.phase net then k s else .next s
    | none => if s.me.inPhase net then k s else s.raise s (trap cProt (word net))

/-- BAR: arrives if ARR = 0, as a release, then waits (R209). -/
def execBar (n : BitVec 4) (s : State) : Out :=
  barEntry (.bar n) n.toNat s fun s =>
    let net := n.toNat
    match s.barWaitOn net with
    | some ph => s.barFinish net ph
    | none =>
      let ph := s.me.phase net
      if s.me.arrivedAt net then s.barFinish net ph
      else ((s.releaseTo s.cur.1 s.cur.2 (.phase s.cur.1 net ph)).arriveAt s.cur.1 net).barFinish net ph

/-- BARARR: arrives, or waits for the open phase to complete first (R209). -/
def execBararr (n : BitVec 4) (s : State) : Out :=
  barEntry (.bararr n) n.toNat s fun s =>
    let net := n.toNat
    if !s.me.inPhase net then s.raise s (trap cProt (word net))
    else if s.me.arrivedAt net then
      .next ((s.modCx fun x => { x with wait := none }).await (.barrier net (s.me.phase net)) (word net))
    else .next (((s.releaseTo s.cur.1 s.cur.2 (.phase s.cur.1 net (s.me.phase net))).arriveAt s.cur.1 net).bump 4)

/-- BARWAIT: waits for the phase of the core's latest arrival (R209). -/
def execBarwait (n : BitVec 4) (s : State) : Out :=
  barEntry (.barwait n) n.toNat s fun s =>
    let net := n.toNat
    match s.barWaitOn net with
    | some ph => s.barFinish net ph
    | none =>
      if s.me.arrivedAt net then s.barFinish net (s.me.phase net)
      else .next ((s.acquire s.cur.1 s.cur.2 (· == .phase s.cur.1 net (s.me.phase net - 1))).bump 4)

-- Transfer barriers.

/-- Steps 1 to 3 of R211 for an instruction other than TBINIT: the key of a live barrier. -/
def State.tbCheck (s : State) (ea : BitVec 64) : Except Trap Nat :=
  match s.check s.cur.1 ea 16 16 [.r, .w] false with
  | .error t => .error t
  | .ok m => if s.isLive m.key then .ok m.key else .error (trap cBarrierWord ea)

/-- Steps 1 to 4 of R211 for TBINIT. -/
def State.tbinitCheck (s : State) (ea : BitVec 64) : Except Trap Nat :=
  let c := s.cur.1
  match s.check c ea 16 16 [.r, .w] false with
  | .error t => .error t
  | .ok m =>
    if m.cluster ≠ clusterOf c then .error (trap cProt ea)
    else
      match s.granuleTrap c ea [granuleOf m.key] true false with
      | some t => .error t
      | none => .ok m.key

/-- TBINIT (Table 8-5). -/
def execTbinit (a b c : BitVec 5) (s : State) : Out :=
  gatedRun (.tbinit a b c) s fun s =>
    match s.tbinitCheck (s.x a) with
    | .error t => .error (s, t)
    | .ok key =>
      let n := (s.x b).toNat
      let k := (s.x c).toNat
      if 2 ^ 31 ≤ n then .error (s, trap cAddr (s.x b))
      else if 4096 ≤ k then .error (s, trap cAddr (s.x c))
      else
        let w := word (2 ^ 63 + inCluster s.cur.1 * 2 ^ 56 + k * 2 ^ 44 + k * 2 ^ 32 + n)
        let t := (s.poke key (natBytes 8 w.toNat ++ natBytes 8 0)).dropFetched s.cur.1 s.cur.2 [granuleOf key]
        let t := { t with live := granuleOf key :: t.live }
        .ok ((if n = 0 ∧ k = 0 then t.tbFlip key w else t).bump 4)

/-- TBEXP (Table 8-5). -/
def execTbexp (a b c : BitVec 5) (s : State) : Out :=
  gatedRun (.tbexp a b c) s fun s =>
    match s.tbCheck (s.x a) with
    | .error t => .error (s, t)
    | .ok key =>
      let w := s.tbWord key
      let n := (s.x b).toNat
      let k := (s.x c).toNat
      let done := tbDone w
      if 2 ^ 31 ≤ n ∨ (!done ∧ (2 ^ 31 : Int) ≤ tbPend w + n) then .error (s, trap cAddr (s.x b))
      else if 4096 ≤ k ∨ (!done ∧ 4096 ≤ tbArem w + k) then .error (s, trap cAddr (s.x c))
      else if done then
        let w' := setFld (setFld (setFld (setFld w 61 2 0) 44 12 k) 32 12 k) 0 32 n
        .ok ((if n = 0 ∧ k = 0 then s.tbFlip key w' else s.setTb key w').bump 4)
      else
        let pend := ((tbPend w + n) % (2 ^ 32 : Int)).toNat
        .ok ((s.setTb key (setFld (setFld (setFld w 44 12 (tbArem w + k)) 32 12 (fld w 32 12 + k)) 0 32 pend)).bump 4)

/-- TBARR (Table 8-5). -/
def execTbarr (a : BitVec 5) (s : State) : Out :=
  gatedRun (.tbarr a) s fun s =>
    match s.tbCheck (s.x a) with
    | .error t => .error (s, t)
    | .ok key =>
      let w := s.tbWord key
      if tbArem w = 0 then .ok ((s.tbOverrun key).bump 4)
      else
        let w' := setFld w 44 12 (tbArem w - 1)
        .ok ((if tbArem w = 1 ∧ tbPend w ≤ 0 then s.tbFlip key w' else s.setTb key w').bump 4)

/-- TBWAIT: acquire and join once DONE (R212). -/
def execTbwait (d a : BitVec 5) (s : State) : Out :=
  gatedRun (.tbwait d a) s fun s =>
    match s.tbCheck (s.x a) with
    | .error t => .error (s, t)
    | .ok key =>
      if tbDone (s.tbWord key) then
        .ok (((s.acquire s.cur.1 s.cur.2 (· == .flipped key)).setX d (s.tbWord key)).bump 4)
      else .ok (s.await (.transfer key (some d)) (s.x a))

/-- TBTEST: acquire and join if DONE (Table 8-5). -/
def execTbtest (d a : BitVec 5) (s : State) : Out :=
  gatedRun (.tbtest d a) s fun s =>
    match s.tbCheck (s.x a) with
    | .error t => .error (s, t)
    | .ok key =>
      let t := if tbDone (s.tbWord key) then s.acquire s.cur.1 s.cur.2 (· == .flipped key) else s
      .ok ((t.setX d (s.tbWord key)).bump 4)

/-- The checks of an action word (R214). -/
def State.actionOk (s : State) (w : BitVec 64) : Bool :=
  let l := (s.partOfCore s.cur.1).launch
  let pc := (l.entry + word (2 * fld w 20 26)).toNat
  decide (fld w 46 16 < (s.shape s.cur.1).cores)
    && (fld w 62 2 != 3 || decide (l.codebase.toNat ≤ pc ∧ pc < l.codebase.toNat + l.codelen))

/-- TBACT (R211, R214). -/
def execTbact (a b : BitVec 5) (s : State) : Out :=
  gatedRun (.tbact a b) s fun s =>
    match s.tbCheck (s.x a) with
    | .error t => .error (s, t)
    | .ok key =>
      if s.actionOk (s.x b) then .ok ((s.poke (key + 8) (natBytes 8 (s.x b).toNat)).bump 4)
      else .error (s, trap cAddr (s.x b))

/-- TBRETIRE: waits until DONE, then the granule is PLAIN (Table 8-5). -/
def execTbretire (a : BitVec 5) (s : State) : Out :=
  gatedRun (.tbretire a) s fun s =>
    match s.tbCheck (s.x a) with
    | .error t => .error (s, t)
    | .ok key =>
      if tbDone (s.tbWord key) then
        let t := s.setTb key (setFld (s.tbWord key) 63 1 0)
        .ok ({ t with live := t.live.filter (· != granuleOf key) }.bump 4)
      else .ok (s.await (.transfer key none) (s.x a))

end Sys2Proof.Machine
end

