-- ==== Sys2Proof/Machine/Sync.lean ====
section
/-! DEFINITION. Presence (R216, R217), messages (R218, R219, R63), helpers (R26, R27, R220), the deque (R221) and
slot rings (R222, R58 to R60). -/

namespace Sys2Proof.Machine

-- Presence.

/-- A target index that is not below the partition's core count raises ADDR. -/
def State.target (s : State) (idx : BitVec 64) : Except Trap Nat :=
  match (s.shape s.cur.1).coreOf idx.toNat with
  | some c => .ok c
  | none => .error (trap cAddr idx)

/-- SENDR (R216): a release; waits while the core's injection queue is full (R380). -/
def execSendr (a b n : BitVec 5) (s : State) : Out :=
  gatedRun (.sendr a b n) s fun s =>
    let c := s.cur.1
    match s.target (s.x a) with
    | .error t => .error (s, t)
    | .ok d =>
      if !s.canInject (clusterOf c) (clusterOf d) (inCluster c) .request then .ok s
      else
        .ok (((s.releaseTo c s.cur.2 (.packet s.nextId)).inject (clusterOf c) (clusterOf d) (inCluster c) .request true
          (s.pidAt (clusterOf c)) (.sendr d n (s.x b))).bump 4)

/-- SENDR_ARRIVE (R216): discarded if the target's control context has finished, or for another PID (R341). -/
def execSendrArrive (pkt : Nat) (s : State) : Out :=
  match s.arrived pkt with
  | some p =>
    match p.body with
    | .sendr c r v =>
      let t := s.dropPacket pkt
      if p.pid ≠ s.pidAt p.dst ∨ (t.ctxAt c 0).finished then .next t
      else .next (((t.modCtxAt c 0 fun x => x.arrive r v).handOn (· == .packet pkt) (.thread c 0)).unlearn (· == .packet pkt))
    | _ => notNow "SENDR_ARRIVE"
  | none => notNow "SENDR_ARRIVE"

/-- PCLR (R217). -/
def execPclr (n : BitVec 5) (s : State) : Out :=
  gated (.pclr n) s fun s =>
    .next ((s.modCx fun x => { x with present := x.present &&& ~~~(1#32 <<< n.toNat) }).bump 4)

/-- PTEST (R217). -/
def execPtest (d n : BitVec 5) (s : State) : Out :=
  gated (.ptest d n) s fun s => .next ((s.setX d (word (b2n (s.cx.present.toNat.testBit n.toNat)))).bump 4)

-- Messages.

/-- LEN and TAG of an XMSG, all other bits 0 (R218). -/
def msgWordOk (w : BitVec 64) (active : Bool) : Bool :=
  decide (fld w 10 6 = 0 ∧ fld w 32 32 = 0 ∧ fld w 0 10 ≤ 512) && (!active || decide (8 ≤ fld w 0 10))

/-- The payload of an XMSG: 8-aligned, checked with right R (R218). -/
def State.msgPayload (s : State) (ea : BitVec 64) (len : Nat) : Except Trap (State × List (BitVec 8)) :=
  if len = 0 then
    match resolve s.cur.1 ea 0 with
    | none => .error (trap cAddr ea)
    | some m =>
      if ea.toNat % 8 ≠ 0 then .error (trap cAlign ea)
      else if !(s.shape s.cur.1).hasCluster m.cluster || m.unit == 18 then .error (trap cProt ea)
      else .ok (s, [])
  else
    match s.check s.cur.1 ea len 8 [.r] false with
    | .error t => .error t
    | .ok m =>
      match s.access ea m len none with
      | .error t => .error t
      | .ok (t, v) => .ok (t, natBytes len v)

/-- What an XMSG that completes does: it releases to its record, and its packet sets out. -/
def State.sendMsg (s : State) (d : Nat) (active : Bool) (w : BitVec 64) (bytes : List (BitVec 8)) : State :=
  let me := s.cur.1
  (s.releaseTo me s.cur.2 (.packet s.nextId)).inject (clusterOf me) (clusterOf d) (inCluster me) .request false
    (s.pidAt (clusterOf me)) (.xmsg d me active (BitVec.ofNat 16 (fld w 16 16)) w bytes)

/-- XMSG (R218): a release; the payload is read before it completes (log 56, DEDUCED, unsafe). -/
def execXmsg (a b c : BitVec 5) (v : BitVec 1) (s : State) : Out :=
  gated (.xmsg a b c v) s fun s =>
    let me := s.cur.1
    let w := s.x c
    match s.target (s.x a) with
    | .error t => s.raise s t
    | .ok d =>
      if !msgWordOk w (v == 1#1) then s.raise s (trap cAddr w)
      else
        match s.msgPayload (s.x b) (fld w 0 10) with
        | .error t => s.inOrder 4 (.error (s, t))
        | .ok (t, bytes) =>
          if !s.canInject (clusterOf me) (clusterOf d) (inCluster me) .request then .next s
          else s.inOrder 4 (.ok (t.sendMsg d (v == 1#1) w bytes))

/-- The form in which MTAKE names a record (R219): cluster-local, the core's own unit. -/
def recordAddr (c off : Nat) : BitVec 64 := word ((1 + inCluster c) * 2 ^ 29 + off)

/-- The ring's size in bytes, 0 if it is disabled (Table 2-10). -/
def Core.ringSize (k : Core) : Nat :=
  let n := k.mrsize.toNat
  if n = 0 ∨ 0x6000 < k.mrbase.toNat + 2 ^ n then 0 else 2 ^ n

/-- A message header (Table 2-11). -/
def msgHeader (src : Nat) (tag : BitVec 16) (kind len : Nat) : Nat :=
  src * 2 ^ 32 + tag.toNat * 2 ^ 16 + kind * 2 ^ 10 + len

/-- Where R63 places a record of s bytes: the offset in the ring and whether a PAD record goes first. -/
def Core.place (k : Core) (s : Nat) : Option (Nat × Bool) :=
  let size := k.ringSize
  if size = 0 then none
  else
    let used := (k.mrtail - k.mrhead).toNat % 2 ^ 32
    let free := size - used
    let o := k.mrtail.toNat % size
    let e := size - o
    if s ≤ e ∧ s ≤ free then some (o, false)
    else if e < s ∧ s ≤ size ∧ e + s ≤ free then some (o, true)
    else none

/-- Bytes poked into a core's local memory. -/
def State.pokeLocal (s : State) (c off : Nat) (bs : List (BitVec 8)) : State :=
  s.poke (Mesh.key { cluster := clusterOf c, unit := 1 + inCluster c, off := off }) bs

/-- A record enters the ring at an offset of it. -/
def State.putRecord (s : State) (c o kind : Nat) (header : Nat) (payload : List (BitVec 8)) (bytes : Nat) : State :=
  let base := (s.core c).mrbase.toNat
  let pad := bytes - 8 - payload.length
  (s.pokeLocal c (base + o) (natBytes 8 header ++ (if kind = 2 then [] else payload ++ List.replicate pad 0#8))).modCore
    c fun k =>
      { k with mrtail := word ((k.mrtail.toNat + bytes) % 2 ^ 32),
               records := k.records ++ [{ off := base + o, bytes := bytes, kind := kind, taken := false, freed := false }] }

/-- A message reaches its ring (R63): placed, perhaps behind a PAD record; none if it is rejected. SRC and TAG of a PAD's
header are 0, and its payload bytes stay as they stand (log 81, DESIGN CHOICE, unsafe). -/
def State.placeMsg (s : State) (c src : Nat) (active : Bool) (tag : BitVec 16) (data : List (BitVec 8)) :
    Option State :=
  let len := data.length
  let need := 8 + 8 * ((len + 7) / 8)
  if active ∧ s.hasEntry c 4 = false then none
  else
    match (s.core c).place need with
    | none => none
    | some (o, pad) =>
      let size := (s.core c).ringSize
      let t := if pad then s.putRecord c o 2 (msgHeader 0 0#16 2 (size - o - 8)) [] (size - o) else s
      let off := if pad then 0 else o
      let kind := if active then 1 else 0
      let base := (s.core c).mrbase.toNat
      let u := t.putRecord c off kind (msgHeader src tag kind len) data need
      if active then
        some (u.enqueue c { pc := word (bytesNat (data.take 8)), a0 := recordAddr c (base + off), a1 := word len,
                            uicause := 0#64, uival := 0#64, uixfer := 0#64, row := none, record := some (base + off),
                            source := 4, entered := 0, forker := some (.record c (base + off)) })
      else some (u.wakeCore c)

/-- The answer to an XMSG (R63): it travels to the sender's cluster, but from a cluster to itself it is there at once. -/
def State.answerMsg (s : State) (p : Packet) (sender : Nat) (rejected : Option (BitVec 64 × BitVec 64)) (agent : Nat) : State :=
  if p.src = p.dst then
    match rejected with
    | some (val, xfer) => s.interrupt sender 9 0 val xfer none
    | none => s
  else s.inject p.dst p.src agent .response false p.pid (.msgAnswer sender rejected)

/-- The record that a message has just placed is what its XMSG releases to (Table 4-2). -/
def State.msgKnown (s : State) (c pkt : Nat) : State :=
  match (s.core c).records.getLast? with
  | some r => ((s.unlearn (· == .record c r.off)).handOn (· == .packet pkt) (.record c r.off)).unlearn (· == .packet pkt)
  | none => s

/-- XMSG_ARRIVE (R63, R218): placed, or rejected with MSG_REJECT at the sender; taken only when there is room for the
answer (R373). -/
def execXmsgArrive (pkt : Nat) (s : State) : Out :=
  match s.arrived pkt with
  | some p =>
    match p.body with
    | .xmsg c from_ active tag w data =>
      let t := s.dropPacket pkt
      if p.pid ≠ s.pidAt p.dst then .next t
      else if !s.canInject p.dst p.src (inCluster c) .response then notNow "XMSG_ARRIVE"
      else
        match t.placeMsg c ((s.shape from_).indexOf from_) active tag data with
        | some u => .next ((u.msgKnown c pkt).answerMsg p from_ none (inCluster c))
        | none => .next ((t.unlearn (· == .packet pkt)).answerMsg p from_ (some (word ((s.shape c).indexOf c), w)) (inCluster c))
    | _ => notNow "XMSG_ARRIVE"
  | none => notNow "XMSG_ARRIVE"

/-- MRHEAD advances over the freed and PAD records at the head (R219). -/
def Core.advanceHead (k : Core) : List MsgRecord → Core
  | [] => { k with records := [] }
  | r :: rs =>
    if r.freed || r.kind == 2 then { k with mrhead := word ((k.mrhead.toNat + r.bytes) % 2 ^ 32) }.advanceHead rs
    else { k with records := r :: rs }

/-- The oldest data record that has not been taken. -/
def Core.nextData (k : Core) : Option MsgRecord := k.records.find? fun r => r.kind == 0 && !r.taken

/-- MTAKE at a core: PAD records passed are freed and the record is taken. -/
def Core.takeMsg (k : Core) : Core × Option MsgRecord :=
  match k.nextData with
  | some r =>
    let rs := k.records.map fun q => if q.off = r.off ∧ q.kind = 0 ∧ !q.freed then { q with taken := true } else q
    (k.advanceHead rs, some r)
  | none => (k.advanceHead k.records, none)

/-- MTAKE (R219): an acquire. -/
def execMtake (d : BitVec 5) (s : State) : Out :=
  gated (.mtake d) s fun s =>
    let c := s.cur.1
    let r := s.me.takeMsg
    let t := (s.setCore c r.1).acquire c s.cur.2 fun k => r.2.any fun m => k == .record c m.off
    .next ((t.setX d (match r.2 with | some m => recordAddr c m.off | none => 0#64)).bump 4)

/-- The local offset that an address names in the form of MTAKE or %self. -/
def ownOffset (c : Nat) (a : BitVec 64) : Option Nat :=
  let off := fld a 0 29
  if a = recordAddr c off ∨ a = word off then some off else none

/-- MFREE (R219). -/
def execMfree (a : BitVec 5) (s : State) : Out :=
  gatedRun (.mfree a) s fun s =>
    let k := s.me
    let hit := (ownOffset s.cur.1 (s.x a)).bind fun off =>
      k.records.find? fun r => r.off == off && r.kind != 2 && r.taken && !r.freed
    match hit with
    | none => .error (s, trap cAddr (s.x a))
    | some r =>
      .ok ((s.setCore s.cur.1 (k.advanceHead (k.records.map fun q => if q = r then { q with freed := true } else q))).bump 4)

-- Helpers.

/-- The lowest-numbered free helper. -/
def State.freeHelper (s : State) (c : Nat) : Option Nat :=
  (List.range 10).map (· + 1) |>.find? fun h => !(s.ctxAt c h).live

/-- A helper's start state (R26); its fetches follow the regions of its core as they are at its start (R310). -/
def helperCtx (h : Nat) (e : HelperEvent) (prgn : Vector (BitVec 64) 8) : Ctx :=
  let x := { Ctx.reset h with pc := e.pc, live := true, fetchPrgn := prgn, uicause := e.uicause, uival := e.uival, uixfer := e.uixfer }
  let y := ((x.setX 10#5 e.a0).setX 11#5 e.a1).setX 12#5 (word h)
  match e.row with
  | none => y
  | some (r, lo, hi) =>
    { (y.setV 0#5 { data := lo, tag := 7#4, side := 0#64 }).setV 1#5 { data := hi, tag := 7#4, side := 0#64 } with
      row := some r }

/-- HELPER_START (R27): the oldest event takes the lowest-numbered free helper in a cycle after that of its entry, when
every event of its cycle has entered, and a held event is offered. A core that has not started (R25) starts none. -/
def execHelperStart (core : Nat) (s : State) : Out :=
  match (s.core core).events, s.freeHelper core with
  | e :: rest, some h =>
    if s.runs core && !(s.ctxAt core 0).starting && decide (e.entered < s.now) then
      let t := s.modCore core fun k =>
        { k with events := rest,
                 records := match e.record with
                   | some off => k.records.map fun q => if q.off = off ∧ q.kind = 1 then { q with taken := true } else q
                   | none => k.records }
      .next (((t.setCtxAt core h (helperCtx h e (s.core core).prgn)).newThread core h fun k => some k == e.forker).offerHeld core)
    else notNow "HELPER_START"
  | _, _ => notNow "HELPER_START"

/-- SPAWN (R220): a fork; refused, with rd := 0, if an event is queued or no helper is free. -/
def execSpawn (d a b : BitVec 5) (s : State) : Out :=
  gated (.spawn d a b) s fun s =>
    let c := s.cur.1
    match s.me.events, s.freeHelper c with
    | [], some h =>
      let e : HelperEvent :=
        { pc := s.x a, a0 := s.x b, a1 := 0#64, uicause := 0#64, uival := 0#64, uixfer := 0#64, row := none,
          record := none, source := 1, entered := 0 }
      .next (((((s.endRegion c s.cur.2).setCtxAt c h (helperCtx h e s.me.prgn)).newThread c h (· == .thread c s.cur.2)).setX d (word h)).bump 4)
    | _, _ => .next ((s.setX d 0#64).bump 4)

/-- HEXIT (R29, R220): the helper is free and its registers discarded; a drain row it holds retires. -/
def execHexit (s : State) : Out :=
  gated .hexit s fun s =>
    let c := s.cur.1
    let h := s.cur.2
    let t := match s.cx.row with
      | some r => s.retireRow r r.zero
      | none => s
    .next (((t.endRegion c h).handOn (· == .thread c h) (.exited c h)).setCtxAt c h (Ctx.reset h))

/-- HWAIT (R220): a join once helper h is free; a helper that names itself times out at once. -/
def execHwait (h : BitVec 4) (s : State) : Out :=
  gatedRun (.hwait h) s fun s =>
    let c := s.cur.1
    if s.cur.2 = h.toNat then .error (s, trap cBarTimeout (word h.toNat))
    else if (s.ctxAt c h.toNat).live then .ok (s.await (.helper h.toNat) (word h.toNat))
    else .ok ((s.acquire c s.cur.2 (· == .exited c h.toNat)).bump 4)

-- The deque.

/-- DQPUSH (R221): at the bottom, which is the end of the list; a release. -/
def execDqpush (a : BitVec 5) (s : State) : Out :=
  gatedRun (.dqpush a) s fun s =>
    let v := s.x a
    if v = 0#64 ∨ 64 ≤ s.me.deque.length then .error (s, trap cDeque v)
    else
      let c := s.cur.1
      .ok (((s.releaseTo c s.cur.2 (.item c s.me.nextItem)).modCore c fun k => { k with deque := k.deque ++ [v] }).bump 4)

/-- DQPOP (R221): the bottom item, or 0; an acquire. -/
def execDqpop (d : BitVec 5) (s : State) : Out :=
  gated (.dqpop d) s fun s =>
    let c := s.cur.1
    let v := (s.me.deque.getLast?).getD 0#64
    let t := ((s.acquire c s.cur.2 fun k => !s.me.deque.isEmpty && k == .item c (s.me.nextItem - 1)).modCore c fun k =>
      { k with deque := k.deque.dropLast }).offerPush c
    .next ((t.setX d v).bump 4)

/-- DQSTEAL (R221): the top item of a core of the cluster, or 0; an acquire. -/
def execDqsteal (d a : BitVec 5) (s : State) : Out :=
  gatedRun (.dqsteal d a) s fun s =>
    let c := s.cur.1
    if 16 ≤ (s.x a).toNat then .error (s, trap cAddr (s.x a))
    else
      let v := clusterOf c * 16 + (s.x a).toNat
      let item := ((s.core v).deque.head?).getD 0#64
      let got := !(s.core v).deque.isEmpty
      let t := ((s.acquire c s.cur.2 fun k => got && k == .item v (s.core v).stolen).modCore v fun k =>
        { k with deque := k.deque.tail, stolen := k.stolen + b2n got }).offerPush v
      .ok ((t.setX d item).bump 4)

/-- DQLEN (R221). -/
def execDqlen (d : BitVec 5) (s : State) : Out :=
  gated (.dqlen d) s fun s => .next ((s.setX d (word s.me.deque.length)).bump 4)

-- Slot rings.

/-- The descriptor address of ring n, in form 0 (log 17, DESIGN CHOICE, unsafe). -/
def ringAddr (n : Nat) : BitVec 64 := word (18 * 2 ^ 29 + 64 * n)

/-- Bytes of a slot, and the scratchpad offset of slot i. -/
def Ring.slotBytes (r : Ring) : Nat := r.slotsz * 64
def Ring.slotOff (r : Ring) (i : Nat) : Nat := r.base * 64 + i * r.slotBytes

/-- The mesh address of a slot in form 0, unit 17. -/
def Ring.slotAddr (r : Ring) (i : Nat) : BitVec 64 := Machine.word (17 * 2 ^ 29 + r.slotOff i)

def Ring.setSlot (r : Ring) (i : Nat) (st : SlotState) : Ring := { r with slots := r.slots.set i st }

/-- Claim at TAIL and take at HEAD (Table 2-9). -/
def Ring.claim (r : Ring) : Ring := { r.setSlot r.tail .claimed with tail := (r.tail + 1) % r.count }
def Ring.take (r : Ring) : Ring := { r.setSlot r.head .taken with head := (r.head + 1) % r.count }

/-- A ring that a configuration word describes (Table 2-8). -/
def Ring.ofWord (w : BitVec 64) : Ring :=
  { fmt := BitVec.ofNat 4 (fld w 60 4), en := true, count := fld w 44 7, slotsz := fld w 30 14, base := fld w 6 14,
    head := 0, tail := 0, slots := List.replicate (fld w 44 7) .free }

/-- The failure of a configuration word, ADDR or FORMAT (R58, R222). -/
def ringWordTrap (n : Nat) (w : BitVec 64) : Option Trap :=
  let r := Ring.ofWord w
  if fld w 51 9 ≠ 0 ∨ fld w 20 10 ≠ 0 ∨ fld w 0 6 ≠ 0 then some (trap cAddr (ringAddr n))
  else if r.count = 0 ∨ 64 < r.count ∨ r.slotsz = 0 ∨ 0x100000 < r.base * 64 + r.count * r.slotBytes then
    some (trap cAddr (ringAddr n))
  else if 14 ≤ r.fmt.toNat then some (trap cFormat (word (r.fmt.toNat * 2 ^ 12)))
  else none

/-- A ring that an MMA in a FIFO of its cluster names counts as attached (R247). -/
def State.mmaOn (s : State) (cl n : Nat) : Bool :=
  (List.range 4).any fun i => (s.quad (4 * cl + i)).unit.fifo.any fun m =>
    match m.kind with
    | .mma _ a b => a == n || b == n
    | _ => false

/-- RINIT (R222). -/
def execRinit (a : BitVec 5) (n : BitVec 4) (s : State) : Out :=
  gatedRun (.rinit a n) s fun s =>
    let cl := clusterOf s.cur.1
    let r := s.ring cl n.toNat
    match ringWordTrap n.toNat (s.x a) with
    | some t => .error (s, t)
    | none =>
      if r.en ∧ (r.slots.any (· != .free) ∨ ((s.cluster cl).attached.any fun e => e.2.2 == n.toNat)
          ∨ s.mmaOn cl n.toNat) then
        .error (s, trap cProt (ringAddr n.toNat))
      else .ok ((s.setRing cl n.toNat (Ring.ofWord (s.x a))).bump 4)

/-- RCLAIM (R222): waits while the ring is full. -/
def execRclaim (d : BitVec 5) (n : BitVec 4) (s : State) : Out :=
  gatedRun (.rclaim d n) s fun s =>
    let cl := clusterOf s.cur.1
    let r := s.ring cl n.toNat
    if !r.en then .error (s, trap cProt (ringAddr n.toNat))
    else if r.slot r.tail = .free then .ok (((s.setRing cl n.toNat r.claim).setX d (r.slotAddr r.tail)).bump 4)
    else .ok (s.await (.ring n.toNat false) (ringAddr n.toNat))

-- The matrix unit at a ring (R60, R247).

def State.unit (s : State) (q : Nat) : MatUnit := (s.quad q).unit

/-- The cycle of the quad's windows is one that MDUTY allows (R254, R397). -/
def State.arrayOk (s : State) (q : Nat) : Bool := dutyAllows (s.unitDuty q) (s.cycleOf (4 * q))

/-- The array advances: the partition runs, and MDUTY lets it (R254). -/
def State.unitRuns (s : State) (q : Nat) : Bool := s.runs (4 * q) && s.arrayOk q

/-- The MMA at the head of a unit that has started: its command, groups and rings. -/
def MatUnit.runningMma (u : MatUnit) : Option (MatCmd × Nat × Nat × Nat) :=
  match u.fifo with
  | cmd :: _ =>
    match cmd.kind with
    | .mma g a b => if u.started then some (cmd, g, a, b) else none
    | _ => none
  | [] => none

/-- Both head slots are COMMITTED. -/
def bothCommitted (ra rb : Ring) : Bool := ra.slot ra.head == .committed && rb.slot rb.head == .committed

/-- A matrix unit of a cluster takes from a ring in this cycle, before the engine and cores do (R247). -/
def State.mmaTakes (s : State) (cl n : Nat) : Bool :=
  (List.range 4).any fun i =>
    let q := 4 * cl + i
    match (s.unit q).runningMma with
    | some (_, _, a, b) =>
      (a == n || b == n) && (s.unit q).step.isNone && s.unitRuns q && bothCommitted (s.ring cl a) (s.ring cl b)
    | none => false

/-- RTAKE (R222): waits while the ring is empty, or a matrix unit takes from it in this cycle; an acquire. -/
def execRtake (d : BitVec 5) (n : BitVec 4) (s : State) : Out :=
  gatedRun (.rtake d n) s fun s =>
    let cl := clusterOf s.cur.1
    let r := s.ring cl n.toNat
    if !r.en then .error (s, trap cProt (ringAddr n.toNat))
    else if r.slot r.head = .committed ∧ s.mmaTakes cl n.toNat = false then
      .ok ((((s.acquire s.cur.1 s.cur.2 (· == .slot cl n.toNat r.head)).setRing cl n.toNat r.take).setX d (r.slotAddr r.head)).bump 4)
    else .ok (s.await (.ring n.toNat true) (ringAddr n.toNat))

/-- The enabled ring and slot of the core's cluster that starts at an address (R222); where slots of several rings do,
that of the lowest-numbered ring (log 82, DESIGN CHOICE, unsafe). -/
def State.slotAt (s : State) (a : BitVec 64) : Option (Nat × Nat) :=
  match resolve s.cur.1 a 1 with
  | none => none
  | some m =>
    if m.cluster ≠ clusterOf s.cur.1 ∨ m.unit ≠ 17 then none
    else
      (List.range 16).findSome? fun n =>
        let r := s.ring m.cluster n
        if r.en then ((List.range r.count).find? fun i => r.slotOff i == m.off).map fun i => (n, i) else none

/-- RCOMMIT and RFREE: ADDR unless a slot starts there, PROT in a wrong state (R59, R222). -/
def slotMove (i : Instr) (a : BitVec 5) (before after : SlotState) (k : Nat → Nat → State → State) (s : State) : Out :=
  gatedRun i s fun s =>
    let cl := clusterOf s.cur.1
    match s.slotAt (s.x a) with
    | none => .error (s, trap cAddr (s.x a))
    | some (n, j) =>
      let r := s.ring cl n
      if r.slot j = before then .ok (((k n j s).setRing cl n (r.setSlot j after)).bump 4)
      else .error (s, trap cProt (s.x a))

/-- RCOMMIT: a release. -/
def execRcommit (a : BitVec 5) (s : State) : Out :=
  slotMove (.rcommit a) a .claimed .committed
    (fun n j s => s.releaseTo s.cur.1 s.cur.2 (.slot (clusterOf s.cur.1) n j)) s

def execRfree (a : BitVec 5) (s : State) : Out := slotMove (.rfree a) a .taken .free (fun _ _ s => s) s

end Sys2Proof.Machine
end

