-- ==== Sys2Proof/Machine/LayoutRec.lean ====
section
/-! DEFINITION. Layout records (R223 to R225): reading, validity and checks, addresses of tensor elements, and what
each transform of XCOPY delivers (R228, Table 8-8). -/

namespace Sys2Proof.Machine

-- Reading a record.

/-- A signed field of w bits. -/
def signedFld (w v : Nat) : Int := IntTy.value { w := w, signed := true } (v % 2 ^ w)

/-- n bytes at an offset of a record. -/
def recNum (bs : List (BitVec 8)) (off n : Nat) : Nat := bytesNat ((bs.drop off).take n)

/-- A field of a dimension, or the value of a dimension at or above RANK. -/
def dimField {α : Type} (rank : Nat) (dflt : α) (f : Nat → α) : List α :=
  (List.range 5).map fun d => if d < rank then f d else dflt

/-- The fields of a record's 128 bytes (Tables 8-6 and 8-7). -/
def LRec.read (bs : List (BitVec 8)) (addr : BitVec 64) : LRec :=
  let ctl := word (recNum bs 8 8)
  let rank := fld ctl 4 3
  { addr := addr, base := word (recNum bs 0 8), tag := BitVec.ofNat 4 (fld ctl 0 4), rank := rank,
    notify := bitOf ctl 7, sat := bitOf ctl 8, rm := BitVec.ofNat 3 (fld ctl 9 3), pcmp := fld ctl 12 3,
    ring := bitOf ctl 15, ringno := fld ctl 16 4, sfp32 := bitOf ctl 20, adim := fld ctl 21 3,
    rep := fld ctl 24 16,
    size := dimField rank 1 fun d => recNum bs (0x10 + 4 * d) 4,
    ext := dimField rank 1 fun d => recNum bs (0x24 + 2 * d) 2 + 1,
    org := dimField rank 0 fun d => signedFld 32 (recNum bs (0x30 + 4 * d) 4),
    stride := dimField rank 0 fun d => if d = 0 then 0 else signedFld 48 (recNum bs (0x48 + 6 * (d - 1)) 6),
    pval := recNum bs 0x44 4, fill := word (recNum bs 0x60 8), handler := word (recNum bs 0x68 8),
    next := word (recNum bs 0x70 8), paddr := word (recNum bs 0x78 8) }

/-- Whether a field of a dimension at or above RANK is not 0. -/
def deadFields (bs : List (BitVec 8)) (rank : Nat) : Bool :=
  (List.range 5).any fun d =>
    decide (rank ≤ d) &&
      (recNum bs (0x10 + 4 * d) 4 != 0 || recNum bs (0x24 + 2 * d) 2 != 0 || recNum bs (0x30 + 4 * d) 4 != 0
        || (d != 0 && recNum bs (0x48 + 6 * (d - 1)) 6 != 0))

/-- A record as it was read, with its bytes. -/
abbrev RawRec := LRec × List (BitVec 8)

/-- The first bullet of step 4 of R227: no reserved bit set, RANK, RM and PCMP in range. -/
def RawRec.plain (r : RawRec) : Bool :=
  recNum r.2 0x0D 3 == 0 && recNum r.2 0x2E 2 == 0 && decide (1 ≤ r.1.rank ∧ r.1.rank ≤ 5) && decide (r.1.rm.toNat ≤ 5)
    && r.1.pcmp != 7

/-- The validity of R223 that a record has of itself, whatever the transform. -/
def RawRec.valid (r : RawRec) : Bool :=
  !deadFields r.2 r.1.rank
    && (if r.1.rep = 0 then r.1.adim == 0 else decide (r.1.adim < r.1.rank))
    && (r.1.tag != 12#4 || (r.1.org.headD 0 % 2 == 0 && r.1.ext.headD 0 % 2 == 0))

-- Tensor elements (R224).

/-- Whether a tag has a scale array. -/
def LRec.scaled (r : LRec) : Bool := tagS r.tag

/-- Bytes of a scale array's entry. -/
def entrySize (tag : BitVec 4) : Nat := if tag = 12#4 then 2 else 1

/-- Elements, rows and blocks per row of a box. -/
def LRec.count (r : LRec) : Nat := r.ext.prod
def LRec.width0 (r : LRec) : Nat := r.ext.headD 1
def LRec.rows (r : LRec) : Nat := r.ext.tail.prod
def LRec.blocksPerRow (r : LRec) : Nat := (r.width0 + 31) / 32

/-- The coordinates of place i of a box, dimension 0 fastest. -/
def coords : List Nat → Nat → List Nat
  | [], _ => []
  | n :: ns, i => i % n :: coords ns (i / n)

/-- The place of coordinates. -/
def linear : List Nat → List Nat → Nat
  | n :: ns, c :: cs => c + n * linear ns cs
  | _, _ => 0

/-- Tensor coordinates of box coordinates in tile k. -/
def LRec.tensor (r : LRec) (k : Nat) (c : List Nat) : List Int :=
  (List.range 5).map fun d =>
    r.org.getD d 0 + (c.getD d 0 : Nat) + (if r.rep ≠ 0 ∧ d = r.adim then (k * r.ext.getD d 1 : Nat) else 0 : Int)

/-- The coordinates lie within the tensor. -/
def LRec.inside (r : LRec) (t : List Int) : Bool :=
  (List.range 5).all fun d => decide (0 ≤ t.getD d 0 ∧ t.getD d 0 < r.size.getD d 1)

/-- The byte address of an element; for E2M1 that of its byte. -/
def LRec.address (r : LRec) (t : List Int) : BitVec 64 :=
  r.base + BitVec.ofInt 64 (t.headD 0 * tagWidth r.tag / 8
    + ((List.range 4).map fun d => t.getD (d + 1) 0 * r.stride.getD (d + 1) 0).sum)

/-- J of R76: the element's linear index in its tensor. -/
def LRec.index (r : LRec) (t : List Int) : BitVec 64 :=
  BitVec.ofInt 64 ((List.range 5).map fun d => t.getD d 0 * (r.size.take d).prod).sum

/-- A dense image of a box at an address, its scale array behind the data. -/
def LRec.dense (r : LRec) (base : BitVec 64) : LRec :=
  let w := tagWidth r.tag
  let strides := (List.range 5).map fun d => if d = 0 then 0 else ((r.ext.take d).prod * w / 8 : Int)
  { r with base := base, size := r.ext, org := [0, 0, 0, 0, 0], stride := strides, rep := 0, adim := 0,
           fill := base + word ((r.count * w + 7) / 8) }

/-- Bytes of a tile's dense image (R224, R229). -/
def LRec.imageBytes (r : LRec) : Nat :=
  (r.count * tagWidth r.tag + 7) / 8
    + (if r.scaled then r.rows * r.blocksPerRow * entrySize r.tag else 0)

-- Places and their bytes.

/-- The place that an address names for the engine of a core; none if no such place exists. -/
def locOf (c : Nat) (ea : BitVec 64) (n : Nat) : Option Loc :=
  if bitOf ea 63 then some (.dev ea) else (resolve c ea n).map fun m => .mesh m.key

/-- The number of a place's first byte in the model's memory, for the partition of a core. -/
def State.locKey (s : State) (c : Nat) : Loc → Nat
  | .mesh k => k
  | .dev va => let p := s.partOfCore c; s.byteKey p.fn p.hrt va

/-- n bytes as a number at an address, 0 at one that names no place. -/
def State.engNum (s : State) (c : Nat) (ea : BitVec 64) (n : Nat) : Nat :=
  match locOf c ea n with
  | some l => memRead s.mem (s.locKey c l) n
  | none => 0

/-- Ranges of bytes by address and length. -/
abbrev Ranges := List (BitVec 64 × Nat)

/-- A source element: its code, its block's entry, J, and what was read for it. -/
structure SrcElem where
  code : Nat
  scale : Nat
  spec : Nat
  j : BitVec 64
  reads : Ranges
  deriving DecidableEq, Repr

/-- The range of an element at tensor coordinates. -/
def LRec.range (r : LRec) (t : List Int) : BitVec 64 × Nat := (r.address t, (tagWidth r.tag + 7) / 8)

/-- The address of the entry of a block in the box's scale array (log 62, DEDUCED, unsafe). -/
def LRec.entryAddr (r : LRec) (b : Nat) : BitVec 64 := r.fill + word (b * entrySize r.tag)

/-- The entry of the block that holds box coordinates. -/
def LRec.blockOf (r : LRec) (c : List Nat) : Nat :=
  linear r.ext.tail c.tail * r.blocksPerRow + c.headD 0 / 32

/-- A source element at tensor coordinates t, of box coordinates c (R224): FILL outside the tensor, or code 0 in
a scaled tensor. -/
def State.srcElem (s : State) (core : Nat) (r : LRec) (t : List Int) (c : List Nat) : SrcElem :=
  let w := tagWidth r.tag
  if r.inside t then
    let p := r.range t
    let raw := s.engNum core p.1 p.2
    let code := if w = 4 then raw / (if t.headD 0 % 2 = 0 then 1 else 16) % 16 else raw % 2 ^ w
    if r.scaled then
      let a := r.entryAddr (r.blockOf c)
      let e := s.engNum core a (entrySize r.tag)
      { code := code, scale := e % 256, spec := e / 256, j := r.index t, reads := [p, (a, entrySize r.tag)] }
    else { code := code, scale := 127, spec := 0, j := r.index t, reads := [p] }
  else { code := if r.scaled then 0 else r.fill.toNat % 2 ^ w, scale := 127, spec := 0, j := r.index t, reads := [] }

/-- Its value. -/
def SrcElem.num (e : SrcElem) (tag : BitVec 4) : Num := elemValue tag e.scale e.spec e.code

-- Transforms.

/-- Coordinates with dimensions 0 and 1 exchanged. -/
def swap01 {α : Type} : List α → List α
  | a :: b :: cs => b :: a :: cs
  | cs => cs

/-- Whether the source box is transposed: TRANSPOSE, CONVERT_T and T = 1. -/
def transposes (k : BitVec 4) (t : Bool) : Bool := t || k == 2#4 || k == 4#4

/-- One element as it is to be delivered: its code and what was read for it. -/
structure OutElem where
  code : Nat
  reads : Ranges
  deriving DecidableEq, Repr

/-- The rounding of a destination record for an element. -/
def LRec.rnd (r : LRec) (seed j : BitVec 64) : Rnd := { mode := r.rm, seed := seed, j := j }

/-- The scale of a QUANT_TILE; none if every element becomes NaN. -/
def State.tileScale (s : State) (core : Nat) (d : LRec) : Option Num :=
  if d.sfp32 then
    let x := fp32.decode (s.engNum core d.fill 4)
    if x.isNan || x.isZero || x.isNeg then none else some x
  else
    let e := s.engNum core d.fill 1
    if e = 255 then none else some (Num.mk' false 1 ((e : Int) - 127))

def tileScaleRange (d : LRec) : BitVec 64 × Nat := (d.fill, if d.sfp32 then 4 else 1)

/-- The rows of a COMPACT whose mask bytes are not 0, in order. -/
def State.keptRows (s : State) (core : Nat) (d : LRec) : List Nat :=
  (List.range d.rows).filter fun i => s.engNum core (d.fill + word (8 + i)) 1 != 0

/-- The source element that destination coordinates take, for the transforms that take one. -/
def State.taken (s : State) (core : Nat) (k : BitVec 4) (t : Bool) (src d : LRec) (tile : Nat) (c : List Nat) : SrcElem :=
  if k = 9#4 then
    let a := d.fill + word (4 * c.getD 1 0)
    let e := s.srcElem core src ((src.tensor tile c).set 1 (s.engNum core a 4)) c
    { e with reads := (a, 4) :: e.reads }
  else if k = 10#4 then
    let kept := s.keptRows core d
    let e := s.srcElem core src (src.tensor tile (c.set 1 (kept.getD (c.getD 1 0) 0))) c
    { e with reads := (d.fill + 8#64, d.rows) :: e.reads }
  else
    let c' := if transposes k t then swap01 c else c
    s.srcElem core src (src.tensor tile c') c'

/-- What an element by element transform delivers at destination coordinates. -/
def State.outElem (s : State) (core : Nat) (k : BitVec 4) (t : Bool) (src : Option LRec) (d : LRec) (tile : Nat)
    (c : List Nat) : OutElem :=
  match src with
  | none => { code := d.fill.toNat % 2 ^ tagWidth d.tag, reads := [] }
  | some r =>
    let e := s.taken core k t r d tile c
    let rn := d.rnd (s.core core).srseed e.j
    match k.toNat with
    | 3 | 4 =>
      { code := (convert d.tag d.sat rn r.tag (e.num r.tag) ((tagInt r.tag).value e.code)).code, reads := e.reads }
    | 5 =>
      { code := match s.tileScale core d with
          | none => (tagFmt d.tag).nanCode
          | some x => (roundTo (tagFmt d.tag) d.sat rn (divNum (e.num r.tag) x).v).code,
        reads := tileScaleRange d :: e.reads }
    | 8 => { code := (roundTo (tagFmt d.tag) d.sat rn (e.num r.tag)).code, reads := e.reads }
    | _ => { code := e.code, reads := e.reads }

/-- The coordinates of the 32 elements of a block of a destination box: along dimension 0, or for the second
output of a QUANT_DUAL along dimension 1. -/
def blockCoords (d : LRec) (dual : Bool) (b : Nat) : List (List Nat) :=
  if dual then
    let cols := d.width0
    let slab := cols * (d.ext.getD 1 1 / 32)
    let r := b % slab / cols
    (List.range 32).map fun i => b % cols :: (32 * r + i) :: coords (d.ext.drop 2) (b / slab)
  else (List.range 32).map fun i => (32 * (b % d.blocksPerRow) + i) :: coords d.ext.tail (b / d.blocksPerRow)

/-- The block that holds coordinates, and the place in it. -/
def blockPlace (d : LRec) (dual : Bool) (c : List Nat) : Nat × Nat :=
  if dual then
    ((linear (d.ext.drop 2) (c.drop 2) * (d.ext.getD 1 1 / 32) + c.getD 1 0 / 32) * d.width0 + c.headD 0,
      c.getD 1 0 % 32)
  else (d.blockOf c, c.headD 0 % 32)

/-- Blocks of a destination box. -/
def LRec.blocks (d : LRec) : Nat := d.rows * d.blocksPerRow

/-- A quantised block of a QUANT_BLOCK or QUANT_DUAL with what was read for it (R78, R79). -/
def State.quantised (s : State) (core : Nat) (t : Bool) (src d : LRec) (dual : Bool) (tile b : Nat) : QBlock × Ranges :=
  let es := (blockCoords d dual b).map fun c => s.taken core 6#4 t src d tile c
  let rn (i : Nat) : Rnd := d.rnd (s.core core).srseed ((es.map SrcElem.j).getD i 0#64)
  (quantBlock (tagFmt d.tag) rn (es.map fun e => e.num src.tag), es.flatMap SrcElem.reads)

def isQuant (k : BitVec 4) : Bool := k == 6#4 || k == 7#4

/-- One unit of delivery before its place is resolved: its address, its bytes, the half mark, and what was read
for it. -/
structure RawUnit where
  addr : BitVec 64
  bytes : List (BitVec 8)
  low : Bool
  reads : Ranges
  deriving DecidableEq, Repr

/-- The element delivered at destination coordinates, whatever the transform. -/
def State.element (s : State) (core : Nat) (k : BitVec 4) (t : Bool) (src : Option LRec) (d : LRec) (dual : Bool)
    (tile : Nat) (c : List Nat) : OutElem :=
  match isQuant k, src with
  | true, some r =>
    let p := blockPlace d dual c
    let q := s.quantised core t r d dual tile p.1
    { code := q.1.codes.getD p.2 0, reads := q.2 }
  | _, _ => s.outElem core k t src d tile c

/-- The units of a destination box's elements, in box order, clipped at the tensor's edge; `k2` limits the rows of
a COMPACT. `out` is where the elements go: the record, or its image in a slot. -/
def State.dataUnits (s : State) (core : Nat) (k : BitVec 4) (t : Bool) (src : Option LRec) (d out : LRec) (dual : Bool)
    (stile dtile rows : Nat) : List RawUnit :=
  let w := tagWidth d.tag
  (List.range (d.width0 * rows)).filterMap fun i =>
    let c := coords d.ext i
    let tc := out.tensor dtile c
    if !out.inside tc then none
    else
      let e := s.element core k t src d dual stile c
      if w = 4 then
        if c.headD 0 % 2 = 1 then none
        else
          let c1 := coords d.ext (i + 1)
          let e1 := s.element core k t src d dual stile c1
          let both := out.inside (out.tensor dtile c1)
          some { addr := out.address tc, bytes := [BitVec.ofNat 8 (e.code + if both then 16 * e1.code else 0)],
                 low := !both, reads := e.reads ++ e1.reads }
      else some { addr := out.address tc, bytes := natBytes (w / 8) e.code, low := false, reads := e.reads }

/-- The units of a destination's scale array: copied by COPY, derived by QUANT_BLOCK and QUANT_DUAL. -/
def State.scaleUnits (s : State) (core : Nat) (k : BitVec 4) (t : Bool) (src : Option LRec) (d out : LRec) (dual : Bool)
    (tile : Nat) : List RawUnit :=
  match src with
  | none => []
  | some r =>
    let n := entrySize d.tag
    if k = 0#4 ∧ d.scaled then
      (List.range d.blocks).map fun b =>
        { addr := out.entryAddr b, bytes := natBytes n (s.engNum core (r.entryAddr b) n), low := false,
          reads := [(r.entryAddr b, n)] }
    else if isQuant k then
      (List.range d.blocks).map fun b =>
        let q := s.quantised core t r d dual tile b
        { addr := out.entryAddr b, bytes := natBytes n (q.1.scale + 256 * q.1.spec), low := false, reads := q.2 }
    else []

/-- The count of a COMPACT. -/
def State.countUnits (s : State) (core : Nat) (k : BitVec 4) (d : LRec) : List RawUnit :=
  if k = 10#4 then
    [{ addr := d.fill, bytes := natBytes 4 (s.keptRows core d).length, low := false,
       reads := [(d.fill + 8#64, d.rows)] }]
  else []

/-- Everything that one box of a destination record receives. -/
def State.boxUnits (s : State) (core : Nat) (k : BitVec 4) (t : Bool) (src : Option LRec) (d out : LRec) (dual : Bool)
    (stile dtile : Nat) : List RawUnit :=
  let rows := if k = 10#4 then (s.keptRows core d).length else d.rows
  s.dataUnits core k t src d out dual stile dtile rows ++ s.scaleUnits core k t src d out dual stile
    ++ s.countUnits core k d

-- Checks of a record pair (R227, steps 4 and 5).

/-- The byte range of a row of a box within its tensor, by its first and last element. -/
def LRec.rowRange (r : LRec) (k row : Nat) : Option (BitVec 64 × Nat) :=
  let n0 := r.width0
  let ins := (List.range n0).filter fun i => r.inside (r.tensor k (coords r.ext (row * n0 + i)))
  match ins.head?, ins.getLast? with
  | some a, some b =>
    let w := tagWidth r.tag
    some (r.address (r.tensor k (coords r.ext (row * n0 + a))), ((b + 1 - a) * w + 7) / 8)
  | _, _ => none

def LRec.rowRanges (r : LRec) (k : Nat) : Ranges := (List.range r.rows).filterMap (r.rowRange k)

/-- The scale array of a box as a range. -/
def LRec.scaleRange (r : LRec) : Ranges := if r.scaled then [(r.fill, r.blocks * entrySize r.tag)] else []

/-- Ranges that a transform reads beside its source's rows: index, mask or tile scale. -/
def auxReads (k : BitVec 4) (d : LRec) : Ranges :=
  match k.toNat with
  | 5 => [tileScaleRange d]
  | 9 => [(d.fill, 4 * d.rows)]
  | 10 => [(d.fill + 8#64, d.rows)]
  | _ => []

/-- The rows of a GATHER's source that its indices name. -/
def State.gatherRanges (s : State) (core : Nat) (src d : LRec) : Ranges :=
  let one : LRec := { src with ext := [src.width0, 1, 1, 1, 1], org := src.org.set 1 0 }
  (List.range d.rows).filterMap fun i =>
    ({ one with org := one.org.set 1 (s.engNum core (d.fill + word (4 * i)) 4) } : LRec).rowRange 0 0

/-- Destination ranges of a box. -/
def writeRanges (k : BitVec 4) (out d : LRec) (tile : Nat) : Ranges :=
  out.rowRanges tile
    ++ (if (k = 0#4 ∧ d.scaled) ∨ isQuant k then out.scaleRange else [])
    ++ (if k = 10#4 then [(d.fill, 4)] else [])

/-- One data range: a device VA by R47, a mesh range by R51 for the issuing core. -/
def State.checkRange (s : State) (core : Nat) (right : Right) (p : BitVec 64 × Nat) : Except Trap Unit :=
  if bitOf p.1 63 then (if fld p.1 54 9 ≠ 0 then .error (trap cAddr p.1) else .ok ())
  else if p.2 = 0 then .ok ()
  else (s.check core p.1 p.2 1 [right] false).map fun _ => ()

def State.checkRanges (s : State) (core : Nat) (right : Right) : Ranges → Except Trap Unit
  | [] => .ok ()
  | p :: ps => match s.checkRange core right p with
    | .error t => .error t
    | .ok _ => s.checkRanges core right ps

/-- The predicate word of a record: a 4-aligned mesh address that the core may read (R225). -/
def State.checkPred (s : State) (core : Nat) (r : LRec) : Except Trap Unit :=
  if r.pcmp = 0 then .ok ()
  else if bitOf r.paddr 63 then .error (trap cAddr r.paddr)
  else (s.check core r.paddr 4 4 [.r] false).map fun _ => ()

/-- The predicate of a record (R225). -/
def State.predHolds (s : State) (core : Nat) (r : LRec) : Bool :=
  let m := s.engNum core r.paddr 4
  let a := signedFld 32 m
  let b := signedFld 32 r.pval
  match r.pcmp with
  | 0 => true
  | 1 => m == r.pval
  | 2 => m != r.pval
  | 3 => decide (a < b)
  | 4 => decide (b ≤ a)
  | 5 => decide (m < r.pval)
  | _ => decide (r.pval ≤ m)

/-- Steps 1 and 2 of R227 for one record: its address, and the right to read it. -/
def State.readRecord (s : State) (core : Nat) (ea : BitVec 64) : Except Trap RawRec :=
  match resolve core ea 128 with
  | none => .error (trap cAddr ea)
  | some m =>
    if m.unit = 18 then .error (trap cAddr ea)
    else
      match s.check core ea 128 128 [.r] false with
      | .error t => .error t
      | .ok _ => let bs := memBytes s.mem m.key 128; .ok (LRec.read bs ea, bs)

/-- RANK and extents that a transform demands of a record (Table 8-8). -/
def shapeFits (k : BitVec 4) (t : Bool) (r : LRec) : Bool :=
  (!(k == 9#4 || k == 10#4) || r.rank == 2) && (!transposes k t || decide (2 ≤ r.rank))

/-- What the destination of a quantisation demands of its extents. -/
def quantFits (k : BitVec 4) (d : LRec) : Bool :=
  (!isQuant k || d.width0 % 32 == 0) && (!(k == 7#4) || (decide (2 ≤ d.rank) && d.ext.getD 1 1 % 32 == 0))

/-- Tags that suit a transform (Table 8-8). -/
def tagsSuit (k : BitVec 4) (src : Option (BitVec 4)) (dst : BitVec 4) : Bool :=
  let q (a : BitVec 4) : Bool := a == 7#4 || a == 8#4 || a == 9#4
  match src with
  | none => tagOk dst && !tagS dst
  | some a =>
    tagOk a && tagOk dst &&
    match k.toNat with
    | 0 => a == dst
    | 3 | 4 => (tagF a || tagN a || tagS a) && (tagF dst || tagN dst)
    | 5 => q a && (dst == 10#4 || dst == 11#4)
    | 6 | 7 => q a && tagS dst
    | 8 => tagS a && tagF dst
    | _ => a == dst && !tagS a

/-- The ring checks of R227 and R229: enabled, FMT, and room for the image. -/
def State.checkRing (s : State) (core n : Nat) (r : LRec) (fills : Bool) : Except Trap Unit :=
  let g := s.ring (clusterOf core) n
  if !g.en then .error (trap cProt (ringAddr n))
  else if g.fmt ≠ r.tag then
    .error (if fills then formatTrap [r.tag] g.fmt else formatTrap [g.fmt] r.tag)
  else if fills ∧ g.slotBytes < r.imageBytes then .error (trap cAddr r.addr)
  else .ok ()

/-- A check's trap, with the address of the record that it concerns: a later record's failure reports that (R227). -/
abbrev Checked := Except (Trap × BitVec 64) Unit

def blame (a : BitVec 64) : Except Trap Unit → Checked
  | .ok _ => .ok ()
  | .error t => .error (t, a)

/-- A demand on a record, whose failure is ADDR with the record's address. -/
def LRec.demand (r : LRec) (ok : Bool) : Checked := if ok then .ok () else .error (trap cAddr r.addr, r.addr)

/-- The first two bullets of step 4 for records just read, in chain order: destination, then source. -/
def checkRaw (raws : List RawRec) (fits : LRec → Bool) : Checked := do
  raws.forM fun r => r.1.demand r.plain
  raws.forM fun r => r.1.demand (r.valid && fits r.1)

/-- The rest of step 4 for the records of an XCOPY: extents, REP and RING, the ring, the tags and FMT. Where the extents of
source and destination disagree, TVAL is the destination record's address (log 104, DESIGN CHOICE, unsafe). -/
def State.checkCopy (s : State) (core : Nat) (k : BitVec 4) (t : Bool) (src : Option LRec) (d : LRec) : Checked := do
  d.demand (src.all fun r => (if transposes k t then swap01 r.ext else r.ext) == d.ext)
  d.demand (d.rep == 0)
  src.toList.forM fun r => r.demand (r.rep == 0 && !r.ring)
  if d.ring ∧ !(s.ring (clusterOf core) d.ringno).en then throw (trap cProt (ringAddr d.ringno), d.addr)
  if !tagsSuit k (src.map LRec.tag) d.tag then throw (formatTrap (src.toList.map LRec.tag) d.tag, d.addr)
  if d.ring then blame d.addr (s.checkRing core d.ringno d true)

/-- A scale array, or the scale of a QUANT_TILE, lies at a mesh address (Table 8-6). -/
def State.checkScale (s : State) (core : Nat) (right : Right) (r : LRec) (ps : Ranges) : Except Trap Unit :=
  if r.scaled && bitOf r.fill 63 && !ps.isEmpty then .error (trap cAddr r.fill) else s.checkRanges core right ps

/-- Step 5 for the records of an XCOPY. -/
def State.checkData (s : State) (core : Nat) (k : BitVec 4) (src : Option LRec) (d : LRec) : Checked := do
  match src with
  | some r =>
    blame r.addr (s.checkRanges core .r (if k = 9#4 then s.gatherRanges core r d else r.rowRanges 0))
    blame r.addr (s.checkScale core .r r r.scaleRange)
    blame d.addr (s.checkScale core .r d (auxReads k d))
  | none => pure ()
  if !d.ring then
    blame d.addr (s.checkRanges core .w (d.rowRanges 0))
    blame d.addr (s.checkScale core .w d (if (k = 0#4 ∧ d.scaled) ∨ isQuant k then d.scaleRange else []))
  if k = 10#4 then blame d.addr (s.checkRanges core .w [(d.fill, 4)])

/-- Steps 4 and 5 of R227 for the records of a pair, those of `raws` just read. -/
def State.checkPair (s : State) (core : Nat) (kind : EngKind) (raws : List RawRec) (src dst : Option LRec) : Checked := do
  match kind, src, dst with
  | .xcopy k t, src, some d =>
    checkRaw raws fun r => shapeFits k t r && (!(r == d) || quantFits k r)
    s.checkCopy core k t src d
    s.checkData core k src d
  | .xsub n, some r, _ =>
    checkRaw raws fun _ => true
    r.demand (!r.ring)
    blame r.addr (s.checkRing core n r true)
    (List.range (r.rep + 1)).forM fun i => blame r.addr (s.checkRanges core .r (r.rowRanges i))
    blame r.addr (s.checkScale core .r r r.scaleRange)
  | .xpub n, _, some d =>
    checkRaw raws fun _ => true
    d.demand (!d.ring)
    blame d.addr (s.checkRing core n d false)
    (List.range (d.rep + 1)).forM fun i => blame d.addr (s.checkRanges core .w (d.rowRanges i))
    blame d.addr (s.checkScale core .w d (writeRanges 0#4 d d 0))
  | _, _, _ => pure ()
  raws.forM fun r => blame r.1.addr (s.checkPred core r.1)

end Sys2Proof.Machine
end

