-- ==== Sys2Proof/Machine/Transfer.lean ====
section
/-! DEFINITION. Engine operations in progress (R227, R231, R232): their boxes and pieces, IN-FLIGHT granules, the
requests that pieces make of homes, landing, and the end of an operation. -/

namespace Sys2Proof.Machine

def noRecPair : RecPair :=
  { dst := none, dst2 := none, src := none, skipped := false, delivered := 0, posted := false,
    delivered2 := 0, posted2 := false }

/-- The key of an entry of a core's request ring within its cluster. -/
def opKey (core entry : Nat) : Nat := inCluster core * 16 + entry

def State.op? (s : State) (core entry : Nat) : Option EngOp := amGet? (s.cluster (clusterOf core)).ops (opKey core entry)

def State.setOp (s : State) (core entry : Nat) (o : EngOp) : State :=
  s.modCluster (clusterOf core) fun u => { u with ops := amSet u.ops (opKey core entry) o }

/-- A record pair of an operation by its number. -/
def EngOp.pair (o : EngOp) (n : Nat) : RecPair := o.pairs.getD n noRecPair
/-- The number of the pair in process. -/
def EngOp.cur (o : EngOp) : Nat := o.pairs.length - 1
def EngOp.modPair (o : EngOp) (n : Nat) (f : RecPair → RecPair) : EngOp := { o with pairs := o.pairs.modify n f }

/-- Whether a pair takes a second destination record. -/
def EngKind.dual : EngKind → Bool
  | .xcopy k _ => k == 7#4
  | _ => false

/-- Tiles of a pair: the boxes of an XCOPY, or REP + 1 (R229). -/
def EngOp.tiles (o : EngOp) (p : RecPair) : Nat :=
  match o.kind with
  | .xcopy k _ => if k = 7#4 then 2 else 1
  | .xsub _ => (p.src.map LRec.rep).getD 0 + 1
  | .xpub _ => (p.dst.map LRec.rep).getD 0 + 1
  | _ => 0

/-- The destination record of a box of an XCOPY. -/
def RecPair.box (p : RecPair) (tile : Nat) : Option LRec := if tile = 1 then p.dst2 else p.dst

/-- The ring whose slot a tile needs, and whether it claims (rather than takes) it. -/
def EngOp.ringOf (o : EngOp) (p : RecPair) (tile : Nat) : Option (Nat × Bool) :=
  match o.kind with
  | .xcopy _ _ => (p.box tile).bind fun d => if d.ring then some (d.ringno, true) else none
  | .xsub n => some (n, true)
  | .xpub n => some (n, false)
  | _ => none

/-- The slot that a tile holds. -/
def EngOp.slotOf (o : EngOp) (recn tile : Nat) : Option TileSlot :=
  o.slots.find? fun t => t.recn == recn && t.tile == tile

/-- The absolute mesh address of a slot of a cluster's ring. -/
def State.slotBase (s : State) (cl n i : Nat) : BitVec 64 :=
  keyWord (Mesh.key { cluster := cl, unit := 17, off := (s.ring cl n).slotOff i })

/-- An element that crosses from one naturally aligned 8-byte unit into the next is delivered as two (R89). -/
def RawUnit.cut (u : RawUnit) : List RawUnit :=
  let n := 8 - fld u.addr 0 3
  if n < u.bytes.length then
    [{ u with bytes := u.bytes.take n }, { u with addr := u.addr + word n, bytes := u.bytes.drop n }]
  else [u]

/-- What a tile delivers, element by element in operation order (R228, R229). A tile that holds no slot yet is shown as if
in slot 0: its bytes then count, but lie nowhere yet. -/
def State.tileUnits (s : State) (core : Nat) (o : EngOp) (recn tile : Nat) : List RawUnit :=
  let p := o.pair recn
  let cl := clusterOf core
  let base := match o.ringOf p tile with
    | some (n, _) => s.slotBase cl n (((o.slotOf recn tile).map TileSlot.slot).getD 0)
    | none => 0#64
  match o.kind with
  | .xcopy k t =>
    match p.box tile with
    | some d => s.boxUnits core k t p.src d (if d.ring then d.dense base else d) (tile == 1) 0 0
    | none => []
  | .xsub _ =>
    match p.src with
    | some r => s.boxUnits core 0#4 false (some r) (r.dense base) (r.dense base) false tile 0
    | none => []
  | .xpub _ =>
    match p.dst with
    | some d => s.boxUnits core 0#4 false (some (d.dense base)) d d false 0 tile
    | none => []
  | _ => []

/-- What a tile delivers, unit by unit. -/
def State.units (s : State) (core : Nat) (o : EngOp) (recn tile : Nat) : List RawUnit :=
  (s.tileUnits core o recn tile).flatMap RawUnit.cut

/-- Units at the end of a tile that are a COMPACT's count, which is written after its last row. -/
def State.countTail (s : State) (core : Nat) (o : EngOp) (recn : Nat) : Nat :=
  match o.kind, (o.pair recn).dst with
  | .xcopy k _, some d => ((s.countUnits core k d).flatMap RawUnit.cut).length
  | _, _ => 0

def unitBytes (us : List RawUnit) : Nat := (us.map fun u => u.bytes.length).sum

/-- The counted bytes of a pair (R227). -/
def State.pairBytes (s : State) (core : Nat) (o : EngOp) (recn : Nat) : Nat :=
  ((List.range (o.tiles (o.pair recn))).map fun t => unitBytes (s.units core o recn t)).sum

-- Device addresses.

/-- 256-byte blocks, by bits [53:0] of the VA / 256, that ranges touch in device memory: of whatever module (R47). -/
def blocksOf (rs : Ranges) : List Nat :=
  (rs.flatMap fun p =>
    if bitOf p.1 63 ∧ p.2 ≠ 0 then
      let a := fld p.1 0 54
      (List.range ((a % 256 + p.2 + 255) / 256)).map fun i => a / 256 + i
    else []).dedup

/-- The 64 KiB pieces of blocks. -/
def pagesOf (bs : List Nat) : List Nat := (bs.map (· / 256)).dedup

/-- A device VA of this module with an offset. -/
def devVa (s : State) (va : Nat) : BitVec 64 := word (2 ^ 63 + s.modl.podNumber.toNat * 2 ^ 48 + va % 2 ^ 48)

/-- Flits of a request: one for its header and one for every 64 bytes that it carries (log 19, DESIGN CHOICE, safe). -/
def HomeReq.flits (r : HomeReq) : Nat :=
  match r.body with
  | .read => 1
  | .write bs => 1 + (bs.length + 63) / 64
  | .atomic .. => 2

/-- A request sets out for a home (R344): an engine's as a packet of the torus (R373), one from an I/O die toward the home's
link or port. -/
def State.request (s : State) (home : Nat) (r : HomeReq) : State :=
  match r.writer with
  | .engine core .. =>
    let cl := clusterOf core
    s.sendOrHold cl (s.homeRouter home) 16 .request false (s.pidAt cl) (.home home r)
  | .host .. | .peer _ => s.modBase home fun b => { b with reaching := b.reaching ++ [r] }

-- IN-FLIGHT (R55).

/-- Bytes of mesh ranges by granule, in the order of the ranges. -/
def granuleBytes (core : Nat) (rs : Ranges) : List (Nat × Nat) :=
  rs.flatMap fun p =>
    match locOf core p.1 p.2 with
    | some (.mesh k) =>
      (granulesOf k p.2).map fun g => (g, min (k + p.2) (g + 32) - max k g)
    | _ => []

/-- Sets IN-FLIGHT on granules up to the first that is LIVE. -/
def State.mark (s : State) (core : Nat) (o : EngOp) : List (Nat × Nat) → State × EngOp
  | [] => (s, o)
  | (g, n) :: rest =>
    if s.live.contains g then (s, o)
    else
      let had := amGet? o.granules g
      let s' := if had.isSome then s else { s with inflight := (g, core) :: s.inflight }
      s'.mark core { o with granules := amSet o.granules g (had.getD 0 + n) } rest

/-- Some granule, before the first that is LIVE, is IN-FLIGHT for another operation, so that two would write it at
once (R239). -/
def State.meets (s : State) (o : EngOp) (gs : List (Nat × Nat)) : Bool :=
  (gs.takeWhile fun g => !s.live.contains g.1).any fun g =>
    (amGet? o.granules g.1).isNone && s.inflight.any fun p => p.1 == g.1

/-- Bytes land on a granule; its last clears the bit. -/
def State.unmark (s : State) (core : Nat) (o : EngOp) (g n : Nat) : State × EngOp :=
  match amGet? o.granules g with
  | none => (s, o)
  | some m =>
    if m ≤ n then ({ s with inflight := s.inflight.erase (g, core) }, { o with granules := amDel o.granules g })
    else (s, { o with granules := amSet o.granules g (m - n) })

def State.unmarkAll (s : State) (core : Nat) (o : EngOp) : List (Nat × Nat) → State × EngOp
  | [] => (s, o)
  | (g, n) :: rest =>
    let r := s.unmark core o g n
    r.1.unmarkAll core r.2 rest

/-- Clears every bit the operation still holds. -/
def State.release (s : State) (core : Nat) (o : EngOp) : State × EngOp :=
  ({ s with inflight := o.granules.foldl (fun l e => l.erase (e.1, core)) s.inflight }, { o with granules := [] })

/-- Places of on-chip memory that ranges name. -/
def meshPlaces (core : Nat) (rs : Ranges) : List (Nat × Nat) :=
  rs.filterMap fun p => match locOf core p.1 p.2 with | some (.mesh k) => some (k, p.2) | _ => none

/-- What reading a record takes: the record itself, and its predicate's word. -/
def LRec.recordRanges (r : LRec) : Ranges := (r.addr, 128) :: if r.pcmp = 0 then [] else [(r.paddr, 4)]

/-- Steps 1 of R227 for an operand: a valid mesh address of units 0 to 17, aligned. -/
def operandAddr (c : Nat) (ea : BitVec 64) (size align : Nat) : Except Trap Unit :=
  match resolve c ea size with
  | none => .error (trap cAddr ea)
  | some m =>
    if m.unit = 18 then .error (trap cAddr ea)
    else if ea.toNat % align ≠ 0 then .error (trap cAlign ea)
    else .ok ()

/-- The barrier operand: steps 1 to 3 of R227. -/
def State.barOperand (s : State) (c : Nat) (ea : BitVec 64) : Except Trap Nat :=
  match s.check c ea 16 16 [.r, .w] false with
  | .error t => .error t
  | .ok m => if s.isLive m.key then .ok m.key else .error (trap cBarrierWord ea)

/-- The address of the first granule, in address order, of ranges that is IN-FLIGHT or holds a record of another
core, as the RACE of step 6 of R227. TVAL names it in the absolute form (log 86, DESIGN CHOICE, unsafe). -/
def State.issueRace (s : State) (core : Nat) (gs : List Nat) : Option Trap :=
  let hit (g : Nat) : Bool :=
    (s.inflight.any fun p => p.1 == g) || (s.races.any fun r => r.granule == g && r.core != core)
  match (gs.filter hit).min? with
  | none => none
  | some g =>
    let info := match s.inflight.find? fun p => p.1 == g with
      | some p => s.engInfo p.2
      | none => match s.conflict core [g] true false with
        | some r => raceInfo false r.wrote r.ctx ((s.shape r.core).indexOf r.core)
        | none => 0#64
    some { trap cRace (keyWord g) with race := some info }

-- Ends and notices.

/-- XFER_DONE for a record with NOTIFY (R229); the operation forks the helper (Table 4-2). -/
def State.xferDone (s : State) (core entry : Nat) (r : LRec) : State :=
  s.interrupt core 1 0 r.addr (word (entry * 2 ^ 48)) (some r.handler) (some (.op core entry))

/-- The record of a pair that NOTIFY is honoured on, but for the second output of a QUANT_DUAL. -/
def EngOp.notified (o : EngOp) (p : RecPair) : Option LRec :=
  match o.kind with
  | .xsub _ => p.src
  | _ => p.dst

/-- Posts XFER_DONE for a record that asks for it. -/
def State.notifyRec (s : State) (core entry : Nat) (r : Option LRec) : State :=
  match r with
  | some r => if r.notify then s.xferDone core entry r else s
  | none => s

/-- The counted bytes of one record of a pair: those of every tile, or of one output of a QUANT_DUAL. -/
def State.recBytes (s : State) (core : Nat) (o : EngOp) (recn tile : Nat) : Nat :=
  if o.kind.dual then unitBytes (s.units core o recn tile) else s.pairBytes core o recn

/-- Posts XFER_DONE for each record of a pair once every byte of it has landed or been credited (R229). -/
def State.notifyPair (s : State) (core entry : Nat) (o : EngOp) (recn : Nat) : State × EngOp :=
  let p := o.pair recn
  let one := !p.posted && decide (s.recBytes core o recn 0 ≤ p.delivered)
  let two := o.kind.dual && !p.posted2 && decide (s.recBytes core o recn 1 ≤ p.delivered2)
  let t := if one then s.notifyRec core entry (o.notified p) else s
  let u := if two then t.notifyRec core entry p.dst2 else t
  (u, o.modPair recn fun q => { q with posted := q.posted || one, posted2 := q.posted2 || two })

/-- The entry is freed, and an attachment to a ring ends (R222, R235). -/
def State.freeEntry (s : State) (core entry : Nat) : State :=
  s.modCluster (clusterOf core) fun u =>
    { u with ops := amDel u.ops (opKey core entry),
             attached := u.attached.filter fun a => !(a.1 == core && a.2.1 == entry) }

/-- Stores an operation, or frees its entry once everything has been delivered (R231). -/
def State.putOp (s : State) (core entry : Nat) (o : EngOp) : State :=
  if o.phase = .drained ∧ o.flying = [] ∧ o.faults = [] ∧ o.resend = [] ∧ o.bad = none ∧ o.handed = false then
    (s.release core o).1.freeEntry core entry
  else s.setOp core entry o

/-- n bytes of an operation count at its barrier, whose phase joins the operation (R90). -/
def State.countAt (s : State) (core entry barKey n : Nat) : State :=
  if n = 0 then s else (s.handOn (· == .op core entry) (.counted barKey)).tbLand barKey n core

/-- Counted bytes of a tile land or are credited: for the record, the remainder record and the barrier. -/
def State.count (s : State) (core entry : Nat) (o : EngOp) (recn tile n : Nat) : State × EngOp :=
  (s.countAt core entry o.barKey n,
    { o.modPair recn (fun p =>
        if o.kind.dual ∧ tile = 1 then { p with delivered2 := p.delivered2 + n } else { p with delivered := p.delivered + n })
      with counted := o.counted + n })

-- The next record, tile or piece.

/-- The phase in which a tile begins. -/
def EngOp.startTile (o : EngOp) : EngOp :=
  { o with sent := 0, phase := if (o.ringOf (o.pair o.cur) o.tile).isSome then .slot else .send }

/-- The first records of an operation, by its operands. -/
def EngOp.first (o : EngOp) : Option (BitVec 64) × Option (BitVec 64) :=
  match o.kind with
  | .xcopy k _ => (some o.dst0, if k = 1#4 then none else some o.src0)
  | .xsub _ => (none, some o.src0)
  | .xpub _ => (some o.dst0, none)
  | _ => (none, none)

/-- NEXT of the last records consumed; the first records while none has been. -/
def EngOp.nextDst (o : EngOp) : Option (BitVec 64) :=
  let p := o.pair o.cur
  if o.pairs.isEmpty then o.first.1 else ((p.dst2.orElse fun _ => p.dst)).map LRec.next

def EngOp.nextSrc (o : EngOp) : Option (BitVec 64) :=
  if o.pairs.isEmpty then o.first.2 else (o.pair o.cur).src.map LRec.next

/-- A chain has a record more than the other: the operation ends with it, and its remainder is empty (R225). -/
def EngOp.uneven (o : EngOp) (a : BitVec 64) : EngOp :=
  { o with phase := .drained, bad := some { addr := a, empty := true, cause := .perm }, stopped := true }

/-- After a pair: its last record ends the chains, or the next records are to be read; chains of different lengths
end the operation (R225). -/
def EngOp.afterPair (o : EngOp) : EngOp :=
  match o.nextDst, o.nextSrc with
  | some d, some r =>
    if d = 0#64 ∧ r = 0#64 then { o with phase := .drained }
    else if d = 0#64 then o.uneven (((o.pair o.cur).src.map LRec.addr).getD 0#64)
    else if r = 0#64 then
      let p := o.pair o.cur
      o.uneven ((((p.dst2.orElse fun _ => p.dst)).map LRec.addr).getD 0#64)
    else { o with phase := .record }
  | some a, none | none, some a => { o with phase := if a = 0#64 then .drained else .record }
  | none, none => { o with phase := .drained }

/-- After a tile: the next tile, or what follows the pair. -/
def EngOp.afterTile (o : EngOp) : EngOp :=
  if o.tile + 1 < o.tiles (o.pair o.cur) then ({ o with tile := o.tile + 1 } : EngOp).startTile else o.afterPair

/-- A pair that a predicate skips: its bytes are credited and XFER_DONE is posted (R225). -/
def State.skipPair (s : State) (core entry : Nat) (o : EngOp) : State × EngOp :=
  let n := o.cur
  let r := s.count core entry (o.modPair n fun p => { p with skipped := true }) n 0
    (if o.kind.dual then s.recBytes core o n 0 else s.pairBytes core o n)
  let r := if o.kind.dual then r.1.count core entry r.2 n 1 (s.recBytes core o n 1) else r
  let q := r.1.notifyPair core entry r.2 n
  (q.1, q.2.afterPair)

/-- Destination ranges that a pair sets IN-FLIGHT when its records are read, by record; those in a ring wait for their
slot. -/
def EngOp.outputs (o : EngOp) (p : RecPair) : List Ranges :=
  match o.kind with
  | .xcopy k _ =>
    (p.dst.toList ++ p.dst2.toList).map fun d =>
      if d.ring then (if k = 10#4 then [(d.fill, 4)] else []) else writeRanges k d d 0
  | .xpub _ =>
    match p.dst with
    | some d => [(List.range (d.rep + 1)).flatMap fun i => writeRanges 0#4 d d i]
    | none => []
  | _ => []

def EngOp.pairRanges (o : EngOp) (p : RecPair) : Ranges := (o.outputs p).flatten

/-- The pair's predicates hold. -/
def State.pairRuns (s : State) (core : Nat) (p : RecPair) : Bool :=
  (p.dst.toList ++ p.dst2.toList ++ p.src.toList).all (s.predHolds core)

/-- What a COMPACT holds beyond what it will write, granule by granule: of a granule that it writes (`writes`), or of one
that it writes nothing on (R55). -/
def State.surplus (s : State) (core : Nat) (o : EngOp) (recn : Nat) (writes : Bool) : List (Nat × Nat) :=
  let sum (l : List (Nat × Nat)) (g : Nat) : Nat := ((l.filter fun e => e.1 == g).map Prod.snd).sum
  let will := granuleBytes core ((s.units core o recn 0).map fun u => (u.addr, u.bytes.length))
  let had := granuleBytes core (o.pairRanges (o.pair recn))
  ((had.map Prod.fst).dedup.filter fun g => (sum will g != 0) == writes).map fun g =>
    (g, min (sum had g) (amGet 0 o.granules g) - sum will g)

-- Pieces.

/-- What a unit's sources and place in device memory come to, for cutting pieces. -/
def RawUnit.destBlock (u : RawUnit) : Option Nat := if bitOf u.addr 63 then some (fld u.addr 0 54 / 256) else none

/-- Two units that follow one another in the same naturally aligned 8 bytes. -/
def RawUnit.joins (u v : RawUnit) : Bool :=
  u.addr.toNat / 8 == v.addr.toNat / 8 && decide (u.addr.toNat < v.addr.toNat)

/-- Units by the naturally aligned 8 bytes that they are delivered to, which are written as a whole (R89). -/
def byEight : List RawUnit → List (List RawUnit)
  | [] => []
  | u :: us =>
    match byEight us with
    | (v :: vs) :: gs => if u.joins v then (u :: v :: vs) :: gs else [u] :: (v :: vs) :: gs
    | gs => [u] :: gs

/-- Units that join a piece begun with others, a further `take` groups of 8 bytes at most: at most 512 bytes, one block of
device memory at the destination, one 64 KiB piece of it at the source (R231, R232, R357). -/
def takeUnits (take room : Nat) (dest : Option Nat) (pages : List Nat) : List (List RawUnit) → Nat
  | [] => 0
  | g :: gs =>
    let ps := pagesOf (blocksOf (g.flatMap RawUnit.reads))
    if 0 < take ∧ unitBytes g ≤ room ∧ g.all (fun u => u.destBlock == dest) = true
        ∧ (ps.all pages.contains || pages.isEmpty) ∧ ps.length ≤ 1 then
      g.length + takeUnits (take - 1) (room - unitBytes g) dest (if pages.isEmpty then ps else pages) gs
    else 0

/-- Units of the next piece, of at most `take` groups of 8 bytes: the engine may send less than 512 bytes. -/
def pieceUnits (take : Nat) (us : List RawUnit) : Nat :=
  match byEight us with
  | [] => 0
  | g :: gs =>
    g.length + takeUnits (take - 1) (512 - unitBytes g) (g.head?.bind RawUnit.destBlock)
      (pagesOf (blocksOf (g.flatMap RawUnit.reads))) gs

/-- Groups of 8 bytes in the longest piece. -/
def wholePiece : Nat := 512

/-- A COMPACT, whose count is written after its last row. -/
def EngOp.lastAlone (o : EngOp) : Bool :=
  match o.kind with
  | .xcopy k _ => k == 10#4
  | _ => false

/-- The range of units of the next piece of the current tile, of at most `take` groups; none if the tile has none left, or the count of a
COMPACT must wait for its rows (log 63, DEDUCED, safe). -/
def State.nextPiece (s : State) (core : Nat) (o : EngOp) (take : Nat) : Option (Nat × Nat) :=
  let us := s.units core o o.cur o.tile
  let rows := us.length - s.countTail core o o.cur
  if us.length ≤ o.sent then none
  else if o.lastAlone ∧ o.sent < rows then some (o.sent, o.sent + pieceUnits take ((us.take rows).drop o.sent))
  else some (o.sent, o.sent + pieceUnits take (us.drop o.sent))

/-- The units of a piece. -/
def State.pieceRaw (s : State) (core : Nat) (o : EngOp) (p : Piece) : List RawUnit :=
  ((s.units core o p.recn p.tile).take p.hi).drop p.lo

/-- The first address of a mesh source whose word has an uncorrectable error (R301). -/
def State.badSource (s : State) (core : Nat) (rs : Ranges) : Option (BitVec 64) :=
  (rs.find? fun p =>
    match locOf core p.1 p.2 with
    | some (.mesh k) => (s.eccWord k p.2).isSome
    | _ => false).map Prod.fst

/-- A source that names no place of the partition: an index has changed since its check (log 20, DESIGN CHOICE, unsafe). -/
def State.lostPlace (s : State) (core : Nat) (us : List RawUnit) : Option (BitVec 64) :=
  ((us.flatMap RawUnit.reads).find? fun p =>
    !bitOf p.1 63 && (match resolve core p.1 p.2 with
      | none => true
      | some m => !(s.shape core).hasCluster m.cluster)).map Prod.fst

/-- The piece's bytes in hand. -/
def outUnits (core : Nat) (us : List RawUnit) : List OutUnit :=
  us.filterMap fun u => (locOf core u.addr u.bytes.length).map fun l => { loc := l, bytes := u.bytes, low := u.low }

/-- The places of a piece's bytes within its block. -/
def landedBytes (us : List OutUnit) : List (Nat × BitVec 8 × Bool) :=
  us.flatMap fun u =>
    match u.loc with
    | .dev va => u.bytes.mapIdx fun i b => ((fld va 0 48 + i) % 256, b, u.low)
    | .mesh _ => []

/-- The part of a home's request that names who asks. -/
def State.requester (s : State) (core : Nat) : Option Nat × Nat :=
  (s.partOf (clusterOf core), (s.partOfCore core).fn)

/-- The memory as a piece sees its sources: what homes have returned to it, as it was when they read it. -/
def State.withGot (s : State) (got : List (Nat × List (BitVec 8))) : State :=
  { s with mem := got.foldl (fun m g => memPut m g.1 g.2) s.mem }

/-- The 8-byte units of the model's memory that ranges touch. -/
def State.sourceUnits (s : State) (core : Nat) (rs : Ranges) : List Nat :=
  (rs.flatMap fun p =>
    match locOf core p.1 p.2 with
    | some l =>
      let k := s.locKey core l
      if p.2 = 0 then [] else (List.range ((k + p.2 - 1) / 8 + 1 - k / 8)).map fun i => k / 8 + i
    | none => []).dedup

/-- What an operation reads of the sources of a tile: a unit that it has read before, it has as it was then (R89). -/
def State.readUnits (s : State) (core : Nat) (o : EngOp) (recn tile : Nat) (rs : Ranges) : EngOp :=
  { o with seen := o.seen ++ (s.sourceUnits core rs).filterMap fun u =>
      if o.seen.any fun e => e.recn == recn && e.tile == tile && e.unit == u then none
      else some { recn := recn, tile := tile, unit := u, bytes := memBytes s.mem (8 * u) 8 } }

/-- The memory as a tile of an operation has read it. -/
def State.withSeen (s : State) (o : EngOp) (recn tile : Nat) : State :=
  s.withGot ((o.seen.filter fun e => e.recn == recn && e.tile == tile).map fun e => (8 * e.unit, e.bytes))

/-- The clusters other than an engine's own in which units of a piece land. -/
def farClusters (core : Nat) (data : List OutUnit) : List Nat :=
  ((data.filterMap fun u => match u.loc with | .mesh k => some (meshOfKey k).cluster | .dev _ => none).filter
    (· != clusterOf core)).dedup

/-- The bytes of a piece that land in a cluster. -/
def bytesFor (cl : Nat) (data : List OutUnit) : List (BitVec 8) :=
  data.flatMap fun u => match u.loc with
    | .mesh k => if (meshOfKey k).cluster = cl then u.bytes else []
    | .dev _ => []

/-- The writes of a piece to other clusters set out (R373). -/
def State.sendLandings (s : State) (core entry piece : Nat) (data : List OutUnit) : State :=
  (farClusters core data).foldl (fun t cl =>
    t.sendOrHold (clusterOf core) cl 16 .request false (t.pidAt (clusterOf core))
      (.landing core entry piece (bytesFor cl data))) s

/-- A packet is a piece's write to another cluster. -/
def isLanding (core entry piece : Nat) : PktBody → Bool
  | .landing c e p _ => c == core && e == entry && p == piece
  | _ => false

/-- Every write of a piece to another cluster has reached it. -/
def State.landingsHere (s : State) (core entry piece : Nat) : Bool :=
  (s.net.all fun k => !isLanding core entry piece k.body || (s.arrived k.id).isSome) &&
    !(s.cluster (clusterOf core)).held.any fun h => match h with | .packet _ _ _ _ _ b _ => isLanding core entry piece b | _ => false

/-- The clusters take them. -/
def State.takeLandings (s : State) (core entry piece : Nat) : State :=
  { s with net := s.net.filter fun k => !isLanding core entry piece k.body }

/-- Units of other clusters that a piece's sources touch and that the operation has not got. -/
def State.farUnits (s : State) (core : Nat) (o : EngOp) (p : Piece) : List Nat :=
  (s.sourceUnits core (((s.withGot p.got).pieceRaw core o p).flatMap RawUnit.reads)).filter fun u =>
    decide (8 * u < 2 ^ 64) && (meshOfKey (8 * u)).cluster != clusterOf core && !(p.got.any fun g => g.1 == 8 * u)
      && !o.seen.any fun e => e.recn == p.recn && e.tile == p.tile && e.unit == u

/-- A piece whose data has arrived at the engine: it lands in on-chip memory, or its write goes to a home. -/
def State.pieceData (s : State) (core entry : Nat) (o : EngOp) (p : Piece) : State × EngOp × Piece :=
  let t := s.withGot p.got
  let reads := (t.pieceRaw core o p).flatMap RawUnit.reads
  let o := t.readUnits core o p.recn p.tile reads
  let raw := (t.withSeen o p.recn p.tile).pieceRaw core o p
  let s := s.opReads core entry (meshPlaces core reads)
  match s.lostPlace core raw, s.badSource core (raw.flatMap RawUnit.reads) with
  | some a, _ => (s, o, { p with stage := .failed .perm a })
  | none, some a => (s, o, { p with stage := .failed .poison a })
  | none, none =>
    let data := outUnits core raw
    match (data.filterMap fun u => match u.loc with | .dev va => some va | .mesh _ => none).head? with
    | none => (s.sendLandings core entry p.id data, o, { p with stage := .here, data := data })
    | some va =>
      match s.homeFor (s.partOfCore core).hrt va with
      | .error e => (s, o, { p with stage := .failed e va })
      | .ok h =>
        let who := s.requester core
        (s.request h { writer := .engine core entry p.id, part := who.1, fn := who.2, blocks := [fld va 0 48 / 256],
                       body := .write (landedBytes data), va := va },
          o, { p with stage := .writing, data := data })

/-- A piece reads its sources in other clusters, one cluster after the other (R373). -/
def State.pieceFetch (s : State) (core entry : Nat) (o : EngOp) (p : Piece) : State × EngOp × Piece :=
  match s.farUnits core o p with
  | [] => s.pieceData core entry o p
  | u :: us =>
    let cl := (meshOfKey (8 * u)).cluster
    let here := (u :: us).filter fun v => (meshOfKey (8 * v)).cluster == cl
    (s.sendOrHold (clusterOf core) cl 16 .request false (s.pidAt (clusterOf core)) (.fetch core entry p.id here), o,
      { p with stage := .fetching })

/-- A piece reads its device sources, a 64 KiB piece at a time. -/
def State.pieceRead (s : State) (core entry : Nat) (o : EngOp) (p : Piece) (pages : List Nat) : State × EngOp × Piece :=
  match pages with
  | [] => s.pieceFetch core entry o p
  | pg :: rest =>
    let reads := (s.pieceRaw core o p).flatMap RawUnit.reads
    let bs := (blocksOf reads).filter fun b => b / 256 == pg
    let first := reads.find? fun r => bitOf r.1 63 && (blocksOf [r]).any bs.contains
    let a := (first.map Prod.fst).getD 0#64
    let va := if fld a 16 38 = pg then a else word (2 ^ 63 + pg * 65536)
    match s.homeFor (s.partOfCore core).hrt va with
    | .error e => (s, o, { p with stage := .failed e va })
    | .ok h =>
      let who := s.requester core
      (s.request h { writer := .engine core entry p.id, part := who.1, fn := who.2, blocks := bs.map (· % 2 ^ 40),
                     body := .read, va := va },
        o, { p with stage := .reading rest })

/-- A piece is sent. -/
def State.sendPiece (s : State) (core entry : Nat) (o : EngOp) (p : Piece) : State × EngOp :=
  let r := s.pieceRead core entry o p (pagesOf (blocksOf ((s.pieceRaw core o p).flatMap RawUnit.reads)))
  (r.1, { r.2.1 with flying := o.flying ++ [r.2.2] })

def EngOp.modPiece (o : EngOp) (id : Nat) (f : Piece → Piece) : EngOp :=
  { o with flying := o.flying.map fun p => if p.id = id then f p else p }

/-- The answer of a home to a piece that reads blocks, or a part of it: once every block has been returned, the piece goes
on. -/
def State.readServed (s : State) (core entry id : Nat) (keys : List Nat) (got : List (Nat × List (BitVec 8))) : State :=
  match s.op? core entry with
  | none => s
  | some o =>
    match o.flying.find? fun p => p.id == id with
    | some p =>
      match p.stage with
      | .reading rest =>
        let q := { p with got := p.got ++ got }
        if keys.all fun k => q.got.any fun g => g.1 == k then
          let r := s.pieceRead core entry o q rest
          r.1.setOp core entry (r.2.1.modPiece id fun _ => r.2.2)
        else s.setOp core entry (o.modPiece id fun _ => q)
      | _ => s
    | none => s

/-- The data that a piece read in another cluster has come back (R373). -/
def State.fetchServed (s : State) (core entry id : Nat) (got : List (Nat × List (BitVec 8))) : State :=
  match s.op? core entry with
  | none => s
  | some o =>
    match o.flying.find? fun p => p.id == id && p.stage == .fetching with
    | some p =>
      let r := s.pieceFetch core entry o { p with got := p.got ++ got }
      r.1.setOp core entry (r.2.1.modPiece id fun _ => r.2.2)
    | none => s

/-- An operation still waits for the packet of one of its pieces. -/
def State.flies (s : State) (core entry id : Nat) : Bool :=
  match s.op? core entry with
  | some o => o.flying.any fun p => p.id == id
  | none => false

/-- A piece fails at its home. -/
def State.pieceFails (s : State) (core entry id : Nat) (cause : HandBack) (uival : BitVec 64) : State :=
  match s.op? core entry with
  | some o => s.setOp core entry (o.modPiece id fun p => { p with stage := .failed cause uival })
  | none => s

/-- A piece's write has performed at its home. -/
def State.pieceWritten (s : State) (core entry id : Nat) : State :=
  match s.op? core entry with
  | some o => s.setOp core entry (o.modPiece id fun p => { p with stage := .written })
  | none => s

/-- The old value of an XAMO has arrived: RESULT is to land (R230). -/
def State.atomicServed (s : State) (core entry id : Nat) (result : List (BitVec 8)) : State :=
  match s.op? core entry with
  | some o =>
    let key := match resolve core o.src0 64 with
      | some m => m.key
      | none => 0
    let data : List OutUnit := [{ loc := .mesh key, bytes := result, low := false }]
    (s.sendLandings core entry id data).setOp core entry (o.modPiece id fun p => { p with stage := .here, data := data })
  | none => s

-- Landing in on-chip memory (R56, R57, R59).

/-- The first LIVE granule of a unit. -/
def State.liveAt (s : State) (u : OutUnit) : Option Nat :=
  match u.loc with
  | .mesh k => (granulesOf k u.bytes.length).find? s.live.contains
  | .dev _ => none

/-- Units before the first that meets a LIVE granule, and that granule. -/
def State.landable (s : State) : List OutUnit → List OutUnit × Option Nat
  | [] => ([], none)
  | u :: us =>
    match s.liveAt u with
    | some g => ([], some g)
    | none => let r := s.landable us; (u :: r.1, r.2)

/-- An operation writes a unit; a low half alone keeps the upper half (R224). -/
def State.landUnit (s : State) (core entry : Nat) (u : OutUnit) : State :=
  match u.loc with
  | .mesh k =>
    s.lay (.op core entry) k
      (if u.low then u.bytes.map fun b => BitVec.ofNat 8 ((memGet s.mem k).toNat / 16 * 16 + b.toNat % 16) else u.bytes)
  | .dev _ => s

def outBytes (us : List OutUnit) : Nat := (us.map fun u => u.bytes.length).sum

/-- Bytes by granule of landed units. -/
def landedGranules (us : List OutUnit) : List (Nat × Nat) :=
  us.flatMap fun u =>
    match u.loc with
    | .mesh k => (granulesOf k u.bytes.length).map fun g => (g, min (k + u.bytes.length) (g + 32) - max k g)
    | .dev _ => []

/-- The commit of a slot that an operation has filled releases to its take (Table 4-2). -/
def State.slotReleased (s : State) (core entry n slot : Nat) : State :=
  let t : Knows := .slot (clusterOf core) n slot
  (s.unlearn (· == t)).handOn (· == .op core entry) t

/-- The commit or free of a tile's slot once its last byte has landed; none if the slot's state forbids it (R59). -/
def State.endSlot (s : State) (core entry : Nat) (o : EngOp) (recn tile : Nat) : Option State :=
  match o.ringOf (o.pair recn) tile, o.slotOf recn tile with
  | some (n, claims), some t =>
    let r := s.ring (clusterOf core) n
    if r.slot t.slot = (if claims then .claimed else .taken) then
      some ((if claims then s.slotReleased core entry n t.slot else s).setRing (clusterOf core) n
        (r.setSlot t.slot (if claims then .committed else .free)))
    else none
  | _, _ => some s

/-- Bytes of a tile that have landed. -/
def EngOp.addSlotBytes (o : EngOp) (recn tile n : Nat) : EngOp :=
  { o with slots := o.slots.map fun t => if t.recn = recn ∧ t.tile = tile then { t with done := t.done + n } else t }

/-- Whether n more bytes complete a tile that holds a slot. -/
def State.completes (s : State) (core : Nat) (o : EngOp) (recn tile n : Nat) : Bool :=
  match o.slotOf recn tile with
  | some t => decide (unitBytes (s.units core o recn tile) ≤ t.done + n)
  | none => false

/-- The address of the slot that a tile holds. -/
def State.tileAddr (s : State) (core : Nat) (o : EngOp) (recn tile : Nat) : BitVec 64 :=
  match o.ringOf (o.pair recn) tile, o.slotOf recn tile with
  | some (n, _), some t => s.slotBase (clusterOf core) n t.slot
  | _, _ => 0#64

/-- n bytes of a piece have landed: the count, XFER_DONE, and the slot of a completed tile. -/
def State.landed (s : State) (core entry : Nat) (o : EngOp) (recn tile n : Nat) : State × EngOp :=
  let done := s.completes core o recn tile n
  let s := if done then (s.endSlot core entry o recn tile).getD s else s
  let r := s.count core entry (o.addSlotBytes recn tile n) recn tile n
  let q := r.1.notifyPair core entry r.2 recn
  (q.1, if done then { q.2 with slots := q.2.slots.filter fun t => !(t.recn == recn && t.tile == tile) } else q.2)

end Sys2Proof.Machine
end

