-- ==== Sys2Proof/Machine/Homes.lean ====
section
/-! DEFINITION. The homes: links (R343, R345), requests and their order (R344), block states and sectors (R351 to
R354), parking and the gleaner (R355 to R358), discard (R360), counters (R363), atomics by path (R366), and
errors (R365, R369). -/

namespace Sys2Proof.Machine

-- Blocks and sectors.

/-- A block's bytes with some replaced. -/
def mergeBytes (old : List (BitVec 8)) (ws : List (Nat × BitVec 8 × Bool)) : List (BitVec 8) :=
  ws.foldl (fun o w =>
    o.set w.1 (if w.2.2 then BitVec.ofNat 8 ((o.getD w.1 0#8).toNat / 16 * 16 + w.2.1.toNat % 16) else w.2.1)) old

/-- The write replaces the whole block, so that it needs no merge (R364). -/
def wholeBlock (ws : List (Nat × BitVec 8 × Bool)) : Bool :=
  (List.range 256).all fun i => ws.any fun w => w.1 == i && !w.2.2

def acctKey (p home : Nat) : Nat := p * 64 + home
def State.account (s : State) (p home : Nat) : Account := amGet Account.zero s.accounts (acctKey p home)
def State.modAccount (s : State) (p home : Nat) (f : Account → Account) : State :=
  { s with accounts := amSet s.accounts (acctKey p home) (f (s.account p home)) }

/-- Sectors enter or leave a holder's count (R354). -/
def State.charge (s : State) (home : Nat) (h : Holder) (f : Nat → Nat) : State :=
  match h with
  | .part p => s.modAccount p home fun a => { a with used := f a.used }
  | .reserve fn => s.modFn fn fun g => { g with draw := f g.draw }

/-- What a write adds to its writer's count: the growth of a block it holds, or the whole of another's. -/
def addedSectors (b : BlockEntry) (by_ : Holder) (m : Nat) : Nat := if b.holder = by_ then m - b.h else m

/-- Whom a write's growth is charged to; a write that outlives its partition's end, the reserve draw (R354). -/
def State.holderOf (s : State) (r : HomeReq) : Holder :=
  match r.part with
  | some p => if (amGet? s.parts p).isSome then .part p else .reserve r.fn
  | none => .reserve r.fn

/-- Share that Wilzia has granted a function's partitions from its reserve pool (R356). -/
def State.extras (s : State) (fn : Nat) : Nat :=
  ((s.accounts.filter fun e => (s.part (e.1 / 64)).fn == fn).map fun e => e.2.extra).sum

/-- The overcommit allowance of a function has room for n sectors more of reserve draw or granted share. -/
def State.allows (s : State) (fn n : Nat) : Bool := decide ((s.fn fn).draw + s.extras fn + n ≤ (s.fn fn).allowance)

/-- Growth is available but for the queue of parked writes (R354). -/
def State.room (s : State) (home : Nat) (by_ : Holder) (b : BlockEntry) (m : Nat) : Bool :=
  decide (m - b.h ≤ (s.base home).poolfree) &&
    (match by_ with
     | .part p => decide ((s.account p home).used + addedSectors b by_ m ≤ (s.account p home).qshare)
     | .reserve fn => s.allows fn (addedSectors b by_ m))

-- Encryption and integrity.

/-- The block's region of 16 KiB (R363). -/
def regionOf (fn b : Nat) : Nat := fn * 2 ^ 34 + b / 64

/-- A counter of an integrity tree, by home, level and place; level 0 is that of a region's counter block. -/
def nodeKey (home level i : Nat) : Nat := (home * 16 + level) * 2 ^ 48 + i

/-- A child's counter in its node advances by 1; at 0xFFFF the node's children are authenticated again under
major + 1 (R364). -/
def State.bumpNode (s : State) (home level i : Nat) : State :=
  let k := nodeKey home level i
  let n := amGet 0 s.nodes k
  if n < 0xFFFF then { s with nodes := amSet s.nodes k (n + 1) }
  else
    let up := nodeKey home (level + 1) (i / 8)
    let siblings : AMap Nat := s.nodes.map fun (e : Nat × Nat) =>
      if e.1 / 2 ^ 48 = home * 16 + level ∧ e.1 % 2 ^ 48 / 8 = i / 8 then (e.1, 0) else e
    { s with nodeMajors := amSet s.nodeMajors up (amGet 0 s.nodeMajors up + 1), nodes := amSet siblings k 1 }

/-- Levels of an 8-ary tree over every region below its root, one tree over the regions of all functions at a home
(log 90, DESIGN CHOICE, unsafe). -/
def treeLevels : Nat := 14

/-- The counters on the way from a region's counter block to the root advance. -/
def State.bumpTree (s : State) (home region : Nat) : State :=
  (List.range treeLevels).foldl (fun t l => t.bumpNode home l (region / 8 ^ l)) s

/-- The counters of a written block: minor advances by 1; at 0xFFFF its 16 KiB region is encrypted anew under
major + 1 (R363); the counter block's path to the root follows (R364). -/
def State.countWrite (s : State) (home fn b : Nat) : State :=
  let s := s.bumpTree home (regionOf fn b)
  let k := blockKey fn (256 * b)
  let n := amGet 0 s.minors k
  if n < 0xFFFF then { s with minors := amSet s.minors k (n + 1) }
  else
    let region := regionOf fn b
    { s with majors := amSet s.majors region (amGet 0 s.majors region + 1),
             minors := amSet (s.minors.filter fun p => p.1 / 64 != k / 64) k 1 }

/-- A function's key: its entry of the key table (R362). -/
def State.fnKey (s : State) (fn : Nat) : BitVec 256 := amGet 0#256 s.modl.keys fn

/-- Wilzia loads a new key, a free value, into an entry of the key table (R362). -/
def State.loadKey (s : State) (entry : Nat) : State :=
  let w (i : Nat) : BitVec 64 := Config.freeWord (s.fresh + i)
  { s with fresh := s.fresh + 4, modl := { s.modl with keys := amSet s.modl.keys entry (w 0 ++ w 1 ++ w 2 ++ w 3) } }

/-- A key is destroyed (R362). -/
def State.dropKey (s : State) (entry : Nat) : State := { s with modl := { s.modl with keys := amDel s.modl.keys entry } }

/-- The lowest free entry of the key table behind those of the functions (log 78, DESIGN CHOICE, safe). -/
def State.freeKey (s : State) : Nat := ((List.range 1024).find? fun n => decide (65 ≤ n) && (amGet? s.modl.keys n).isNone).getD 65

/-- The number of an encoding in a MAC. -/
def Encoding.code : Encoding → Nat
  | .zero => 0
  | .rep => 1
  | .sparse => 2
  | .raw => 3

/-- Bytes under AES-256 in counter mode, whose counter block is formed from function id, VA, major and minor counter
(R362). -/
def cipher (key : BitVec 256) (fn va major minor : Nat) (bs : List (BitVec 8)) : List (BitVec 8) :=
  bs.mapIdx fun i x => x ^^^ Config.keystream key fn va major minor i

/-- The ciphertext of a block as its sectors, which the model holds in clear, hold it in DRAM (R362). -/
def State.cipherOf (s : State) (home fn b : Nat) : List (BitVec 8) :=
  cipher (s.fnKey fn) fn (256 * b) (amGet 0 s.majors (regionOf fn b)) (amGet 0 s.minors (blockKey fn (256 * b)))
    (s.storedBytes home (s.blockOf home fn b))

/-- The MAC of a stored block, over ciphertext, function id, VA, counters and encoding; a ZERO block has none (R362). -/
def State.macOf (s : State) (home fn b : Nat) : Option (BitVec 64) :=
  let e := s.blockOf home fn b
  if e.enc = .zero then none
  else some (Config.mac (s.fnKey fn) (s.cipherOf home fn b) fn (256 * b) (amGet 0 s.majors (regionOf fn b))
    (amGet 0 s.minors (blockKey fn (256 * b))) e.enc.code)

/-- A write is applied to its block: bytes, encoding, sectors, holder, counters; the discard mark goes (R352 to R354,
R360). -/
def State.applyWrite (s : State) (home fn b : Nat) (by_ : Holder) (ws : List (Nat × BitVec 8 × Bool)) : State :=
  let k := s.blockNo home fn b
  let new := mergeBytes (s.blockBytes home fn b) ws
  let m := sectorsOf new
  let e := if wholeBlock ws then { s.block k with poison := false, macBad := false } else s.block k
  let s := match amGet? s.pages (pageKey fn (256 * b)) with
    | some p => { s with pages := amSet s.pages (pageKey fn (256 * b)) { p with discard := false } }
    | none => s
  let places := placeSectors e.sectors m (s.base home).nextSector
  let s :=
    if 32 ≤ home then s.store home k e .raw (cxlSectors k) new
    else if m = 0 then s.setBlock k { e with enc := .zero }
    else if m ≤ e.h then
      ((s.charge home e.holder (· - (e.h - m))).modBase home fun x => { x with poolfree := x.poolfree + (e.h - m) }).store
        home k { e with h := m } (encodingOf new) places (encoded new)
    else
      let t := s.modBase home fun x =>
        { x with poolfree := x.poolfree - (m - e.h), nextSector := x.nextSector + (m - e.sectors.length) }
      let t := if e.holder = by_ ∨ e.h = 0 then t.charge home by_ (· + (m - e.h))
        else (t.charge home e.holder (· - e.h)).charge home by_ (· + m)
      t.store home k { e with h := m, holder := by_ } (encodingOf new) places (encoded new)
  s.countWrite home fn b

/-- The entry of a block leaves its map at a home: ZERO-EMPTY, its sectors in the pool (R361). -/
def State.resetEntry (s : State) (home : Nat) (p : Nat × BlockEntry) : State :=
  let s := if 32 ≤ home then s
    else if p.2.h = 0 then s
    else (s.charge home p.2.holder (· - p.2.h)).modBase home fun x => { x with poolfree := x.poolfree + p.2.h }
  { s with blocks := amDel s.blocks p.1 }

/-- A mapped 64 KiB piece (va / 2^16) is reset: each of its blocks is (R361). -/
def State.resetPage (s : State) (fn pg : Nat) : State :=
  match amGet? s.pages (fn * 2 ^ 32 + pg) with
  | none => s
  | some g =>
    match s.mapOf g.home fn (65536 * pg) with
    | none => s
    | some m => (s.blocks.filter fun e => e.1 / 256 == m).foldl (fun t e => t.resetEntry g.home e) s

-- Answers to writers.

/-- A job of a host queue. -/
def State.modQueue (s : State) (fn q : Nat) (f : HostQueue → HostQueue) : State :=
  s.modFn fn fun g => { g with queues := amSet g.queues q (f (amGet HostQueue.reset g.queues q)) }

/-- A queue stops on an error at a slot; the packet at HEAD is parsed anew later, a FENCE that waited there too (R324). -/
def HostQueue.stop (h : HostQueue) (code : BitVec 4) (slot : BitVec 16) : HostQueue :=
  { h with err := true, ecode := code, eslot := slot, irqs := h.irqs + 1, fence := none, peeked := none }

def HostQueue.slots (h : HostQueue) : Nat := 2 ^ fld h.qcfg 0 5

/-- Slots from HEAD up to TAIL (R316). -/
def HostQueue.held (h : HostQueue) : Nat := (h.tail.toNat + h.slots - h.head.toNat % h.slots) % h.slots

/-- A queue stops at a COPY that HEAD has passed, and HEAD goes back to it, unless it stands at an earlier packet already;
what a COND after it skipped is parsed anew (R322, R324). -/
def HostQueue.stopBack (h : HostQueue) (slot : BitVec 16) : HostQueue :=
  let back := decide (h.held ≤ (slot.toNat + h.slots - h.head.toNat % h.slots) % h.slots)
  { h.stop 5#4 slot with head := if back then slot else h.head, skip := if back then 0 else h.skip }

/-- A packet ends: with IRQ set, the queue's host interrupt is raised. -/
def HostQueue.finish (h : HostQueue) (irq : Bool) : HostQueue := if irq then { h with irqs := h.irqs + 1 } else h

/-- One request of a job has been answered. The write of a SIGNAL, or of a COPY's counter, ends its packet; refused,
it stops the queue, with HEAD back at a COPY (R322). -/
def HostQueue.answered (h : HostQueue) (job : Nat) (ok : Bool) : HostQueue :=
  match h.copies.find? fun j => j.id == job with
  | none => h
  | some j =>
    if j.signal || j.counting then
      let rest := { h with copies := h.copies.filter fun j => j.id != job }
      if ok then rest.finish j.irq
      else if j.signal then rest.stop 5#4 j.slot
      else rest.stopBack j.slot
    else
      { h with copies := h.copies.map fun j =>
          if j.id = job then { j with left := j.left - 1, refused := j.refused || !ok } else j }

/-- A request of a COPY or SIGNAL has been answered. -/
def State.hostAnswered (s : State) (fn q job : Nat) (ok : Bool) : State := s.modQueue fn q fun h => h.answered job ok

/-- A host AtomicOp completes: with the old value, or with Completer Abort (R366). -/
def State.hostCompletes (s : State) (old : Option (BitVec 128)) : State :=
  { s with modl := { s.modl with hostDone := old :: s.modl.hostDone } }

/-- The bytes of one block that a COPY reads have reached the host. -/
def State.hostRead (s : State) (fn q job b : Nat) (bytes : List (BitVec 8)) : State :=
  s.modQueue fn q fun h =>
    match h.copies.find? fun j => j.id == job with
    | none => h
    | some j =>
      let a := fld j.dev 0 48
      let lo := max a (256 * b)
      let hi := min (a + j.len) (256 * b + 256)
      { h with sent := (j.host + word (lo - a), (bytes.drop (lo % 256)).take (hi - lo)) :: h.sent }

/-- The blocks that a read asked for, as its answer numbers them. -/
def HomeReq.keys (r : HomeReq) (home : Nat) : List Nat := r.blocks.map fun b => homeKey home r.fn b

def State.port (s : State) (p : Nat) : IkPort := amGet IkPort.idle s.modl.ikPorts p
def State.modPort (s : State) (p : Nat) (f : IkPort → IkPort) : State :=
  { s with modl := { s.modl with ikPorts := amSet s.modl.ikPorts p (f (s.port p)) } }

/-- A message waits at an Ikirath port for a credit of its class, bound for a module. -/
def State.portOut (s : State) (p m : Nat) (msg : IkMsg) : State := s.modPort p fun x => { x with out := x.out ++ [(m, msg)] }

/-- A home's answer reaches whoever asked. -/
def State.takeAnswer (s : State) (d : HomeDone) : State :=
  match d.req.writer, d.fail with
  | .engine core entry piece, some f => s.pieceFails core entry piece f.1 f.2
  | .engine core entry piece, none =>
    match d.req.body with
    | .read => s.readServed core entry piece (d.req.keys d.home) d.got
    | .write _ => s.pieceWritten core entry piece
    | .atomic .. => s.atomicServed core entry piece d.result
  | .host fn q job, f =>
    if 64 ≤ q then s.hostCompletes (if f.isSome then none else some (BitVec.ofNat 128 (bytesNat d.result)))
    else
      match d.req.body, f with
      | .read, none => (s.hostRead fn q job (d.req.blocks.headD 0) (d.got.flatMap Prod.snd)).hostAnswered fn q job true
      | _, _ => s.hostAnswered fn q job f.isNone
  | .peer port, _ => s.portOut port 64 (.reply d)

/-- Flits of a completion: a header, and one for every 64 bytes that it carries (log 19, DESIGN CHOICE, safe). -/
def HomeDone.flits (d : HomeDone) : Nat := 1 + (d.bytes.length + 63) / 64

/-- A completion has reached the compute dies, or the I/O dies: an engine's waits to enter the torus (R373). -/
def State.crossed (s : State) (home : Nat) (d : HomeDone) : State :=
  match d.req.writer with
  | .engine .. => s.modBase home fun b => { b with replies := b.replies ++ [(d, 0)] }
  | .host .. | .peer _ => s.takeAnswer d

/-- The port toward a peer, the first of its routes whose link is up (R384, R385). -/
def State.portTo (s : State) (m : Nat) : Option Nat := (s.portsTo m).find? fun p => !(amGet Link.up s.modl.ikirath p).down

/-- A home completes a request once it has performed: a stack over its link (R343), a peer over Ikirath (R384), a CXL port at
its I/O die. -/
def State.homeDone (s : State) (home : Nat) (d : HomeDone) : State :=
  if home < 32 then s.modBase home fun b => { b with replies := b.replies ++ [(d, d.flits)] }
  else if home < 40 then s.crossed home d
  else
    match s.portTo (home - 40) with
    | some p => s.modPort p fun x => { x with coming := x.coming ++ [(.answer home d, d.flits)] }
    | none => s.crossed home d

/-- A request fails at its home with a cause and UIVAL. -/
def State.reqFails (s : State) (home : Nat) (r : HomeReq) (cause : HandBack) (uival : BitVec 64) : State :=
  s.homeDone home { home := home, req := r, fail := some (cause, uival), got := [], result := [] }

/-- The VA of a block of a request, in the requester's form. -/
def HomeReq.blockVa (r : HomeReq) (b : Nat) : BitVec 64 := word (fld r.va 48 16 * 2 ^ 48 + 256 * b)

/-- The VA of a request's first 256-byte block (R348). -/
def HomeReq.firstVa (r : HomeReq) : BitVec 64 := r.blockVa (r.blocks.headD 0)

-- Writes that may park.

/-- The RESULT of an atomic: 16 bytes for CASQ, else 8 with an integer old value sign-extended and a floating-point one
zero-extended (R230, Table 8-1; log 61, DEDUCED, unsafe). -/
def resultOf (op n old : Nat) : List (BitVec 8) :=
  if n = 16 then natBytes 16 old else if op = 11 then natBytes 8 old else natBytes 8 (sext (8 * n) old).toNat

/-- What a body writes on a block, with the old value of an atomic. -/
def State.bodyBytes (s : State) (home : Nat) (r : HomeReq) : List (Nat × BitVec 8 × Bool) × List (BitVec 8) :=
  match r.body with
  | .read => ([], [])
  | .write bs => (bs, [])
  | .atomic op n va a b =>
    let old := bytesNat (((s.blockBytes home r.fn (va / 256)).drop (va % 256)).take n)
    let am := a.toNat % 2 ^ (8 * n)
    let new := if op = 9 ∨ op = 10 then amoNew op n old (b.toNat % 2 ^ (8 * n)) am else amoNew op n old am 0
    let res := resultOf op n old
    match new with
    | some v => ((natBytes n v).mapIdx fun i x => (va % 256 + i, x, false), res)
    | none => ([], res)

/-- The write of a request is applied and answered. Under a mapping that has gone, it lands in the page that it was
translated to, which no table names any more (R350). -/
def State.perform (s : State) (home : Nat) (r : HomeReq) (old : Bool) : State :=
  let w := s.bodyBytes home r
  let t := if w.1.isEmpty || old then s else s.applyWrite home r.fn (r.blocks.headD 0) (s.holderOf r) w.1
  t.homeDone home { home := home, req := r, fail := none, got := [], result := w.2 }

/-- Sectors that a request's block will need at its home. -/
def State.needs (s : State) (home : Nat) (r : HomeReq) : Nat :=
  sectorsOf (mergeBytes (s.blockBytes home r.fn (r.blocks.headD 0)) (s.bodyBytes home r).1)

/-- The write can take its growth, or needs none. -/
def State.fits (s : State) (home : Nat) (r : HomeReq) : Bool :=
  let e := s.blockOf home r.fn (r.blocks.headD 0)
  decide (32 ≤ home) || decide (s.needs home r ≤ e.h) || s.room home (s.holderOf r) e (s.needs home r)

/-- A count in an account of a request's partition. -/
def State.reqCount (s : State) (home : Nat) (r : HomeReq) (f : Account → Account) : State :=
  match s.holderOf r with
  | .part p => s.modAccount p home f
  | .reserve _ => s

/-- The merge of a partial write, or an atomic, meets a block that fails (R364, R365). -/
def State.mergeFails (s : State) (home : Nat) (r : HomeReq) : Option HandBack :=
  match r.body with
  | .write bs => if wholeBlock bs then none else s.blockFail home r.fn (256 * r.blocks.headD 0)
  | _ => s.blockFail home r.fn (256 * r.blocks.headD 0)

/-- Ops and widths that a home carries (Table 14-5). -/
def carries (home op n : Nat) : Bool := if home < 32 then op != 10 || n == 16 else decide (op ≤ 9)

/-- Operation order of pieces. -/
def Piece.before (a b : Piece) : Bool :=
  decide (a.recn < b.recn) || (a.recn == b.recn && (decide (a.tile < b.tile) || (a.tile == b.tile && decide (a.lo ≤ b.lo))))

/-- A piece is no longer on its way. -/
def EngOp.dropPiece (o : EngOp) (id : Nat) : EngOp := { o with flying := o.flying.filter fun p => p.id != id }

/-- Faulting pieces in operation order, to be sent again. -/
def sortPieces (ps : List Piece) : List Piece := ps.insertionSort fun a b => a.before b = true

/-- A piece whose write was withdrawn goes back to what its operation has still to send (R359). -/
def EngOp.unsend (o : EngOp) (id : Nat) : EngOp :=
  let back := (o.flying.filter fun p => p.id == id).map fun p => { p with stage := .here, got := [], data := [] }
  match o.kind with
  | .xamo .. => { o.dropPiece id with phase := .send }
  | _ => { o.dropPiece id with resend := sortPieces (o.resend ++ back) }

/-- A piece of an engine whose write is withdrawn (R359). -/
def State.unsent (s : State) (r : HomeReq) : State :=
  match r.writer with
  | .engine core entry piece =>
    match s.op? core entry with
    | some o => s.setOp core entry (o.unsend piece)
    | none => s
  | .host .. | .peer _ => s

/-- The request is a write of a partition that is being pre-empted (R359). -/
def State.preempted (s : State) (r : HomeReq) : Bool :=
  match r.writer, r.part with
  | .engine .., some p => (s.part p).state == .preempting
  | _, _ => false

/-- A write or atomic whose page serves it: applied, parked, or refused because the parking buffer is full (R353 to
R355). A write of a partition that is being pre-empted would park only to be withdrawn (R359). -/
def State.writeOrPark (s : State) (home : Nat) (r : HomeReq) : State :=
  let grows := decide (home < 32) && decide ((s.blockOf home r.fn (r.blocks.headD 0)).h < s.needs home r)
  if !grows || ((s.base home).parked.isEmpty && s.fits home r) then s.perform home r false
  else if s.preempted r then s.unsent r
  else if 512 ≤ (s.base home).parked.length then
    (s.reqCount home r fun a => { a with oos := a.oos + 1#16, parkfull := a.parkfull + 1#16 }).reqFails home r .outOfSpace
      r.firstVa
  else
    (s.reqCount home r fun a => { a with parks := a.parks + 1#16 }).modBase home fun b =>
      { b with parked := b.parked ++ [{ req := r, since := s.now, old := false }],
               gleaner := if b.gleaner = 0 then 1 else b.gleaner }

/-- The first block of a read that fails, with why. -/
def State.readFail (s : State) (home fn : Nat) : List Nat → Option (Nat × HandBack)
  | [] => none
  | b :: bs => match s.blockFail home fn (256 * b) with
    | some e => some (b, e)
    | none => s.readFail home fn bs

/-- Data is pushed to the engine (R373), eight blocks at most in one packet (R374). -/
def State.pushData (s : State) (home : Nat) (r : HomeReq) (got : List (Nat × List (BitVec 8))) : State :=
  (List.range ((got.length + 7) / 8)).foldl (fun t i =>
    t.homeDone home { home := home, req := r, fail := none, got := (got.drop (8 * i)).take 8, result := [] }) s

/-- A request is applied at its home under the leaf that translates its page (R344, R348). -/
def State.applyReq (s : State) (home : Nat) (r : HomeReq) (leaf : BitVec 64) : State :=
  let b := r.blocks.headD 0
  match r.body with
  | .read =>
    if !leafAllows leaf false then s.reqFails home r .perm r.firstVa
    else
      match s.readFail home r.fn r.blocks with
      | some (c, e) => (s.checkFails e r.fn c).reqFails home r e (r.blockVa c)
      | none =>
        s.pushData home r (r.blocks.map fun c => (homeKey home r.fn c, s.blockBytes home r.fn c))
  | body =>
    match body with
    | .atomic op n _ _ _ =>
      if !carries home op n then s.reqFails home r .atomicPath r.firstVa
      else if !leafAllows leaf true then s.reqFails home r .perm r.firstVa
      else
        match s.mergeFails home r with
        | some e => (s.checkFails e r.fn b).reqFails home r e r.firstVa
        | none => s.writeOrPark home r
    | _ =>
      if !leafAllows leaf true then s.reqFails home r .perm r.firstVa
      else
        match s.mergeFails home r with
        | some e => (s.checkFails e r.fn b).reqFails home r e r.firstVa
        | none => s.writeOrPark home r

-- Peer modules.

/-- A read, write or atomic that a peer serves. What it returns is the peer's: free values (log 12, DESIGN CHOICE, safe). -/
def State.peerServes (s : State) (home : Nat) (r : HomeReq) : State :=
  let block (b i : Nat) : Nat × List (BitVec 8) :=
    (homeKey home r.fn b, (List.range 32).flatMap fun j => natBytes 8 (Config.freeWord (s.fresh + 32 * i + j)).toNat)
  let first := homeKey home r.fn (r.blocks.headD 0)
  match r.body with
  | .read =>
    let got := r.blocks.mapIdx fun i b => block b i
    let t := { s.withGot got with fresh := s.fresh + 32 * got.length }
    t.pushData home r got
  | .write bs =>
    { s with mem := memPut s.mem first (mergeBytes (memBytes s.mem first 256) bs) }.homeDone home
      { home := home, req := r, fail := none, got := [], result := [] }
  | .atomic op n _ _ _ =>
    let old := ((Config.freeWord s.fresh).toNat + 2 ^ 64 * (Config.freeWord (s.fresh + 1)).toNat) % 2 ^ (8 * n)
    { s with fresh := s.fresh + 2 }.homeDone home { home := home, req := r, fail := none, got := [], result := resultOf op n old }

/-- Messages of a class that a receiver of an Ikirath link buffers (R384). -/
def buffersOf (c : MsgClass) : Nat := Config.ikirathBuffers (classCode c) + 1

/-- Messages of a class on their way to this module over a port, each of which holds a buffer. -/
def IkPort.expected (x : IkPort) (c : MsgClass) : Nat := (x.coming.filter fun m => m.1.cls == c).length

/-- A completion of a peer can set out: the port toward it has a buffer of the response class. -/
def State.answerComes (s : State) (m : Nat) : Bool :=
  match s.portTo m with
  | some p => decide ((s.port p).expected .response < buffersOf .response)
  | none => true

/-- A request that a peer module answers: PERM for a partition whose PID is a module PID; else it serves the request or
refuses it, as the peer's own tables, sectors and paths have it (R49, R366; log 12, DESIGN CHOICE, safe). -/
def State.applyPeer (s : State) (home : Nat) (r : HomeReq) : State :=
  let pod := match r.part with | some p => podPid (s.part p).pid | none => false
  let t := { s with fresh := s.fresh + 1 }
  let refuse (e : HandBack) : State := t.reqFails home r e r.firstVa
  if !pod then s.reqFails home r .perm r.firstVa
  else
    match Config.freeNat s.fresh % 8, r.body with
    | 1, _ => refuse .notPresent
    | 2, _ => refuse .perm
    | 3, _ => refuse .poison
    | 4, _ => refuse .integrity
    | 5, .write _ | 5, .atomic .. => refuse .outOfSpace
    | 6, .atomic .. => refuse .atomicPath
    | _, _ => t.peerServes home r

/-- The PID that a request carries; a host request carries none. -/
def State.reqPid (s : State) (r : HomeReq) : BitVec 12 := match r.part with | some p => (s.part p).pid | none => 0#12

/-- The cached translation of a request's page. -/
def State.tlbHit (s : State) (home : Nat) (r : HomeReq) : Option (BitVec 64) :=
  ((s.base home).tlb.find? fun e =>
    e.pid == s.reqPid r && e.fn == r.fn && e.page == r.blocks.headD 0 / 256).map TlbEntry.entry

/-- Entries of a home's TLB (R347, R348). -/
def tlbSize (home : Nat) : Nat := if home < 32 then 8192 else 4096

/-- A translation enters the TLB of a home; where it is full, one that the device chooses leaves it
(log 5, DESIGN CHOICE, safe). -/
def State.fillTlb (s : State) (home : Nat) (r : HomeReq) (leaf : BitVec 64) : State :=
  let e : TlbEntry := { pid := s.reqPid r, fn := r.fn, page := r.blocks.headD 0 / 256, entry := leaf }
  { s with fresh := s.fresh + 1 }.modBase home fun b =>
    { b with tlb := e :: (if b.tlb.length < tlbSize home then b.tlb
                          else b.tlb.eraseIdx (Config.freeNat s.fresh % tlbSize home)) }

/-- HOME_REQUEST_APPLY (R344, R348): any request of the home that it may serve. Where the TLB misses, the
tables are walked, and the request of that page waits for the walk. -/
def execHomeRequestApply (home index : Nat) (s : State) : Out :=
  match (s.base home).requests[index]? with
  | some r =>
    let t := s.modBase home fun b => { b with requests := b.requests.eraseIdx index }
    if !s.servable home index r then notNow "HOME_REQUEST_APPLY"
    else if 40 ≤ home then (if s.answerComes (home - 40) then .next (t.applyPeer home r) else notNow "HOME_REQUEST_APPLY")
    else
      match s.tlbHit home r with
      | some leaf => .next (t.applyReq home r leaf)
      | none =>
        match s.leafFor home r.fn (s.reqPid r) (256 * r.blocks.headD 0) with
        | .ok leaf => .next (s.fillTlb home r leaf)
        | .error bad =>
          let t := if bad then { t with modl := { t.modl with notices := (9, r.firstVa) :: t.modl.notices } } else t
          .next (t.reqFails home r .notPresent r.firstVa)
  | none => notNow "HOME_REQUEST_APPLY"

/-- Requests outstanding at a CXL port (R368). -/
def portLimit : Nat := 512

/-- A packet with a request of an engine has reached the router of its home: it goes on over the stack's link, to the CXL
port, or to the Ikirath port toward the peer; to a home that is down it fails. None while the home cannot take it. A
partition that has been killed sends no more to homes (R340). -/
def State.homeArrives (s : State) (home : Nat) (r : HomeReq) : Option State :=
  let b := s.base home
  let gone := r.part.any fun p => (amGet? s.parts p).isNone || (s.part p).state == .killed
  let poison : Option State :=
    some (s.crossed home { home := home, req := r, fail := some (.poison, r.firstVa), got := [], result := [] })
  if gone then some s
  else if home < 32 then
    if b.link.down then poison
    else if b.asleep then none
    else some (s.modBase home fun b => { b with coming := b.coming ++ [(r, r.flits)] })
  else if home < 40 then
    if s.modl.cxlDown.contains (home - 32) then poison
    else if portLimit ≤ b.requests.length then none
    else some (s.modBase home fun b => { b with requests := b.requests ++ [{ r with since := s.now }] })
  else
    match s.portTo (home - 40) with
    | some p => some (s.portOut p (home - 40) (.request home r))
    | none => poison

/-- A request of a host packet or of a peer, which comes from an I/O die, reaches its stack's link, or its CXL port unless 512
requests are outstanding there, for which it waits (R344, R368). -/
def State.arrive (s : State) (home index : Nat) : Option State :=
  let b := s.base home
  match b.reaching[index]? with
  | none => none
  | some r =>
    let rest := b.reaching.eraseIdx index
    if b.asleep then none
    else if 40 ≤ home then (s.modBase home fun b => { b with reaching := rest }).homeArrives home r
    else if home < 32 then some (s.modBase home fun b => { b with reaching := rest, coming := b.coming ++ [(r, r.flits)] })
    else if portLimit ≤ b.requests.length then none
    else some (s.modBase home fun b => { b with reaching := rest, requests := b.requests ++ [{ r with since := s.now }] })

-- Parked writes and the gleaner.

/-- A home whose parked writes have all gone is idle. -/
def Stack.settled (b : Stack) : Stack := if b.parked.isEmpty then { b with gleaner := 0, asked := [] } else b

/-- Grants parked writes in order while the oldest can take its growth (R356). One whose merge fails meanwhile fails
(R364, R365). -/
def State.grant (s : State) (home : Nat) : Nat → State
  | 0 => s
  | n + 1 =>
    match (s.base home).parked with
    | w :: rest =>
      let t := s.modBase home fun b => ({ b with parked := rest } : Stack).settled
      match (if w.old then none else s.mergeFails home w.req) with
      | some e => ((t.checkFails e w.req.fn (w.req.blocks.headD 0)).reqFails home w.req e w.req.firstVa).grant home n
      | none => if w.old || s.fits home w.req then ((t.countLife 130 1).perform home w.req w.old).grant home n else s
    | [] => s

/-- Every parked write that can be granted is, unless the stack is in self-refresh (Table 16-2). -/
def State.grantAll (s : State) (home : Nat) : State :=
  if (s.base home).asleep then s else s.grant home (s.base home).parked.length

/-- Sectors freed are counted for a partition; those freed for a host write, for none. -/
def State.gleaned (s : State) (home n : Nat) (who : Option Nat) : State :=
  match who with
  | some p => s.modAccount p home fun a => { a with gleaned := a.gleaned + BitVec.ofNat 32 n }
  | none => s

/-- The partition of the oldest parked write. -/
def State.oldest (home : Nat) (s : State) : Option Nat := (s.base home).parked.head?.bind fun w => w.req.part

/-- Sectors that a piece holds at a home. -/
def State.pageSectors (s : State) (home fn pg : Nat) : Nat :=
  match s.mapOf home fn (65536 * pg) with
  | some m => ((s.blocks.filter fun e => e.1 / 256 == m).map fun e => e.2.h).sum
  | none => 0

/-- The function and piece of a page key. -/
def pageOf (k : Nat) : Nat × Nat := (k / 2 ^ 32, k % 2 ^ 32)

/-- What belongs to partitions with parked writes first, the oldest parked write first, then the rest (R356). -/
def State.inGleanOrder {α : Type} (s : State) (home : Nat) (owner : α → Option Nat) (xs : List α) : List α :=
  let ps := ((s.base home).parked.filterMap fun w => w.req.part).dedup
  (ps.flatMap fun p => xs.filter fun x => owner x == some p) ++ xs.filter fun x => !(ps.any fun p => owner x == some p)

/-- Discard-marked pieces homed on a stack, in the order in which the gleaner takes them. -/
def State.markedPieces (s : State) (home : Nat) : List (Nat × Nat) :=
  (s.inGleanOrder home (fun (e : Nat × PageEntry) => some e.2.marker)
    (s.pages.filter fun e => e.2.discard && e.2.home == home)).map fun e => pageOf e.1

/-- The discard mark of a piece goes. -/
def State.unmarkPiece (s : State) (fn pg : Nat) : State :=
  match amGet? s.pages (fn * 2 ^ 32 + pg) with
  | some e => { s with pages := amSet s.pages (fn * 2 ^ 32 + pg) { e with discard := false } }
  | none => s

/-- A marked piece in which a write is parked is kept: the write is withdrawn and sent again, which removes the mark
(R360). -/
def State.withdraw (s : State) (home fn pg : Nat) : State :=
  let inPage (w : ParkedWrite) : Bool := w.req.fn == fn && w.req.blocks.any fun b => b / 256 == pg
  let out := (s.base home).parked.filter inPage
  (s.unmarkPiece fn pg).modBase home fun b =>
    ({ b with parked := b.parked.filter fun w => !inPage w, requests := b.requests ++ out.map fun w => { w.req with since := s.now } } : Stack).settled

/-- Reclaims a marked piece, or keeps it for a parked write. -/
def State.reclaim (s : State) (home : Nat) (who : State → Option Nat) (p : Nat × Nat) : State :=
  if (s.base home).parked.any fun w => w.req.fn == p.1 && w.req.blocks.any fun b => b / 256 == p.2 then s.withdraw home p.1 p.2
  else ((s.resetPage p.1 p.2).gleaned home (s.pageSectors home p.1 p.2) (who s)).unmarkPiece p.1 p.2

/-- A write is parked for the block with an entry of a stack's block maps. -/
def State.parkedFor (s : State) (home k : Nat) : Bool :=
  (s.base home).parked.any fun w => !w.old && s.blockNo home w.req.fn (w.req.blocks.headD 0) == k

/-- Blocks that are held and zero on a stack (ZERO-HELD) and for which no write is parked, by their keys, in the order in
which the gleaner takes them. -/
def State.zeroHeld (s : State) (home : Nat) : List Nat :=
  (s.inGleanOrder home
    (fun (e : Nat × BlockEntry) => match e.2.holder with | .part p => some p | .reserve _ => none)
    (s.blocks.filter fun e =>
      e.2.h != 0 && e.2.enc == .zero && e.1 / 2 ^ 40 == home && !s.parkedFor home e.1)).map Prod.fst

/-- Compacts a ZERO-HELD block. -/
def State.compactZero (s : State) (home : Nat) (who : State → Option Nat) (k : Nat) : State :=
  let e := s.block k
  (((s.charge home e.holder (· - e.h)).modBase home fun x => { x with poolfree := x.poolfree + e.h }).setBlock k
    { e with h := 0, sectors := [] }).gleaned home e.h (who s)

/-- The gleaner's first two steps on a stack; `who` is the partition whose GLEANED a freed sector counts in. -/
def State.gleanStep (s : State) (home step : Nat) (who : State → Option Nat) : State :=
  if step = 1 then (s.markedPieces home).foldl (fun t p => t.reclaim home who p) s
  else (s.zeroHeld home).foldl (fun t p => t.compactZero home who p) s

/-- GLEANER_STEP (R356): the next step; after it, freed sectors go to the parked writes in order. The third asks Wilzia for
growth for each write still parked. -/
def execGleanerStep (stack : Nat) (s : State) : Out :=
  let b := s.base stack
  if b.parked.isEmpty ∨ b.gleaner = 0 ∨ !b.asked.isEmpty ∨ b.asleep then notNow "GLEANER_STEP"
  else if b.gleaner < 3 then
    let t := (s.gleanStep stack b.gleaner (State.oldest stack)).modBase stack fun x =>
      { x with gleaner := if x.parked.isEmpty then 0 else x.gleaner + 1 }
    .next (t.grantAll stack)
  else .next (s.modBase stack fun x => { x with asked := x.parked.map fun w => w.req.part })

/-- Wilzia's growth for a partition on a stack: share from another of its stacks, or, with the stack itself as donor, from
the reserve pool within the function's allowance; none where it may not move that much (log 64, DEDUCED, unsafe). -/
def State.moveShare (s : State) (p stack donor moved : Nat) : Option State :=
  if donor = stack then
    if s.allows (s.part p).fn moved then
      some (s.modAccount p stack fun a => { a with qshare := a.qshare + moved, extra := a.extra + moved })
    else none
  else if (s.account p donor).used + moved ≤ (s.account p donor).qshare then
    some ((s.modAccount p donor fun a => { a with qshare := a.qshare - moved }).modAccount p stack fun a =>
      { a with qshare := a.qshare + moved })
  else none

/-- WILZIA_GROWTH_ANSWER (R356): Wilzia answers the oldest growth request of a stack: share moves, and sectors may be added to
the pool. -/
def execWilziaGrowthAnswer (stack moved donor reserve : Nat) (s : State) : Out :=
  match (s.base stack).asked with
  | [] => notNow "WILZIA_GROWTH_ANSWER"
  | who :: rest =>
    if (s.base stack).asleep then notNow "WILZIA_GROWTH_ANSWER" else
    let t := s.modBase stack fun b =>
      { b with asked := rest, gleaner := if rest.isEmpty then 1 else b.gleaner, poolfree := b.poolfree + reserve }
    match (match who with | none => some t | some p => t.moveShare p stack donor moved) with
    | some v => .next (v.grantAll stack)
    | none => notNow "WILZIA_GROWTH_ANSWER"

/-- 100 µs in cycles of 1.8 GHz. -/
def parkLimit : Nat := 180000

/-- PARK_DEADLINE (R356): the oldest parked write past its deadline is refused; later ones are granted if they can be. -/
def execParkDeadline (stack : Nat) (s : State) : Out :=
  let b := s.base stack
  match (if b.asleep then none else b.parked.find? fun w => decide (w.since + parkLimit ≤ s.now)) with
  | none => notNow "PARK_DEADLINE"
  | some w =>
    let t := ((s.modBase stack fun b => ({ b with parked := b.parked.erase w } : Stack).settled).reqCount stack w.req fun a =>
      { a with oos := a.oos + 1#16 }).countLife 131 1
    .next ((t.reqFails stack w.req .outOfSpace w.req.firstVa).grantAll stack)

-- Errors and host atomics.

/-- A change of a mapped block's entry. -/
def State.spoil (s : State) (home fn va : Nat) (f : BlockEntry → BlockEntry) : State :=
  let b := s.blockNo home fn (va % 2 ^ 48 / 256)
  s.setBlock b (f (s.block b))

/-- UNCORRECTABLE_ERROR (R301, R364, R365): a word, a context's registers, a sector's block or a block's MAC goes bad at
the home that maps it; DRAM errors are counted by stack, those that ECC corrects too (R416). Where nothing is mapped, no
block meets the error. -/
def execUncorrectableError (site : ErrorSite) (s : State) : Out :=
  match site with
  | .sram a => .next { s with eccBad := if s.eccBad.contains (a / 8 * 8) then s.eccBad else (a / 8 * 8) :: s.eccBad }
  | .regs c k => .next (s.modCtxAt c k fun x => { x with regBad := true })
  | .dram fn va =>
    match amGet? s.pages (pageKey fn va) with
    | none => .next s
    | some g =>
      let t := s.spoil g.home fn va fun b => { b with poison := true }
      .next (if g.home < 32 then t.countLife (32 + g.home) 1 else t)
  | .mac fn va =>
    match amGet? s.pages (pageKey fn va) with
    | none => .next s
    | some g => .next (s.spoil g.home fn va fun b => { b with macBad := true })
  | .corrected n => if n < 32 then .next (s.countLife n 1) else notNow "UNCORRECTABLE_ERROR"

def hostOp (o : HostAtomicOp) : Nat := match o with | .fetchAdd => 1 | .swap => 0 | .cas => 9

/-- The host's atomics that a home carries (Table 14-5). -/
def hostCarries (home : Nat) (o : HostAtomicOp) (n : Nat) : Bool :=
  match o with
  | .cas => n == 4 || n == 8 || (n == 16 && decide (home < 32))
  | _ => n == 4 || n == 8

/-- HOST_ATOMIC (R366): a PCIe AtomicOp is applied at the home of its page in the block's order and completes with the old
value; anywhere else, or where the page does not serve it, it completes with Completer Abort. The write may park. -/
def execHostAtomic (fn : Nat) (va : BitVec 64) (op : HostAtomicOp) (bytes : Nat) (compare operand : BitVec 128) (s : State) : Out :=
  match s.homeFor (s.fn fn).hrt va with
  | .error _ => .next (s.hostCompletes none)
  | .ok h =>
    let a := fld va 0 48
    if 40 ≤ h ∨ !hostCarries h op bytes ∨ a % bytes ≠ 0 then .next (s.hostCompletes none)
    else
      let w := if op = .cas then if bytes = 16 then 10 else 9 else hostOp op
      let r : HomeReq := { writer := .host fn 64 0, part := none, fn := fn, blocks := [a / 256],
                           body := if op = .cas then .atomic w bytes a compare operand else .atomic w bytes a operand 0#128,
                           va := va }
      if !s.servable h (s.base h).requests.length r then notNow "HOST_ATOMIC"
      else if (s.walk h fn 0#12 a true).isSome then .next (s.hostCompletes none)
      else
        match s.mergeFails h r with
        | some e => .next ((s.checkFails e fn (a / 256)).hostCompletes none)
        | none => .next (s.writeOrPark h r)

-- The sector account (Table 14-4).

/-- Sectors of a partition's ZERO-HELD blocks on a stack. -/
def State.staleOf (s : State) (p home : Nat) : Nat :=
  ((s.blocks.filter fun e =>
    e.2.holder == .part p && e.2.enc == .zero && e.1 / 2 ^ 40 == home).map fun e => e.2.h).sum

/-- The account of a partition on a stack, as the accounting window shows it. -/
def State.accountWords (s : State) (p home : Nat) : List (BitVec 64) :=
  let a := s.account p home
  [word (a.used * 2 ^ 32 + a.qshare), word (s.staleOf p home * 2 ^ 32 + (s.base home).poolfree),
   a.gleaned ++ a.oos ++ a.parks, a.parkfull.setWidth 64]

end Sys2Proof.Machine
end

