-- ==== Sys2Proof/Machine/Links.lean ====
section
/-! DEFINITION. The stack links, CXL links and Ikirath links (R343, R345, R369, R384, R385), and the POD barrier network (R386). -/

namespace Sys2Proof.Machine

/-- Flits sent and not accepted, at most 1,024 in a direction (R343). -/
def onLink {α : Type} (q : List (α × Nat)) : Nat := min 1024 (q.map Prod.snd).sum

/-- A flit of the oldest message on a link is accepted; the message, if it was its last. -/
def acceptFlit {α : Type} : List (α × Nat) → List (α × Nat) × Option α
  | (r, n) :: rest => if n ≤ 1 then (rest, some r) else ((r, n - 1) :: rest, none)
  | [] => ([], none)

/-- The receiver of a link meets a flit: in sequence with a good CRC it is accepted; else it and all later ones are
discarded until a replay. -/
def Link.receive (l : Link) (f : LinkFlit) : Link × Bool :=
  if l.nak then (l, false)
  else if f.crcOk ∧ f.seq = l.next then ({ l with next := l.next + 1#12, replays := 0 }, true)
  else ({ l with nak := true }, false)

/-- A request flit reaches the base die in sequence: with its last one the request is accepted. -/
def State.requestFlit (s : State) (home : Nat) : State :=
  let r := acceptFlit (s.base home).coming
  s.modBase home fun b => { b with coming := r.1, requests := b.requests ++ r.2.toList.map fun q => { q with since := s.now } }

/-- A completion flit reaches the compute die in sequence: with its last one the completion has crossed. -/
def State.replyFlit (s : State) (home : Nat) : State :=
  let q := (s.base home).replies
  let r := acceptFlit (q.filter fun d => d.2 != 0)
  let t := s.modBase home fun b => { b with replies := (q.filter fun d => d.2 == 0) ++ r.1 }
  match r.2 with
  | some d => t.crossed home d
  | none => t

/-- STACK_FLIT_RECEIVE (R343): link n carries requests to stack n, link 64 + n its completions back
(log 91, DESIGN CHOICE, safe). -/
def execStackFlitReceive (link : Nat) (flit : LinkFlit) (s : State) : Out :=
  let home := link % 64
  let b := s.base home
  if link < 64 then
    if b.link.down ∨ b.link.training ∨ b.asleep ∨ onLink b.coming ≤ (flit.seq - b.link.next).toNat then notNow "STACK_FLIT_RECEIVE"
    else
      let r := b.link.receive flit
      let t := s.modBase home fun x => { x with link := r.1 }
      .next (if r.2 then t.requestFlit home else t)
  else if 128 ≤ link ∨ b.link.down ∨ b.back.training ∨ b.asleep ∨ onLink b.replies ≤ (flit.seq - b.back.next).toNat then
    notNow "STACK_FLIT_RECEIVE"
  else
    let r := b.back.receive flit
    let t := s.modBase home fun x => { x with back := r.1 }
    .next (if r.2 then t.replyFlit home else t)

/-- The sender replays; the fourth replay in a row of a flit makes the link retrain (R345). -/
def Link.replay (l : Link) : Link := { l with nak := false, replays := l.replays + 1, training := decide (4 ≤ l.replays + 1) }

/-- A retrain ends; three that fail in a row put the link down. -/
def Link.retrain (l : Link) (ok : Bool) : Link :=
  if ok then { l with training := false, replays := 0, failedTrains := 0 }
  else { l with failedTrains := l.failedTrains + 1, training := decide (l.failedTrains + 1 < 3),
                down := decide (3 ≤ l.failedTrains + 1) }

/-- A link by number: to stacks 0 to 31, Ikirath ports as 32 + port, from stacks as 64 + stack. -/
def State.link (s : State) (n : Nat) : Link :=
  if n < 32 then (s.base n).link else if n < 64 then amGet Link.up s.modl.ikirath (n - 32) else (s.base (n - 64)).back

def State.setLink (s : State) (n : Nat) (l : Link) : State :=
  if n < 32 then s.modBase n fun b => { b with link := l }
  else if n < 64 then { s with modl := { s.modl with ikirath := amSet s.modl.ikirath (n - 32) l } }
  else s.modBase (n - 64) fun b => { b with back := l, link := { b.link with down := b.link.down || l.down } }

/-- The numbers that name links. -/
def isLink (n : Nat) : Bool := decide (n < 56) || decide (64 ≤ n ∧ n < 96)

/-- LINK_REPLAY (R343). -/
def execLinkReplay (link : Nat) (s : State) : Out :=
  let l := s.link link
  if !isLink link ∨ !l.nak ∨ l.down ∨ l.training then notNow "LINK_REPLAY"
  else .next (s.setLink link l.replay)

/-- Requests of a home fail with a cause. -/
def failAll (s : State) (home : Nat) (rs : List HomeReq) (cause : HandBack) : State :=
  rs.foldl (fun t r => t.crossed home { home := home, req := r, fail := some (cause, r.firstVa), got := [], result := [] }) s

/-- A home's link goes down: everything sent and not completed fails with POISON, and Wilzia is told (R345, R369). -/
def State.homeDown (s : State) (home : Nat) : State :=
  let b := s.base home
  let t := s.modBase home fun x =>
    { x with reaching := [], coming := [], requests := [], parked := [], gleaner := 0, asked := [],
             replies := x.replies.filter fun d => d.2 == 0 }
  let u := failAll t home (((b.replies.filter fun d => d.2 != 0).map fun d => d.1.req).dedup ++ b.parked.map ParkedWrite.req ++ b.requests
    ++ b.coming.map Prod.fst ++ b.reaching) .poison
  { u with modl := { u.modl with notices := (4, word home) :: u.modl.notices } }

/-- Requests for modules that no other route reaches fail with POISON (R384). -/
def State.cutPeers (s : State) : State :=
  (List.range 64).foldl (fun t m =>
    match t.away m with
    | .ok _ => t
    | .error _ =>
      let b := t.base (40 + m)
      if b.reaching.isEmpty && b.requests.isEmpty then t
      else failAll (t.modBase (40 + m) fun x => { x with reaching := [], requests := [] }) (40 + m) (b.requests ++ b.reaching)
        .poison) s

/-- A message of a port whose link has gone down takes another route; where none reaches its module, a request fails with
POISON, and any other message is lost (R384). -/
def State.reroute (s : State) (m : Nat) (msg : IkMsg) : State :=
  match s.portTo m, msg with
  | some p, _ => s.portOut p m msg
  | none, .request home r => failAll s home [r] .poison
  | none, _ => s

/-- A completion on its way over that link takes another route, or its request fails with POISON. -/
def State.rerouteAnswer (s : State) (msg : IkMsg) : State :=
  match msg with
  | .answer home d =>
    match s.portTo (home - 40) with
    | some p => s.modPort p fun x => { x with coming := x.coming ++ [(.answer home d, d.flits)] }
    | none => failAll s home [d.req] .poison
  | _ => s

/-- An Ikirath link has gone down: its messages take other routes where there are any. -/
def State.portDown (s : State) (p : Nat) : State :=
  let x := s.port p
  let t := s.modPort p fun _ => IkPort.idle
  (x.coming.foldl (fun t m => t.rerouteAnswer m.1) (x.out.foldl (fun t m => t.reroute m.1 m.2) t)).cutPeers

/-- LINK_RETRAIN (R345): counted in the lifetime counters. -/
def execLinkRetrain (link : Nat) (ok : Bool) (s : State) : Out :=
  let l := s.link link
  if !isLink link ∨ !l.training then notNow "LINK_RETRAIN"
  else
    let l' := l.retrain ok
    let t := (s.setLink link l').countLife (72 + link % 64) 1
    .next (if !l'.down then t
           else if 32 ≤ link ∧ link < 64 then
             let u := t.portDown (link - 32)
             { u with modl := { u.modl with notices := (4, word link) :: u.modl.notices } }
           else t.homeDown (link % 64))

/-- CXL_LINK_DOWN (R369). -/
def execCxlLinkDown (port : Nat) (s : State) : Out :=
  if s.modl.cxlDown.contains port then notNow "CXL_LINK_DOWN"
  else .next ({ s with modl := { s.modl with cxlDown := port :: s.modl.cxlDown } }.homeDown (32 + port))

/-- LINK_RECOVERED (R345, R369, R384): the link is up again, with no request on it. -/
def execLinkRecovered (link : LinkName) (s : State) : Out :=
  match link with
  | .stack n =>
    if n < 32 ∧ (s.base n).link.down then .next ((s.setLink (64 + n) Link.up).setLink n Link.up) else notNow "LINK_RECOVERED"
  | .cxl p =>
    if s.modl.cxlDown.contains p then .next { s with modl := { s.modl with cxlDown := s.modl.cxlDown.filter (· != p) } }
    else notNow "LINK_RECOVERED"
  | .ikirath p =>
    if p < 24 ∧ (amGet Link.up s.modl.ikirath p).down then .next (s.setLink (32 + p) Link.up) else notNow "LINK_RECOVERED"

-- POD (R207, R386).

/-- The partition of a pod PID on this module. -/
def State.podEntry (s : State) (pid : Nat) : Option (Nat × Part) := s.parts.find? fun e => !e.2.pending && e.2.pid.toNat == pid

/-- The cores of a partition, where they are: in its save area, its shadows or its clusters. -/
def State.coresOf (s : State) (p : Part) : AMap Core :=
  match p.area, p.image with
  | some a, _ => a.image.cores
  | none, some i => i.cores
  | none, none => s.cores

/-- Every participant of this module has arrived in the open phase of POD; a pre-empted partition keeps its arrivals (R386).
A phase without a participant does not complete (log 100, DESIGN CHOICE, unsafe). -/
def State.ownArrival (s : State) (pid : Nat) : Bool :=
  match s.podEntry pid with
  | none => false
  | some e =>
    let ks := (e.2.shape.coreList.map fun c => amGet Core.reset (s.coresOf e.2) c).filter fun k => k.inPhase 6
    e.2.state != .killed && !ks.isEmpty && ks.all fun k => k.arrivedAt 6

/-- The modules whose partitions take part in the open phase of a pod PID. -/
def State.podMembers (s : State) (pid : Nat) : List Nat :=
  (if (s.podEntry pid).isSome then [s.modl.podNumber.toNat] else []) ++ s.podOthers pid

/-- The root of a pod PID: the lowest-numbered module that holds it (R386). -/
def State.podRoot (s : State) (pid : Nat) : Option Nat := (s.podMembers pid).min?

/-- Every participating module has arrived for a phase. -/
def State.podComplete (s : State) (pid phase : Nat) : Bool :=
  (s.podMembers pid).all fun m => s.modl.podArrivals.contains (pid, m, phase)

/-- The open phase of a pod PID. -/
def State.podPhase (s : State) (pid : Nat) : Nat := amGet 0 s.modl.podPhase pid

/-- The next phase of a pod PID opens, with the modules that then take part (R209). -/
def Module.openPhase (m : Module) (pid : Nat) : Module :=
  let next := (amGet ([], []) m.podPeers pid).2
  { m with podArrivals := m.podArrivals.filter fun e => e.1 != pid, podPeers := amSet m.podPeers pid (next, next),
           podPhase := amSet m.podPhase pid (amGet 0 m.podPhase pid + 1), podSent := m.podSent.filter (· != pid) }

/-- An image in which the phase of POD has completed. -/
def SaveImage.podPass (i : SaveImage) : SaveImage :=
  { i with cores := i.cores.map fun e => (e.1, e.2.completePhase 6) }

/-- The open phase of POD completes on this module, in a saved partition's image too (R386). -/
def State.podPass (s : State) (pid : Nat) : State :=
  let t := { s with modl := s.modl.openPhase pid }
  match t.podEntry pid with
  | none => t
  | some (id, p) =>
    match p.area, p.image with
    | none, none => t.completeAll p.shape.coreList 6
    | a, i => t.setPart id { p with area := a.map fun x => { x with image := x.image.podPass }, image := i.map SaveImage.podPass }

/-- The root's release of a phase reaches a module that has sent its arrival (R386). -/
def State.podRelease (s : State) (pid phase : Nat) : State :=
  if s.podPhase pid = phase ∧ s.modl.podSent.contains pid then s.podPass pid else s

/-- A message of POD sets out for a module. -/
def State.podSend (s : State) (m : Nat) (msg : IkMsg) : State :=
  match s.portTo m with
  | some p => s.portOut p m msg
  | none => s

/-- The root counts a module's arrival; with the last one it sends the release to every participating module (R386). -/
def State.podCount (s : State) (pid module phase : Nat) : State :=
  let t := { s with modl := { s.modl with podArrivals := (pid, module, phase) :: s.modl.podArrivals } }
  if t.podComplete pid phase then
    ((t.podOthers pid).foldl (fun u m => u.podSend m (.release pid phase)) t).podPass pid
  else t

/-- POD_ARRIVAL (R386): this module's arrival is counted if it is the root, else sent to the root; another module's, which has
come over Ikirath, is counted by the root (log 18, DESIGN CHOICE, safe). -/
def execPodArrival (pid module phase : Nat) (s : State) : Out :=
  let own := s.modl.podNumber.toNat
  if !s.modl.podFormed ∨ (s.podOthers pid).isEmpty ∨ phase ≠ s.podPhase pid then notNow "POD_ARRIVAL"
  else if module = own then
    if !s.ownArrival pid ∨ s.modl.podSent.contains pid then notNow "POD_ARRIVAL"
    else
      let t := { s with modl := { s.modl with podSent := pid :: s.modl.podSent } }
      match s.podRoot pid with
      | some r => .next (if r = own then t.podCount pid own phase else t.podSend r (.arrival pid own phase))
      | none => notNow "POD_ARRIVAL"
  else if s.podRoot pid ≠ some own ∨ !s.modl.podInbox.contains (pid, module, phase) ∨ !(s.podOthers pid).contains module then
    notNow "POD_ARRIVAL"
  else
    .next ({ s with modl := { s.modl with podInbox := s.modl.podInbox.erase (pid, module, phase) } }.podCount pid module phase)

/-- The participants of a pod PID on other modules are known for its next phase, and for its first one at once, with that
phase's number (log 18, DESIGN CHOICE, safe). -/
def State.setPeers (s : State) (pid phase : Nat) (ms : List Nat) : Option State :=
  if s.modl.podFormed && decide (2048 ≤ pid ∧ pid < 4096)
      && ms.all (fun m => m != s.modl.podNumber.toNat && !(s.portsTo m).isEmpty) then
    some { s with modl :=
      match amGet? s.modl.podPeers pid with
      | some e => { s.modl with podPeers := amSet s.modl.podPeers pid (e.1, ms) }
      | none => { s.modl with podPeers := amSet s.modl.podPeers pid (ms, ms), podPhase := amSet s.modl.podPhase pid phase } }
  else none

-- Ikirath.

/-- What a request may carry for a VA: bytes of its block, or an aligned atomic of Table 8-1. -/
def ReqBody.suits (b : ReqBody) (va : BitVec 64) : Bool :=
  match b with
  | .read => true
  | .write bs => bs.all fun w => decide (w.1 < 256)
  | .atomic op n a _ _ => decide (op ≤ 11) && [4, 8, 16].contains n && a == fld va 0 48 && a % n == 0

/-- A peer's request for a page of this module (R49, R385): looked up in the home range table of the partition with its
PID. One whose PID no partition has is discarded here (R341), and so is one for no page of this module. -/
def State.peerRequest (s : State) (port pid : Nat) (va : BitVec 64) (body : ReqBody) : State :=
  match s.parts.find? fun e => !e.2.pending && e.2.pid.toNat == pid && decide (2048 ≤ pid) with
  | none => s
  | some e =>
    let r : HomeReq := { writer := .peer port, part := some e.1, fn := e.2.fn, blocks := [fld va 0 48 / 256], body := body, va := va }
    match s.homeFor e.2.hrt va with
    | .error f => s.crossed 40 { home := 40, req := r, fail := some (f, va), got := [], result := [] }
    | .ok h =>
      if 40 ≤ h then s.crossed 40 { home := 40, req := r, fail := some (.perm, va), got := [], result := [] }
      else s.request h r

/-- A message has come whole over a port, checked against its PID (R341, R385). -/
def State.takeIk (s : State) (port : Nat) (m : IkMsg) : State :=
  match m with
  | .ask pid va body => s.peerRequest port pid va body
  | .answer home d => s.crossed home d
  | .arrival pid module phase => { s with modl := { s.modl with podInbox := s.modl.podInbox ++ [(pid, module, phase)] } }
  | .release pid phase => s.podRelease pid phase
  | .request .. | .reply _ => s

/-- A flit reaches this module in sequence: with the last one of a message, the message is taken. -/
def State.ikirathFlit (s : State) (port : Nat) : State :=
  let r := acceptFlit (s.port port).coming
  let t := s.modPort port fun x => { x with coming := r.1 }
  match r.2 with
  | some m => t.takeIk port m
  | none => t

/-- IKIRATH_FLIT_RECEIVE (R384): go-back-N as on a stack link, of the messages on their way over the port. -/
def execIkirathFlitReceive (port : Nat) (flit : LinkFlit) (s : State) : Out :=
  let l := amGet Link.up s.modl.ikirath port
  if 24 ≤ port ∨ l.down ∨ l.training ∨ onLink (s.port port).coming ≤ (flit.seq - l.next).toNat then notNow "IKIRATH_FLIT_RECEIVE"
  else
    let r := l.receive flit
    let t := s.setLink (32 + port) r.1
    .next (if r.2 then t.ikirathFlit port else t)

/-- Flits of a message (log 19, DESIGN CHOICE, safe). -/
def IkMsg.flits : IkMsg → Nat
  | .request _ r => r.flits
  | .ask _ va body => HomeReq.flits { writer := .peer 0, part := none, fn := 0, blocks := [], body := body, va := va }
  | .answer _ d | .reply d => d.flits
  | .arrival .. | .release .. => 1

/-- A message that another module may send: a request for a page of this module, or an arrival or release of POD. -/
def State.maySendHere (s : State) : IkMsg → Bool
  | .ask _ va body => body.suits va && fld va 48 6 == s.modl.podNumber.toNat
  | .arrival pid module _ => decide (2048 ≤ pid ∧ pid < 4096) && module != s.modl.podNumber.toNat
  | .release .. => true
  | .request .. | .answer .. | .reply _ => false

/-- A message of another module sets out over a port, if a buffer of its class is free here (R384; log 12, DESIGN CHOICE,
safe). -/
def State.peerSends (s : State) (port : Nat) (m : IkMsg) : Option State :=
  if s.modl.podFormed && decide (port < 24) && !(amGet Link.up s.modl.ikirath port).down && s.maySendHere m
      && decide ((s.port port).expected m.cls < buffersOf m.cls) then
    some (s.modPort port fun x => { x with coming := x.coming ++ [(m, m.flits)] })
  else none

/-- The neighbour at a port has freed a buffer of a class. -/
def State.creditBack (s : State) (port : Nat) (c : MsgClass) : Option State :=
  if (s.port port).sent.contains c then some (s.modPort port fun x => { x with sent := x.sent.erase c }) else none

/-- The first message at a port that has a credit of its class (R384): no class waits for another's. -/
def IkPort.goes (x : IkPort) : Option (Nat × IkMsg) := x.out.find? fun m => decide (x.sent.count m.2.cls < buffersOf m.2.cls)

/-- Messages leave a port: a request is at its peer from then on. -/
def State.sendPort (s : State) (p : Nat) : State :=
  let l := amGet Link.up s.modl.ikirath p
  match (if l.down || l.training then none else (s.port p).goes) with
  | none => s
  | some (m, msg) =>
    let t := s.modPort p fun x => { x with out := x.out.erase (m, msg), sent := x.sent ++ [msg.cls] }
    match msg with
    | .request home r => t.modBase home fun b => { b with requests := b.requests ++ [{ r with since := s.now }] }
    | _ => t

end Sys2Proof.Machine
end

