-- ==== Sys2Proof/Machine/Matrix.lean ====
section
/-! DEFINITION. Matrix units: the instructions of major 37 (R242 to R253) and the steps of a unit (R244 to R251). -/

namespace Sys2Proof.Machine

-- The unit.

def State.modUnit (s : State) (q : Nat) (f : MatUnit → MatUnit) : State :=
  s.modQuad q fun d => { d with unit := f d.unit }

def MatUnit.acc (u : MatUnit) (n : Nat) : Acc := u.accs.get (Fin.ofNat 4 n)

def MatUnit.setAcc (u : MatUnit) (n : Nat) (a : Acc) : MatUnit :=
  { u with accs := u.accs.set (n % 4) a (Nat.mod_lt _ (by decide)) }

/-- The next command comes to the head of the FIFO. -/
def MatUnit.pop (u : MatUnit) : MatUnit :=
  { u with fifo := u.fifo.tail, started := false, progress := 0, step := none, waitSince := none }

/-- The words of an accumulator from a rule for its elements. -/
def accWords (f : Nat → BitVec 32) : AMap (BitVec 32) :=
  (List.range 1024).filterMap fun e => if f e = 0#32 then none else some (e, f e)

/-- The 4,096-byte image of an accumulator (R249). -/
def Acc.image (a : Acc) : List (BitVec 8) :=
  (List.range 1024).flatMap fun e => natBytes 4 (amGet 0#32 a.words e).toNat

/-- The words of an image. -/
def wordsOfImage (bs : List (BitVec 8)) : AMap (BitVec 32) :=
  accWords fun e => BitVec.ofNat 32 (bytesNat ((bs.drop (4 * e)).take 4))

/-- n bytes of on-chip memory as a unit reads them. The spec gives no value to a word whose error cannot be
corrected here (R301 speaks of core accesses and of pieces): its bytes are free (log 23, DESIGN CHOICE, safe). -/
def State.readOpen (s : State) (key n : Nat) : State × List (BitVec 8) :=
  (s.eccBad.filter fun w => decide (w < key + n ∧ key < w + 8)).foldl
    (fun r w =>
      let v := r.1.takeFresh
      (v.1, r.2.mapIdx fun i b => if w ≤ key + i ∧ key + i < w + 8 then v.2.extractLsb' (8 * (key + i - w)) 8 else b))
    (s, memBytes s.mem key n)

-- Issue (R243).

/-- Steps 1 and 2 of R243: the quad that an operand names. -/
def State.matQuad (s : State) (a : BitVec 5) : Except Trap Nat :=
  if !bitOf s.me.capkey 63 then .error (trap cCapability 0#64)
  else
    match (s.shape s.cur.1).coreOf (4 * (s.x a).toNat) with
    | some c => .ok (quadOf c)
    | none => .error (trap cAddr (s.x a))

/-- What the operand checks of a matrix instruction answer: the state at its issue, the command, where an MSTORE is
cut off. -/
structure MatIssue where
  st : State
  kind : MatKind
  cut : Option Nat
  /-- What the command reads of on-chip memory. -/
  reads : List (Nat × Nat) := []

/-- R243: the checks in their order, the wait for room, and the command's way over the mesh
(log 66, DEDUCED, unsafe). -/
def matrixSend (i : Instr) (a : BitVec 5) (acc : BitVec 2) (ops : State → Except Trap MatIssue) (s : State) : Out :=
  gatedRun i s fun s =>
    let c := s.cur.1
    match s.matQuad a with
    | .error t => .error (s, t)
    | .ok q =>
      match ops s with
      | .error t => .error (s, t)
      | .ok m =>
        if 16 ≤ s.me.matrixOut ∨ 16 ≤ (s.unit q).fifo.length then .ok (s.await (.matrixQueue q) (s.x a))
        else if !s.canInject (clusterOf c) (q / 4) (inCluster c) .request then .ok s
        else
          let id := m.st.takeId
          let cmd : MatCmd := { id := id.2, kind := m.kind, acc := acc.toNat, core := c,
                                key := s.me.capkey.extractLsb' 0 32, bits := i.bits.setWidth 32, cut := m.cut, image := [] }
          let t := id.1.forkTo c s.cur.2 (.given c s.cur.2) m.reads [.command id.2, .commands c q]
          .ok (((t.modCore c fun k => { k with matrixOut := k.matrixOut + 1 }).inject (clusterOf c) (q / 4) (inCluster c)
            .request false (s.pidAt (clusterOf c)) (.matrix q cmd)).bump 4)

/-- MMA (R246). -/
def execMma (a b c : BitVec 5) (n : BitVec 2) (s : State) : Out :=
  matrixSend (.mma a b c n) a n (fun s =>
    let g := (s.x b).toNat
    if g = 0 ∨ 1048576 < g then .error (trap cAddr (s.x b))
    else if fld (s.x c) 8 56 ≠ 0 then .error (trap cAddr (s.x c))
    else .ok { st := s, kind := .mma g (fld (s.x c) 0 4) (fld (s.x c) 4 4), cut := none }) s

/-- MZERO (R249). -/
def execMzero (a : BitVec 5) (n : BitVec 2) (s : State) : Out :=
  matrixSend (.mzero a n) a n (fun s => .ok { st := s, kind := .mzero, cut := none }) s

/-- The check of an image's address (R249); on unit 18 it is a data range there, and so PROT (R45). -/
def State.imageAddr (s : State) (ea : BitVec 64) (right : Right) : Except Trap Mesh :=
  s.check s.cur.1 ea 4096 64 [right] false

/-- MLOAD (R249). -/
def execMload (a b : BitVec 5) (n : BitVec 2) (s : State) : Out :=
  matrixSend (.mload a b n) a n (fun s =>
    match s.imageAddr (s.x b) .r with
    | .error t => .error t
    | .ok m => .ok { st := s, kind := .mload m.key, cut := none, reads := [(m.key, 4096)] }) s

/-- Granules before the first that is LIVE. -/
def State.freeGranules (s : State) (gs : List Nat) : List Nat := gs.takeWhile fun g => !s.live.contains g

/-- MSTORE (R249): IN-FLIGHT is set at issue, up to a granule that is LIVE. -/
def execMstore (a b c : BitVec 5) (n : BitVec 2) (s : State) : Out :=
  matrixSend (.mstore a b c n) a n (fun s =>
    let me := s.cur.1
    match s.imageAddr (s.x b) .w with
    | .error t => .error t
    | .ok m =>
      match (do operandAddr me (s.x c) 16 16; s.barOperand me (s.x c)) with
      | .error t => .error t
      | .ok bar =>
        let gs := granulesOf m.key 4096
        match s.issueRace me gs with
        | some t => .error t
        | none =>
          let own := s.freeGranules gs
          .ok { st := { s.dropFetched me s.cur.2 own with inflight := own.map (fun g => (g, me)) ++ s.inflight },
                kind := .mstore m.key bar, cut := if own.length < gs.length then some (32 * own.length) else none }) s

/-- MDRAIN (R250); the target is resolved at issue (R44). -/
def execMdrain (a b c : BitVec 5) (z : BitVec 1) (n : BitVec 2) (s : State) : Out :=
  matrixSend (.mdrain a b c z n) a n (fun s =>
    if bitOf (s.x b) 0 then .error (trap cAlign (s.x b))
    else
      match (s.shape s.cur.1).coreOf (fld (s.x c) 0 32) with
      | none => .error (trap cAddr (s.x c))
      | some d => .ok { st := s, kind := .mdrain (s.x b) d ((s.x c).extractLsb' 32 32) (z == 1#1), cut := none }) s

/-- MFENCE (R252): a join with the core's commands to a quad. -/
def execMfence (a : BitVec 5) (s : State) : Out :=
  gatedRun (.mfence a) s fun s =>
    match s.matQuad a with
    | .error t => .error (s, t)
    | .ok q =>
      if s.quadCommands s.cur.1 q = 0 then .ok ((s.acquire s.cur.1 s.cur.2 (· == .commands s.cur.1 q)).bump 4)
      else .ok (s.await (.mfence q) (s.x a))

-- Commands at the unit.

/-- A core's commands to one unit arrive in program order (R253). -/
def State.firstCommand (s : State) (id q core : Nat) : Bool :=
  s.net.all fun p => match p.body with | .matrix q' m => !(q' == q && m.core == core) || decide (id ≤ p.id) | _ => true

/-- MATRIX_COMMAND_ARRIVE (R253). -/
def execMatrixCommandArrive (pkt : Nat) (s : State) : Out :=
  match s.arrived pkt with
  | some p =>
    match p.body with
    | .matrix q cmd =>
      if p.pid ≠ s.pidAt p.dst then .next (s.dropPacket pkt)
      else if s.firstCommand pkt q cmd.core ∧ (s.unit q).fifo.length < 16 then
        .next ((s.dropPacket pkt).modUnit q fun u => { u with fifo := u.fifo ++ [cmd] })
      else notNow "MATRIX_COMMAND_ARRIVE"
    | _ => notNow "MATRIX_COMMAND_ARRIVE"
  | none => notNow "MATRIX_COMMAND_ARRIVE"

/-- Accumulator kind and slot image of a pair of formats (Table 9-5). -/
def pairOf (a b : BitVec 4) : Option (ATag × Nat) :=
  let fp8 (t : BitVec 4) : Bool := t == 10#4 || t == 11#4
  if fp8 a && fp8 b then some (.fp32, 1056)
  else if a ≠ b then none
  else if a = 12#4 then some (.fp32, 576)
  else if a = 8#4 ∨ a = 9#4 then some (.fp32, 2048)
  else if a = 1#4 then some (.i32, 1024)
  else none

/-- The accumulator kind of the rings of an MMA, if their formats are a pair of Table 9-5. -/
def ringsKind (ra rb : Ring) : Option ATag := (pairOf ra.fmt rb.fmt).map Prod.fst

/-- Reasons 2 to 6 of Table 9-4. -/
def mmaRefusal (ra rb : Ring) (same : Bool) (tag : ATag) : Option Nat :=
  if !ra.en || !rb.en then some 2
  else if same then some 3
  else
    match pairOf ra.fmt rb.fmt with
    | none => some 4
    | some (kind, bytes) =>
      if ra.slotBytes < bytes ∨ rb.slotBytes < bytes then some 5
      else if tag ≠ .none ∧ tag ≠ kind then some 6
      else none

/-- Why a command that starts is refused, if it is (Table 9-4). -/
def State.refusal (s : State) (q : Nat) (cmd : MatCmd) : Option Nat :=
  if cmd.key ≠ (s.unit q).key then some 1
  else
    match cmd.kind with
    | .mma _ a b => mmaRefusal (s.ring (q / 4) a) (s.ring (q / 4) b) (a == b) ((s.unit q).acc cmd.acc).atag
    | _ => none

/-- A command is refused with MATRIX_REJECT and ends (R244). Granules that a refused MSTORE set IN-FLIGHT stay so, and its
barrier is credited nothing (log 105, DESIGN CHOICE, unsafe). -/
def State.reject (s : State) (q : Nat) (cmd : MatCmd) (reason steps : Nat) : State :=
  let ix := (s.shape cmd.core).indexOf (4 * q) / 4
  ((s.modUnit q MatUnit.pop).commandEnds cmd.core).interrupt cmd.core 8 0 (word (steps * 2 ^ 32 + ix * 2 ^ 8 + reason))
    (cmd.bits.setWidth 64) none (some (.command cmd.id))

/-- Rows or an image that an accumulator still waits for (R251; for an MLOAD log 24, DEDUCED, unsafe). -/
def MatUnit.accBusy (u : MatUnit) (n : Nat) : Bool :=
  (u.acc n).rows != 0#32 ||
    u.loading.any fun m => m.acc == n && (match m.kind with | .mload _ => true | _ => false)

/-- The start of a command that passes its checks. An MLOAD leaves the head to the engine at once. -/
def State.startCommand (s : State) (q : Nat) (cmd : MatCmd) : State :=
  match cmd.kind with
  | .mma _ a b =>
    let kind := (ringsKind (s.ring (q / 4) a) (s.ring (q / 4) b)).getD .none
    s.modUnit q fun u =>
      let c := u.acc cmd.acc
      { u.setAcc cmd.acc { c with atag := if c.atag = .none then kind else c.atag } with
        started := true, progress := 0, step := none, waitSince := some (s.clockOf (4 * q)) }
  | .mload _ => s.modUnit q fun u => { u.pop with loading := u.loading ++ [cmd] }
  | .mdrain .. =>
    s.modUnit q fun u =>
      { u.setAcc cmd.acc { u.acc cmd.acc with rows := BitVec.allOnes 32 } with
        started := true, progress := 0, draining := u.draining ++ [(cmd, 32, true)] }
  | .mzero | .mstore .. => s.modUnit q fun u => { u with started := true, progress := 0 }

/-- MATRIX_COMMAND_START (R244, R251). -/
def execMatrixCommandStart (quad : Nat) (s : State) : Out :=
  let u := s.unit quad
  match u.fifo with
  | [] => notNow "MATRIX_COMMAND_START"
  | cmd :: _ =>
    if u.started ∨ u.accBusy cmd.acc ∨ !s.unitRuns quad then notNow "MATRIX_COMMAND_START"
    else
      match s.refusal quad cmd with
      | some r => .next (s.reject quad cmd r 0)
      | none => .next (s.startCommand quad cmd)

-- k-steps (R245 to R247, R84).

/-- The values of row i of a slot image (R245). -/
def slotRow (tag : BitVec 4) (img : List (BitVec 8)) (i : Nat) : List Num :=
  let w := tagWidth tag
  let n := 4 * w
  let e := 32 * n + i * entrySize tag
  (unpack w 32 (bytesNat ((img.drop (i * n)).take n))).map
    (elemValue tag (img.getD e 0#8).toNat (img.getD (e + 1) 0#8).toNat)

/-- An exact integer. -/
def Num.toInt : Num → Int
  | .fin n m e _ => alignTo n m e 0
  | _ => 0

/-- The update of one element by one group (R84). -/
def kstepWord (kind : ATag) (old : BitVec 32) (as bs : List Num) : BitVec 32 :=
  let sum := (exactSum false (products as bs).1).v
  match kind with
  | .i32 => old + BitVec.ofInt 32 sum.toInt
  | _ =>
    let g := fp32.decode (roundTo fp32 false Rnd.rne sum).code
    BitVec.ofNat 32 ((addNum false (fp32.decode old.toNat) g).round fp32 Rnd.rne).code

/-- An accumulator after one group, from two slot images. -/
def kstepAcc (kind : ATag) (fa fb : BitVec 4) (ia ib : List (BitVec 8)) (a : Acc) : Acc :=
  let ra := (List.range 32).map (slotRow fa ia)
  let rb := (List.range 32).map (slotRow fb ib)
  { a with words := accWords fun e =>
      kstepWord kind (amGet 0#32 a.words e) (ra.getD (e / 32) []) (rb.getD (e % 32) []) }

/-- The take of a slot is an acquire of the command that takes it (Table 4-2). -/
def State.slotTaken (s : State) (q n slot : Nat) (cmd : MatCmd) : State :=
  let f (k : Knows) : Bool := k == .slot (q / 4) n slot
  (s.handOn f (.command cmd.id)).handOn f (.commands cmd.core q)

/-- KSTEP_TAKE (R247): both slots in one step. -/
def execKstepTake (quad : Nat) (s : State) : Out :=
  let u := s.unit quad
  match u.runningMma with
  | some (cmd, _, a, b) =>
    let cl := quad / 4
    let ra := s.ring cl a
    let rb := s.ring cl b
    if u.step = none ∧ s.unitRuns quad ∧ bothCommitted ra rb then
      .next (((((s.slotTaken quad a ra.head cmd).slotTaken quad b rb.head cmd).setRing cl a ra.take).setRing cl b rb.take).modUnit quad fun u =>
        { u with step := some (ra.head, rb.head), waitSince := none })
    else notNow "KSTEP_TAKE"
  | none => notNow "KSTEP_TAKE"

/-- A slot is freed as its k-step retires: TAKEN → FREE. -/
def State.freeSlot (s : State) (cl n i : Nat) : State :=
  let r := s.ring cl n
  if r.slot i = .taken then s.setRing cl n (r.setSlot i .free) else s

/-- The key of a slot's first byte. -/
def State.slotKey (s : State) (cl n i : Nat) : Nat :=
  Mesh.key { cluster := cl, unit := 17, off := (s.ring cl n).slotOff i }

/-- KSTEP_RETIRE (R246): the update of R84, the slots freed, and the end of the MMA with its last group. A slot that
was no longer TAKEN refuses the rest, with reason 8. -/
def execKstepRetire (quad : Nat) (s : State) : Out :=
  let u := s.unit quad
  match u.runningMma, u.step with
  | some (cmd, g, a, b), some (i, j) =>
    let cl := quad / 4
    let ra := s.ring cl a
    let rb := s.ring cl b
    match pairOf ra.fmt rb.fmt with
    | none => notNow "KSTEP_RETIRE"
    | some (kind, bytes) =>
      if !s.inService cl ∨ !s.arrayOk quad then notNow "KSTEP_RETIRE"
      else
        let da := s.readOpen (s.slotKey cl a i) bytes
        let db := da.1.readOpen (s.slotKey cl b j) bytes
        let lost := ra.slot i != .taken || rb.slot j != .taken
        let t := (db.1.freeSlot cl a i).freeSlot cl b j
        let t := t.modUnit quad fun u =>
          { u.setAcc cmd.acc (kstepAcc kind ra.fmt rb.fmt da.2 db.2 (u.acc cmd.acc)) with
            progress := u.progress + 1, step := none, waitSince := some (s.clockOf (4 * quad)) }
        if lost then .next (t.reject quad cmd 8 (u.progress + 1))
        else if g ≤ u.progress + 1 then .next ((t.modUnit quad MatUnit.pop).commandEnds cmd.core)
        else .next t
  | _, _ => notNow "KSTEP_RETIRE"

/-- KSTEP_WAIT_TIMEOUT (R247): reason 7 once a k-step's wait has lasted the issuing core's WAITTO. -/
def execKstepWaitTimeout (quad : Nat) (s : State) : Out :=
  let u := s.unit quad
  match u.runningMma, u.waitSince with
  | some (cmd, _, a, b), some t0 =>
    if u.step = none ∧ s.runs (4 * quad) ∧ !bothCommitted (s.ring (quad / 4) a) (s.ring (quad / 4) b)
        ∧ (s.core cmd.core).waitto.toNat * 1800 ≤ s.clockOf (4 * quad) - t0 then
      .next (s.reject quad cmd 7 u.progress)
    else notNow "KSTEP_WAIT_TIMEOUT"
  | _, _ => notNow "KSTEP_WAIT_TIMEOUT"

/-- The head command could advance at MDUTY = 16 (R393). -/
def State.unitCould (s : State) (q : Nat) : Bool :=
  let u := s.unit q
  match u.fifo with
  | [] => false
  | cmd :: _ =>
    if !u.started then !u.accBusy cmd.acc
    else
      match cmd.kind with
      | .mma _ a b => u.step.isSome || bothCommitted (s.ring (q / 4) a) (s.ring (q / 4) b)
      | .mdrain _ target _ _ => decide ((s.core target).events.length < 16)
      | .mzero | .mload _ | .mstore .. => true

-- Ends of the other commands.

/-- MATRIX_COMMAND_DONE (R249): an MZERO has cleared its accumulator, or the copy of an MSTORE passes to the engine. -/
def execMatrixCommandDone (quad : Nat) (s : State) : Out :=
  let u := s.unit quad
  match u.fifo with
  | cmd :: _ =>
    if !u.started ∨ !s.unitRuns quad then notNow "MATRIX_COMMAND_DONE"
    else
      match cmd.kind with
      | .mzero => .next ((s.modUnit quad fun u => (u.setAcc cmd.acc Acc.zero).pop).commandEnds cmd.core)
      | .mstore .. =>
        .next (s.modUnit quad fun u => { u.pop with loading := u.loading ++ [{ cmd with image := (u.acc cmd.acc).image }] })
      | _ => notNow "MATRIX_COMMAND_DONE"
  | [] => notNow "MATRIX_COMMAND_DONE"

/-- The address that an MLOAD reads. -/
def MatKind.loadKey : MatKind → Option Nat
  | .mload k => some k
  | _ => none

/-- Whether a part of an image, cut as the engine cuts its pieces, holds a word with an uncorrectable error (R231, R301). -/
def State.badPart (s : State) (key e : Nat) : Bool := (s.eccWord (key + 512 * (4 * e / 512)) 512).isSome

/-- MLOAD_DONE (R249): the image is in the accumulator, bits unchanged. A piece of it that meets an uncorrectable error does
not land, and is reported as R249 reports what an MSTORE does not land (R301; log 77, DEDUCED, unsafe). -/
def execMloadDone (quad acc : Nat) (s : State) : Out :=
  match (s.unit quad).loading.find? fun m => m.acc == acc && m.kind.loadKey.isSome with
  | some cmd =>
    if !s.runs (4 * quad) then notNow "MLOAD_DONE"
    else
      let key := cmd.kind.loadKey.getD 0
      let new := wordsOfImage (memBytes s.mem key 4096)
      let t := (s.modUnit quad fun u =>
        { u.setAcc acc { u.acc acc with
            words := accWords fun e => amGet 0#32 (if s.badPart key e then (u.acc acc).words else new) e, atag := .none } with
          loading := u.loading.filter fun m => m.id != cmd.id }).commandEnds cmd.core
      match s.eccWord key 4096 with
      | none => .next t
      | some w => .next (t.interrupt cmd.core 2 5 (keyWord w) (word (0x80000000 * 2 ^ 32 + cmd.bits.toNat)) none
        (some (.command cmd.id)))
  | none => notNow "MLOAD_DONE"

/-- The image of an MSTORE lands: its bytes before a granule that was LIVE at issue are written, all 4,096 count, and
the cut is reported (R249). None if the unit holds no such command. -/
def State.storeLands (s : State) (q id : Nat) : Option State :=
  match (s.unit q).loading.find? fun m => m.id == id with
  | none => none
  | some cmd =>
    match cmd.kind with
    | .mstore key bar =>
      let n := cmd.cut.getD 4096
      let t := (s.lay (.command id) key (cmd.image.take n)).handOn (· == .command id) (.counted bar)
      let t := t.handOn (· == .command id) (.commands cmd.core q)
      let t := { t with inflight := (granulesOf key n).foldl (fun l g => l.erase (g, cmd.core)) t.inflight }
      let t := match cmd.cut with
        | none => t.tbLand bar 4096 cmd.core
        | some k =>
          (t.tbCreditErr bar 4096 cmd.core).interrupt cmd.core 2 6 (keyWord (key + k))
            (word (0x80000000 * 2 ^ 32 + cmd.bits.toNat)) none (some (.command id))
      some ((t.modUnit q fun u => { u with loading := u.loading.filter fun m => m.id != id }).commandEnds cmd.core)
    | _ => none

/-- Sixteen words of a row as the data of a v register. -/
def rowData (a : Acc) (row half : Nat) : BitVec 512 :=
  BitVec.ofNat 512 (pack 32 ((List.range 16).map fun i => (amGet 0#32 a.words (32 * row + 16 * half + i)).toNat))

/-- DRAIN_ROW_OFFER (R250): the next row enters the target core's event queue; a full queue holds it (R28). -/
def execDrainRowOffer (quad : Nat) (s : State) : Out :=
  let u := s.unit quad
  match u.fifo with
  | cmd :: _ =>
    match cmd.kind with
    | .mdrain handler target arg z =>
      if !u.started ∨ !s.unitRuns quad ∨ 16 ≤ (s.core target).events.length then notNow "DRAIN_ROW_OFFER"
      else
        let row := u.progress
        let a := u.acc cmd.acc
        let r : DrainRow := { quad := quad, acc := cmd.acc, row := row, zero := z, cmd := cmd.id }
        let t := s.enqueue target { pc := handler, a0 := word row, a1 := arg.setWidth 64, uicause := 0#64, uival := 0#64,
                                    uixfer := 0#64, row := some (r, rowData a row 0, rowData a row 1), record := none, source := 2,
                                    entered := 0, forker := some (.command cmd.id) }
        .next (t.modUnit quad fun u => if 32 ≤ row + 1 then u.pop else { u with progress := row + 1 })
    | _ => notNow "DRAIN_ROW_OFFER"
  | [] => notNow "DRAIN_ROW_OFFER"

end Sys2Proof.Machine
end

