-- ==== Sys2Proof/Machine/Engine.lean ====
section
/-! DEFINITION. The engine instructions (R226 to R237) and the engine's own steps (R229 to R235). -/

namespace Sys2Proof.Machine

-- Issue.

/-- The lowest free entry of the core's request ring. -/
def State.freeOp (s : State) (c : Nat) : Option Nat := (List.range 16).find? fun e => (s.op? c e).isNone

/-- An operation that has read nothing yet. -/
def newOp (kind : EngKind) (ctx : Nat) (bits : BitVec 32) (dst0 src0 bar : BitVec 64) (barKey : Nat) : EngOp :=
  { kind := kind, ctx := ctx, bits := bits, dst0 := dst0, src0 := src0, bar := bar, barKey := barKey, pairs := [],
    tile := 0, phase := .record, sent := 0, slots := [], flying := [], faults := [], resend := [], bad := none,
    seen := [], stopped := false, handed := false, counted := 0, opA := 0#128, opB := 0#128, len := 0#64, granules := [],
    dstRead := 0, srcRead := 0 }

/-- The granules of a skipped pair that its records set IN-FLIGHT: of each output, those before the first that is
LIVE. -/
def State.markedGranules (s : State) (core : Nat) (o : EngOp) (p : RecPair) : List (Nat × Nat) :=
  (o.outputs p).flatMap fun rs => (granuleBytes core rs).takeWhile fun g => !s.live.contains g.1

/-- A pair whose predicates have been read starts its first tile, or is skipped and its granules cleared (R225). -/
def State.startPair (s : State) (core entry : Nat) (o : EngOp) : State × EngOp :=
  if s.pairRuns core (o.pair o.cur) then (s, ({ o with tile := 0 } : EngOp).startTile)
  else
    let r := s.unmarkAll core o (s.markedGranules core o (o.pair o.cur))
    r.1.skipPair core entry { r.2 with tile := 0 }

/-- The first records, or later ones, have been read and checked: IN-FLIGHT is set on their destination. -/
def State.pairRead (s : State) (core entry : Nat) (o : EngOp) (src dst : Option LRec) : State × EngOp :=
  let o := { o with pairs := o.pairs ++ [{ noRecPair with dst := dst, src := src }],
                    dstRead := o.dstRead + (if dst.isSome then 1 else 0),
                    srcRead := o.srcRead + (if src.isSome then 1 else 0) }
  let s := s.opReads core entry (meshPlaces core ((dst.toList ++ src.toList).flatMap LRec.recordRanges))
  let r := s.mark core o (granuleBytes core (o.pairRanges (o.pair o.cur)))
  if o.kind.dual then (r.1, { r.2 with phase := .dual }) else r.1.startPair core entry r.2

/-- The pair that an operation's next records make. -/
def rawPair (src dst : Option RawRec) : RecPair := { noRecPair with dst := dst.map Prod.fst, src := src.map Prod.fst }

/-- A record that follows another in a chain, if there is one; its own address where it cannot be read. -/
def State.readNext (s : State) (core : Nat) : Option (BitVec 64) → Except (Trap × BitVec 64) (Option RawRec)
  | none => .ok none
  | some a =>
    match s.readRecord core a with
    | .error t => .error (t, a)
    | .ok r => .ok (some r)

/-- A record of a chain holds an uncorrectable error, or the word of its predicate does: the engine hands it back with
POISON (R301; log 95, DEDUCED, unsafe). -/
def State.recordBad (s : State) (core : Nat) (a : BitVec 64) : Bool :=
  match resolve core a 128 with
  | some m => (s.eccWord m.key 128).isSome
  | none => false

def State.predBad (s : State) (core : Nat) (rs : List RawRec) : Option (BitVec 64) :=
  (rs.find? fun r => r.1.pcmp != 0 && (s.badSource core [(r.1.paddr, 4)]).isSome).map fun r => r.1.addr

/-- An operation ended by a record that it cannot read or check (R225, R227, R301). -/
def EngOp.badRecord (o : EngOp) (a : BitVec 64) (cause : HandBack) : EngOp :=
  { o with bad := some { addr := a, empty := false, cause := cause }, stopped := true }

/-- A check's trap alone. -/
def Checked.toTrap : Checked → Except Trap Unit
  | .ok _ => .ok ()
  | .error e => .error e.1

/-- An operation takes an entry of a request ring: what an earlier one there knew is none of its. -/
def State.opForked (s : State) (c k entry : Nat) : State :=
  (s.unlearn fun t => t == .op c entry || t == .issued c entry).forkOp c k entry

/-- Checks and acceptance of an XCOPY, XSUB or XPUB (R227) (log 60, DEDUCED, unsafe). -/
def State.transfer (s : State) (kind : EngKind) (bits : BitVec 32) (dst src : Option (BitVec 64)) (bar : BitVec 64) : Run :=
  let c := s.cur.1
  let checks : Except Trap (Nat × Except (BitVec 64) (Option RawRec × Option RawRec)) := do
    (dst.toList ++ src.toList).forM fun a => operandAddr c a 128 128
    operandAddr c bar 16 16
    (dst.toList ++ src.toList).forM fun a => (s.check c a 128 128 [.r] false).map fun _ => ()
    let key ← s.barOperand c bar
    match (dst.toList ++ src.toList).find? (s.recordBad c) with
    | some a => return (key, .error a)
    | none =>
      let d ← (s.readNext c dst).mapError Prod.fst
      let r ← (s.readNext c src).mapError Prod.fst
      (s.checkPair c kind (d.toList ++ r.toList) (r.map Prod.fst) (d.map Prod.fst)).toTrap
      match s.issueRace c ((granuleBytes c ((newOp kind 0 bits 0#64 0#64 bar key).pairRanges (rawPair r d))).map Prod.fst) with
      | some t => throw t
      | none =>
        return (key, match s.predBad c (d.toList ++ r.toList) with | some a => .error a | none => .ok (d, r))
  match checks with
  | .error t => .error (s, t)
  | .ok (key, got) =>
    match s.freeOp c with
    | none => .ok (s.await .engineRing 0#64)
    | some e =>
      let o := newOp kind s.cur.2 bits (dst.getD 0#64) (src.getD 0#64) bar key
      let cl := clusterOf c
      let s := match kind with
        | .xsub n | .xpub n => s.modCluster cl fun u => { u with attached := (c, e, n) :: u.attached }
        | _ => s
      let s := s.opForked c s.cur.2 e
      match got with
      | .error a => .ok ((s.setOp c e (o.badRecord a .poison)).bump 4)
      | .ok (d, r) =>
        let s := s.dropFetched c s.cur.2 ((granuleBytes c (o.pairRanges (rawPair r d))).map Prod.fst)
        let q := s.pairRead c e o (r.map Prod.fst) (d.map Prod.fst)
        .ok ((q.1.putOp c e q.2).bump 4)

/-- XCOPY (R226 to R228); FILL walks the destination chain alone. -/
def execXcopy (a b c : BitVec 5) (t : BitVec 1) (k : BitVec 4) (s : State) : Out :=
  let i : Instr := .xcopy a b c t k
  gatedRun i s fun s =>
    s.transfer (.xcopy k (t == 1#1)) (i.bits.setWidth 32) (some (s.x a)) (if k = 1#4 then none else some (s.x b)) (s.x c)

/-- XSUB (R229). -/
def execXsub (b c : BitVec 5) (n : BitVec 4) (s : State) : Out :=
  let i : Instr := .xsub b c n
  gatedRun i s fun s => s.transfer (.xsub n.toNat) (i.bits.setWidth 32) none (some (s.x b)) (s.x c)

/-- XPUB (R229). -/
def execXpub (a c : BitVec 5) (n : BitVec 4) (s : State) : Out :=
  let i : Instr := .xpub a c n
  gatedRun i s fun s => s.transfer (.xpub n.toNat) (i.bits.setWidth 32) (some (s.x a)) none (s.x c)

/-- Bytes of an XAMO's operand (R230). -/
def xamoBytes (op : BitVec 4) (dbl : Bool) : Nat := if op = 10#4 then 16 else if dbl then 8 else 4

/-- Bytes of its RESULT (log 61, DEDUCED, unsafe). -/
def resultBytes (op : BitVec 4) : Nat := if op = 10#4 then 16 else 8

/-- XAMO (R230). -/
def execXamo (a b c : BitVec 5) (w : BitVec 1) (o : BitVec 4) (s : State) : Out :=
  let i : Instr := .xamo a b c w o
  gatedRun i s fun s =>
    let me := s.cur.1
    let va := s.x a
    let blk := s.x b
    let bar := s.x c
    let checks : Except Trap (Nat × Mesh) := do
      operandAddr me blk 64 64
      operandAddr me bar 16 16
      let m ← s.check me blk 64 64 [.r] false
      let key ← s.barOperand me bar
      if !bitOf va 63 ∨ fld va 54 9 ≠ 0 then throw (trap cAddr va)
      if va.toNat % xamoBytes o (w == 1#1) ≠ 0 then throw (trap cAlign va)
      let _ ← s.check me blk 64 64 [.w] false
      match s.issueRace me [granuleOf m.key] with
      | some t => throw t
      | none => pure (key, m)
    match checks with
    | .error t => .error (s, t)
    | .ok (key, m) =>
      match s.freeOp me with
      | none => .ok (s.await .engineRing 0#64)
      | some e =>
        let op : EngOp :=
          { newOp (.xamo o (w == 1#1)) s.cur.2 (i.bits.setWidth 32) va blk bar key with
            phase := .send, opA := BitVec.ofNat 128 (memRead s.mem (m.key + 16) 16),
            opB := BitVec.ofNat 128 (memRead s.mem (m.key + 32) 16) }
        let s := ((s.opForked me s.cur.2 e).opReads me e [(m.key, 64)]).dropFetched me s.cur.2 [granuleOf m.key]
        let r := s.mark me op [(granuleOf m.key, resultBytes o)]
        .ok ((r.1.putOp me e r.2).bump 4)

/-- XDISC (R237). -/
def execXdisc (a b : BitVec 5) (s : State) : Out :=
  let i : Instr := .xdisc a b
  gatedRun i s fun s =>
    let me := s.cur.1
    let va := s.x a
    let len := s.x b
    if !bitOf va 63 ∨ fld va 54 9 ≠ 0 ∨ va.toNat % 65536 ≠ 0 then .error (s, trap cAddr va)
    else if len = 0#64 ∨ len.toNat % 65536 ≠ 0 then .error (s, trap cAddr len)
    else
      match s.freeOp me with
      | none => .ok (s.await .engineRing 0#64)
      | some e =>
        let op : EngOp := { newOp .xdisc s.cur.2 (i.bits.setWidth 32) va len 0#64 0 with phase := .send, len := len }
        .ok ((s.setOp me e op).bump 4)

-- Service (R231, R36).

/-- An operation has a piece that may be sent. -/
def EngOp.sendable (o : EngOp) : Bool :=
  !o.stopped && !o.handed && o.kind != .xdisc && (!o.resend.isEmpty || o.phase == .send)

/-- The piece that an operation would send next, with the units of the tile sent after it. -/
def State.upcoming (s : State) (core : Nat) (o : EngOp) (take : Nat) : Option Piece :=
  match o.resend with
  | p :: _ => some p
  | [] => (s.nextPiece core o take).map fun r =>
      { id := 0, recn := o.cur, tile := o.tile, lo := r.1, hi := r.2, stage := .here, got := [], data := [] }

/-- Bytes of the next piece of an operation. -/
def State.pieceNeed (s : State) (core : Nat) (o : EngOp) (take : Nat) : Nat :=
  match o.kind with
  | .xamo op d => xamoBytes op d
  | _ => match s.upcoming core o take with
    | some p => unitBytes (s.pieceRaw core o p)
    | none => 0

/-- Operations of a ring with a piece to send. -/
def State.ringWork (s : State) (core : Nat) : List EngOp :=
  (List.range 16).filterMap fun e => (s.op? core e).bind fun o => if o.sendable then some o else none

/-- Weighted deficit round-robin (R231): the state with a piece of `need` bytes of a core's ring served, if it is the
ring to be served. -/
def State.serveRing (s : State) (core need : Nat) : Option State :=
  let cl := clusterOf core
  let t := cl * 16 + (s.cluster cl).turn
  let covered := (s.ringWork t).any fun o => decide (s.pieceNeed t o wholePiece ≤ (s.core t).deficit)
  if t = core ∧ need ≤ (s.core t).deficit then
    some (s.modCore core fun k => { k with deficit := k.deficit - need })
  else if covered then none
  else
    let order := (List.range 16).map fun i => cl * 16 + (inCluster t + 1 + i) % 16
    match order.find? fun r => !(s.ringWork r).isEmpty with
    | some r =>
      if r = core then
        let idle := (order.takeWhile (· != r)) ++ (if (s.ringWork t).isEmpty then [t] else [])
        let s := idle.foldl (fun u k => u.modCore k fun x => { x with deficit := 0 }) s
        let s := s.modCluster cl fun u => { u with turn := inCluster r }
        some (s.modCore core fun k => { k with deficit := k.deficit + 512 * fld k.xwgt 0 4 - need })
      else none
    | none => none

/-- A ring without pending work has deficit 0. -/
def State.settleDeficit (s : State) (core : Nat) : State :=
  if (s.ringWork core).isEmpty then s.modCore core fun k => { k with deficit := 0 } else s

/-- The current tile has been sent: XFER_DONE may be due, and the operation goes on. -/
def State.tileDone (s : State) (core entry : Nat) (o : EngOp) : State × EngOp :=
  let r := if o.tiles (o.pair o.cur) ≤ o.tile + 1 ∨ o.kind.dual = true then s.notifyPair core entry o o.cur else (s, o)
  (r.1, r.2.afterTile)

/-- After the last piece of a tile. A tile without a byte to land ends its slot at once; where the slot's state forbids
that, the tile is a faulting piece of no bytes, as the landing of its last byte would be (R59). -/
def State.tileSent (s : State) (core entry : Nat) (o : EngOp) : State × EngOp :=
  if unitBytes (s.units core o o.cur o.tile) ≠ 0 then s.tileDone core entry o
  else
    match s.endSlot core entry o o.cur o.tile with
    | some t => t.tileDone core entry { o with slots := o.slots.filter fun u => !(u.recn == o.cur && u.tile == o.tile) }
    | none =>
      let id := s.takeId
      let p : Piece := { id := id.2, recn := o.cur, tile := o.tile, lo := 0, hi := 0, got := [], data := [],
                         stage := .failed .perm (s.tileAddr core o o.cur o.tile) }
      (id.1, ({ o with flying := o.flying ++ [p] } : EngOp).afterTile)

/-- The request of an XAMO goes to its home (R230). Operands that cannot be read are handed back as POISON (R301). -/
def State.sendAtomic (s : State) (core entry : Nat) (o : EngOp) (op : BitVec 4) (dbl : Bool) : State × EngOp :=
  let id := s.takeId
  let p : Piece := { id := id.2, recn := 0, tile := 0, lo := 0, hi := 0, stage := .writing, got := [], data := [] }
  let va := o.dst0
  let o := { o with phase := .drained, resend := [] }
  match s.badSource core [(o.src0 + 16#64, 32)], s.homeFor (s.partOfCore core).hrt va with
  | some _, _ => (id.1, { o with flying := [{ p with stage := .failed .poison va }] })
  | none, .error e => (id.1, { o with flying := [{ p with stage := .failed e va }] })
  | none, .ok h =>
    let who := s.requester core
    (id.1.request h { writer := .engine core entry id.2, part := who.1, fn := who.2, blocks := [fld va 0 48 / 256],
                      body := .atomic op.toNat (xamoBytes op dbl) (fld va 0 48) o.opA o.opB, va := va },
      { o with flying := [p] })

/-- A piece that is a COMPACT's count waits until its rows have landed (R228). -/
def State.countWaits (s : State) (core : Nat) (o : EngOp) (recn tile hi : Nat) : Bool :=
  o.lastAlone && decide (hi = (s.units core o recn tile).length) && o.flying.any fun q => q.recn == recn

/-- A COMPACT lets its surplus granules go: those that it writes at its first piece, the others once its count has
landed (R55; log 75, DEDUCED, unsafe). -/
def State.letGo (s : State) (core : Nat) (o : EngOp) (recn : Nat) (now writes : Bool) : State × EngOp :=
  if o.lastAlone && now then s.unmarkAll core o (s.surplus core o recn writes) else (s, o)

/-- ENGINE_PIECE_SEND (R231, R232): the engine chooses how much of its at most 512 bytes the piece takes, `piece.take`
groups of 8 bytes at most. -/
def execEnginePieceSend (core : Nat) (piece : PieceChoice) (s : State) : Out :=
  match s.op? core piece.entry with
  | none => notNow "ENGINE_PIECE_SEND"
  | some o =>
    if !s.runs core ∨ !o.sendable ∨ piece.take = 0 then notNow "ENGINE_PIECE_SEND"
    else
      match s.serveRing core (s.pieceNeed core o piece.take) with
      | none => notNow "ENGINE_PIECE_SEND"
      | some s =>
        let done (r : State × EngOp) : Out := .next ((r.1.putOp core piece.entry r.2).settleDeficit core)
        match o.kind with
        | .xamo op d => done (s.sendAtomic core piece.entry o op d)
        | _ =>
          let id := s.takeId
          match o.resend with
          | p :: rest =>
            if s.countWaits core o p.recn p.tile p.hi then notNow "ENGINE_PIECE_SEND"
            else done (id.1.sendPiece core piece.entry { o with resend := rest } { p with id := id.2, got := [] })
          | [] =>
            match s.nextPiece core o piece.take with
            | none => done (s.tileSent core piece.entry o)
            | some (lo, hi) =>
              if s.countWaits core o o.cur o.tile hi then notNow "ENGINE_PIECE_SEND"
              else
                let p : Piece := { id := id.2, recn := o.cur, tile := o.tile, lo := lo, hi := hi, stage := .here, got := [], data := [] }
                let w := id.1.letGo core o o.cur (decide (o.sent = 0)) true
                let r := w.1.sendPiece core piece.entry { w.2 with sent := hi } p
                done (if (s.units core o o.cur o.tile).length ≤ hi then r.1.tileSent core piece.entry r.2 else r)

/-- Later records, as they are read: the first that is bad, by its address; the granules that they write must not be
IN-FLIGHT for another operation (R239; log 76, DEDUCED, unsafe). -/
def State.checkLater (s : State) (core : Nat) (o : EngOp) (raws : List RawRec) (p : RecPair) : Except (BitVec 64) Unit :=
  match s.checkPair core o.kind raws p.src p.dst with
  | .error e => .error e.2
  | .ok _ =>
    if s.meets o (granuleBytes core (o.pairRanges p)) then .error ((p.dst.map LRec.addr).getD 0#64) else .ok ()

/-- A record of a chain, with its address and cause where it cannot be read. -/
def State.readGood (s : State) (core : Nat) (a : Option (BitVec 64)) : Except (BitVec 64 × HandBack) (Option RawRec) :=
  match s.readNext core a with
  | .error e => .error (e.2, .perm)
  | .ok r => if a.any (s.recordBad core) then .error (a.getD 0#64, .poison) else .ok r

/-- Records as they are read and checked, their predicates' words with them. -/
def State.checkGood (s : State) (core : Nat) (o : EngOp) (raws : List RawRec) (p : RecPair) :
    Except (BitVec 64 × HandBack) Unit :=
  match s.checkLater core o raws p, s.predBad core raws with
  | .error a, _ => .error (a, .perm)
  | .ok _, some a => .error (a, .poison)
  | .ok _, none => .ok ()

/-- LAYOUT_RECORD_READ for the next records of a chain, the destination's first: they are read and checked; a bad one ends
the operation there, as does record 4,097 of a chain (R225). -/
def State.readLater (s : State) (core : Nat) (o : EngOp) : Except (BitVec 64 × HandBack) RecPair :=
  match (if 4096 ≤ o.dstRead then o.nextDst else none), (if 4096 ≤ o.srcRead then o.nextSrc else none) with
  | some a, _ | none, some a => .error (a, .perm)
  | none, none =>
    match s.readGood core o.nextDst, s.readGood core o.nextSrc with
    | .error e, _ => .error e
    | .ok _, .error e => .error e
    | .ok d, .ok r => (s.checkGood core o (d.toList ++ r.toList) (rawPair r d)).map fun _ => rawPair r d

/-- LAYOUT_RECORD_READ for the second destination record of a QUANT_DUAL: it is that at the first one's NEXT. -/
def State.readDual (s : State) (core : Nat) (o : EngOp) : Except (BitVec 64 × HandBack) LRec :=
  let p := o.pair o.cur
  let a := (p.dst.map LRec.next).getD 0#64
  if a = 0#64 then .error ((p.dst.map LRec.addr).getD 0#64, .perm)
  else if 4096 ≤ o.dstRead then .error (a, .perm)
  else
    match s.readGood core (some a) with
    | .error e => .error e
    | .ok none => .error (a, .perm)
    | .ok (some d) => (s.checkGood core o [d] { noRecPair with dst := some d.1, src := p.src }).map fun _ => d.1

/-- LAYOUT_RECORD_READ (R225, R227): the next records, or the second destination record of a QUANT_DUAL. -/
def execLayoutRecordRead (core entry : Nat) (s : State) : Out :=
  match s.op? core entry with
  | none => notNow "LAYOUT_RECORD_READ"
  | some o =>
    if !s.runs core ∨ o.stopped ∨ o.handed ∨ !o.resend.isEmpty then notNow "LAYOUT_RECORD_READ"
    else
      match o.phase with
      | .record =>
        match s.readLater core o with
        | .error e => .next (s.setOp core entry (o.badRecord e.1 e.2))
        | .ok p =>
          let q := s.pairRead core entry o p.src p.dst
          .next (q.1.putOp core entry q.2)
      | .dual =>
        match s.readDual core o with
        | .error e => .next (s.setOp core entry (o.badRecord e.1 e.2))
        | .ok d =>
          let s := s.opReads core entry (meshPlaces core d.recordRanges)
          let r := s.mark core o (granuleBytes core (o.pairRanges { noRecPair with dst := some d }))
          let o := { r.2.modPair r.2.cur (fun q => { q with dst2 := some d }) with dstRead := o.dstRead + 1 }
          let q := r.1.startPair core entry o
          .next (q.1.putOp core entry q.2)
      | _ => notNow "LAYOUT_RECORD_READ"

/-- The current tile holds a slot. -/
def EngOp.withSlot (o : EngOp) (i : Nat) : EngOp :=
  { o with slots := o.slots ++ [{ recn := o.cur, tile := o.tile, slot := i, done := 0 }], phase := .send }

/-- The granules that the current tile of an operation writes. -/
def State.tileGranules (s : State) (core : Nat) (o : EngOp) : List (Nat × Nat) :=
  granuleBytes core ((s.units core o o.cur o.tile).map fun u => (u.addr, u.bytes.length))

/-- The current tile holds a slot from now on; a fill sets its granules IN-FLIGHT (R55). -/
def State.holdSlot (s : State) (core entry : Nat) (o : EngOp) (i : Nat) (fills : Bool) : State :=
  let o := o.withSlot i
  let r := if fills then s.mark core o (s.tileGranules core o) else (s, o)
  r.1.setOp core entry r.2

/-- ENGINE_SLOT_CLAIM (R229, R59): a claim waits while another operation writes to the slot (R239; log 76, DEDUCED,
unsafe). -/
def execEngineSlotClaim (core entry : Nat) (s : State) : Out :=
  match s.op? core entry with
  | none => notNow "ENGINE_SLOT_CLAIM"
  | some o =>
    match o.ringOf (o.pair o.cur) o.tile with
    | some (n, true) =>
      let g := s.ring (clusterOf core) n
      if s.runs core ∧ o.phase = .slot ∧ o.stopped = false ∧ o.handed = false ∧ g.en ∧ g.slot g.tail = .free
          ∧ s.meets o (s.tileGranules core (o.withSlot g.tail)) = false then
        .next ((s.setRing (clusterOf core) n g.claim).holdSlot core entry o g.tail true)
      else notNow "ENGINE_SLOT_CLAIM"
    | _ => notNow "ENGINE_SLOT_CLAIM"

/-- XPUB_SLOT_TAKE (R229, R59): an acquire (Table 4-2), behind a matrix unit that takes in this cycle (R60, R247). -/
def execXpubSlotTake (core entry : Nat) (s : State) : Out :=
  match s.op? core entry with
  | none => notNow "XPUB_SLOT_TAKE"
  | some o =>
    match o.ringOf (o.pair o.cur) o.tile with
    | some (n, false) =>
      let g := s.ring (clusterOf core) n
      if s.runs core ∧ o.phase = .slot ∧ o.stopped = false ∧ o.handed = false ∧ g.en ∧ g.slot g.head = .committed
          ∧ s.mmaTakes (clusterOf core) n = false then
        .next (((s.handOn (· == .slot (clusterOf core) n g.head) (.op core entry)).setRing (clusterOf core) n g.take).holdSlot
          core entry o g.head false)
      else notNow "XPUB_SLOT_TAKE"
    | _ => notNow "XPUB_SLOT_TAKE"

-- Landing and faults.

/-- PIECE_LAND (R227, R229, R55, R56, R59): what goes to other clusters, once it is there (R373). An MSTORE holds no entry: entry 16 + quad names its unit, and the piece its
command (R249). -/
def execPieceLand (core entry piece : Nat) (s : State) : Out :=
  if 16 ≤ entry then
    match s.storeLands (entry - 16) piece with
    | some t => .next t
    | none => notNow "PIECE_LAND"
  else
  match s.op? core entry with
  | none => notNow "PIECE_LAND"
  | some o =>
    match o.flying.find? fun p => p.id == piece with
    | none => notNow "PIECE_LAND"
    | some p =>
      match p.stage with
      | .written =>
        let n := outBytes p.data
        let last := s.completes core o p.recn p.tile n
        let all := decide (p.hi = (s.units core o p.recn p.tile).length)
        if last ∧ (s.endSlot core entry o p.recn p.tile).isNone then
          .next (s.setOp core entry (o.modPiece piece fun q => { q with stage := .failed .perm (s.tileAddr core o p.recn p.tile) }))
        else
          let r := s.landed core entry (o.dropPiece piece) p.recn p.tile n
          let q := r.1.letGo core r.2 p.recn all false
          .next (q.1.putOp core entry q.2)
      | .here =>
        if !s.landingsHere core entry piece then notNow "PIECE_LAND" else
        let s := s.takeLandings core entry piece
        let ok := s.landable p.data
        let n := outBytes ok.1
        let last := ok.2.isNone && s.completes core o p.recn p.tile n
        let all := ok.2.isNone && decide (p.hi = (s.units core o p.recn p.tile).length)
        if last ∧ (s.endSlot core entry o p.recn p.tile).isNone then
          .next (s.setOp core entry (o.modPiece piece fun q => { q with stage := .failed .perm (s.tileAddr core o p.recn p.tile) }))
        else
          let s := ok.1.foldl (fun t u => t.landUnit core entry u) s
          let o := match ok.2 with
            | some g => o.modPiece piece fun q =>
                { q with lo := q.lo + ok.1.length, data := [], stage := .failed .barrierOverlap (keyWord g) }
            | none => o.dropPiece piece
          let r := s.unmarkAll core o (landedGranules ok.1)
          let q := if n = 0 ∧ last = false then r else r.1.landed core entry r.2 p.recn p.tile n
          let q := q.1.letGo core q.2 p.recn all false
          .next (q.1.putOp core entry q.2)
      | _ => notNow "PIECE_LAND"

/-- PIECE_FAULT (R232): the engine stops sending. -/
def execPieceFault (core entry piece : Nat) (s : State) : Out :=
  match s.op? core entry with
  | none => notNow "PIECE_FAULT"
  | some o =>
    match o.flying.find? fun p => p.id == piece with
    | none => notNow "PIECE_FAULT"
    | some p =>
      match p.stage with
      | .failed .. => .next (s.setOp core entry { o.dropPiece piece with faults := o.faults ++ [p], stopped := true })
      | _ => notNow "PIECE_FAULT"

/-- The first of some pieces in operation order. -/
def firstPiece : List Piece → Option Piece
  | [] => none
  | p :: ps => match firstPiece ps with
    | some q => some (if p.before q then p else q)
    | none => some p

/-- INT and SUB of a hand-back (Tables 12-6 and 12-7). -/
def HandBack.codes : HandBack → Nat × Nat
  | .notPresent => (2, 1)
  | .perm => (2, 2)
  | .outOfSpace => (3, 3)
  | .atomicPath => (4, 4)
  | .poison => (2, 5)
  | .barrierOverlap => (2, 6)
  | .integrity => (10, 5)

/-- The form of a record's address in UIXFER (R232). -/
def recordForm (core : Nat) (a : BitVec 64) : Nat :=
  match resolve core a 1 with
  | none => 0
  | some m => if m.cluster = clusterOf core ∧ m.unit = 1 + inCluster core then m.off else m.key

/-- The record that a pair's pieces belong to, for UIXFER. -/
def EngOp.recordOf (o : EngOp) (recn : Nat) : BitVec 64 :=
  match o.kind with
  | .xsub _ => ((o.pair recn).src.map LRec.addr).getD 0#64
  | .xcopy .. | .xpub _ => ((o.pair recn).dst.map LRec.addr).getD 0#64
  | _ => 0#64

/-- Cause, UIVAL and record of a hand-back. -/
def EngOp.report (o : EngOp) : HandBack × BitVec 64 × BitVec 64 :=
  match firstPiece o.faults with
  | some p =>
    match p.stage with
    | .failed c v => (c, v, o.recordOf p.recn)
    | _ => (.perm, 0#64, o.recordOf p.recn)
  | none =>
    match o.bad with
    | some b => (b.cause, b.addr, b.addr)
    | none => (.perm, 0#64, 0#64)

/-- The remainder record (R233). -/
def State.remainderRecord (s : State) (core entry : Nat) (o : EngOp) (uival : BitVec 64) (uicause : BitVec 64) : State :=
  let x := (s.core core).xrbase
  if bitOf x 63 then
    s.pokeLocal core (fld x 6 9 * 64 + 64 * entry)
      (([o.bits.setWidth 64, o.dst0, o.src0, o.bar, word o.counted, uival, uicause, 0#64] : List (BitVec 64)).flatMap fun w =>
        natBytes 8 w.toNat)
  else s

/-- HAND_BACK (R232): IN-FLIGHT of the remainder is cleared, its record written and the issuing core told. -/
def execHandBack (core entry : Nat) (s : State) : Out :=
  match s.op? core entry with
  | none => notNow "HAND_BACK"
  | some o =>
    if !s.runs core ∨ !o.stopped ∨ o.handed ∨ !o.flying.isEmpty then notNow "HAND_BACK"
    else
      let r := s.release core o
      let w := o.report
      let c := w.1.codes
      let t := r.1.remainderRecord core entry o w.2.1 (uicauseOf c.1 c.2)
      let x := entry * 2 ^ 48 + (match o.kind with | .xamo .. | .xdisc => 0 | _ => recordForm core w.2.2)
      .next ((t.setOp core entry { r.2 with handed := true }).interrupt core c.1 c.2 w.2.1 (word x) none
        (some (.op core entry)))

-- Engine control.

/-- Units of the remainder whose places are known: faulting pieces, and what has not been sent of the pair in
process. -/
def State.remainder (s : State) (core : Nat) (o : EngOp) : List RawUnit :=
  let now := match o.phase with
    | .send | .slot =>
      ((List.range (o.tiles (o.pair o.cur))).filter fun t => decide (o.tile ≤ t)).flatMap fun t =>
        match o.ringOf (o.pair o.cur) t, o.slotOf o.cur t with
        | some (_, true), none => []
        | _, _ => (s.units core o o.cur t).drop (if t = o.tile ∧ o.phase = .send then o.sent else 0)
    | .dual => s.units core o o.cur 0
    | _ => []
  (o.faults ++ o.resend).flatMap (s.pieceRaw core o) ++ now

def remainderGranules (core : Nat) (us : List RawUnit) : List (Nat × Nat) :=
  granuleBytes core (us.map fun u => (u.addr, u.bytes.length))

/-- The handed back operation that a UIXFER value names (R235). -/
def State.handedOp (s : State) (v : BitVec 64) : Option (Nat × EngOp) :=
  if fld v 52 12 ≠ 0 then none
  else (s.op? s.cur.1 (fld v 48 4)).bind fun o => if o.handed then some (fld v 48 4, o) else none

/-- Granules that the remainder of an XAMO holds. -/
def State.heldAgain (s : State) (core : Nat) (o : EngOp) : List (Nat × Nat) :=
  match o.kind with
  | .xamo op _ => match resolve core o.src0 64 with
    | some m => [(granuleOf m.key, resultBytes op)]
    | none => []
  | _ => remainderGranules core (s.remainder core o)

/-- XRESUME (R235). -/
def execXresume (a : BitVec 5) (s : State) : Out :=
  gatedRun (.xresume a) s fun s =>
    let c := s.cur.1
    match s.handedOp (s.x a) with
    | none => .error (s, trap cAddr (s.x a))
    | some (e, o) =>
      let gs := s.heldAgain c o
      match s.issueRace c (gs.map Prod.fst) with
      | some t => .error (s, t)
      | none =>
        let s := (s.forkOp c s.cur.2 e).dropFetched c s.cur.2 (gs.map Prod.fst)
        let r := s.mark c o gs
        let o := { r.2 with
          stopped := false, handed := false, faults := [], bad := none, seen := [],
          resend := match o.kind with | .xamo .. => [] | _ => sortPieces (o.faults ++ o.resend),
          phase := match o.kind with | .xamo .. | .xdisc => .send | _ => o.phase }
        .ok ((r.1.putOp c e o).bump 4)

/-- Counted bytes of every record read that have not been delivered. -/
def State.undelivered (s : State) (core : Nat) (o : EngOp) : Nat :=
  match o.kind with
  | .xamo op _ => resultBytes op - o.counted
  | _ => ((List.range o.pairs.length).map fun n => s.pairBytes core o n - ((o.pair n).delivered + (o.pair n).delivered2)).sum

/-- XCANCEL (R235). -/
def execXcancel (a : BitVec 5) (s : State) : Out :=
  gatedRun (.xcancel a) s fun s =>
    let c := s.cur.1
    match s.handedOp (s.x a) with
    | none => .error (s, trap cAddr (s.x a))
    | some (e, o) =>
      let s := s.freeEntry c e
      if o.kind = .xdisc then .ok (s.bump 4)
      else
        let n := s.undelivered c o
        let s := s.tbErr o.barKey
        let s := s.countAt c e o.barKey n
        let s :=
          if (o.bad.any fun b => !b.empty) ∧ s.isLive o.barKey ∧ 0 < tbPend (s.tbWord o.barKey) then
            s.countAt c e o.barKey (tbPend (s.tbWord o.barKey)).toNat
          else s
        .ok (s.bump 4)

-- Discard.

/-- Marks one 64 KiB piece for a core's partition; none if its home does not serve writes to it (log 21, DEDUCED, unsafe). What
becomes of a mark on a peer's piece is the peer's (log 12, DESIGN CHOICE, safe). -/
def State.discardPiece (s : State) (core : Nat) (va : BitVec 64) : Except HandBack State :=
  let p := s.partOfCore core
  match s.homeFor p.hrt va with
  | .error e => .error e
  | .ok h =>
    if 40 ≤ h then
      if !podPid p.pid then .error .perm
      else
        let t := { s with fresh := s.fresh + 1 }
        match Config.freeNat s.fresh % 3 with
        | 0 => .ok t
        | 1 => .error .notPresent
        | _ => .error .perm
    else
      match s.walk h p.fn p.pid (fld va 0 48) true, amGet? s.pages (pageKey p.fn (fld va 0 48)) with
      | some e, _ => .error e
      | none, none => .ok s
      | none, some g =>
        let e := { g with discard := true, marker := (s.partOf (clusterOf core)).getD 0 }
        .ok { s with pages := amSet s.pages (pageKey p.fn (fld va 0 48)) e }

/-- Marks pieces; those that fail become the remainder. -/
def State.discardAll (s : State) (core : Nat) (base : BitVec 64) : List Nat → State × List Piece
  | [] => (s, [])
  | i :: is =>
    let va := base + word (65536 * i)
    match s.discardPiece core va with
    | .ok t => t.discardAll core base is
    | .error e =>
      let r := s.discardAll core base is
      (r.1, { id := 0, recn := 0, tile := 0, lo := i, hi := i + 1, stage := .failed e va, got := [], data := [] } :: r.2)

/-- DISCARD_ACCEPT (R237). -/
def execDiscardAccept (core entry : Nat) (s : State) : Out :=
  match s.op? core entry with
  | none => notNow "DISCARD_ACCEPT"
  | some o =>
    if o.kind ≠ .xdisc ∨ o.handed ∨ o.stopped ∨ !s.runs core then notNow "DISCARD_ACCEPT"
    else
      let is := if o.resend.isEmpty then List.range (o.len.toNat / 65536) else o.resend.map Piece.lo
      let r := s.discardAll core o.dst0 is
      if r.2.isEmpty then .next (r.1.freeEntry core entry)
      else .next (r.1.setOp core entry { o with faults := r.2, resend := [], stopped := true })

-- PTOUCH.

/-- The demand-allocated range that holds an address. -/
def Function.demandAt (f : Function) (va : Nat) : Option Demand := f.demand.find? fun d => decide (d.va ≤ va ∧ va < d.va + d.len)

/-- Pieces of the page that holds an address: one of 64 KiB, or the 32 of a 2 MiB page. -/
def pagePieces (big : Bool) (va : Nat) : List Nat :=
  if big then (List.range 32).map fun i => va / 2 ^ 21 * 32 + i else [va / 2 ^ 16]

/-- A piece's mapping goes, and its sectors return to the pool (R350, R361). -/
def State.dropPiece (s : State) (fn pg : Nat) : State := (s.resetPage fn pg).unmapEntry fn pg

/-- Wilzia maps the pieces of a page at their homes, every block ZERO-EMPTY, in place of what was mapped there (R347,
R361). -/
def State.mapPage (s : State) (fn : Nat) (r w big : Bool) (pgs : List Nat) : State :=
  let t := pgs.foldl (fun t pg => t.dropPiece fn pg) s
  let at_ (pg : Nat) : Option Nat := t.ownHome fn (65536 * pg)
  (pgs.filterMap at_).dedup.foldl (fun u h => u.mapAt h fn (pgs.filter fun pg => at_ pg == some h) r w big) t

/-- Wilzia makes a function's trap-kernel image resident: its pieces that have a home on this module and no mapping are
mapped (R418; log 98, DEDUCED, unsafe). -/
def State.residentTrap (s : State) (fn : Nat) : State :=
  let f := s.fn fn
  let a := fld f.trapVa 0 48
  let missing (pg : Nat) : Bool :=
    match s.ownHome fn (65536 * pg) with
    | some h => !s.mappedAt h fn (65536 * pg)
    | none => false
  (((List.range ((a % 65536 + f.trapLen + 65535) / 65536)).map fun i => a / 65536 + i).filter missing).foldl
    (fun t pg => t.mapPage fn true true false [pg]) s

/-- Records of a fault queue's ring; 0 while it is not enabled. -/
def Function.faultSlots (f : Function) : Nat := if bitOf f.fqcfg 7 then 2 ^ fld f.fqcfg 0 5 else 0

/-- The 32-byte record of a request (R415). -/
def FaultReq.bytes (r : FaultReq) : List (BitVec 8) :=
  natBytes 8 r.va.toNat ++ natBytes 2 r.pid.toNat ++ natBytes 1 r.mode.toNat ++ natBytes 5 0 ++ natBytes 4 r.token.toNat
    ++ natBytes 12 0

/-- A NOT_PRESENT page that is not demand-allocated goes to the host driver: a record at the tail of the function's fault
queue, in host memory. It is declined if the ring is full (R349, R415). -/
def State.askHost (s : State) (fn : Nat) (r : FaultReq) : State × Bool :=
  let f := s.fn fn
  let n := f.faultSlots
  if n = 0 ∨ (f.fqtail.toNat + 1) % n = f.fqhead.toNat % n then (s, false)
  else
    let q := { r with token := f.nextToken }
    (s.modFn fn fun g =>
      { g with faults := g.faults ++ [q], nextToken := g.nextToken + 1#32, fqtail := word ((g.fqtail.toNat + 1) % n),
               records := (g.fqbase + word (32 * (g.fqtail.toNat % n)), q.bytes) :: g.records }, true)

/-- The home of a waiting PTOUCH passes it to the host driver: it waits under a token, or is declined (R349). -/
def State.touchAsk (s : State) (c k : Nat) (va : BitVec 64) (mode : Nat) : State :=
  let p := s.partOfCore c
  let r := s.askHost p.fn { token := 0#32, va := va, pid := p.pid, mode := BitVec.ofNat 2 mode, core := c, ctx := k }
  r.1.modCtxAt c k fun x => { x with reply := some (if r.2 then .asked (s.fn p.fn).nextToken else .touched false) }

/-- A home of this module finds nothing mapped at an address of a core's partition, and no demand-allocated range (R349). -/
def State.touchMisses (s : State) (c : Nat) (va : BitVec 64) : Bool :=
  let p := s.partOfCore c
  let o := fld va 0 48
  match s.homeFor p.hrt va with
  | .error _ => false
  | .ok h => decide (h < 40) && !isLeaf (s.leafFor h p.fn p.pid o) && ((s.fn p.fn).demandAt o).isNone

/-- PTOUCH (R236): waits for the home's answer. A restored one, marked by 4 more in its mode, asks again (R312). -/
def execPtouch (a : BitVec 5) (m : BitVec 2) (s : State) : Out :=
  gatedRun (.ptouch a m) s fun s =>
    let c := s.cur.1
    let va := s.x a
    if !bitOf va 63 ∨ fld va 54 9 ≠ 0 then .error (s, trap cAddr va)
    else
      let waits (n : Nat) : Bool := match s.cx.wait with
        | some w => w.kind == .ptouch n
        | none => false
      if waits m.toNat then .ok s
      else
        let t := if waits (m.toNat + 4) then
            s.modCx fun x => { x with wait := x.wait.map fun w => { w with kind := .ptouch m.toNat }, reply := none }
          else (s.modCx fun x => { x with wait := none, reply := none }).await (.ptouch m.toNat) va
        .ok (if t.touchMisses c va then t.touchAsk c s.cur.2 va m.toNat else t)

/-- Sectors of growth that a partition has on a stack (R354). -/
def State.growth (s : State) (p home : Nat) : Nat :=
  if (s.base home).parked.isEmpty then
    min (s.base home).poolfree ((s.account p home).qshare - (s.account p home).used)
  else 0

/-- Wilzia's answer in a PTOUCH's pass is a free value (R356): share from a stack or from its reserve pool, of sectors that
it chooses, and sectors for the pool (log 22, DESIGN CHOICE, safe). -/
def State.freeGrowth (s : State) (p home : Nat) : State :=
  let t := { s with fresh := s.fresh + 3 }.modBase home fun b => { b with poolfree := b.poolfree + Config.freeNat s.fresh }
  (t.moveShare p home (Config.freeNat (s.fresh + 1) % 32) (Config.freeNat (s.fresh + 2))).getD t

/-- A PTOUCH in write mode on a VA that came back with OUT_OF_SPACE runs the gleaner's three steps for its partition on the
stack; freed sectors go to the parked writes after each. It is resolved where they leave at least 4 sectors of growth
(R356, R357). -/
def State.touchWrite (s : State) (p home : Nat) : State × Bool :=
  let one (t : State) (step : Nat) : State := (t.gleanStep home step fun _ => some p).grantAll home
  let u := ((one (one s 1) 2).freeGrowth p home).grantAll home
  (u, decide (4 ≤ u.growth p home))

/-- A remainder of the core that came back with a cause for an address of a page (Table 8-11, R357; log 96, DEDUCED,
unsafe). -/
def State.handedWith (s : State) (c va : Nat) (cause : HandBack) : Bool :=
  (List.range 16).any fun e => (s.op? c e).any fun o =>
    o.handed && o.faults.any fun p =>
      match p.stage with
      | .failed f v => f == cause && fld v 16 32 == va / 65536
      | _ => false

/-- The page is served: a block that cannot be read makes it unresolvable (R234). In write mode a page that came back with
OUT_OF_SPACE needs growth (R357). In atomic mode it is unresolvable while a remainder waits that came back from it with
ATOMIC_PATH (Table 8-11); else every path of this module carries some atomic (R366) (log 96, DEDUCED, unsafe). -/
def State.touchServed (s : State) (c home fn va mode : Nat) : State × Option Bool :=
  if (s.blockFail home fn va).isSome || (mode == 2 && s.handedWith c va .atomicPath) then (s, some false)
  else if mode = 1 ∧ home < 32 ∧ s.handedWith c va .outOfSpace = true then let r := s.touchWrite (s.pidOf c) home; (r.1, some r.2)
  else (s, some true)

/-- What a peer answers a PTOUCH is free (log 12, DESIGN CHOICE, safe); a module PID names none (R49). -/
def State.touchPeer (s : State) (c : Nat) : State × Option Bool :=
  if podPid (s.partOfCore c).pid then ({ s with fresh := s.fresh + 1 }, some (Config.freeNat s.fresh % 2 == 0)) else (s, some false)

/-- What the home answers a PTOUCH: resolved, unresolvable, or nothing yet. A host that answers "mapped" without a mapping
leaves it waiting (R349). -/
def State.touchAnswer (s : State) (c k : Nat) (va : BitVec 64) (mode : Nat) : State × Option Bool :=
  let p := s.partOfCore c
  let o := fld va 0 48
  match s.homeFor p.hrt va with
  | .error _ => (s, some false)
  | .ok h =>
    if 40 ≤ h then s.touchPeer c
    else
      match s.walk h p.fn p.pid o (mode != 0) with
      | none => s.touchServed c h p.fn o mode
      | some .notPresent =>
        match (s.fn p.fn).demandAt o, (s.ctxAt c k).reply with
        | some d, _ =>
          (s.mapPage p.fn d.r d.w d.big (pagePieces d.big o), some (if mode = 0 then d.r else d.w))
        | none, some (.touched false) => (s, some false)
        | none, _ => (s, none)
      | some _ => (s, some false)

/-- PTOUCH_RESOLVED (R236, R349): the PTOUCH completes, or raises PROT. One whose page has lost its mapping on the way is
passed to the host driver now. -/
def execPtouchResolved (core ctx : Nat) (s : State) : Out :=
  let x := s.ctxAt core ctx
  match x.wait with
  | some w =>
    match w.kind with
    | .ptouch mode =>
      if !s.runs core ∨ 4 ≤ mode then notNow "PTOUCH_RESOLVED"
      else
        match s.touchAnswer core ctx w.tval mode with
        | (_, none) =>
          if x.reply.isNone && s.touchMisses core w.tval then .next (s.touchAsk core ctx w.tval mode)
          else notNow "PTOUCH_RESOLVED"
        | (t, some true) => .next (t.modCtxAt core ctx fun y => { y with pc := y.pc + 4#64, wait := none, reply := none })
        | (t, some false) => .next (t.takeTrap core ctx (trap cProt w.tval) x.pc [] x.pc)
    | _ => notNow "PTOUCH_RESOLVED"
  | none => notNow "PTOUCH_RESOLVED"

end Sys2Proof.Machine
end

