-- ==== Sys2Proof/Machine/Fold.lean ====
section
/-! DEFINITION. Folds: the instructions of major 38 (R256 to R260), the matching store (R258), combination (R261, R85),
orphans and refusals (R262, R263). A fold is named by its cluster. -/

namespace Sys2Proof.Machine

-- Keys and placement.

/-- H(k) of R256. -/
def foldHash (k : BitVec 48) : BitVec 64 :=
  let z := k.setWidth 64
  let z := (z ^^^ (z >>> 33)) * 0xFF51AFD7ED558CCD#64
  let z := (z ^^^ (z >>> 33)) * 0xC4CEB9FE1A85EC53#64
  z ^^^ (z >>> 33)

/-- The fold index of a key in a partition of C clusters. -/
def foldIndex (clusters : Nat) (k : BitVec 48) : Nat := (foldHash k).toNat % clusters

/-- The cluster whose fold a key names, for the partition of a core. -/
def State.foldOf (s : State) (core : Nat) (k : BitVec 48) : Nat :=
  let p := s.shape core
  p.clusters.getD (foldIndex (p.cores / 16) k) (clusterOf core)

def State.foldAt (s : State) (cl : Nat) : Fold := (s.cluster cl).fold

def State.modFold (s : State) (cl : Nat) (f : Fold → Fold) : State :=
  s.modCluster cl fun u => { u with fold := f u.fold }

/-- The key operand of a fold instruction: its bits [63:48] must be 0 (R257). -/
def foldKey (v : BitVec 64) : Except Trap (BitVec 48) :=
  if fld v 48 16 ≠ 0 then .error (trap cAddr v) else .ok (v.extractLsb' 0 48)

/-- FKEY (R257). -/
def execFkey (d a : BitVec 5) (s : State) : Out :=
  gatedRun (.fkey d a) s fun s =>
    match foldKey (s.x a) with
    | .error t => .error (s, t)
    | .ok k => .ok ((s.setX d (word (foldIndex ((s.shape s.cur.1).cores / 16) k))).bump 4)

-- Routes (R259).

/-- One entry of a route block as its two words give it, unresolved. None is invalid. -/
def routeEntry (w0 w1 : BitVec 64) : Option RouteEntry :=
  if fld w0 48 14 ≠ 0 then none
  else if fld w0 62 2 = 1 then some (.deliver (fld w0 0 48) w1.toNat)
  else if fld w0 62 2 = 2 ∧ w1 = 0#64 then some (.chain (w0.extractLsb' 0 48))
  else none

/-- The route of a block: entries up to the first that delivers, at most eight. -/
def routeOf : List (BitVec 64 × BitVec 64) → Option (List RouteEntry)
  | [] => none
  | (w0, w1) :: rest =>
    match routeEntry w0 w1 with
    | none => none
    | some (.deliver t b) => some [.deliver t b]
    | some (.chain k) => (routeOf rest).map (.chain k :: ·)

/-- The words of a route block. -/
def routeWords (bs : List (BitVec 8)) : List (BitVec 64 × BitVec 64) :=
  (List.range 8).map fun e => (word (bytesNat ((bs.drop (16 * e)).take 8)), word (bytesNat ((bs.drop (16 * e + 8)).take 8)))

/-- The entry that delivers. -/
def finalEntry (r : List RouteEntry) : Option (Nat × Nat) :=
  r.findSome? fun e => match e with | .deliver t b => some (t, b) | .chain _ => none

/-- An operand of n bytes in units 0 to 17, aligned, with a right (R260 step 3). -/
def State.foldRange (s : State) (ea : BitVec 64) (n align : Nat) (right : Right) : Except Trap Mesh := do
  operandAddr s.cur.1 ea n align
  s.check s.cur.1 ea n align [right] false

/-- Step 5 of R260: the resolved target and barrier (log 68, DEDUCED, unsafe). -/
def State.foldTarget (s : State) (n target bar : Nat) : Except Trap RouteEntry := do
  let c := s.cur.1
  let ea := word target
  let m ← s.check c ea n 64 [.w] false
  operandAddr c (word bar) 16 16
  let tb ← s.barOperand c (word bar)
  if (granulesOf m.key n).any s.live.contains then throw (trap cBarrierWord ea)
  return .deliver m.key tb

/-- The last entry of a route replaced by its resolved form. -/
def resolveRoute (r : List RouteEntry) (e : RouteEntry) : List RouteEntry := r.dropLast ++ [e]

-- Issue.

/-- The context waits for a fold's answer. -/
def State.waitsFold (s : State) : Bool :=
  match s.cx.wait with
  | some w => match w.kind with | .foldAnswer _ => true | _ => false
  | none => false

/-- A request of the context in hand goes to a fold, and the context waits for the answer. -/
def State.askFold (s : State) (cl : Nat) (body : PktBody) (tval : BitVec 64) : State :=
  let c := s.cur.1
  (s.inject (clusterOf c) cl (inCluster c) .fold false (s.pidAt (clusterOf c)) body).await (.foldAnswer cl) tval

/-- FOLD (R260): the checks in their order, the operand on its way. FOLD_ANSWER completes it. -/
def execFold (a b c : BitVec 5) (z : BitVec 3) (p : BitVec 4) (s : State) : Out :=
  gatedRun (.fold a b c z p) s fun s =>
    if s.waitsFold then .ok s
    else
      let me := s.cur.1
      let n := 64 * 2 ^ z.toNat
      let checks : Except Trap (BitVec 48 × Mesh × List RouteEntry) := do
        let k ← foldKey (s.x a)
        let m ← s.check s.cur.1 (s.x b) n 64 [.r] false
        let rb ← s.foldRange (s.x c) 128 128 .r
        match routeOf (routeWords (memBytes s.mem rb.key 128)) with
        | none => throw (trap cAddr (s.x c))
        | some r =>
          match finalEntry r with
          | none => throw (trap cAddr (s.x c))
          | some (t, tb) =>
            let e ← s.foldTarget n t tb
            return (k, m, resolveRoute r e)
      match checks with
      | .error t => .error (s, t)
      | .ok (k, m, route) =>
        let cl := s.foldOf me k
        if !s.canInject (clusterOf me) cl (inCluster me) .fold then .ok s
        else
          let d := s.readOpen m.key n
          let id := d.1.takeId
          let o : FoldOperand :=
            { key := k, op := p, size := z.toNat, data := d.2, route := route, sender := me, ctx := s.cur.2, block := s.x c,
              pid := s.pidAt (clusterOf me), chained := false, id := id.2 }
          let t := id.1.forkTo me s.cur.2 (.copied me s.cur.2) ((m.key, n) :: meshPlaces me [(s.x c, 128)]) [.folded id.2]
          .ok (t.askFold cl (.operand cl o) (s.x a))

/-- FRES and FREL: a request under a key, with a size code for FRES (R258). -/
def foldRequest (i : Instr) (a : BitVec 5) (size : Option Nat) (s : State) : Out :=
  gatedRun i s fun s =>
    if s.waitsFold then .ok s
    else
      match foldKey (s.x a) with
      | .error t => .error (s, t)
      | .ok k =>
        let me := s.cur.1
        let cl := s.foldOf me k
        if !s.canInject (clusterOf me) cl (inCluster me) .fold then .ok s
        else .ok (s.askFold cl (.request cl me s.cur.2 k size) (s.x a))

/-- FRES (R258). -/
def execFres (a : BitVec 5) (z : BitVec 3) (s : State) : Out := foldRequest (.fres a z) a (some z.toNat) s

/-- FREL (R258). -/
def execFrel (a : BitVec 5) (s : State) : Out := foldRequest (.frel a) a none s

-- The matching store (R258).

/-- The entry of a key. -/
def Fold.find (f : Fold) (k : BitVec 48) : Option (Nat × FoldEntry) :=
  f.entries.find? fun e => e.2.key == k && !e.2.isFree

/-- The FREE entry that an FRES or an operand takes: the lowest-numbered (log 106, DESIGN CHOICE, unsafe). -/
def Fold.freeEntry (f : Fold) : Option Nat := (List.range 64).find? fun e => (f.entry e).isFree

/-- Stores an entry; one without reservation and operand is FREE. -/
def Fold.put (f : Fold) (i : Nat) (e : FoldEntry) : Fold :=
  { f with entries := if e.isFree then amDel f.entries i else amSet f.entries i e }

/-- The fold's answer sets out to a context (log 25, DESIGN CHOICE, safe). -/
def State.foldReply (s : State) (cl core ctx : Nat) (cause : Option (BitVec 8 × BitVec 64))
    (full : Option (BitVec 64 × BitVec 64)) : State :=
  s.sendOrHold cl (clusterOf core) 17 .fold false (s.foldAt cl).pid (.answer core ctx cause full)

/-- An FRES finds its entry: the fold afterwards, or ADDR; none if it must wait. `first` says that no older FRES
waits for a FREE entry. -/
def Fold.reserve (f : Fold) (k : BitVec 48) (size : Nat) (first : Bool) : Option (Option Fold) :=
  match f.find k with
  | some (i, e) =>
    match e.res with
    | some (n, z) => if z ≠ size ∨ 255 ≤ n then some none else some (some (f.put i { e with res := some (n + 1, z) }))
    | none => some (some (f.put i { e with res := some (1, size) }))
  | none =>
    if !first then none
    else f.freeEntry.map fun i => some (f.put i { key := k, res := some (1, size), held := none })

/-- An FRES that has been decided is answered. -/
def State.answerFres (s : State) (cl : Nat) (w : FresWait) (r : Option Fold) : State :=
  match r with
  | some f => (s.modFold cl fun _ => f).foldReply cl w.core w.ctx none none
  | none => s.foldReply cl w.core w.ctx (some (cAddr, w.key.setWidth 64)) none

/-- A message for another partition is discarded and counted (R265). -/
def State.dropForeign (s : State) (cl pkt : Nat) : State :=
  (s.dropPacket pkt).modFold cl fun f => { f with piddrop := f.piddrop + 1#64 }

/-- FOLD_REQUEST_ARRIVE (R258). -/
def execFoldRequestArrive (pkt : Nat) (s : State) : Out :=
  match s.arrived pkt with
  | some p =>
    match p.body with
    | .request cl core ctx key size =>
      let f := s.foldAt cl
      let t := s.dropPacket pkt
      if p.pid ≠ f.pid then .next (s.dropForeign cl pkt)
      else
        match size with
        | some z =>
          let w : FresWait := { core := core, ctx := ctx, key := key, size := z }
          match f.reserve key z f.fres.isEmpty with
          | some r => .next (t.answerFres cl w r)
          | none => .next (t.modFold cl fun f => { f with fres := f.fres ++ [w] })
        | none =>
          match f.find key with
          | some (i, e) =>
            match e.res with
            | some (n, z) =>
              .next ((t.modFold cl fun f => f.put i { e with res := if n ≤ 1 then none else some (n - 1, z) }).foldReply cl
                core ctx none none)
            | none => .next (t.foldReply cl core ctx (some (cAddr, key.setWidth 64)) none)
          | none => .next (t.foldReply cl core ctx (some (cAddr, key.setWidth 64)) none)
    | _ => notNow "FOLD_REQUEST_ARRIVE"
  | none => notNow "FOLD_REQUEST_ARRIVE"

/-- The oldest FRES that can go on: its key has an entry by now, or it is the oldest and an entry is FREE. -/
def Fold.grantable (f : Fold) : Option (FresWait × Option Fold) :=
  (f.fres.mapIdx fun i w => (f.reserve w.key w.size (i == 0)).map fun r => (w, r)).findSome? id

/-- FRES_GRANT (R258). -/
def execFresGrant (fold : Nat) (s : State) : Out :=
  match (s.foldAt fold).grantable with
  | some (w, r) =>
    let drop (f : Fold) : Fold := { f with fres := f.fres.erase w }
    .next ((s.modFold fold drop).answerFres fold w (r.map drop))
  | none => notNow "FRES_GRANT"

-- Operands (R261 to R263).

/-- Elements of n bytes combined one by one. -/
def combineBy (n : Nat) (f : Nat → Nat → Nat) (a b : List (BitVec 8)) : List (BitVec 8) :=
  (List.range (a.length / n)).flatMap fun i =>
    natBytes n (f (bytesNat ((a.drop (n * i)).take n)) (bytesNat ((b.drop (n * i)).take n)))

/-- A float operation on codes of a format, its exact result rounded to FP32 first. -/
def foldFloat (f : Fmt) (op : Num → Num → Val) (a b : Nat) : Nat :=
  let r := ((op (f.decode a) (f.decode b)).round fp32 Rnd.rne).code
  if f.w = 32 then r else (roundTo f false Rnd.rne (fp32.decode r)).code

/-- The combination of two operands (R85); EXCH computes nothing. -/
def combine (op : BitVec 4) (a b : List (BitVec 8)) : List (BitVec 8) :=
  match op.toNat with
  | 0 => combineBy 4 (foldFloat fp32 (addNum false)) a b
  | 1 => combineBy 2 (foldFloat bf16 (addNum false)) a b
  | 2 => combineBy 4 (foldFloat fp32 maxNum) a b
  | 3 => combineBy 4 (foldFloat fp32 minNum) a b
  | 4 => combineBy 4 (fun x y => (x + y) % 2 ^ 32) a b
  | 5 => combineBy 1 (fun x y => x &&& y) a b
  | 6 => combineBy 1 (fun x y => x ||| y) a b
  | 7 => combineBy 1 (fun x y => x ^^^ y) a b
  | _ => a

/-- A delivery is due at a fold. -/
def State.addJob (s : State) (cl : Nat) (o : FoldOperand) (reason : Nat) (due : Option Nat := none) : State :=
  let id := s.takeId
  id.1.modFold cl fun f => { f with jobs := f.jobs ++ [{ id := id.2, operand := o, reason := reason, due := due }] }

/-- An operand is delivered alone (R263): straight to the entry that delivers. -/
def State.alone (s : State) (cl : Nat) (o : FoldOperand) (reason : Nat) (due : Option Nat := none) : State :=
  ((s.modFold cl fun f => { f with orphans := f.orphans + 1#64 }).countLife 129 1).addJob cl
    { o with route := match finalEntry o.route with | some (t, b) => [.deliver t b] | none => [] } reason due

/-- UIXFER of FOLD_FULL (R263). -/
def fullXfer (o : FoldOperand) (reason : Nat) : BitVec 64 :=
  word (reason * 2 ^ 60 + o.size * 2 ^ 52 + o.op.toNat * 2 ^ 48 + fld o.block 0 48)

/-- The fold accepts an operand that a FOLD instruction sent (log 65, DEDUCED, unsafe). -/
def State.acceptOperand (s : State) (cl : Nat) (o : FoldOperand) : State :=
  if o.chained then s else s.foldReply cl o.sender o.ctx none none

/-- An operand is refused: FOLD_FULL for the sender, or a delivery alone if it came from a fold (R262). -/
def State.refuseOperand (s : State) (cl : Nat) (o : FoldOperand) (reason : Nat) : State :=
  if o.chained then s.alone cl o 4
  else
    (s.modFold cl fun f => { f with refused := f.refused + 1#64 }).foldReply cl o.sender o.ctx none
      (some (o.key.setWidth 64, fullXfer o reason))

/-- Two operands of one operation and size combine (R261); each result has what both carried (R94). -/
def State.combineOperands (s : State) (cl : Nat) (h o : FoldOperand) : State :=
  let s := (s.handOn (· == .folded h.id) (.folded o.id)).handOn (· == .folded o.id) (.folded h.id)
  let s := s.modFold cl fun f => { f with combines := f.combines + 1#64 }
  if o.op = 8#4 then (s.addJob cl { o with data := h.data } 0).addJob cl { h with data := o.data } 0
  else
    let d := combine o.op h.data o.data
    let t := s.addJob cl { h with data := d } 0
    if h.route = o.route then t else t.addJob cl { o with data := d } 0

/-- The run clock of a cluster's partition. -/
def State.clusterClock (s : State) (cl : Nat) : Nat := s.clockOf (cl * 16)

/-- An operand meets the matching store (Table 9-8). -/
def State.foldOperand (s : State) (cl : Nat) (o : FoldOperand) : State :=
  let f := s.foldAt cl
  match f.find o.key with
  | none =>
    match (if f.fres.isEmpty then f.freeEntry else none) with
    | none => s.refuseOperand cl o 1
    | some i =>
      (s.modFold cl fun f =>
        f.put i { key := o.key, res := none, held := some (o, s.clusterClock cl, f.oto) }).acceptOperand cl o
  | some (i, e) =>
    if (match e.res with | some (_, z) => decide (z < o.size) | none => false) then s.refuseOperand cl o 2
    else
      match e.held with
      | none =>
        (s.modFold cl fun f => f.put i { e with held := some (o, s.clusterClock cl, f.oto) }).acceptOperand cl o
      | some (h, _, _) =>
        let t := (s.modFold cl fun f => f.put i { e with held := none }).acceptOperand cl o
        if h.op = o.op ∧ h.size = o.size then t.combineOperands cl h o else (t.alone cl h 2).alone cl o 2

/-- FOLD_OPERAND_ARRIVE (R258, R261, R265). -/
def execFoldOperandArrive (pkt : Nat) (s : State) : Out :=
  match s.arrived pkt with
  | some p =>
    match p.body with
    | .operand cl o =>
      if p.pid ≠ (s.foldAt cl).pid then .next (s.dropForeign cl pkt)
      else .next ((s.dropPacket pkt).foldOperand cl o)
    | _ => notNow "FOLD_OPERAND_ARRIVE"
  | none => notNow "FOLD_OPERAND_ARRIVE"

/-- FOLD_ANSWER (R258, R260): the waiting instruction completes or traps, and FOLD_FULL is posted for a refused
operand. -/
def execFoldAnswer (pkt : Nat) (s : State) : Out :=
  match s.arrived pkt with
  | some p =>
    match p.body with
    | .answer core ctx cause full =>
      let t := s.dropPacket pkt
      if p.pid ≠ s.pidAt p.dst then .next t
      else
        let t := match full with
          | some (v, x) => t.interrupt core 7 0 v x none
          | none => t
        if (t.at core ctx).waitsFold then
          match cause with
          | some (c, v) =>
            let y := t.ctxAt core ctx
            .next (t.takeTrap core ctx (trap c v) y.pc [] y.pc)
          | none => .next (t.modCtxAt core ctx fun y => { y with pc := y.pc + 4#64, wait := none })
        else .next t
    | _ => notNow "FOLD_ANSWER"
  | none => notNow "FOLD_ANSWER"

/-- The bytes of a delivery land: granules that are LIVE are credited and not written (R261, R263). -/
def State.landFold (s : State) (id target : Nat) (data : List (BitVec 8)) : List Nat → State × Bool
  | [] => (s, false)
  | i :: is =>
    let key := target + 32 * i
    if s.live.contains (granuleOf key) then ((s.landFold id target data is).1, true)
    else (s.lay (.folded id) key ((data.drop (32 * i)).take 32)).landFold id target data is

/-- A delivery to a target: its bytes count at the barrier, with ERR and FOLD_ORPHAN if there is a reason (R263). -/
def State.deliver (s : State) (o : FoldOperand) (target bar reason : Nat) : State :=
  let n := o.data.length
  let r := s.landFold o.id target o.data (List.range (n / 32))
  let t := r.1.handOn (· == .folded o.id) (.counted bar)
  let why := if r.2 then 3 else reason
  if why = 0 then t.tbLand bar n o.sender
  else
    (t.tbCreditErr bar n o.sender).interrupt (s.tbOwnerCore bar) 6 0 (o.key.setWidth 64)
      (word (why * 2 ^ 60 + target % 2 ^ 48)) none (some (.folded o.id))

/-- FOLD_RESULT_DELIVER (R261, R262): along the first entry of the route, as a packet to another cluster (R373). -/
def execFoldResultDeliver (fold job : Nat) (s : State) : Out :=
  match (s.foldAt fold).jobs.find? fun j => j.id == job with
  | none => notNow "FOLD_RESULT_DELIVER"
  | some j =>
    let t := s.modFold fold fun f => { f with jobs := f.jobs.filter fun i => i.id != job }
    match j.operand.route with
    | .deliver target bar :: _ =>
      let cl := (meshOfKey target).cluster
      if cl = fold then .next (t.deliver j.operand target bar j.reason)
      else if !s.canInject fold cl 17 .fold then notNow "FOLD_RESULT_DELIVER"
      else .next (t.inject fold cl 17 .fold false (s.foldAt fold).pid (.result j.operand target bar j.reason))
    | .chain k :: rest =>
      let cl := s.foldOf j.operand.sender k
      if !s.canInject fold cl 17 .fold then notNow "FOLD_RESULT_DELIVER"
      else
        .next (t.inject fold cl 17 .fold false (s.foldAt fold).pid
          (.operand cl { j.operand with key := k, route := rest, chained := true }))
    | [] => .next t

/-- The orphan timeout of a code in tenths of a cycle of 1.8 GHz (Table 9-11). -/
def orphanTenths (oto : Nat) : Nat := if 14 ≤ oto then 1800000 else 18432 * 2 ^ oto

/-- FOLD_ORPHAN_TIMEOUT (R263): an operand held past its timeout leaves alone (log 67, DESIGN CHOICE, safe). -/
def execFoldOrphanTimeout (fold entry : Nat) (s : State) : Out :=
  let e := (s.foldAt fold).entry entry
  match e.held with
  | some (o, t0, oto) =>
    if orphanTenths oto ≤ 10 * (s.clusterClock fold - t0) then
      .next ((s.modFold fold fun f => f.put entry { e with held := none }).alone fold o 1
        (some (t0 + (orphanTenths oto + 18432) / 10)))
    else notNow "FOLD_ORPHAN_TIMEOUT"
  | none => notNow "FOLD_ORPHAN_TIMEOUT"

end Sys2Proof.Machine
end

