-- ==== Sys2Proof/Machine/Network.lean ====
section
/-! DEFINITION. The torus and the die bridges (R372 to R383): where a packet may go next, the candidates of an output
its grants, and the flits that its links carry in a cycle. -/

namespace Sys2Proof.Machine

/-- Die, row and column of a router. -/
def dieXY (r : Nat) : Nat × Nat × Nat := (clusterDie r, rowOf r, colOf r)

def routerAt (d y x : Nat) : Nat := d * 256 + y % 16 * 16 + x % 16

/-- Slots of a channel (R375). -/
def Channel.slots : Channel → Nat
  | .pool => 12
  | .e0 | .e1 => 4

def Channel.index : Channel → Nat
  | .pool => 0
  | .e0 => 1
  | .e1 => 2

/-- The flits that each place of a packet holds: those that have entered it and have not gone on. -/
def flitsAt : Nat → List Hop → List (PktPlace × Nat)
  | _, [] => []
  | gone, h :: rest => (h.place, h.got - gone) :: flitsAt h.got rest

/-- Flits of a class that a channel holds. -/
def State.occupied (s : State) (place : PktPlace) (cls : MsgClass) : Nat :=
  ((s.net.filter fun p => p.cls == cls).flatMap fun p =>
    ((flitsAt 0 p.path).filter fun e => e.1 == place).map Prod.snd).sum

/-- The number of a channel and class in State.freed. -/
def channelKey (router input : Nat) (ch : Channel) (cls : MsgClass) : Nat :=
  ((router * 8 + input) * 4 + ch.index) * 4 + classCode cls

/-- How long after a slot is freed the upstream router counts it (R375). -/
def creditDelay : Nat := 2

/-- The free-slot count that the upstream router keeps for a channel (R375): less the flits sent, and a slot freed
rises it two cycles later. -/
def State.freeSlots (s : State) (router input : Nat) (ch : Channel) (cls : MsgClass) : Nat :=
  ch.slots - s.occupied (.channel router input ch) cls
    - (s.freed.filter fun e => e.1 == channelKey router input ch cls && decide (s.now < e.2 + creditDelay)).length

/-- Packets of a class whose heads are in a channel of an input, oldest first. -/
def State.inChannel (s : State) (router input : Nat) (ch : Channel) (cls : MsgClass) : List Packet :=
  s.net.filter fun p => p.cls == cls && p.place == .channel router input ch

/-- A packet of a class whose head has left a place that holds the rest of it. -/
def State.leaving (s : State) (place : PktPlace) (cls : MsgClass) : Bool :=
  s.net.any fun p => p.cls == cls && p.path.tail.any fun h => h.place == place

/-- The neighbour over a torus port, the input it enters there (0 W, 1 N, 2 E, 3 S) and whether the link is the
dateline of its dimension (R377). -/
def neighbour (r : Nat) (out : RouterPort) : Nat × Nat × Bool :=
  let (d, y, x) := dieXY r
  match out with
  | .east => (routerAt d y (x + 1), 0, x == 15)
  | .west => (routerAt d y (x + 15), 2, x == 0)
  | .south => (routerAt d (y + 1) x, 1, y == 15)
  | .north => (routerAt d (y + 15) x, 3, y == 0)
  | _ => (r, 4, false)

/-- A move in x. -/
def horizontal : RouterPort → Bool
  | .east | .west => true
  | _ => false

/-- Minimal directions from a router to the target's place on this die, in the order of the tie rule (R376). -/
def minimalDirs (r dst : Nat) : List RouterPort :=
  let dx := (colOf dst + 16 - colOf r) % 16
  let dy := (rowOf dst + 16 - rowOf r) % 16
  (if 1 ≤ dx ∧ dx ≤ 8 then [.east] else []) ++ (if 8 ≤ dx then [.west] else [])
    ++ (if 1 ≤ dy ∧ dy ≤ 8 then [.south] else []) ++ (if 8 ≤ dy then [.north] else [])

/-- The direction of dimension order: x first, the positive sense at a distance of 8 (R376). -/
def orderDir (r dst : Nat) : Option RouterPort := (minimalDirs r dst).head?

/-- What a packet at a router requests: an output and the channel beyond it. -/
structure Request where
  out : RouterPort
  ch : Channel
  deriving DecidableEq, Repr

/-- The escape channel that a packet enters over a link (R377). -/
def Packet.escapeChannel (p : Packet) (out : RouterPort) (wrap : Bool) : Channel :=
  if wrap || (if horizontal out then p.wx else p.wy) then .e1 else .e0

/-- The largest of some counts, the first of equals. -/
def bestDir : List (RouterPort × Nat) → Option (RouterPort × Nat)
  | [] => none
  | a :: rest =>
    match bestDir rest with
    | some b => if a.2 < b.2 then some b else some a
    | none => some a

/-- The agent that answers a request at its target with a packet; the home's link keeps its own answers, and a SENDR, a
matrix command and the write of a piece have none. -/
def PktBody.answerer : PktBody → Option Nat
  | .xmsg target .. => some (inCluster target)
  | .access _ _ _ a _ => some a
  | .fetch .. => some 16
  | _ => none

/-- A request that has been taken from the torus at a cluster, or is being taken, and whose answer an agent owes. -/
def Packet.owed (p : Packet) (cl agent : Nat) : Bool :=
  p.cls == .request && p.dst == cl && p.src != cl && p.body.answerer == some agent
    && p.path.any fun h => h.place == .eject cl

/-- A request leaves the torus only if its target can place the response in its injection queue, beside those that are owed
already (R373). -/
def State.roomToAnswer (s : State) (p : Packet) : Bool :=
  match (if p.cls = .request then p.body.answerer else none) with
  | none => true
  | some a => decide (s.waiting p.dst a .response + (s.net.filter fun q => q.owed p.dst a).length < 4)

/-- The request of a packet that waits at a router, and whether its channel has its threshold (R376, R383); a request is
ejected under R373. -/
def State.route (s : State) (p : Packet) (r : Nat) : Request × Bool :=
  match orderDir r p.dst with
  | none =>
    if clusterDie r = clusterDie p.dst then ({ out := .eject, ch := .pool }, s.roomToAnswer p)
    else ({ out := .bridge, ch := .pool }, true)
  | some dir =>
    let free (out : RouterPort) (ch : Channel) : Nat :=
      let n := neighbour r out
      s.freeSlots n.1 n.2.1 ch p.cls
    let pools := ((minimalDirs r p.dst).map fun o => (o, free o .pool)).filter fun e => decide (min p.nflit 12 ≤ e.2)
    match (if p.escape then none else bestDir pools) with
    | some (o, _) => ({ out := o, ch := .pool }, true)
    | none =>
      let ch := p.escapeChannel dir (neighbour r dir).2.2
      ({ out := dir, ch := ch }, decide (min p.nflit 4 ≤ free dir ch))

/-- Number of a source of candidates: 0 injection, then pool, E0 and E1 of each input. -/
def sourceIndex (input : Nat) (ch : Channel) : Nat := 1 + 3 * input + ch.index

/-- The key of an output's pointer. Output 7 is that of the agents of the injection queue. -/
def grantKey (router out : Nat) (cls : MsgClass) : Nat := router * 32 + out * 4 + classCode cls

/-- The key of a link's pointer over the classes. -/
def linkKey (router out : Nat) : Nat := router * 32 + out * 4 + 3

def portIndex : RouterPort → Nat
  | .north => 0
  | .east => 1
  | .south => 2
  | .west => 3
  | .bridge => 4
  | .eject => 5

/-- A packet's head waits where it is and may ask for an output: its first flit is there, and the time of its entry or
crossing has passed (R379, R383). -/
def State.waits (s : State) (p : Packet) : Bool :=
  (match p.path with | h :: _ => decide (1 ≤ h.got) | [] => false) && decide (p.ready ≤ s.now)

/-- The head of the injection queue of a class: round-robin over the agents, once the packet before it has left (R380). -/
def State.injectHead (s : State) (r : Nat) (cls : MsgClass) : Option Packet :=
  let last := amGet 18 s.grants (grantKey r 7 cls)
  if s.leaving (.inject r) cls then none
  else
    (List.range 19).findSome? fun i =>
      s.net.find? fun p => p.cls == cls && p.place == .inject r && p.agent == (last + 1 + i) % 19 && s.waits p

/-- A packet that asks for an output. -/
def State.asks_ (s : State) (r : Nat) (out : RouterPort) (p : Packet) : Bool :=
  s.waits p && (s.route p r).1.out == out

/-- Candidates of an output for a class by source (R378): the head of the injection queue, the oldest packet of a pool
that requests it, the head of each other channel, which keeps the order of its packets. -/
def State.candidates (s : State) (r : Nat) (out : RouterPort) (cls : MsgClass) : List (Nat × Packet) :=
  ((s.injectHead r cls).toList.filter (s.asks_ r out)).map (fun p => (0, p)) ++
    (List.range 5).flatMap fun input =>
      [Channel.pool, .e0, .e1].filterMap fun ch =>
        let ps := s.inChannel r input ch cls
        let c :=
          if ch = .pool ∧ input ≠ 4 then ps.find? (s.asks_ r out)
          else if s.leaving (.channel r input ch) cls then none
          else ps.head?.filter (s.asks_ r out)
        c.map fun p => (sourceIndex input ch, p)

/-- The winner: round-robin over the sources after the last winner, those without their threshold passed over. -/
def State.winner (s : State) (r : Nat) (out : RouterPort) (cls : MsgClass) : Option (Nat × Packet) :=
  let last := amGet 15 s.grants (grantKey r (portIndex out) cls)
  let cs := (s.candidates r out cls).filter fun c => (s.route c.2 r).2
  (List.range 16).findSome? fun i => cs.find? fun c => c.1 == (last + 1 + i) % 16

/-- The pairs of neighbours of a list. -/
def neighbours {α : Type} : List α → List (α × α)
  | a :: b :: rest => (a, b) :: neighbours (b :: rest)
  | _ => []

/-- A packet holds an output for its class until its last flit has crossed (R376). -/
def State.outputHeld (s : State) (r : Nat) (out : RouterPort) (cls : MsgClass) : Bool :=
  s.net.any fun p => p.cls == cls && (neighbours p.path).any fun e => e.2.place.router == r && e.1.via == out

/-- The die next on the way: columns before rows of the 2 × 8 module grid (R383), die d lying in row d / 8, column
d mod 8 (log 26, DESIGN CHOICE, safe). -/
def nextDie (d target : Nat) : Nat :=
  if d % 8 < target % 8 then d + 1
  else if target % 8 < d % 8 then d - 1
  else if d / 8 < target / 8 then d + 8 else d - 8

/-- Cycles that a crossing between dies adds (R383). -/
def bridgeDelay : Nat := 6

/-- A packet's head turns to the next place, which none of its flits has entered. -/
def Packet.toward (p : Packet) (out : RouterPort) (place : PktPlace) : Packet :=
  { p with path := { place := place, via := out, got := 0 } :: p.path }

/-- A packet after its grant (R376, R377, R383). -/
def Packet.moved (p : Packet) (now r : Nat) (q : Request) : Packet :=
  match q.out with
  | .eject => p.toward .eject (.eject r)
  | .bridge =>
    { p.toward .bridge (.channel (routerAt (nextDie (clusterDie r) (clusterDie p.dst)) (rowOf r) (colOf r)) 4 .pool) with
      wx := false, wy := false, escape := p.ordered, ready := now + bridgeDelay }
  | o =>
    let n := neighbour r o
    { p.toward o (.channel n.1 n.2.1 q.ch) with
      escape := p.escape || q.ch != .pool,
      wx := p.wx || (horizontal o && n.2.2), wy := p.wy || (!horizontal o && n.2.2) }

/-- An output that is free grants a candidate (R378). -/
def State.grantOut (s : State) (router : Nat) (out : RouterPort) (cls : MsgClass) : Option State :=
  if s.outputHeld router out cls then none
  else
    match s.winner router out cls with
    | none => none
    | some (src, p) =>
      let g := amSet s.grants (grantKey router (portIndex out) cls) src
      some { s with
        net := (s.net.filter fun x => x.id != p.id) ++ [p.moved s.now router (s.route p router).1],
        grants := if src = 0 then amSet g (grantKey router 7 cls) p.agent else g }

/-- ROUTER_OUTPUT_GRANT (R378): the packet holds the output from now on. -/
def execRouterOutputGrant (router : Nat) (out : RouterPort) (cls : MsgClass) (s : State) : Out :=
  match s.grantOut router out cls with
  | some t => .next t
  | none => notNow "ROUTER_OUTPUT_GRANT"

-- A cycle of the network.

/-- The outputs that packets ask for: router, output, class. -/
def State.requests (s : State) : List (Nat × RouterPort × MsgClass) :=
  (s.net.filterMap fun p =>
    let r := p.place.router
    if p.home || !s.waits p || p.place == .eject r then none else some (r, (s.route p r).1.out, p.cls)).dedup

/-- Every output that is free grants a candidate (R378). -/
def State.grantOutputs (s : State) : State :=
  s.requests.foldl (fun t q => (t.grantOut q.1 q.2.1 q.2.2).getD t) s

/-- A flit that may cross in this cycle: the packet, the hop it goes to (0 the head's), the router and output it leaves by,
the place it leaves, its class. -/
structure Flow where
  id : Nat
  hop : Nat
  router : Nat
  out : RouterPort
  left : PktPlace
  cls : MsgClass
  deriving DecidableEq, Repr

/-- A place that a flit may enter: a torus channel only under a count above 0 (R375). -/
def State.enters (s : State) (place : PktPlace) (cls : MsgClass) : Bool :=
  match place with
  | .channel r i ch => i == 4 || decide (1 ≤ s.freeSlots r i ch cls)
  | .inject _ | .eject _ => true

/-- The flits of a packet that may cross, by hop. -/
def State.flowsOf (s : State) (p : Packet) (hop : Nat) : List Hop → List Flow
  | a :: b :: rest =>
    (if a.got < b.got ∧ s.enters a.place p.cls = true then
      [{ id := p.id, hop := hop, router := b.place.router, out := a.via, left := b.place, cls := p.cls }] else [])
      ++ s.flowsOf p (hop + 1) (b :: rest)
  | _ => []

def State.flows (s : State) : List Flow := s.net.flatMap fun p => s.flowsOf p 0 p.path

/-- A link serves the class whose turn it is among those with a flit ready (R378); the ejection port serves every class
(R380). -/
def State.served (s : State) (fs : List Flow) (f : Flow) : Bool :=
  f.out == .eject ||
    (let last := amGet 2 s.grants (linkKey f.router (portIndex f.out))
     let ready (c : Nat) : Bool := fs.any fun g => g.router == f.router && g.out == f.out && classCode g.cls == c
     (((List.range 3).map fun i => (last + 1 + i) % 3).find? ready) == some (classCode f.cls))

/-- A flit more in the hops that some flits cross to. -/
def crossed (hops : List Nat) : Nat → List Hop → List Hop
  | _, [] => []
  | i, h :: rest => (if hops.contains i then { h with got := h.got + 1 } else h) :: crossed hops (i + 1) rest

/-- The places behind one that every flit has entered are left. -/
def trim (n : Nat) : List Hop → List Hop
  | [] => []
  | h :: rest => if n ≤ h.got then [h] else h :: trim n rest

/-- A packet after the crossings of a cycle; one that its target now holds whole can be acted on after its ejection. -/
def Packet.flowed (p : Packet) (now : Nat) (hops : List Nat) : Packet :=
  if hops.isEmpty then p
  else
    let q := { p with path := trim p.nflit (crossed hops 0 p.path) }
    if q.home then { q with ready := now + ejectDelay } else q

/-- The flits of a cycle cross (R375, R378). -/
def State.flow (s : State) : State :=
  let fs := s.flows
  let go := fs.filter (s.served fs)
  { s with
    net := s.net.map fun p => p.flowed s.now ((go.filter fun f => f.id == p.id).map Flow.hop),
    grants := go.foldl (fun g f => if f.out = .eject then g else amSet g (linkKey f.router (portIndex f.out)) (classCode f.cls)) s.grants,
    freed := (s.freed.filter fun e => decide (s.now < e.2 + creditDelay)) ++ go.filterMap fun f =>
      match f.left with
      | .channel r i ch => some (channelKey r i ch f.cls, s.now)
      | .inject _ | .eject _ => none }

-- The ends of the networks.

/-- The context or the piece that a packet belongs to waits for it no more: its access has been undone (R102), or its
operation has been handed back. -/
def State.orphaned (s : State) (b : PktBody) : Bool :=
  match b with
  | .access c k i .. | .ack c k i _ => !(s.ctxAt c k).pending.any fun p => p.id == i
  | .fetch c e p _ | .fetched c e p _ | .landing c e p _ => !s.flies c e p
  | _ => false

/-- A packet that its target acts on as it is delivered, if it can (R373, R341): an answer, data that an engine reads or has
read, a request that goes on to its home, a result of a fold, and one that nothing waits for. -/
def State.takePacket (s : State) (p : Packet) : Option State :=
  let t := s.dropPacket p.id
  let known := p.pid == s.pidAt p.dst
  if s.orphaned p.body then some t
  else
    match p.body with
    | .msgAnswer c r =>
      some (match r with
        | some (val, xfer) => if known then t.interrupt c 9 0 val xfer none else t
        | none => t)
    | .home h r => t.homeArrives h r
    | .homeDone d => some (if known then t.takeAnswer d else t)
    | .fetch c e piece units =>
      if !known then some t
      else if !s.canInject p.dst p.src 16 .response then none
      else some (t.inject p.dst p.src 16 .response false p.pid
        (.fetched c e piece (units.map fun u => (8 * u, memBytes s.mem (8 * u) 8))))
    | .fetched c e piece got => some (if known then t.fetchServed c e piece got else t)
    | .result o target bar reason => some (if known then t.deliver o target bar reason else t)
    | _ => none

/-- Whatever can be taken is. -/
def State.takePackets (s : State) : State :=
  (s.net.filter fun p => (s.arrived p.id).isSome).foldl (fun t p => (t.takePacket p).getD t) s

/-- An engine's completion that has crossed to the dies enters the torus at the router of its home, if there is room (R373,
R380). -/
def State.offerAnswer (s : State) (home : Nat) : State :=
  match (s.base home).replies.find? fun d => d.2 == 0 with
  | none => s
  | some d =>
    match d.1.req.writer with
    | .engine core .. =>
      let r := s.homeRouter home
      if s.canInject r (clusterOf core) 16 .response then
        (s.modBase home fun b => { b with replies := b.replies.erase d }).inject r (clusterOf core) 16 .response false
          (s.reqPid d.1.req) (.homeDone d.1)
      else s
    | .host .. | .peer _ => s.modBase home fun b => { b with replies := b.replies.erase d }

/-- A body that its target acts on as it is delivered. -/
def PktBody.taken : PktBody → Bool
  | .msgAnswer .. | .home .. | .homeDone _ | .fetch .. | .fetched .. | .result .. => true
  | _ => false

/-- Something moves in the networks: a packet that is not whole at its target, one that its target takes as it comes, a packet
that is held, a completion that waits to enter the torus, a message that waits at an Ikirath port for a credit that is there. -/
def State.netBusy (s : State) : Bool :=
  (s.net.any fun p => !p.home || p.body.taken || s.orphaned p.body)
    || (s.clusters.any fun e => e.2.held.any fun h => match h with | .packet .. => true | _ => false)
    || (s.bases.any fun b => b.2.replies.any fun d => d.2 == 0)
    || s.modl.ikPorts.any fun p => p.2.goes.isSome

/-- A cycle of the networks. -/
def State.netCycle (s : State) : State :=
  let t := s.grantOutputs.flow.takePackets
  let u := (t.clusters.map Prod.fst).foldl (fun u cl => u.offerPacket cl) t
  let v := (u.bases.map Prod.fst).foldl (fun u h => u.offerAnswer h) u
  (v.modl.ikPorts.map Prod.fst).foldl (fun u p => u.sendPort p) v

end Sys2Proof.Machine
end

