-- ==== Sys2Proof/Machine/Lifecycle.lean ====
section
/-! DEFINITION. Launches and partitions: binding (R327 to R334), the end of a launch (R35, R326), pre-emption, save and
restore (R335 to R339), kill (R340) and retention (R406, R407). -/

namespace Sys2Proof.Machine

-- Parts of the state that belong to a shape.

/-- A key of on-chip memory in a cluster of a shape. Device memory has higher keys. -/
def Shape.holdsKey (p : Shape) (k : Nat) : Bool := decide (k < 2 ^ 64) && p.hasCluster (meshOfKey k).cluster

def Shape.holdsCore (p : Shape) (c : Nat) : Bool := p.hasCluster (clusterOf c)
def Shape.holdsQuad (p : Shape) (q : Nat) : Bool := p.hasCluster (q / 4)

/-- A quad keeps its operating point whatever its contents become. -/
def Quad.emptied (q : Quad) : Quad := { Quad.reset with op := q.op, opNext := q.opNext }

/-- A cluster without a partition. -/
def Cluster.emptied (u : Cluster) : Cluster := { Cluster.reset with retained := u.retained }

/-- The logic of a shape's clusters is emptied: contexts, units, engines, folds, rings and granule metadata. -/
def State.emptyShape (s : State) (p : Shape) : State :=
  { s with cores := s.cores.filter fun e => !p.holdsCore e.1,
           quads := s.quads.map fun e => if p.holdsQuad e.1 then (e.1, e.2.emptied) else e,
           clusters := s.clusters.map fun e => if p.hasCluster e.1 then (e.1, e.2.emptied) else e,
           races := s.races.filter fun r => !p.holdsKey r.granule, olds := s.olds.filter fun e => !p.holdsKey e.key,
           live := s.live.filter fun g => !p.holdsKey g,
           inflight := s.inflight.filter fun g => !p.holdsKey g.1 }

/-- The on-chip bytes of a shape become 0. -/
def State.zeroShape (s : State) (p : Shape) : State :=
  { s with mem := s.mem.filter fun c => !p.holdsKey c.1, eccBad := s.eccBad.filter fun w => !p.holdsKey w }

/-- The image that a swap or save takes of a shape (R337). -/
def State.imageOf (s : State) (p : Shape) : SaveImage :=
  { cores := s.cores.filter fun e => p.holdsCore e.1, quads := s.quads.filter fun e => p.holdsQuad e.1,
    clusters := s.clusters.filter fun e => p.hasCluster e.1, mem := s.mem.filter fun c => p.holdsKey c.1,
    races := s.races.filter fun r => p.holdsKey r.granule, live := s.live.filter p.holdsKey,
    inflight := s.inflight.filter fun g => p.holdsKey g.1 }

/-- Entries put at their keys. -/
def amPutAll {β : Type} (m : AMap β) : AMap β → AMap β
  | [] => m
  | (k, v) :: r => amPutAll (amSet m k v) r

/-- An image back in its clusters (R339). A quad keeps the operating point that it has now, and the cycles with work of the
period begin anew (R393). -/
def State.putImage (s : State) (i : SaveImage) : State :=
  { s with cores := amPutAll s.cores (i.cores.map fun (e : Nat × Core) => (e.1, { e.2 with work := 0 })),
           quads := amPutAll s.quads (i.quads.map fun (e : Nat × Quad) =>
             (e.1, { e.2 with op := (s.quad e.1).op, opNext := (s.quad e.1).opNext, unit := { e.2.unit with work := 0 } })),
           clusters := amPutAll s.clusters i.clusters,
           mem := i.mem.foldl (fun m c => memSet m c.1 c.2) s.mem,
           races := s.races ++ i.races, live := s.live ++ i.live, inflight := s.inflight ++ i.inflight }

/-- Changes a context of every core of a shape that has state. -/
def State.mapCtxs (s : State) (p : Shape) (f : Ctx → Ctx) : State :=
  { s with cores := s.cores.map fun (e : Nat × Core) =>
      if p.holdsCore e.1 then (e.1, { e.2 with ctxs := e.2.ctxs.map fun x => (x.1, f x.2) }) else e }

-- The end of a launch.

/-- Wilzia adds sectors of its reserve to a stack whose pool lacks what a write of the device needs (log 27, DESIGN CHOICE,
safe). -/
def State.lend (s : State) (home n : Nat) : State := s.modBase home fun b => { b with poolfree := max b.poolfree n }

/-- Bytes that the device writes for a launch within one block (R326), as the reserve draw's (log 27, DESIGN CHOICE, safe). A
page that does not serve them takes none, nor does a block that fails its check (R364, R365). -/
def State.deviceWrite (s : State) (p : Part) (va : BitVec 64) (bytes : List (BitVec 8)) : State :=
  match s.homeFor (s.fn p.fn).hrt va with
  | .error _ => s
  | .ok h =>
    let a := fld va 0 48
    if 40 ≤ h then
      if podPid p.pid then { s with mem := memPut s.mem (s.byteKey p.fn (s.fn p.fn).hrt va) bytes } else s
    else if (s.walk h p.fn 0#12 a true).isSome then s
    else
      match s.blockFail h p.fn a with
      | some e => s.checkFails e p.fn (a / 256)
      | none =>
        let t := if h < 32 then s.lend h 4 else s
        t.applyWrite h p.fn (a / 256) (.reserve p.fn) (bytes.mapIdx fun i b => (a % 256 + i, b, false))

/-- A launch's record and counter can be written: neither block holds a parked write or an earlier request (R344, R353). -/
def State.recordsReady (s : State) (p : Part) : Bool :=
  !s.readWaits p.fn (s.fn p.fn).hrt p.launch.recva && !s.readWaits p.fn (s.fn p.fn).hrt p.launch.cntva

/-- EXITMAX (R326): control contexts that parked count 0. -/
def State.exitMax (s : State) (p : Shape) : Nat :=
  (s.cores.filter fun e => p.holdsCore e.1).foldl (fun m e => max m ((amGet (Ctx.reset 0) e.2.ctxs 0).exitValue.toNat)) 0

/-- The 32-byte completion record (R326). -/
def State.completionRecord (s : State) (p : Part) (status : Nat) : List (BitVec 8) :=
  natBytes 8 (if status = 0 then s.exitMax p.shape else 0) ++ natBytes 4 p.parked ++ natBytes 4 status
    ++ natBytes 8 ((p.clock - p.startClock) / 1800) ++ natBytes 8 0

/-- PREEMPT and KILL packets whose named partitions have reached what they ask for end (Table 13-3). -/
def State.settleEnds (s : State) : State :=
  let reached (e : List Nat × Bool) : Bool := e.1.all fun i =>
    match amGet? s.parts i with
    | none => true
    | some p => !e.2 && (p.state == .savedShadow || p.state == .savedMemory || p.pending)
  s.modQueue 0 0 fun h =>
    { h with ends := h.ends.filter fun e => !reached e, irqs := h.irqs + (h.ends.filter reached).length }

/-- A pod PID that no partition of its pair has on this module any more is released to the root; the pair's next launch
needs a new allotment (R330). -/
def State.releasePid (s : State) (fn : Nat) (grp : BitVec 11) : State :=
  if s.parts.any fun e => e.2.fn == fn && e.2.launch.podgrp == grp then s
  else { s with modl := { s.modl with podPids := s.modl.podPids.filter fun a => !(a.2.1 == fn && a.2.2 == grp) } }

/-- A launch ends: its record and then its counter are written, its blocks pass to the reserve draw, its PID and
directory entry are free (R326, R354, R410). -/
def State.endLaunch (s : State) (id status : Nat) : State :=
  let p := s.part id
  let s := s.deviceWrite p p.launch.recva (s.completionRecord p status)
  let s := s.deviceWrite p p.launch.cntva (natBytes 8 p.launch.cntval.toNat)
  let used := ((List.range 64).map fun h => (s.account id h).used).sum
  let s := { s with
    blocks := s.blocks.map fun (e : Nat × BlockEntry) =>
      if e.2.holder = Holder.part id then (e.1, { e.2 with holder := .reserve p.fn }) else e,
    accounts := s.accounts.filter fun e => e.1 / 64 != id }
  let s := s.modFn p.fn fun f => { f with draw := f.draw + used }
  let s := { s with parts := amDel s.parts id }
  let s := if p.pending then s else s.dropKey p.keyEntry
  let s := { s with modl := { s.modl with podPeers := amDel s.modl.podPeers p.pid.toNat, podPhase := amDel s.modl.podPhase p.pid.toNat,
                                          podSent := s.modl.podSent.filter (· != p.pid.toNat) },
                    contexts := if p.pending then s.contexts else amDel s.contexts p.pid.toNat }
  let s := s.releasePid p.fn p.launch.podgrp
  (s.modQueue p.fn p.queue fun h => h.finish p.launch.irq).settleEnds

/-- The cores of a partition are quiescent at once (R35). -/
def State.coreQuiescent (s : State) (c : Nat) : Bool :=
  let k := s.core c
  (s.ctxAt c 0).finished && (k.ctxs.all fun e => e.1 == 0 || !e.2.live) && k.events.isEmpty
    && (List.range 16).all fun e => match s.op? c e with
      | none => true
      | some o => o.handed

/-- A unit holds a drain row: an MDRAIN offers its rows, or one that has been offered has not retired (R28, R251). -/
def MatUnit.holdsRow (u : MatUnit) : Bool :=
  !u.draining.isEmpty ||
    (u.started && match u.fifo with
      | m :: _ => (match m.kind with | .mdrain .. => true | _ => false)
      | [] => false)

/-- Nothing of the partition is on its way, held at a fold, or held for a full event queue or deque (R35). -/
def State.nothingHeld (s : State) (p : Part) : Bool :=
  (s.net.all fun k => k.pid != p.pid) &&
    p.shape.clusters.all fun cl =>
      let u := s.cluster cl
      u.held.isEmpty && u.fold.jobs.isEmpty && (u.fold.entries.all fun e => e.2.held.isNone)
        && (List.range 4).all fun i => !(s.unit (4 * cl + i)).holdsRow

/-- The compute-die rails are present (Table 16-2). -/
def State.railsOn (s : State) : Bool := s.modl.emergency != .tripped && s.modl.emergency != .refresh

/-- LAUNCH_END (R35): also from pre-empting, while the partition has not halted (log 69, DEDUCED, unsafe). -/
def execLaunchEnd (part : Nat) (s : State) : Out :=
  let p := s.part part
  if (p.state = .running ∨ p.state = .preempting) ∧ p.halted = false ∧ (p.shape.coreList.all s.coreQuiescent)
      ∧ s.nothingHeld p ∧ s.railsOn ∧ s.recordsReady p then
    .next ((s.endLaunch part 0).emptyShape p.shape)
  else notNow "LAUNCH_END"

-- Eligibility and binding.

/-- Clusters of bound partitions. -/
def State.heldCluster (s : State) (cl : Nat) : Bool := (s.partOf cl).isSome

/-- Every cluster of a shape is free of bound partitions. -/
def State.shapeFree (s : State) (p : Shape) : Bool := p.clusters.all fun cl => !s.heldCluster cl

/-- Dies without a bound partition. -/
def State.emptyDies (s : State) : Nat :=
  ((List.range 16).filter fun d => s.parts.all fun e => !(e.2.state.bound && e.2.dieMask.toNat.testBit d)).length

/-- The launch would fit the module now (R334). -/
def State.fitsNow (s : State) (l : LaunchFields) : Bool :=
  if l.kind1 then decide (l.ndm1 + 1 ≤ s.emptyDies)
  else
    (List.range 16).any fun d => (List.range (16 - l.hm1)).any fun y => (List.range (16 - l.wm1)).any fun x =>
      s.shapeFree { mask := 2 ^ d, h := l.hm1 + 1, w := l.wm1 + 1, y0 := y, x0 := x }

/-- A partition saved in shadow or memory. -/
def PartState.saved (p : PartState) : Bool := p == .savedShadow || p == .savedMemory

/-- A pending launch or saved partition that may be served: not held by a PREEMPT packet (R323). -/
def Part.eligible (p : Part) : Bool := (p.pending || p.state.saved) && !p.held

/-- Entry a comes before entry b in the order of R334. -/
def servedBefore (a b : Nat × Part) : Bool :=
  decide (a.2.launch.cls.toNat < b.2.launch.cls.toNat) || (a.2.launch.cls == b.2.launch.cls && decide (a.1 < b.1))

/-- An earlier launch of its own queue is pending too, and must be bound first (R317). -/
def State.behindInQueue (s : State) (e : Nat × Part) : Bool :=
  e.2.pending && s.parts.any fun f =>
    f.2.eligible && f.2.pending && f.2.fn == e.2.fn && f.2.queue == e.2.queue && decide (f.1 < e.1)

/-- 10 ms in cycles of 1.8 GHz. -/
def capCycles : Nat := 18000000

/-- An entry has waited 10 ms (R334). -/
def State.pastCap (s : State) (p : Part) : Bool := p.capped || decide (p.accepted + capCycles ≤ s.now)

/-- A launch past its cap that waits behind a pending entry in the entry's own queue (R317). -/
def State.waitsBehind (s : State) (e f : Nat × Part) : Bool :=
  e.2.pending && f.2.eligible && f.2.pending && f.2.fn == e.2.fn && f.2.queue == e.2.queue && decide (e.1 < f.1)
    && s.pastCap f.2

/-- The entry whose place an entry takes in the order of R334: its own, or that of a launch past its cap that must wait for
it. -/
def State.stand (s : State) (e : Nat × Part) : Nat × Part :=
  (s.parts.filter (s.waitsBehind e)).foldl (fun b f => if servedBefore f b then f else b) e

/-- Nothing that comes before an entry keeps it from being served: an earlier launch of its own queue, an entry earlier
in the order of R334 that fits, or one past its cap. One that must itself wait for an earlier launch of its queue
holds back nothing itself: past its cap, the launch ahead of it does in its place (R317, R334; log 73, DEDUCED, unsafe). -/
def State.mayServe (s : State) (id : Nat) : Bool :=
  let me := (id, s.part id)
  !s.behindInQueue me && s.parts.all fun e =>
    !e.2.eligible || e.1 == id || !servedBefore (s.stand e) (s.stand me) || s.behindInQueue e
      || !(s.pastCap e.2 || s.parts.any (s.waitsBehind e)
        || (if e.2.pending then s.fitsNow e.2.launch else s.shapeFree e.2.shape))

/-- An address in each page of an image. -/
def imagePages (va : BitVec 64) (len : Nat) : List (BitVec 64) :=
  if len = 0 then []
  else
    let a := va.toNat
    (List.range ((a + len - 1) / 65536 - a / 65536 + 1)).map fun i => word ((a / 65536 + i) * 65536)

/-- Whether a page of an image is outside a function's home ranges or not present: no device VA, without a home, or not
mapped (R47, R319); of a page of another module this module cannot tell. -/
def State.pageMissing (s : State) (fn : Nat) (va : BitVec 64) : Option Bool :=
  if !bitOf va 63 || fld va 54 9 != 0 then some true
  else
    match s.homeFor (s.fn fn).hrt va with
    | .error .perm => some true
    | .error _ => none
    | .ok h => if 40 ≤ h then none else some !s.mappedAt h fn (fld va 0 48)

/-- What Wilzia finds of the pages of a launch's images. -/
def State.pagesFound (s : State) (p : Part) : List (Option Bool) :=
  let l := p.launch
  (imagePages l.codebase l.codelen ++ imagePages l.limg l.llen ++ imagePages l.simg l.slen).map (s.pageMissing p.fn)

/-- Wilzia refuses a launch (R319): its function is not enabled, or a page of an image is outside the function's home
ranges or not present; what another module answers of its pages is free (log 12, DESIGN CHOICE, safe). Every shape that
passes the I/O die's check fits an empty module. -/
def State.refused (s : State) (p : Part) : Bool :=
  !(s.fn p.fn).enabled || (s.pagesFound p).contains (some true)
    || ((s.pagesFound p).contains none && Config.freeNat s.fresh % 2 == 1)

/-- Wilzia's placement suits the launch (R21, R23). -/
def placed (l : LaunchFields) (c : BindChoice) : Bool :=
  let p := shapeOf c.dieMask c.rect
  if l.kind1 then p.dies.length == l.ndm1 + 1 && c.rect == 0xFF00#16
  else p.dies.length == 1 && p.h == l.hm1 + 1 && p.w == l.wm1 + 1 && decide (p.y0 + p.h ≤ 16) && decide (p.x0 + p.w ≤ 16)

/-- The PID suits the launch and no other partition has it (R329, R330). -/
def State.pidOk (s : State) (p : Part) (pid : BitVec 12) : Bool :=
  (s.parts.all fun e => e.2.pending || e.2.pid != pid) && pid != 0#12
    && (if p.launch.podgrp = 0#11 then decide (pid.toNat < 2048) else s.modl.podPids.contains (pid, p.fn, p.launch.podgrp))

/-- Partitions of a function that are bound or saved (R409). -/
def State.boundOf (s : State) (fn : Nat) : List Part :=
  (s.parts.filter fun e => e.2.fn == fn && !e.2.pending).map Prod.snd

/-- Every die of a placement has a free record among the 32 of its slot table (R328). -/
def State.recordsFree (s : State) (p : Shape) : Bool :=
  p.dies.all fun d => decide ((s.parts.filter fun e => !e.2.pending && e.2.dieMask.toNat.testBit d).length < 32)

/-- The lowest directory entry that no partition of a function has. -/
def State.freeSlot_ (s : State) (fn : Nat) : Nat :=
  ((List.range 16).find? fun n => (s.boundOf fn).all fun p => p.slot != n).getD 0

/-- PSHAPE (Table 1-5). -/
def pshapeOf (c : BindChoice) : BitVec 64 :=
  word (c.pid.toNat * 2 ^ 32 + c.dieMask.toNat * 2 ^ 16 + c.rect.toNat)

/-- A core's registers at bind (R331 step 2, R52). -/
def bindCore (c : BindChoice) (tvec : BitVec 64) : Core :=
  { Core.reset with
    pshape := pshapeOf c, srseed := c.seed, capkey := word (2 ^ 63 + c.key.toNat), tvec := tvec,
    prgn := (Core.reset.prgn.set 0 0x8300000003000000#64).set 1 0xC300000080000000#64 }

/-- Share of a quota on a stack; Wilzia splits it evenly (log 29, DESIGN CHOICE, unsafe). -/
def shareOf (quota home : Nat) : Nat := quota / 32 + (if home < quota % 32 then 1 else 0)

/-- An image of a function, and the blocks of it that fail their check: zeros stand for them (log 99, DEDUCED, unsafe). -/
def State.imageBytes (s : State) (fn : Nat) (va : BitVec 64) (len : Nat) : List (BitVec 8) :=
  s.deviceBytes fn (s.fn fn).hrt (fld va 0 48) len

/-- Blocks of an image that fail are reported to Wilzia (R364). -/
def State.imageFails (s : State) (fn : Nat) (va : BitVec 64) (len : Nat) : State :=
  let a := fld va 0 48
  (List.range ((a % 256 + len + 255) / 256)).foldl (fun t i =>
    let b := a / 256 + i
    match s.homeFor (s.fn fn).hrt (word (fld va 48 16 * 2 ^ 48 + 256 * b)) with
    | .ok h => if 40 ≤ h then t else ((s.blockFail h fn (256 * b)).map fun e => t.checkFails e fn b).getD t
    | .error _ => t) s

/-- A write is parked, or an earlier request waits, for a block of a launch's images (R344, R353). -/
def State.imagesWait (s : State) (p : Part) : Bool :=
  let l := p.launch
  let inside (va : BitVec 64) (len b : Nat) : Bool :=
    len != 0 && decide (fld va 0 48 / 256 ≤ b ∧ b ≤ (fld va 0 48 + len - 1) / 256)
  s.bases.any fun h => (h.2.parked.map ParkedWrite.req ++ h.2.requests).any fun r =>
    r.fn == p.fn && r.blocks.any fun b => inside l.limg l.llen b || inside l.simg l.slen b

/-- The images in every core and cluster (R125, R331 step 1). -/
def State.loadImages (s : State) (p : Part) : State :=
  let l := p.launch
  let loc := s.imageBytes p.fn l.limg l.llen
  let spad := s.imageBytes p.fn l.simg l.slen
  let t := (s.imageFails p.fn l.limg l.llen).imageFails p.fn l.simg l.slen
  { t with mem := p.shape.clusters.foldl (fun m cl =>
      memPut ((List.range 16).foldl (fun m i => memPut m (Mesh.key { cluster := cl, unit := 1 + i, off := 0 }) loc) m)
        (Mesh.key { cluster := cl, unit := 17, off := 0 }) spad) s.mem }

/-- The clusters of a partition as its bind sets them (R331 steps 1 to 3). -/
def State.setUp (s : State) (p : Part) (c : BindChoice) : State :=
  let t := ((s.emptyShape p.shape).zeroShape p.shape).loadImages p
  let t := p.shape.coreList.foldl (fun t k => t.setCore k (bindCore c p.tvec)) t
  let t := (p.shape.clusters.flatMap fun cl => (List.range 4).map fun i => cl * 4 + i).foldl
    (fun t q => t.modQuad q fun d => { d.emptied with unit := { MatUnit.zero with key := c.key } }) t
  p.shape.clusters.foldl
    (fun t cl => t.setCluster cl { Cluster.reset with fold := { Fold.reset with pid := c.pid } }) t

/-- BIND (R331): Wilzia's placement of a pending launch, or its refusal (R319). -/
def execBind (launch : Nat) (choice : BindChoice) (s : State) : Out :=
  match amGet? s.parts launch with
  | none => notNow "BIND"
  | some p =>
    if !p.pending ∨ p.held ∨ s.modl.emergency ≠ .normal ∨ s.modl.stage ≠ 3 then notNow "BIND"
    else if s.refused p then
      (if s.recordsReady p then .next ({ s with fresh := s.fresh + 1 }.endLaunch launch 5) else notNow "BIND")
    else
      let shape := shapeOf choice.dieMask choice.rect
      if placed p.launch choice ∧ s.shapeFree shape ∧ s.pidOk p choice.pid ∧ (s.boundOf p.fn).length < 16
          ∧ s.recordsFree shape ∧ s.mayServe launch ∧ !s.imagesWait p ∧ (shape.clusters.all fun cl => !(s.cluster cl).retained) then
        let f := s.fn p.fn
        let q := { p with
          pending := false, state := .binding, pid := choice.pid, dieMask := choice.dieMask, rect := choice.rect,
          tvec := f.tvec, seed := choice.seed, key := choice.key, saveDir := choice.saveDir, hrt := f.hrt,
          slot := s.freeSlot_ p.fn, keyEntry := s.freeKey, capped := false }
        let t := { s with fresh := s.fresh + 1, contexts := amSet s.contexts choice.pid.toNat (rootLoc p.fn) }.residentTrap p.fn
        let t := ((t.loadKey s.freeKey).setPart launch q).setUp q choice
        let t := (List.range 32).foldl (fun t h =>
          t.modAccount launch h fun _ => { Account.zero with qshare := shareOf f.quota h }) t
        .next (t.modFn p.fn fun g => { g with allowance := g.nextAllowance })
      else notNow "BIND"

/-- The control context's start state (Table 1-3), before its core starts. -/
def startCtx (l : LaunchFields) (index : Nat) (prgn : Vector (BitVec 64) 8) : Ctx :=
  let x := ((Ctx.reset 0).setX 10#5 l.argva).setX 11#5 (word index)
  { x.setX 2#5 0x6000#64 with pc := l.entry, starting := true, fetchPrgn := prgn }

/-- A partition that runs begins to stop (R336). -/
def Part.stop (p : Part) (toMemory : Bool) : Part :=
  { p with state := .preempting, halted := false, preemptHeld := false, toMemory := p.toMemory || toMemory }

/-- A partition that has become running stops again if a request was held for it (Table 13-10). -/
def Part.nowRunning (p : Part) (toMemory : Bool) : Part :=
  let q := { p with state := .running, halted := false, toMemory := false }
  if p.preemptHeld then q.stop toMemory else q

/-- The critical temperature sends every save to DRAM (R335, R404). -/
def State.saving (s : State) : Bool := s.modl.emergency == .saving

/-- BIND_COMPLETE (R331 step 4): every control context is to start, each by a move of its own (R25). -/
def execBindComplete (part : Nat) (s : State) : Out :=
  let p := s.part part
  if p.state = .binding ∧ s.railsOn then
    let t := p.shape.coreList.foldl (fun t c => t.modCore c fun k =>
      { k with ctxs := [(0, startCtx p.launch (p.shape.indexOf c) k.prgn)], cycleBase := 0, cycleAt := p.clock }) s
    .next (t.setPart part { p.nowRunning s.saving with startClock := p.clock })
  else notNow "BIND_COMPLETE"

/-- The stores that the clusters hold for a core: by context. -/
def State.heldStores (s : State) (core : Nat) : List (Nat × Nat × Pending) :=
  s.cores.flatMap fun c => c.2.ctxs.flatMap fun e =>
    (e.2.pending.filter fun p => p.held && !p.performed && clusterOf core == (meshOfKey p.acc.key).cluster
      && (meshOfKey p.acc.key).unit == 1 + inCluster core).map fun p => (c.1, e.1, p)

/-- The control context of a core starts, within 4,096 cycles of the first of its partition; the stores held for it
land before its first instruction (R25). -/
def State.startCore (s : State) (core : Nat) : Option State :=
  if (s.runs core || s.stopping core) && (s.ctxAt core 0).starting then
    let t := (s.heldStores core).foldl (fun t h =>
      match t.accessAt h.1 h.2.1 h.2.2.id with
      | some pkt =>
        let r := t.performPending h.1 h.2.1 h.2.2 pkt
        r.1.setPending h.1 h.2.1 r.2
      | none => t) s
    some (t.modCtxAt core 0 fun x => { x with starting := false, live := true })
  else none

/-- BIND_WAIT_CAP (R334). -/
def execBindWaitCap (launch : Nat) (s : State) : Out :=
  match amGet? s.parts launch with
  | some p =>
    if p.eligible ∧ p.capped = false ∧ p.accepted + capCycles ≤ s.now then
      .next (s.setPart launch { p with capped := true })
    else notNow "BIND_WAIT_CAP"
  | none => notNow "BIND_WAIT_CAP"

-- Pre-emption.

/-- Why Wilzia may write STATE 3 (R332, R323, R404). -/
def State.mayPreempt (s : State) (p : Part) (cause : PreemptCause) : Bool :=
  match cause with
  | .launch l =>
    match amGet? s.parts l with
    | some q => q.eligible && q.pending && decide (q.launch.cls.toNat < p.launch.cls.toNat)
    | none => false
  | .packet => p.held
  | .thermal => s.saving

/-- A pre-empt request reaches a partition: it stops, or the request is held until it runs (Table 13-10). -/
def Part.preempt (p : Part) (toMemory : Bool) : Part :=
  match p.state with
  | .running => p.stop toMemory
  | .binding | .restoring => { p with preemptHeld := true }
  | _ => p

/-- A partition of the directory, bound or saved or killed, to which Wilzia may send a request (R333). -/
def State.recorded? (s : State) (part : Nat) : Bool :=
  match amGet? s.parts part with
  | some p => !p.pending
  | none => false

/-- Parked writes of a partition leave every home: withdrawn to their engines, or discarded (R359). -/
def State.withdrawParked (s : State) (id : Nat) (resend : Bool) : State :=
  let mine (w : ParkedWrite) : Bool := w.req.ofEngine && w.req.part == some id
  let out := s.bases.flatMap fun b => b.2.parked.filter mine
  let t := { s with bases := s.bases.map fun (b : Nat × Stack) =>
    let left := b.2.asked.filter (· != some id)
    (b.1, ({ b.2 with parked := b.2.parked.filter fun w => !mine w, asked := left,
                      gleaner := if !b.2.asked.isEmpty && left.isEmpty then 1 else b.2.gleaner } : Stack).settled) }
  if resend then out.foldl (fun t w => t.unsent w.req) t else t

/-- PREEMPT_REQUEST (R336): a partition that runs begins to stop, and its parked writes are withdrawn (R359). In a state for
which Table 13-10 does not list it, it changes nothing (R335). -/
def execPreemptRequest (part : Nat) (cause : PreemptCause) (s : State) : Out :=
  let p := s.part part
  if s.recorded? part ∧ s.mayPreempt p cause then
    .next (if p.state = .running then (s.setPart part (p.preempt (cause == .thermal))).withdrawParked part true
      else if p.state = .binding ∨ p.state = .restoring then s.setPart part (p.preempt (cause == .thermal))
      else s)
  else notNow "PREEMPT_REQUEST"

/-- A context has stopped at an instruction boundary (R312): accesses acknowledged, the queue drained, and an ECALL at K
level answered (R308). -/
def Ctx.stopped (x : Ctx) : Bool :=
  x.pending.isEmpty && x.queue.isEmpty && (x.wait.map Wait.kind) != some .wilzia

def Core.stopped (k : Core) : Bool := k.ctxs.all fun e => e.2.stopped

/-- A context as it is saved: prefetched elements are discarded (R175). -/
def Ctx.halted (x : Ctx) : Ctx := x.dropAll

/-- Engines have no piece on its way, units no k-step under way, and no packet of the partition remains (R336, R238,
R255, R266). -/
def State.unitsStopped (s : State) (p : Part) : Bool :=
  (s.net.all fun k => k.pid != p.pid) &&
    (p.shape.clusters.all fun cl =>
      ((s.cluster cl).ops.all fun e => e.2.flying.isEmpty) &&
        (List.range 4).all fun i => (s.unit (4 * cl + i)).step.isNone)

/-- HALT_COMPLETE (R336): the timers stand still from now on. -/
def execHaltComplete (part : Nat) (s : State) : Out :=
  let p := s.part part
  if p.state = .preempting ∧ p.halted = false ∧ s.railsOn ∧ (p.shape.coreList.all fun c => (s.core c).stopped) ∧ s.unitsStopped p then
    .next (((s.settleCycles p.shape.holdsCore).mapCtxs p.shape Ctx.halted).setPart part
      { p with halted := true, toMemory := p.toMemory || s.saving })
  else notNow "HALT_COMPLETE"

/-- Another partition's image lies in the shadow of some cluster of a shape. -/
def State.shadowTaken (s : State) (p : Shape) : Bool :=
  p.clusters.any fun cl => s.parts.any fun e => e.2.state == .savedShadow && e.2.shape.hasCluster cl

/-- The context records of an image (R314): of every core the control context, and helpers 1 to 10. -/
def SaveImage.records (i : SaveImage) : List (Nat × Nat × List (BitVec 8)) :=
  i.cores.flatMap fun c => (List.range 11).map fun k => (c.1, k, (amGet (Ctx.reset k) c.2.ctxs k).record k)

/-- Sectors of a save area: those of its context records, and as many more as the rest of the state takes, which has no
layout (R314; log 28, DESIGN CHOICE, safe). -/
def areaSectors (records : List (Nat × Nat × List (BitVec 8))) (rest : Nat) : Nat :=
  (records.map fun r => (r.2.2.length + 63) / 64).sum + rest

/-- A partition is saved in DRAM: its area stands where Wilzia has put it, RAW under the partition's key and charged to
Wilzia's reserve pool (R338, R362), with every context record, and its directory entry is written VALID last. -/
def State.saveToMemory (s : State) (id : Nat) (image : SaveImage) : State :=
  let n := areaSectors image.records (Config.freeNat (s.fresh + 1))
  let p := s.part id
  { s with fresh := s.fresh + 2, modl := { s.modl with reserved := s.modl.reserved + n } }.setPart id
    { p with state := .savedMemory, image := none, saveValid := true,
             area := some { base := Config.freeWord s.fresh, len := word (64 * n), sectors := n,
                            key := amGet 0#256 s.modl.keys p.keyEntry, image := image, records := image.records } }

/-- The ciphertext of a 256-byte block of a save area's records, which are stored RAW (R362), and its MAC. Their counters
are of the save (log 28, DESIGN CHOICE, safe). -/
def SaveArea.cipherOf (a : SaveArea) (fn i : Nat) : List (BitVec 8) :=
  cipher a.key fn (a.base.toNat + 256 * i) 0 0 (((a.records.flatMap fun r => r.2.2).drop (256 * i)).take 256)
def SaveArea.macOf (a : SaveArea) (fn i : Nat) : BitVec 64 :=
  Config.mac a.key (a.cipherOf fn i) fn (a.base.toNat + 256 * i) 0 0 Encoding.raw.code

/-- What a restore reads back: the shadows, or the save area under the key that the partition's entry of the key table
still holds (R339, R362). -/
def State.savedImage (s : State) (p : Part) : Option SaveImage :=
  match p.area with
  | some a => if amGet 0#256 s.modl.keys p.keyEntry = a.key then some a.image else none
  | none => p.image

/-- A partition's save area goes back to Wilzia's reserve pool. -/
def State.freeArea (s : State) (p : Part) : State :=
  match p.area with
  | some a => { s with modl := { s.modl with reserved := s.modl.reserved - a.sectors } }
  | none => s

/-- The image of a halted partition leaves its clusters, for its shadows or for its area in DRAM. -/
def State.saveAway (s : State) (id : Nat) (toMemory : Bool) : State :=
  let p := s.part id
  let i := s.imageOf p.shape
  let t := if toMemory then s.saveToMemory id i
    else s.setPart id { p with state := .savedShadow, image := some i, saveValid := false }
  (t.emptyShape p.shape).settleEnds

/-- Every operand of a halted partition has reached its fold, and every result that was to be delivered has been: nothing of
it is in the networks or on its way out of a fold (R266). -/
def State.foldsSettled (s : State) (p : Part) : Bool :=
  (s.net.all fun k => k.pid != p.pid) && p.shape.clusters.all fun cl => (s.cluster cl).fold.jobs.isEmpty

/-- SWAP_COMPLETE (R337): only if the shadow of every cluster is free. -/
def execSwapComplete (part : Nat) (s : State) : Out :=
  let p := s.part part
  if p.state = .preempting ∧ p.halted ∧ s.foldsSettled p ∧ p.toMemory = false ∧ s.saving = false ∧ s.railsOn
      ∧ s.shadowTaken p.shape = false then
    .next (s.saveAway part false)
  else notNow "SWAP_COMPLETE"

/-- Save areas are written one at a time in SAVING, by class and acceptance (R404). -/
def State.saveTurn (s : State) (id : Nat) : Bool :=
  !s.saving || s.parts.all fun e =>
    e.1 == id || !(e.2.state.bound || e.2.state == .savedShadow) || !servedBefore e (id, s.part id)

/-- SAVE_COMPLETE (R338): the directory entry is written VALID. A shadow is read once its clusters have left retention with
their check (R407). -/
def execSaveComplete (part : Nat) (s : State) : Out :=
  let p := s.part part
  if !s.saveTurn part ∨ !s.railsOn then notNow "SAVE_COMPLETE"
  else if p.state = .preempting ∧ p.halted ∧ s.foldsSettled p ∧ (p.toMemory ∨ s.saving ∨ s.shadowTaken p.shape) then
    .next (s.saveAway part true)
  else if p.state = .savedShadow ∧ (p.toMemory ∨ s.saving) ∧ (p.shape.clusters.all fun cl => !(s.cluster cl).retained) then
    match p.image with
    | some i => .next (s.saveToMemory part i).settleEnds
    | none => notNow "SAVE_COMPLETE"
  else notNow "SAVE_COMPLETE"

/-- EVICT (R335). -/
def execEvict (part : Nat) (s : State) : Out :=
  let p := s.part part
  if s.recorded? part ∧ s.railsOn then
    .next (if p.state = .savedShadow then s.setPart part { p with toMemory := true } else s)
  else notNow "EVICT"

/-- RESTORE_REQUEST (R339, R334): onto the original clusters. It changes nothing of a partition that is not saved, whose
shadow is being evicted, or whose clusters are not free (R335). -/
def execRestoreRequest (part : Nat) (s : State) : Out :=
  let p := s.part part
  if s.recorded? part && (!p.state.saved || (p.state == .savedShadow && p.toMemory) || !s.shapeFree p.shape) then .next s
  else if p.state.saved ∧ (p.state = .savedMemory → p.saveValid) ∧ p.eligible ∧ s.modl.emergency = .normal ∧ s.mayServe part
      ∧ (p.shape.clusters.all fun cl => !(s.cluster cl).retained) then
    .next (s.setPart part { p with state := .restoring, capped := false })
  else notNow "RESTORE_REQUEST"

/-- A context after a restore (R312): an active repetition fetches its body anew, every port prefetches again (Table
12-11), and a PTOUCH asks again. -/
def Ctx.restored (x : Ctx) : Ctx :=
  { x with ports := x.ports.map fun p => { p with held := false },
           refetch := x.refetch || (bitOf x.lstat 12 && !x.latheHeld),
           wait := x.wait.map fun w => match w.kind with
             | .ptouch m => { w with kind := .ptouch (m % 4 + 4) }
             | _ => w }

/-- A partition whose image is lost is killed without a flood (R339, R405, R407). -/
def Part.lost (p : Part) (status : Nat) : Part :=
  { p with state := .killed, status := status, image := .none, area := .none, saveValid := false, sweeping := [],
           preemptHeld := false, halted := true }

/-- RESTORE_DONE (R339). -/
def execRestoreDone (part : Nat) (intact : Bool) (s : State) : Out :=
  let p := s.part part
  if p.state ≠ .restoring ∨ !s.railsOn then notNow "RESTORE_DONE"
  else
    match intact, s.savedImage p with
    | true, some i =>
      let t := (((s.freeArea p).emptyShape p.shape).zeroShape p.shape).putImage i
      .next ((t.setPart part { p.nowRunning s.saving with image := .none, area := .none, saveValid := false }).mapCtxs p.shape Ctx.restored)
    | _, _ => .next ((s.freeArea p).setPart part (p.lost 2))

-- Kill.

/-- Requests of a partition that have not reached their homes are discarded (R340). -/
def State.dropComing (s : State) (id : Nat) : State :=
  { s with bases := s.bases.map fun (b : Nat × Stack) =>
      (b.1, { b.2 with coming := b.2.coming.filter fun r => !(r.1.ofEngine && r.1.part == some id) }),
           modl := { s.modl with ikPorts := s.modl.ikPorts.map fun (e : Nat × IkPort) =>
             (e.1, { e.2 with out := e.2.out.filter fun m =>
               match m.2 with | .request _ r => !(r.ofEngine && r.part == some id) | _ => true }) } }

/-- The routers and bridges of a partition's dies discard its packets, from the flood on (R340). -/
def State.sweepPackets (s : State) (p : Part) : State :=
  { s with net := s.net.filter fun k =>
      !(k.pid == p.pid && k.path.any fun h => p.dieMask.toNat.testBit (clusterDie h.place.router)) }

/-- A kill (R340): at once in every state but unbound and killed; a bound partition's dies are swept, its save area
becomes unreadable with its key. -/
def State.kill (s : State) (id status : Nat) : State :=
  let p := s.part id
  if p.state.bound then
    let t := ((((s.freeArea p).withdrawParked id false).dropComing id).emptyShape p.shape).sweepPackets p
    t.setPart id { p with state := .killed, status := status, image := .none, area := .none, saveValid := false,
                          preemptHeld := false, killedAt := s.now, halted := p.halted || p.state == .binding,
                          sweeping := p.shape.dies.flatMap fun d => (List.range 256).map fun i => d * 256 + i }
  else if p.state.saved then (s.freeArea p).setPart id (p.lost status)
  else s

/-- KILL_REQUEST (R340). It changes nothing of a partition that is killed already (R335). -/
def execKillRequest (part : Nat) (s : State) : Out :=
  if s.recorded? part then .next (s.kill part 1) else notNow "KILL_REQUEST"

/-- A sweep lasts 2,048 cycles (R340). -/
def sweepCycles : Nat := 2048

/-- KILL_SWEEP_END (R340): the sweep of a router has ended. While it lasted the router discarded every packet of the
partition; none has been sent since the flood, which reaches every router of its dies in one step (log 74, DESIGN
CHOICE, safe). -/
def execKillSweepEnd (part cluster : Nat) (s : State) : Out :=
  let p := s.part part
  if p.state = .killed ∧ p.sweeping.contains cluster ∧ p.killedAt + sweepCycles ≤ s.now then
    .next ((s.sweepPackets p).setPart part { p with sweeping := p.sweeping.filter (· != cluster) })
  else notNow "KILL_SWEEP_END"

/-- KILL_CONFIRM (R340), once the record can be written. The record is not written while the stacks are in self-refresh (Table 16-2). -/
def execKillConfirm (part : Nat) (s : State) : Out :=
  let p := s.part part
  if p.state = .killed ∧ p.sweeping = [] ∧ s.railsOn ∧ s.recordsReady p then .next (s.endLaunch part p.status)
  else notNow "KILL_CONFIRM"

-- Retention.

/-- RETENTION_ENTRY (R406). -/
def execRetentionEntry (cluster : Nat) (s : State) : Out :=
  if s.heldCluster cluster ∨ (s.cluster cluster).retained ∨ !s.railsOn then notNow "RETENTION_ENTRY"
  else .next (s.modCluster cluster fun u => { u with retained := true })

/-- RETENTION_EXIT (R407): a parity failure kills the partition whose shadow image the cluster holds, and is otherwise
counted. -/
def execRetentionExit (cluster : Nat) (parityOk : Bool) (s : State) : Out :=
  if !(s.cluster cluster).retained then notNow "RETENTION_EXIT"
  else
    let t := s.modCluster cluster fun u => { u with retained := false }
    if parityOk then .next t
    else
      match t.parts.find? fun e => e.2.state == .savedShadow && e.2.shape.hasCluster cluster with
      | some e => .next (t.kill e.1 3)
      | none => .next { t with modl := { t.modl with parityErrors := t.modl.parityErrors + 1 } }

end Sys2Proof.Machine
end

