-- ==== Sys2Proof/Machine/Queue.lean ====
section
/-! DEFINITION. Host queues: their registers and the doorbell (R315, R316), the packets (R317 to R323), errors (R324), and
host writes to registers of BAR0 (R410, R411, R415 to R417). -/

namespace Sys2Proof.Machine

-- Queue registers.

def State.queue (s : State) (fn q : Nat) : HostQueue := amGet HostQueue.reset (s.fn fn).queues q

/-- QSTAT.IDLE: HEAD = TAIL and no packet is waiting (Table 13-1). -/
def HostQueue.idle (h : HostQueue) : Bool := h.head == h.tail && h.fence.isNone

/-- QSTAT as the host reads it (Table 13-1). -/
def HostQueue.stat (h : HostQueue) : BitVec 64 :=
  word (h.eslot.toNat * 2 ^ 16 + h.ecode.toNat * 2 ^ 8 + b2n h.err * 2 + b2n h.idle)

def HostQueue.advance (h : HostQueue) (n : Nat) : HostQueue :=
  { h with head := BitVec.ofNat 16 ((h.head.toNat + n) % h.slots), peeked := none }

/-- A write of QCFG or FQCFG as stored: a LOG2 outside 6 to 16 stores 0 and forces EN to 0 (Table 13-1). -/
def cfgStored (v : BitVec 64) : BitVec 64 :=
  let l := fld v 0 5
  if 6 ≤ l ∧ l ≤ 16 then word (b2n (bitOf v 7) * 128 + l) else 0#64

/-- A write of QCFG (Table 13-1) (log 45, DEDUCED, unsafe). -/
def HostQueue.configure (h : HostQueue) (v : BitVec 64) : HostQueue :=
  let c := cfgStored v
  if bitOf c 7 then { h with qcfg := c, head := 0#16, tail := 0#16, fence := none, peeked := none } else { h with qcfg := c }

/-- Boot has reached READY, so that the windows respond (R411). -/
def State.responds (s : State) : Bool := s.modl.stage == 3

/-- The function and queue exist (R315, R409). -/
def hasQueue (fn q : Nat) : Bool := decide (fn ≤ 64) && decide (q < 64)

/-- QUEUE_ENABLE (R315). -/
def execQueueEnable (fn q : Nat) (cfg : BitVec 64) (s : State) : Out :=
  if !hasQueue fn q ∨ !bitOf cfg 7 then notNow "QUEUE_ENABLE"
  else if s.responds then .next (s.modQueue fn q fun h => h.configure cfg)
  else .next s

/-- QUEUE_DOORBELL (R316). -/
def execQueueDoorbell (fn q : Nat) (tail : BitVec 16) (s : State) : Out :=
  if !hasQueue fn q then notNow "QUEUE_DOORBELL"
  else if s.responds then .next (s.modQueue fn q fun h => { h with tail := tail })
  else .next s

/-- QUEUE_ERROR_CLEAR (R324). -/
def execQueueErrorClear (fn q : Nat) (s : State) : Out :=
  if !hasQueue fn q then notNow "QUEUE_ERROR_CLEAR"
  else if s.responds then .next (s.modQueue fn q fun h => { h with err := false })
  else .next s

-- Parsing.

/-- A word of a packet. -/
def pk (packet : List (BitVec 64)) (i : Nat) : BitVec 64 := packet.getD i 0#64

/-- IRQ of a header (Table 13-2). -/
def pkIrq (packet : List (BitVec 64)) : Bool := bitOf (pk packet 0) 10

/-- A queue can parse a packet (R316, R317): enabled, not stopped, no FENCE waiting, every slot before TAIL, and the packet
the one whose header the parser has read, if it has. -/
def HostQueue.ready (h : HostQueue) (packet : List (BitVec 64)) : Bool :=
  let n := fld (pk packet 0) 8 2 + 1
  bitOf h.qcfg 7 && !h.err && h.fence.isNone && packet.length == 8 * n && decide (n ≤ h.held)
    && (h.peeked.all fun w => w == pk packet 0)

/-- A packet is accepted: HEAD passes it, and one that ends at its acceptance raises its interrupt. -/
def HostQueue.accept (h : HostQueue) (packet : List (BitVec 64)) (ends : Bool) : HostQueue :=
  (h.advance (packet.length / 8)).finish (ends && pkIrq packet)

/-- A queue stops at the packet at HEAD (R324). -/
def State.queueStop (s : State) (fn q : Nat) (code : BitVec 4) : State := s.modQueue fn q fun h => h.stop code h.head

/-- Every earlier LAUNCH and COPY of a queue has ended (Table 13-3). -/
def State.earlierEnded (s : State) (fn q : Nat) : Bool :=
  (s.parts.all fun e => !(e.2.fn == fn && e.2.queue == q)) && (s.queue fn q).copies.all fun j => j.signal

/-- The endpoint of a function (R409), and a queue's number there. -/
def endpointOf (fn : Nat) : Nat := if fn ≤ 32 then 0 else 1
def queueNumber (fn q : Nat) : Nat := fn * 64 + q

/-- Queues that a round-robin over all of them meets after the one parsed last, before a queue (R342). -/
def State.turnsTo (s : State) (fn q : Nat) : Nat :=
  (queueNumber fn q + 4159 - amGet 0 s.modl.turns (endpointOf fn) % 4160) % 4160

/-- The parser reads the header of the packet at a queue's HEAD. -/
def State.peek (s : State) (fn q : Nat) (header : BitVec 64) : Option State :=
  let h := s.queue fn q
  if hasQueue fn q && s.responds && bitOf h.qcfg 7 && !h.err && h.fence.isNone && h.peeked.isNone && decide (0 < h.held) then
    some (s.modQueue fn q fun h => { h with peeked := some header })
  else none

/-- A packet with a header can be parsed now: its slots are there, and it does not wait for earlier packets of its queue to
end (Table 13-3), or for the stacks. -/
def State.headerReady (s : State) (fn q : Nat) (w : BitVec 64) : Bool :=
  decide (fld w 8 2 + 1 ≤ (s.queue fn q).held)
    && ((s.queue fn q).skip != 0 || (fld w 0 8 != 4 || s.earlierEnded fn q) && (fld w 0 8 != 7 || s.railsOn))

/-- A queue has its turn before others: it has a packet ready to parse, or one that the parser has not looked at yet
(log 79, DEDUCED, safe). -/
def State.surelyReady (s : State) (fn q : Nat) : Bool :=
  let h := s.queue fn q
  bitOf h.qcfg 7 && !h.err && h.fence.isNone && decide (0 < h.held) && h.peeked.all (s.headerReady fn q)

/-- It is the queue's turn at the parser of its endpoint: no other ready queue comes before it (R342). -/
def State.parserTurn (s : State) (fn q : Nat) : Bool :=
  s.functions.all fun f => endpointOf f.1 != endpointOf fn || f.2.queues.all fun e =>
    decide (s.turnsTo fn q ≤ s.turnsTo f.1 e.1) || !s.surelyReady f.1 e.1

/-- The parser has served a queue. -/
def State.tookTurn (s : State) (fn q : Nat) : State :=
  { s with modl := { s.modl with turns := amSet s.modl.turns (endpointOf fn) (queueNumber fn q) } }

/-- What a parse does before it looks into a packet of the types that an event stands for: a skipped packet is
consumed whole (R321); a type not assigned, a wrong length, a reserved header bit, or a privileged packet elsewhere
stops the queue (R324) (log 42, DEDUCED, unsafe). -/
def State.parse (s : State) (fn q : Nat) (packet : List (BitVec 64)) (type : Nat) (name : String) (lenOk : Bool)
    (k : State → Out) : Out :=
  let h := s.queue fn q
  let t := fld (pk packet 0) 0 8
  let u := s.tookTurn fn q
  if !hasQueue fn q ∨ !s.responds ∨ !h.ready packet ∨ !s.parserTurn fn q then notNow name
  else if h.skip ≠ 0 then .next (u.modQueue fn q fun h => { h.advance (packet.length / 8) with skip := h.skip - 1 })
  else if t = 0 ∨ 7 < t then .next (u.queueStop fn q 1#4)
  else if t ≠ type then notNow name
  else if !lenOk ∨ fld (pk packet 0) 11 5 ≠ 0 then .next (u.queueStop fn q 2#4)
  else if 6 ≤ t ∧ ¬(fn = 0 ∧ q = 0) then .next (u.queueStop fn q 4#4)
  else k u

/-- A device VA that cannot be served to a host packet of a function (R324). -/
def State.hostBad (s : State) (fn : Nat) (va : BitVec 64) (write : Bool) : Bool :=
  !bitOf va 63 || fld va 54 9 != 0 || (s.serve fn 0#12 (s.fn fn).hrt va write).isSome

/-- The home of a device VA for a host packet, which carries no PID that a peer knows (R49). -/
def State.hostHome (s : State) (fn : Nat) (va : BitVec 64) : Option Nat :=
  match s.homeFor (s.fn fn).hrt va with
  | .ok h => if 40 ≤ h then none else some h
  | .error _ => none

/-- Comparison codes of R320. -/
def hostCmp (code : Nat) (m v : BitVec 64) : Bool :=
  match code with
  | 1 => m == v
  | 2 => m != v
  | 3 => decide (v.toNat ≤ m.toNat)
  | 4 => decide (m.toNat < v.toNat)
  | 5 => decide (v.toInt ≤ m.toInt)
  | _ => decide (m.toInt < v.toInt)

def cmpListed (c : Nat) : Bool := decide (1 ≤ c ∧ c ≤ 6)

/-- What the I/O die reads of an 8-byte word: an address that cannot be served, the word, or nothing while an earlier
request holds its block (R344). -/
inductive HostRead where
  | bad
  | word (v : BitVec 64)
  | later
  deriving DecidableEq, Repr

def State.hostWord (s : State) (fn : Nat) (va : BitVec 64) : HostRead :=
  let a := fld va 0 48
  match s.hostHome fn va with
  | none => .bad
  | some h =>
    if s.hostBad fn va false then .bad
    else if s.readWaits fn (s.fn fn).hrt va then .later
    else if (s.blockFail h fn a).isSome then .bad
    else .word (Machine.word (bytesNat (((s.blockBytes h fn (a / 256)).drop (a % 256)).take 8)))

/-- A word of a host packet whose block fails its check is reported to Wilzia (R364). -/
def State.hostFails (s : State) (fn : Nat) (va : BitVec 64) : State :=
  match s.hostHome fn va with
  | none => s
  | some h =>
    match s.blockFail h fn (fld va 0 48) with
    | some e => s.checkFails e fn (fld va 0 48 / 256)
    | none => s

-- LAUNCH.

/-- The fields of a LAUNCH (R318, Table 13-4). -/
def launchFields (packet : List (BitVec 64)) : LaunchFields :=
  let w := pk packet
  { cls := BitVec.ofNat 2 (fld (w 0) 16 2), weight := fld (w 0) 18 4, tag := BitVec.ofNat 32 (fld (w 0) 32 32),
    irq := bitOf (w 0) 10, kind1 := bitOf (w 1) 0, ndm1 := fld (w 1) 12 4, wm1 := fld (w 1) 8 4, hm1 := fld (w 1) 4 4,
    entry := w 2, codebase := w 3, codelen := (w 4).toNat, argva := w 5, limg := w 6, slen := fld (w 7) 32 32,
    llen := fld (w 7) 0 32, simg := w 8, recva := w 9, cntva := w 10, cntval := w 11,
    podgrp := BitVec.ofNat 11 (fld (w 12) 0 11) }

/-- The I/O die's check of a LAUNCH (R319). -/
def launchOk (packet : List (BitVec 64)) : Bool :=
  let l := launchFields packet
  let w := pk packet
  l.weight != 0 && fld (w 0) 22 10 == 0 && fld (w 1) 16 48 == 0 && fld (w 1) 1 3 == 0 && fld (w 12) 11 53 == 0
    && w 13 == 0#64 && w 14 == 0#64 && w 15 == 0#64
    && decide (2 ≤ l.codelen ∧ l.codelen ≤ 2 ^ 32) && !bitOf l.entry 0
    && decide (l.codebase.toNat ≤ l.entry.toNat ∧ l.entry.toNat < l.codebase.toNat + l.codelen)
    && fld l.limg 0 6 == 0 && fld l.simg 0 6 == 0
    && decide (l.slen ≤ 0x100000) && l.slen % 64 == 0 && decide (l.llen ≤ 0x6000) && l.llen % 64 == 0
    && fld l.recva 0 5 == 0 && fld l.cntva 0 3 == 0

/-- LAUNCH (R318, R319): checked, and entered in Wilzia's pending list. -/
def execLaunch (fn q : Nat) (packet : List (BitVec 64)) (s : State) : Out :=
  s.parse fn q packet 1 "LAUNCH" (fld (pk packet 0) 8 2 == 1) fun s =>
    if launchOk packet then
      let p : Part := { Part.none with
        fn := fn, queue := q, launch := launchFields packet, accepted := s.now, pending := true, state := .unbound }
      .next ({ s.setPart s.nextId p with nextId := s.nextId + 1 }.modQueue fn q fun h => h.accept packet false)
    else .next (s.queueStop fn q 3#4)

-- FENCE.

/-- The tuples of a FENCE. -/
def fenceTuples (packet : List (BitVec 64)) (n : Nat) : List FenceTuple :=
  (List.range n).map fun i =>
    { addr := pk packet (3 + 2 * i), value := pk packet (4 + 2 * i), cmp := BitVec.ofNat 4 (fld (pk packet 1) (4 * i) 4),
      held := false }

/-- FENCE_PACKET (R320): the tuples are read from now on. -/
def execFencePacket (fn q : Nat) (packet : List (BitVec 64)) (s : State) : Out :=
  let n := fld (pk packet 0) 16 4
  let range := decide (1 ≤ n ∧ n ≤ 12)
  s.parse fn q packet 2 "FENCE_PACKET" (!range || fld (pk packet 0) 8 2 + 1 == (24 + 16 * n + 63) / 64) fun s =>
    let ts := fenceTuples packet n
    if range && fld (pk packet 2) 32 32 == 0 && ts.all fun t => cmpListed t.cmp.toNat && fld t.addr 0 3 == 0 then
      .next (s.modQueue fn q fun h =>
        { h with fence := some { slots := packet.length / 8, irq := pkIrq packet, tuples := ts,
                                 tmo := fld (pk packet 2) 0 32, since := s.now } })
    else .next (s.queueStop fn q 3#4)

/-- A waiting FENCE goes on: accepted once every tuple has held. -/
def HostQueue.fenceOn (h : HostQueue) (f : FenceWait) : HostQueue :=
  if f.tuples.all FenceTuple.held then ({ h with fence := none }.advance f.slots).finish f.irq else { h with fence := some f }

/-- The limit of a FENCE in cycles of 1.8 GHz; 0 means 10,000 ms. -/
def FenceWait.limit (f : FenceWait) : Nat := 1800000 * (if f.tmo = 0 then 10000 else f.tmo)

/-- FENCE_POLL (R320), until the limit: a tuple that has held is not read again (log 46, DEDUCED, unsafe). -/
def execFencePoll (fn q tuple : Nat) (s : State) : Out :=
  match (s.queue fn q).fence with
  | none => notNow "FENCE_POLL"
  | some f =>
    match f.tuples[tuple]? with
    | none => notNow "FENCE_POLL"
    | some t =>
      if t.held ∨ f.since + f.limit ≤ s.now then notNow "FENCE_POLL"
      else
        match s.hostWord fn t.addr with
        | .later => notNow "FENCE_POLL"
        | .bad => .next (((s.hostFails fn t.addr).modQueue fn q fun h => { h with fence := none }).queueStop fn q 5#4)
        | .word v =>
          if hostCmp t.cmp.toNat v t.value then
            .next (s.modQueue fn q fun h => h.fenceOn { f with tuples := f.tuples.set tuple { t with held := true } })
          else .next s

/-- FENCE_TIMEOUT (R320). -/
def execFenceTimeout (fn q : Nat) (s : State) : Out :=
  match (s.queue fn q).fence with
  | none => notNow "FENCE_TIMEOUT"
  | some f =>
    if f.since + f.limit ≤ s.now then .next ((s.modQueue fn q fun h => { h with fence := none }).queueStop fn q 6#4)
    else notNow "FENCE_TIMEOUT"

/-- COND (R321). An ADDR that is not a multiple of 8 is refused with ECODE 3 (log 42, DEDUCED, unsafe). -/
def execCond (fn q : Nat) (packet : List (BitVec 64)) (s : State) : Out :=
  s.parse fn q packet 3 "COND" (fld (pk packet 0) 8 2 == 0) fun s =>
    let cmp := fld (pk packet 0) 16 4
    let skip := fld (pk packet 0) 20 8
    if !cmpListed cmp ∨ skip = 0 ∨ fld (pk packet 1) 0 3 ≠ 0 then .next (s.queueStop fn q 3#4)
    else
      match s.hostWord fn (pk packet 1) with
      | .later => notNow "COND"
      | .bad => .next ((s.hostFails fn (pk packet 1)).queueStop fn q 5#4)
      | .word v =>
        .next (s.modQueue fn q fun h =>
          { h.accept packet true with skip := if hostCmp cmp v (pk packet 2) then 0 else skip })

-- SIGNAL and COPY.

/-- The 8 bytes of a word at its place in its block. -/
def wordBytes (va : BitVec 64) (v : BitVec 64) : List (Nat × BitVec 8 × Bool) :=
  (natBytes 8 v.toNat).mapIdx fun i b => (fld va 0 8 + i, b, false)

/-- A job of a queue. -/
def CopyJob.signalAt (id : Nat) (slot : BitVec 16) (irq : Bool) : CopyJob :=
  { id := id, slot := slot, signal := true, host := 0#64, dev := 0#64, len := 0, toDevice := true, cntva := 0#64,
    cntval := 0#64, irq := irq, left := 1, refused := false, counting := false }

/-- SIGNAL (R322): accepted once everything earlier has ended; then its write sets out for its home. -/
def execSignal (fn q : Nat) (packet : List (BitVec 64)) (s : State) : Out :=
  s.parse fn q packet 4 "SIGNAL" (fld (pk packet 0) 8 2 == 0) fun s =>
    let va := pk packet 1
    if fld va 0 3 ≠ 0 then .next (s.queueStop fn q 3#4)
    else if !s.earlierEnded fn q then notNow "SIGNAL"
    else
      match s.hostHome fn va, s.hostBad fn va true with
      | some h, false =>
        let a := fld va 0 48
        let id := s.nextId
        let body : ReqBody :=
          if bitOf (pk packet 0) 16 then .atomic 1 8 a ((pk packet 2).setWidth 128) 0#128 else .write (wordBytes va (pk packet 2))
        let t := s.modQueue fn q fun g =>
          { g.accept packet false with copies := g.copies ++ [CopyJob.signalAt id g.head (pkIrq packet)] }
        .next ({ t with nextId := id + 1 }.request h
          { writer := .host fn q id, part := none, fn := fn, blocks := [a / 256], body := body, va := va })
      | _, _ => .next (s.queueStop fn q 5#4)

/-- The blocks that n bytes at an offset touch. -/
def spanBlocks (a n : Nat) : List Nat := (List.range ((a + n - 1) / 256 - a / 256 + 1)).map fun i => a / 256 + i

/-- The bytes of a transfer to the device that fall in a block. -/
def copyBytes (a b : Nat) (data : List (BitVec 8)) : List (Nat × BitVec 8 × Bool) :=
  let lo := max a (256 * b)
  ((data.drop (lo - a)).take (256 * b + 256 - lo)).mapIdx fun i x => (lo - 256 * b + i, x, false)

/-- The request of a COPY for a block goes to its home. -/
def State.copyBlock (s : State) (fn q : Nat) (j : CopyJob) (data : List (BitVec 8)) (b : Nat) : State :=
  let a := fld j.dev 0 48
  match s.hostHome fn (devVa s (256 * b)) with
  | some h =>
    s.request h { writer := .host fn q j.id, part := none, fn := fn, blocks := [b],
                  body := if j.toDevice then .write (copyBytes a b data) else .read, va := devVa s (256 * b) }
  | none => s.hostAnswered fn q j.id false

/-- COPY_PACKET (R322): the transfer starts; `data` is what the host's memory holds, of LEN bytes toward the device
(log 44, DEDUCED, unsafe). -/
def execCopyPacket (fn q : Nat) (packet : List (BitVec 64)) (data : List (BitVec 8)) (s : State) : Out :=
  s.parse fn q packet 5 "COPY_PACKET" (fld (pk packet 0) 8 2 == 0) fun s =>
    let len := (pk packet 3).toNat
    let toDevice := !bitOf (pk packet 0) 16
    let dev := pk packet 2
    let a := fld dev 0 48
    if len = 0 ∨ 2 ^ 40 < len ∨ fld (pk packet 4) 0 3 ≠ 0 then .next (s.queueStop fn q 3#4)
    else if data.length ≠ (if toDevice then len else 0) then notNow "COPY_PACKET"
    else
      let pages := (List.range ((a + len - 1) / 65536 - a / 65536 + 1)).map fun i => dev + word (65536 * i)
      if 2 ^ 48 < a + len ∨ (pages.any fun p => s.hostBad fn p toDevice) then .next (s.queueStop fn q 5#4)
      else
        let bs := spanBlocks a len
        let j : CopyJob :=
          { id := s.nextId, slot := (s.queue fn q).head, signal := false, host := pk packet 1, dev := dev, len := len,
            toDevice := toDevice, cntva := pk packet 4, cntval := pk packet 5, irq := pkIrq packet, left := bs.length,
            refused := false, counting := false }
        let t := { s.modQueue fn q fun g => { g.accept packet false with copies := g.copies ++ [j] } with
          nextId := s.nextId + 1 }
        .next (bs.foldl (fun t b => t.copyBlock fn q j data b) t)

/-- COPY_DONE (R322): the last byte has performed, and the counter's write sets out; or a block was refused, and the queue
stops with HEAD at the COPY. -/
def execCopyDone (fn q job : Nat) (s : State) : Out :=
  match (s.queue fn q).copies.find? fun j => j.id == job with
  | none => notNow "COPY_DONE"
  | some j =>
    if j.signal ∨ j.counting ∨ j.left ≠ 0 then notNow "COPY_DONE"
    else
      let drop := s.modQueue fn q fun h => { h with copies := h.copies.filter fun i => i.id != job }
      let failed := drop.modQueue fn q fun h => h.stopBack j.slot
      if j.refused then .next failed
      else
        match s.hostHome fn j.cntva, s.hostBad fn j.cntva true with
        | some h, false =>
          let t := s.modQueue fn q fun g =>
            { g with copies := g.copies.map fun i => if i.id = job then { i with counting := true, left := 1 } else i }
          .next (t.request h
            { writer := .host fn q job, part := none, fn := fn, blocks := [fld j.cntva 0 48 / 256],
              body := .write (wordBytes j.cntva j.cntval), va := j.cntva })
        | _, _ => .next failed

-- PREEMPT and KILL.

/-- The launches that a PREEMPT or KILL names (R323). -/
def State.named (s : State) (packet : List (BitVec 64)) : List Nat :=
  (s.parts.filter fun e =>
    e.2.fn == fld (pk packet 1) 32 16 && (bitOf (pk packet 0) 17 || e.2.launch.tag.toNat == fld (pk packet 1) 0 32)).map
      Prod.fst

/-- Changes the partitions of some launches. -/
def State.modParts (s : State) (ids : List Nat) (f : Part → Part) : State := ids.foldl (fun t i => t.modPart i f) s

/-- A PREEMPT of mode 0 holds a launch: pending, running, binding or restoring. -/
def Part.hold (p : Part) : Part :=
  if p.pending ∨ p.state = .running ∨ p.state = .binding ∨ p.state = .restoring then { p with held := true } else p

/-- PREEMPT_HOLD (R323): Wilzia has the request; PREEMPT_REQUEST writes STATE 3 (log 43, DEDUCED, unsafe). -/
def execPreemptHold (fn q : Nat) (packet : List (BitVec 64)) (s : State) : Out :=
  if (s.queue fn q).skip = 0 ∧ fld (pk packet 0) 0 8 = 6 ∧ bitOf (pk packet 0) 16 then notNow "PREEMPT_HOLD"
  else
    s.parse fn q packet 6 "PREEMPT_HOLD" (fld (pk packet 0) 8 2 == 0) fun s =>
      let ids := s.named packet
      let t := (s.modParts ids Part.hold).modQueue fn q fun h =>
        { h.accept packet false with ends := if pkIrq packet then h.ends ++ [(ids, false)] else h.ends }
      .next t.settleEnds

/-- PREEMPT_RELEASE (R323). -/
def execPreemptRelease (fn q : Nat) (packet : List (BitVec 64)) (s : State) : Out :=
  if (s.queue fn q).skip = 0 ∧ fld (pk packet 0) 0 8 = 6 ∧ !bitOf (pk packet 0) 16 then notNow "PREEMPT_RELEASE"
  else
    s.parse fn q packet 6 "PREEMPT_RELEASE" (fld (pk packet 0) 8 2 == 0) fun s =>
      .next ((s.modParts (s.named packet) fun p => { p with held := false }).modQueue fn q fun h => h.accept packet true)

/-- Kills a launch: a partition by R340, a pending one by its removal. -/
def State.killNamed (s : State) (id : Nat) : State := if (s.part id).pending then s.endLaunch id 1 else s.kill id 1

/-- KILL_PACKET (R323). A pending launch ends at once, with its record: not while the stacks are in self-refresh. -/
def execKillPacket (fn q : Nat) (packet : List (BitVec 64)) (s : State) : Out :=
  s.parse fn q packet 7 "KILL_PACKET" (fld (pk packet 0) 8 2 == 0) fun s =>
    let ids := s.named packet
    if !s.railsOn && ids.any fun i => (s.part i).pending then notNow "KILL_PACKET"
    else
      let t := (ids.foldl (fun t i => t.killNamed i) s).modQueue fn q fun h =>
        { h.accept packet false with ends := if pkIrq packet then h.ends ++ [(ids, true)] else h.ends }
      .next t.settleEnds

-- Host writes.

/-- A host write to the queue window (Table 13-1): QBASE, QCFG, QTAIL, the doorbell, or QSTAT, whose ERR a 1 clears. -/
def HostQueue.write (h : HostQueue) (off : Nat) (v : BitVec 64) : HostQueue :=
  match off with
  | 0 => { h with qbase := word (fld v 12 52 * 4096) }
  | 8 => h.configure v
  | 16 => { h with tail := BitVec.ofNat 16 (fld v 0 16) }
  | 32 => if bitOf v 1 then { h with err := false } else h
  | _ => h

/-- A host write to the fault queue's window (R415); FQANS is FAULT_ANSWER's. -/
def Function.writeFault (f : Function) (off : Nat) (v : BitVec 64) : Option Function :=
  match off with
  | 0 => some { f with fqbase := word (fld v 12 52 * 4096) }
  | 8 =>
    let c := cfgStored v
    some (if bitOf c 7 then { f with fqcfg := c, fqtail := 0#64, fqhead := 0#64 } else { f with fqcfg := c })
  | 0x18 => some { f with fqhead := word (fld v 0 16) }
  | 0x20 => none
  | _ => some f

/-- A host write to the set-up mailbox (Table 17-7), discarded while BUSY; a GO of 1 belongs to the requests, one of 0 has
no effect. -/
def Mailbox.write (m : Mailbox) (off : Nat) (v : BitVec 64) : Option Mailbox :=
  if off = 0x30 then (if bitOf v 0 && !m.busy then none else some m)
  else if m.busy then some m
  else if off = 0 then some { m with req := word (fld v 0 8) }
  else if h : 8 ≤ off ∧ off ≤ 0x28 then
    some { m with args := m.args.set ((off - 8) / 8) v (by omega) }
  else some m

/-- The nonce with 8 bytes replaced. -/
def writeNonce (n : List (BitVec 8)) (off : Nat) (v : BitVec 64) : List (BitVec 8) :=
  n.take off ++ natBytes 8 v.toNat ++ n.drop (off + 8)

/-- A host write to the boot and recovery window (Table 17-4); a GO of 1 is RECOVERY_GO's, one of 0 has no effect. -/
def Module.writeBoot (m : Module) (off : Nat) (v : BitVec 64) : Option Module :=
  match off with
  | 8 => some { m with rcvaddr := v }
  | 0x10 => some { m with rcvlen := word (fld v 0 32) }
  | 0x18 => if bitOf v 0 then none else some m
  | _ => some m

/-- What a host write does to a register of BAR0 with no event of its own; none if it has one (Table 17-1, R410,
R411). -/
def State.hostWrite (s : State) (fn off : Nat) (v : BitVec 64) : Option State :=
  if 0xE000 ≤ off then
    if fn = 0 ∨ (fn = 65 ∧ s.responds) then (s.modl.writeBoot (off - 0xE000) v).map fun m => { s with modl := m } else some s
  else if !s.responds then some s
  else if 0xD000 ≤ off then
    if fn = 0 then (s.modl.mailbox.write (off - 0xD000) v).map fun m => { s with modl := { s.modl with mailbox := m } } else some s
  else if 0xC000 ≤ off then
    if fn ≠ 0 then some s
    else if off < 0xC030 then some { s with modl := { s.modl with nonce := writeNonce s.modl.nonce (off - 0xC000) v } }
    else if off = 0xC030 ∧ bitOf v 0 then none
    else some s
  else if 64 < fn then some s
  else if 0x2000 ≤ off ∧ off < 0x4000 then
    ((s.fn fn).writeFault (off - 0x2000) v).map fun f => s.modFn fn fun _ => f
  else if 0x1000 ≤ off ∧ off < 0x2000 then
    some (s.modQueue fn ((off - 0x1000) / 64) fun h => h.write (off % 64) v)
  else some s

/-- HOST_REGISTER_WRITE (R410): an aligned write of 8 bytes. -/
def execHostRegisterWrite (fn off : Nat) (v : BitVec 64) (s : State) : Out :=
  if off % 8 ≠ 0 ∨ 65536 ≤ off ∨ 65 < fn then notNow "HOST_REGISTER_WRITE"
  else
    match s.hostWrite fn off v with
    | some t => .next t
    | none => notNow "HOST_REGISTER_WRITE"

end Sys2Proof.Machine
end

