-- ==== Sys2Proof/Machine/Bringup.lean ====
section
/-! DEFINITION. Boot and recovery (R413), attestation (R414), the fault queue's answers (R415), lifetime counters (R416),
the function set-up mailbox (R417, R418), and pods (R330, R385, R386). -/

namespace Sys2Proof.Machine

def State.modModule (s : State) (f : Module → Module) : State := { s with modl := f s.modl }

-- Boot.

/-- ERR of BOOTSTAT for an image that fails (Table 17-4). -/
def ImageCheck.err : ImageCheck → Nat
  | .good => 0
  | .badSignature => 1
  | .badSvn => 2
  | .unreadable => 3
  | .badLength => 4

/-- What the boot ROM may find in the image in flash: what it found before, or that it cannot read it now. -/
def FlashImage.finds (f : FlashImage) (c : ImageCheck) : Bool := c != .badLength && (c == .unreadable || f.check.all (· == c))

/-- POWER_ON (R413): the boot ROM reads the image in flash and begins to verify it. -/
def execPowerOn (image : ImageCheck) (s : State) : Out :=
  if s.modl.stage ≠ 0 ∨ !s.modl.flash.finds image then notNow "POWER_ON"
  else .next (s.modModule fun m => { m with stage := 1, flash := { m.flash with check := some image } })

/-- The boot ROM has verified the image: it starts Wilzia, or boot stops at RECOVERY with ERR set (R413). An image that could
not be read is read anew at the next boot. -/
def State.verified (s : State) : Option State :=
  match (if s.modl.stage = 1 then s.modl.flash.check else none) with
  | none => none
  | some .good => some (s.modModule fun m => { m with stage := 2, bootErr := 0, running := m.flash.id })
  | some c => some (s.modModule fun m =>
      { m with stage := 4, bootErr := ImageCheck.err c,
               flash := { m.flash with check := if c = .unreadable then none else some c } })

/-- An image written to flash, with what the boot ROM will find in it. -/
def State.flashed (s : State) (c : ImageCheck) : State :=
  { s.modModule fun m => { m with flash := { id := s.nextId, check := some c } } with nextId := s.nextId + 1 }

/-- A host firmware update through Wilzia is written to flash, for the next boot (R413). -/
def State.updateFlash (s : State) (c : ImageCheck) : Option State :=
  if (s.modl.stage = 2 ∨ s.modl.stage = 3) ∧ (c = .good ∨ c = .badSignature ∨ c = .badSvn) then some (s.flashed c) else none

/-- Power is taken from the module and comes back: what is in flash stays, and boot begins anew (R413, R416). -/
def State.powerCycle (s : State) : State :=
  { State.reset with
    modl := { Module.reset with flash := s.modl.flash, lifetime := s.modl.lifetime, lifetimeLive := s.modl.lifetime },
    agenda := s.agenda, now := s.now, fresh := s.fresh, nextId := s.nextId }

/-- BOOT_READY (R413). -/
def execBootReady (s : State) : Out :=
  if s.modl.stage = 2 then .next (s.modModule fun m => { m with stage := 3 }) else notNow "BOOT_READY"

/-- RECOVERY_GO (R413): a good image goes to flash and boot starts anew at step 1; a bad one leaves ERR, and the flash as it
is. An image in host memory that cannot be read leaves ERR 3 (log 48, DESIGN CHOICE, unsafe). -/
def execRecoveryGo (image : ImageCheck) (s : State) : Out :=
  if s.modl.stage ≠ 4 then .next s
  else
    let n := s.modl.rcvlen.toNat
    let lenOk := decide (1 ≤ n ∧ n ≤ 64 * 2 ^ 20)
    if lenOk = (image == .badLength) then notNow "RECOVERY_GO"
    else if image = .good then .next ((s.flashed .good).modModule fun m => { m with stage := 1, bootErr := 0, rcvgo := false })
    else .next (s.modModule fun m => { m with bootErr := ImageCheck.err image, rcvgo := false })

/-- ATTESTATION_GO (R414): discarded while BUSY (log 48, DESIGN CHOICE, unsafe). -/
def execAttestationGo (s : State) : Out :=
  if s.responds ∧ s.modl.attBusy = false then .next (s.modModule fun m => { m with attBusy := true }) else .next s

/-- SHA-384 of the running image, and its SVN with the fused minimum (R412, R414). -/
def Module.digest (m : Module) : List (BitVec 8) := (List.range 48).map (Config.imageDigest m.running)
def Module.svns (m : Module) : List (BitVec 8) :=
  natBytes 4 (Config.imageSvn m.running).toNat ++ natBytes 4 Config.fusedSvn.toNat

/-- Bytes 0x000 to 0x07F of the attestation report (Table 17-5). -/
def State.attested (s : State) : List (BitVec 8) :=
  s.modl.nonce ++ s.modl.digest ++ s.modl.svns ++ (List.range 16).map Config.serialNumber
    ++ natBytes 8 (if s.modl.podFormed then s.modl.podNumber.toNat else 0)

/-- The attestation report: those bytes, and the signature over them (R414). -/
def State.attestation (s : State) : List (BitVec 8) :=
  s.attested ++ (List.range 96).map (Config.signature s.attested s.fresh)

/-- ATTESTATION_DONE (R414). -/
def execAttestationDone (s : State) : Out :=
  if s.modl.attBusy then
    .next { s.modModule fun m => { m with attBusy := false, report := s.attestation } with fresh := s.fresh + 1 }
  else notNow "ATTESTATION_DONE"

/-- LIFETIME_UPDATE (R416). -/
def execLifetimeUpdate (s : State) : Out :=
  if s.modl.stage = 2 ∨ s.modl.stage = 3 then .next (s.modModule fun m => { m with lifetime := m.lifetimeLive })
  else notNow "LIFETIME_UPDATE"

-- The fault queue.

/-- The context that asked still waits by that PTOUCH, under the request's token. -/
def State.stillAsks (s : State) (r : FaultReq) : Bool :=
  s.pidAt (clusterOf r.core) == r.pid && (s.ctxAt r.core r.ctx).reply == some (.asked r.token) &&
    match (s.ctxAt r.core r.ctx).wait with
    | some w => w.kind == .ptouch r.mode.toNat && w.tval == r.va
    | none => false

/-- FAULT_ANSWER (R415): an answer that names no waiting token is discarded; one whose PTOUCH has ended is ignored. -/
def execFaultAnswer (fn : Nat) (answer : BitVec 64) (s : State) : Out :=
  if 64 < fn then notNow "FAULT_ANSWER"
  else if !s.responds then .next s
  else
    match (s.fn fn).faults.find? fun r => r.token.toNat == fld answer 0 32 with
    | none => .next s
    | some r =>
      let t := s.modFn fn fun f => { f with faults := f.faults.erase r }
      if s.stillAsks r then .next (t.modCtxAt r.core r.ctx fun x => { x with reply := some (.touched (!bitOf answer 63)) })
      else .next t

-- The mailbox.

/-- An operand of the mailbox. -/
def State.arg (s : State) (n : Nat) : BitVec 64 := s.modl.mailbox.args.get (Fin.ofNat 5 n)

/-- The function that FSARG0 names. -/
def State.argFn (s : State) : Nat := (s.arg 0).toNat

/-- Wilzia takes up the request in the mailbox at GO (R417): `effect` gives its effect and STATUS where the function is
in range and, but for FUNCON, enabled (R418). The mailbox shows the result at FUNCTION_REQUEST_DONE
(log 31, DEDUCED, unsafe). -/
def State.takeRequest (s : State) (code : Nat) (name : String) (effect : State → State × Nat) : Out :=
  let m := s.modl.mailbox
  let c := m.req.toNat
  if !s.responds ∨ m.busy then .next s
  else if 1 ≤ c ∧ c ≤ 7 ∧ c ≠ code then notNow name
  else
    let r : State × Nat :=
      if c ≠ code then (s, 1)
      else if 64 < s.argFn then (s, 2)
      else if c ≠ 1 ∧ (s.fn s.argFn).enabled = false then (s, 5)
      else effect s
    .next (r.1.modModule fun x =>
      { x with mailbox := { x.mailbox with busy := true, pendingRes := some (BitVec.ofNat 8 r.2) } })

/-- FUNCTION_REQUEST_DONE (R417). -/
def execFunctionRequestDone (s : State) : Out :=
  match s.modl.mailbox.busy, s.modl.mailbox.pendingRes with
  | true, some r =>
    .next (s.modModule fun m =>
      { m with mailbox := { m.mailbox with busy := false, pendingRes := .none, res := r.setWidth 64 } })
  | _, _ => notNow "FUNCTION_REQUEST_DONE"

/-- Mapped pieces of a function that satisfy a test. -/
def State.piecesOf (s : State) (fn : Nat) (f : Nat → Bool) : List Nat :=
  (s.pages.filter fun e => (pageOf e.1).1 == fn && f (pageOf e.1).2).map fun e => (pageOf e.1).2

def State.dropPieces (s : State) (fn : Nat) (f : Nat → Bool) : State :=
  (s.piecesOf fn f).foldl (fun t pg => t.dropPiece fn pg) s

/-- A function's pieces are released, and its tables go. -/
def State.dropSpace (s : State) (fn : Nat) : State :=
  (s.dropPieces fn fun _ => true).dropTables fn

/-- FUNCON (R418) (log 47, DEDUCED, unsafe). -/
def execFuncon (s : State) : Out :=
  s.takeRequest 1 "FUNCON" fun s =>
    let t := (s.dropSpace s.argFn).loadKey s.argFn
    (t.modFn s.argFn fun f =>
      { f with enabled := true, keyGen := f.keyGen + 1, quota := 0, allowance := 0, nextAllowance := 0, demand := [] }, 0)

/-- FUNCOFF (R418). -/
def execFuncoff (s : State) : Out :=
  s.takeRequest 2 "FUNCOFF" fun s =>
    let fn := s.argFn
    if s.parts.any fun e => e.2.fn == fn && (e.2.pending || e.2.state.bound || e.2.state.saved) then (s, 3)
    else
      (((s.dropSpace fn).dropKey fn).modFn fn fun f =>
        { f with enabled := false, keyGen := f.keyGen + 1, hrt := [], demand := [], tvec := 0#64, trapVa := 0#64, trapLen := 0 }, 0)

/-- A device VA of this module. -/
def State.ownVa (s : State) (va : BitVec 64) : Bool :=
  bitOf va 63 && fld va 54 9 == 0 && fld va 48 6 == s.modl.podNumber.toNat

/-- TRAPK (R418): the image becomes resident as far as the function's home ranges reach; the rest with a later HOMERNG or bind
(log 98, DEDUCED, unsafe). -/
def execTrapk (s : State) : Out :=
  s.takeRequest 3 "TRAPK" fun s =>
    let va := (s.arg 1).toNat
    let len := (s.arg 2).toNat
    let tvec := (s.arg 3).toNat
    if !s.ownVa (s.arg 1) ∨ 2 ^ 48 < fld (s.arg 1) 0 48 + len ∨ len < 2 ∨ 2 ^ 24 < len ∨ tvec % 2 ≠ 0 ∨ tvec < va
        ∨ va + len ≤ tvec then (s, 2)
    else ((s.modFn s.argFn fun f => { f with tvec := s.arg 3, trapVa := s.arg 1, trapLen := len }).residentTrap s.argFn, 0)

/-- HRTnA as stored (Table 2-4a). -/
def hrtaOf (v : BitVec 64) : BitVec 64 :=
  let home := fld v 61 2
  word (b2n (bitOf v 63) * 2 ^ 63 + home * 2 ^ 61 + (if home = 1 ∨ home = 2 then fld v 48 6 else 0) * 2 ^ 48
    + fld v 21 27 * 2 ^ 21)

/-- HRTnB as stored (Table 2-4b). -/
def hrtbOf (v : BitVec 64) : BitVec 64 := word (fld v 21 27 * 2 ^ 21)

/-- HOMERNG (R418). -/
def execHomerng (s : State) : Out :=
  s.takeRequest 4 "HOMERNG" fun s =>
    let n := (s.arg 1).toNat
    let a := s.arg 2
    if 15 < n ∨ (fld a 61 2 = 1 ∧ 7 < fld a 48 6) then (s, 2)
    else ((s.modFn s.argFn fun f => { f with hrt := amSet f.hrt n (hrtaOf a, hrtbOf (s.arg 3)) }).residentTrap s.argFn, 0)

/-- VA and length of a MAP or UNMAP are in range for a page size. -/
def State.rangeOk (s : State) (page : Nat) : Bool :=
  let a := fld (s.arg 1) 0 48
  let len := (s.arg 2).toNat
  s.ownVa (s.arg 1) && a % page == 0 && len % page == 0 && len != 0 && decide (a + len ≤ 2 ^ 48)

/-- MAP (R418): a range mapped at once, or declared demand-allocated. -/
def execMap (resources : Bool) (s : State) : Out :=
  s.takeRequest 5 "MAP" fun s =>
    let fn := s.argFn
    let a := fld (s.arg 1) 0 48
    let len := (s.arg 2).toNat
    let fl := s.arg 3
    let big := bitOf fl 2
    let pieces := (List.range (len / 65536)).map fun i => a / 65536 + i
    if !s.rangeOk (if big then 2 ^ 21 else 65536) ∨ fld fl 4 60 ≠ 0 then (s, 2)
    else if pieces.any fun pg => (homeOf (s.fn fn).hrt (65536 * pg)).isNone then (s, 2)
    else if !resources then (s, 4)
    else if bitOf fl 3 then
      (s.modFn fn fun f =>
        { f with demand := { va := a, len := len, r := bitOf fl 0, w := bitOf fl 1, big := big } :: f.demand }, 0)
    else
      let page := if big then 2 ^ 21 else 65536
      ((List.range (len / page)).foldl (fun t i =>
        t.mapPage fn (bitOf fl 0) (bitOf fl 1) big (pagePieces big (a + page * i))) s, 0)

/-- What an UNMAP leaves of a demand declaration. -/
def Demand.without (d : Demand) (a len : Nat) : List Demand :=
  let left := { d with len := min (d.va + d.len) a - d.va }
  let lo := max d.va (a + len)
  let right := { d with va := lo, len := d.va + d.len - lo }
  [left, right].filter fun e => e.len != 0

/-- UNMAP (R418). -/
def execUnmap (s : State) : Out :=
  s.takeRequest 6 "UNMAP" fun s =>
    let a := fld (s.arg 1) 0 48
    let len := (s.arg 2).toNat
    let inside (pg : Nat) : Bool := decide (a ≤ 65536 * pg ∧ 65536 * pg < a + len)
    if !s.rangeOk 65536 then (s, 2)
    else
      ((s.dropPieces s.argFn inside).modFn s.argFn fun f =>
        { f with demand := f.demand.flatMap fun d => d.without a len }, 0)

/-- QUOTA (R418). -/
def execQuota (resources : Bool) (s : State) : Out :=
  s.takeRequest 7 "QUOTA" fun s =>
    if !resources then (s, 4)
    else
      (s.modFn s.argFn fun f => { f with quota := (s.arg 1).toNat, nextAllowance := (s.arg 2).toNat }, 0)

-- Pods.

/-- POD_FORMATION (R385): Wilzia sets the pod number and the routes, in the table of the I/O die that has the port. -/
def execPodFormation (number : Nat) (routes : List (Nat × Nat)) (s : State) : Out :=
  if 64 ≤ number ∨ s.modl.stage ≠ 3 ∨ (routes.any fun r => decide (64 ≤ r.1 ∨ 24 ≤ r.2) || r.1 == number) then
    notNow "POD_FORMATION"
  else
    .next (s.modModule fun m =>
      { m with podNumber := BitVec.ofNat 6 number, podFormed := true,
               routes := routes.foldl (fun t r => amSet t (64 * (r.2 / 12) + r.1) r.2) [] })

/-- POD_PID_ALLOT (R330): a PID's earlier allotment is over once its group has no launch here; the release of the other
modules comes with the event (log 49, DESIGN CHOICE, safe). -/
def execPodPidAllot (fn podgrp : Nat) (pid : BitVec 12) (s : State) : Out :=
  let g := BitVec.ofNat 11 podgrp
  let stale (e : BitVec 12 × Nat × BitVec 11) : Bool :=
    e.1 == pid && !s.parts.any fun p => p.2.fn == e.2.1 && p.2.launch.podgrp == e.2.2
  let kept := s.modl.podPids.filter fun e => !stale e
  if pid.toNat < 2048 ∨ podgrp = 0 ∨ 2048 ≤ podgrp ∨ 64 < fn ∨ (kept.any fun e => e.1 == pid || (e.2.1 == fn && e.2.2 == g)) then
    notNow "POD_PID_ALLOT"
  else .next (s.modModule fun m => { m with podPids := (pid, fn, g) :: kept })

end Sys2Proof.Machine
end

