-- ==== Sys2Proof/Machine/Power.lean ====
section
/-! DEFINITION. Operating points and the budget tree (R390 to R395), the current limiter (R399, R400), temperature and
the emergency states (R401 to R405). Powers are exact numbers of milliwatts. -/

namespace Sys2Proof.Machine

-- Figures.

/-- Full-duty power of a core in mW (Table 16-1). -/
def coreMw (op : Nat) : Rat :=
  match op with
  | 0 => 9 / 2 | 1 => 6 | 2 => 8 | 3 => 21 / 2 | 4 => 29 / 2 | 5 => 37 / 2 | 6 => 24 | _ => 30

/-- Full-duty power of a matrix unit in mW (Table 16-1). -/
def unitMw (op : Nat) : Rat :=
  match op with
  | 0 => 25 | 1 => 33 | 2 => 44 | 3 => 58 | 4 => 80 | 5 => 102 | 6 => 132 | _ => 165

/-- What a child reports to its controller: floor F, maximum M, weighted demand W (R393). -/
structure Figures where
  f : Rat
  m : Rat
  w : Rat
  deriving DecidableEq, Repr

/-- The figures of an inner node. -/
def sumFigures (l : List Figures) : Figures :=
  { f := (l.map Figures.f).sum, m := (l.map Figures.m).sum, w := (l.map Figures.w).sum }

/-- A leaf's figures from its full-duty power, floor and demand in sixteenths, and weight. -/
def leafFigures (mw : Rat) (floor demand weight : Nat) : Figures :=
  { f := mw * floor / 16, m := mw, w := weight * max (mw * demand / 16 - mw * floor / 16) 0 }

/-- The partition of a cluster is in state running. -/
def State.inRunning (s : State) (cl : Nat) : Bool :=
  match s.partOf cl with
  | some p => (s.part p).state == .running
  | none => false

/-- Floors in sixteenths (R393). -/
def State.coreFloor (s : State) (c : Nat) : Nat := b2n (s.inRunning (clusterOf c))
def State.unitFloor (s : State) (q : Nat) : Nat := b2n (s.inRunning (q / 4) && !(s.quad q).unit.fifo.isEmpty)

def State.weightOf (s : State) (cl : Nat) : Nat :=
  match s.partOf cl with
  | some p => if (s.part p).state = .running then (s.part p).launch.weight else 0
  | none => 0

/-- Demand Q in sixteenths: of n cycles of the period, those with work (R393; log 37, DEDUCED, unsafe). -/
def demandOf (work n : Nat) : Nat := if n = 0 then 0 else min 16 ((16 * work + n - 1) / n)

/-- Cycles of the period so far. -/
def State.periodCycles (s : State) : Nat := s.now - s.modl.periodAt

/-- The four cores of a quad and its unit (log 35, DEDUCED, unsafe). -/
def State.leaves (s : State) (q : Nat) : List Figures :=
  let op := (s.quad q).op
  let w := s.weightOf (q / 4)
  ((List.range 4).map fun i =>
    leafFigures (coreMw op) (s.coreFloor (4 * q + i)) (demandOf (s.core (4 * q + i)).work s.periodCycles) w)
    ++ [leafFigures (unitMw op) (s.unitFloor q) (demandOf (s.quad q).unit.work s.periodCycles) w]

def State.quadFigures (s : State) (q : Nat) : Figures := sumFigures (s.leaves q)
def State.clusterFigures (s : State) (cl : Nat) : Figures :=
  sumFigures ((List.range 4).map fun i => s.quadFigures (4 * cl + i))
def State.dieFigures (s : State) (d : Nat) : Figures :=
  sumFigures ((List.range 256).map fun i => s.clusterFigures (256 * d + i))

-- The division of R394.

/-- A child with its grant so far, and whether it is open. -/
structure Share where
  fig : Figures
  grant : Rat
  opened : Bool
  deriving DecidableEq, Repr

/-- The loop of R394; each turn but the last closes a child. -/
def divideLoop : Nat → Rat → List Share → List Share
  | 0, _, l => l
  | n + 1, r, l =>
    let opn := l.filter Share.opened
    let s := (opn.map fun c => c.fig.w).sum
    let sm := (opn.map fun c => c.fig.m - c.fig.f).sum
    let t (c : Share) : Rat := c.grant + (if 0 < s then r * c.fig.w / s else r * (c.fig.m - c.fig.f) / sm)
    let capped (c : Share) : Bool := c.opened && decide (c.fig.m ≤ t c)
    if l.any capped then
      let r' := r - ((l.filter capped).map fun c => c.fig.m - c.grant).sum
      let l' := l.map fun c => if capped c then { c with grant := c.fig.m, opened := false } else c
      if (l'.all fun c => !c.opened) ∨ r' ≤ 0 then l' else divideLoop n r' l'
    else l.map fun c => if c.opened then { c with grant := t c } else c

/-- The grants of a controller with a budget: in shortfall every child's floor. -/
def divide (b : Rat) (cs : List Figures) : List Rat :=
  let f := (sumFigures cs).f
  if b < f then cs.map Figures.f
  else (divideLoop (cs.length + 1) (b - f) (cs.map fun c => { fig := c, grant := c.f, opened := true })).map Share.grant

-- Operating points.

/-- Floors of a quad at an operating point. -/
def State.floorsAt (s : State) (q op : Nat) : Rat :=
  coreMw op * (((List.range 4).map fun i => s.coreFloor (4 * q + i)).sum : Nat) / 16 + unitMw op * s.unitFloor q / 16

/-- The highest point that a test allows; OP0 if none. -/
def highestOp (ok : Nat → Bool) : Nat := ([7, 6, 5, 4, 3, 2, 1].find? ok).getD 0

-- Budgets, from the module down (R394, R395; log 30, DEDUCED, unsafe).

/-- The floors of a die at OP0, and of the module. -/
def State.dieFloor (s : State) (d : Nat) : Rat := ((List.range 1024).map fun i => s.floorsAt (1024 * d + i) 0).sum
def State.moduleFloor (s : State) : Rat := ((List.range 16).map s.dieFloor).sum

/-- The module budget in mW: what Wilzia set, at most 7,500 W and never below the floors (R395). -/
def State.moduleBudget (s : State) (r : BudgetReport) : Rat := max s.moduleFloor (1000 * (min 7500 r.budget : Nat))

/-- A die's budget: its grant, less 10 percent for each throttle step, never below its floors (R395, R402). -/
def State.dieBudgets (s : State) (r : BudgetReport) : List Rat :=
  let g := divide (s.moduleBudget r) ((List.range 16).map s.dieFigures)
  (List.range 16).map fun d =>
    max (s.dieFloor d) (g.getD d 0 * (9 / 10) ^ (s.modl.dies.get (Fin.ofNat 16 d)).thcut.toNat)

/-- The budgets of a die's clusters, of a cluster's quads, less what the rest of the cluster drew, and of a quad's leaves. -/
def State.clusterBudgets (s : State) (r : BudgetReport) (d : Nat) : List Rat :=
  divide ((s.dieBudgets r).getD d 0) ((List.range 256).map fun i => s.clusterFigures (256 * d + i))
def State.forQuads (s : State) (r : BudgetReport) (cl : Nat) : Rat :=
  (s.clusterBudgets r (cl / 256)).getD (cl % 256) 0
    - (((r.clusterDraw.find? fun e => e.1 == cl).map Prod.snd).getD 0 : Nat) / 1000
def State.quadBudgets (s : State) (r : BudgetReport) (cl : Nat) : List Rat :=
  divide (s.forQuads r cl) ((List.range 4).map fun i => s.quadFigures (4 * cl + i))
def State.quadGrant (s : State) (r : BudgetReport) (q : Nat) : Rat := (s.quadBudgets r (q / 4)).getD (q % 4) 0
def State.leafGrants (s : State) (r : BudgetReport) (q : Nat) : List Rat := divide (s.quadGrant r q) (s.leaves q)

/-- The cap of a controller in shortfall: the floors beneath it sum to no more than its budget (R394). -/
def State.capFor (s : State) (b : Rat) (quads : List Nat) : Nat :=
  if b < ((quads.map fun q => s.floorsAt q (s.quad q).op).sum) then
    highestOp fun op => decide ((quads.map fun q => s.floorsAt q op).sum ≤ b)
  else 7

/-- The caps of the controllers above a quad for the period that begins (R391; log 34, DEDUCED, unsafe). -/
def State.capOver (s : State) (r : BudgetReport) (q : Nat) : Nat :=
  let cl := q / 4
  let d := q / 1024
  min (s.capFor (s.forQuads r cl) ((List.range 4).map fun i => 4 * cl + i))
    (min (s.capFor ((s.dieBudgets r).getD d 0) ((List.range 1024).map fun i => 1024 * d + i))
      (s.capFor (s.moduleBudget r) (List.range 16384)))

/-- The largest OPREQ.OP of a quad's cores. -/
def State.opAsked (s : State) (q : Nat) : Nat :=
  ((List.range 4).map fun i => fld (s.core (4 * q + i)).opreq 0 3).foldl max 0

/-- The point that a quad chooses (R391). -/
def State.chooseOp (s : State) (r : BudgetReport) (q : Nat) : Nat :=
  let top := min (s.opAsked q) (s.capOver r q)
  highestOp fun op => decide (op ≤ top) && decide (s.floorsAt q op ≤ s.quadGrant r q)

/-- A leaf's duty (R394). -/
def dutyFor (grant m : Rat) (floor : Nat) : Nat := min 16 (max floor (Rat.floor (16 * grant / m)).toNat)

/-- The core numbers of a quad are those of its controller. -/
def ofQuad (q c : Nat) : Bool := c / 4 == q

/-- A period lasts 10 µs (R393). -/
def periodLength : Nat := 18000

/-- BUDGET_PERIOD (R393, R394): the leaves report; every controller, from the module down, divides its budget of the next
period among its children; the leaves set their duties, and the quads choose their points. -/
def execBudgetPeriod (r : BudgetReport) (s : State) : Out :=
  let m := s.modl
  if s.now < m.periodAt + periodLength then notNow "BUDGET_PERIOD"
  else
    let duty (q i : Nat) (mw : Rat) (floor : Nat) : Nat := dutyFor ((s.leafGrants r q).getD i 0) mw floor
    let t := s.settleCycles fun _ => true
    let cores := t.cores.map fun (e : Nat × Core) =>
      (e.1, { e.2 with fduty := duty (e.1 / 4) (e.1 % 4) (coreMw (s.quad (e.1 / 4)).op) (s.coreFloor e.1), work := 0 })
    let quads' := s.quads.map fun (e : Nat × Quad) =>
      let op := s.chooseOp r e.1
      (e.1, { e.2 with unit := { e.2.unit with mduty := duty e.1 4 (unitMw e.2.op) (s.unitFloor e.1), work := 0 },
                       opNext := if op = e.2.op then none else some op })
    let dies := Vector.ofFn fun d : Fin 16 => { m.dies.get d with budget := (s.dieBudgets r).getD d 0 }
    .next { t with
      cores := cores, quads := quads', fresh := s.fresh + 1,
      modl := { m with
        dies := dies, power := Config.freeNat s.fresh, budget := (Rat.floor (s.moduleBudget r / 1000)).toNat, periodAt := s.now,
        clusterBudget := (List.range 4096).map fun cl => (cl, (s.clusterBudgets r (cl / 256)).getD (cl % 256) 0),
        quadBudget := (List.range 16384).map fun q => (q, s.quadGrant r q) } }

/-- OP_CHANGE_DONE (R392). -/
def execOpChangeDone (quad : Nat) (s : State) : Out :=
  match (s.quad quad).opNext with
  | none => notNow "OP_CHANGE_DONE"
  | some op => .next ((s.settleCycles (ofQuad quad)).modQuad quad fun q => { q with op := op, opNext := none })

-- The limiter.

def State.modDie (s : State) (d : Nat) (f : DiePower → DiePower) : State :=
  { s with modl := { s.modl with
      dies := s.modl.dies.set (d % 16) (f (s.modl.dies.get (Fin.ofNat 16 d))) (Nat.mod_lt _ (by decide)) } }

def State.die (s : State) (d : Nat) : DiePower := s.modl.dies.get (Fin.ofNat 16 d)

/-- A die measures its supply current against ILIM (R399). -/
def DiePower.measure (p : DiePower) (now current ilim : Nat) : DiePower :=
  { p with current := current, ilim := ilim,
           lowSince := if 10 * current < 9 * ilim then some (p.lowSince.getD now) else none }

def State.supply (s : State) (d current ilim : Nat) : Option State :=
  if d < 16 then some (s.modDie d fun p => p.measure s.now current ilim) else none

/-- CURRENT_LIMIT (R399): the current exceeds ILIM. -/
def execCurrentLimit (die : Nat) (s : State) : Out :=
  let p := s.die die
  if 16 ≤ die ∨ p.limited ∨ p.current ≤ p.ilim then notNow "CURRENT_LIMIT"
  else .next (s.modDie die fun p => { p with limited := true, limitedAt := s.now, released := none, limcnt := p.limcnt + 1#16 })

/-- LIMIT_RELEASE (R399): not before 2 µs of the limit and 1 µs of a current below 90 percent of ILIM. -/
def execLimitRelease (die : Nat) (s : State) : Out :=
  let p := s.die die
  let low := match p.lowSince with
    | some t => decide (t + 1800 ≤ s.now)
    | none => false
  if 16 ≤ die ∨ !p.limited ∨ s.now < p.limitedAt + 3600 ∨ !low then notNow "LIMIT_RELEASE"
  else .next (s.modDie die fun p => { p with limited := false, released := some s.now })

-- Temperature.

/-- The word of Table 17-6 for a temperature. -/
def residencyWord (t : Nat) : Nat :=
  if t < 60 then 64 else if t < 70 then 65 else if t < 80 then 66 else if t < 90 then 67
  else if t < 95 then 68 else if t < 100 then 69 else if t < 108 then 70 else 71

/-- A sample of 10 µs is counted; 100,000 of them make a second. -/
def State.countResidency (s : State) (t : Nat) : State :=
  let w := residencyWord t
  let n := (amGet 0#64 s.modl.lifetimeLive (w + 200)).toNat + 1
  if n < 100000 then s.countLife (w + 200) 1
  else { s with modl := { s.modl with lifetimeLive := amSet s.modl.lifetimeLive (w + 200) 0#64 } }.countLife w 1

/-- Throttle steps (R402); their count stops at 255 (log 30, DEDUCED, unsafe). -/
def DiePower.throttle (p : DiePower) (hot : Bool) (t : Nat) : DiePower :=
  if hot ∧ 100 < t then { p with temp := t, thcut := if p.thcut = 0xFF#8 then p.thcut else p.thcut + 1#8 }
  else if t < 97 then { p with temp := t, thcut := if p.thcut = 0#8 then p.thcut else p.thcut - 1#8 }
  else { p with temp := t }

/-- A partition as SAVING finds it (R404). -/
def Part.thermalStop (p : Part) : Part := if p.pending then p else p.preempt true

/-- SAVING (R404), with the lifetime counters written (R416). -/
def State.enterSaving (s : State) : State :=
  { s with parts := s.parts.map fun (e : Nat × Part) => (e.1, e.2.thermalStop),
           modl := { s.modl with emergency := .saving, lifetime := s.modl.lifetimeLive } }

/-- The stacks enter or leave self-refresh (Table 16-2). -/
def State.setAsleep (s : State) (on : Bool) : State :=
  (List.range 32).foldl (fun t n => t.modBase n fun b => { b with asleep := on }) s

/-- The compute-die rails go: everything on the chips is lost, and what partitions had sent to the homes. -/
def State.railsOff (s : State) : State :=
  { s with cores := [], quads := [], clusters := [], races := [], olds := [], live := [], inflight := [],
           mem := s.mem.filter fun c => decide (2 ^ 64 ≤ c.1), eccBad := [], net := [], grants := [], freed := [],
           bases := s.bases.map fun (b : Nat × Stack) =>
             (b.1, ({ b.2 with
               coming := b.2.coming.filter fun r => !r.1.ofEngine,
               requests := b.2.requests.filter fun r => !r.ofEngine,
               replies := b.2.replies.filter fun d => !d.1.req.ofEngine,
               parked := b.2.parked.filter fun w => !w.req.ofEngine,
               asked := b.2.asked.filter Option.isNone } : Stack).settled),
           modl := { s.modl with ikPorts := s.modl.ikPorts.map fun (e : Nat × IkPort) =>
             (e.1, { e.2 with out := e.2.out.filter fun m => !m.2.ofEngine, coming := e.2.coming.filter fun m => !m.1.ofEngine }) } }

/-- A stack loses its contents: no block of a piece that lies there checks any more (R364, R405). -/
def State.loseStack (s : State) (stack : Nat) : State :=
  (s.pages.filter fun e => e.2.home == stack).foldl (fun t p =>
    (List.range 256).foldl (fun t i => t.spoil stack (p.1 / 2 ^ 32) (p.1 % 2 ^ 32 * 65536 + 256 * i) fun b => { b with macBad := true }) t) s

/-- TRIPPED (R405): contexts stop for good where they stand (log 40, DEDUCED, unsafe). -/
def State.trip (s : State) (lost : List Nat) : State :=
  let t := lost.foldl State.loseStack (s.railsOff.setAsleep true)
  { t with parts := t.parts.map fun (e : Nat × Part) => (e.1, if e.2.pending then e.2 else { e.2 with halted := true }),
           modl := { t.modl with emergency := .tripped, lostStacks := t.modl.lostStacks ++ lost } }

/-- TEMPERATURE_SAMPLE (R401 to R404), once in a period: 16 compute dies, 32 base dies and 2 I/O dies report
(log 39, DESIGN CHOICE, unsafe). -/
def execTemperatureSample (temps : List Nat) (s : State) : Out :=
  if temps.length ≠ 50 ∨ s.now < s.modl.sampledAt + periodLength then notNow "TEMPERATURE_SAMPLE"
  else
    let top := temps.foldl max 0
    let hot := decide (100 ≤ top)
    let dies := Vector.ofFn fun d : Fin 16 => (s.modl.dies.get d).throttle hot (temps.getD d 0)
    let crossed := decide (95 ≤ top) && !s.modl.warned
    let t := { s with modl := { s.modl with
      temp := top, sampledAt := s.now, dies := dies, warned := decide (95 ≤ top),
      notices := if crossed then (7, word top) :: s.modl.notices else s.modl.notices } }
    let t := t.countResidency top
    let lost := (List.range 32).filter fun n => decide (115 ≤ temps.getD (16 + n) 0)
    let e := s.modl.emergency
    if 115 ≤ top ∧ (e = .normal ∨ e = .saving ∨ e = .refresh) then .next (t.trip lost)
    else if 108 ≤ top ∧ e = .normal then .next t.enterSaving
    else .next t

/-- A launch that the emergency need not save: pending, or dead. -/
def Part.needsSave (p : Part) : Bool := !p.pending && p.state != .killed && p.state != .unbound

/-- SAVES_DONE (R403, R404). -/
def execSavesDone (s : State) : Out :=
  if s.modl.emergency = .saving ∧ s.parts.all fun e => !e.2.needsSave || (e.2.state == .savedMemory && e.2.saveValid) then
    .next { s.railsOff.setAsleep true with modl := { s.modl with emergency := .refresh } }
  else notNow "SAVES_DONE"

/-- What the scan of the save directory makes of a partition (R405): lost, or saved in memory
(log 41, DEDUCED, unsafe). -/
def Part.scanned (p : Part) (id : Nat) (lost : List Nat) : Part :=
  if !p.needsSave then (if p.state = .killed then { p with sweeping := [] } else p)
  else if p.saveValid ∧ !(lost.any (Config.areaOn id)) then
    { p with state := .savedMemory, halted := true, preemptHeld := false }
  else p.lost 4

/-- THERMAL_REENABLE (R403, R405). -/
def execThermalReenable (s : State) : Out :=
  if 95 ≤ s.modl.temp then notNow "THERMAL_REENABLE"
  else
    match s.modl.emergency with
    | .refresh => .next { s.setAsleep false with modl := { s.modl with emergency := .recovery } }
    | .tripped =>
      .next { s.setAsleep false with
        parts := s.parts.map fun (e : Nat × Part) => (e.1, e.2.scanned e.1 s.modl.lostStacks),
        modl := { s.modl with emergency := .recovery, lostStacks := [] } }
    | _ => notNow "THERMAL_REENABLE"

/-- RECOVERY_DONE (R403). -/
def execRecoveryDone (s : State) : Out :=
  if s.modl.emergency = .recovery then .next { s with modl := { s.modl with emergency := .normal } }
  else notNow "RECOVERY_DONE"

end Sys2Proof.Machine
end

