-- ==== Sys2Proof/Machine/Dispatch.lean ====
section
/-! DEFINITION. The dispatch: one arm for each constructor of Instr. -/

namespace Sys2Proof.Machine

/-- The effect of an instruction of the context in hand, or of an event. -/
def exec (i : Instr) (s : State) : Host.Outcome State Fault Refusal :=
  match i with
  | .illegalEncoding v0 v1 => Sys2Proof.Machine.execIllegalEncoding v0 v1 s
  | .add v0 v1 v2 => Sys2Proof.Machine.execAdd v0 v1 v2 s
  | .sll v0 v1 v2 => Sys2Proof.Machine.execSll v0 v1 v2 s
  | .slt v0 v1 v2 => Sys2Proof.Machine.execSlt v0 v1 v2 s
  | .sltu v0 v1 v2 => Sys2Proof.Machine.execSltu v0 v1 v2 s
  | .xor v0 v1 v2 => Sys2Proof.Machine.execXor v0 v1 v2 s
  | .srl v0 v1 v2 => Sys2Proof.Machine.execSrl v0 v1 v2 s
  | .or v0 v1 v2 => Sys2Proof.Machine.execOr v0 v1 v2 s
  | .and v0 v1 v2 => Sys2Proof.Machine.execAnd v0 v1 v2 s
  | .sub v0 v1 v2 => Sys2Proof.Machine.execSub v0 v1 v2 s
  | .sra v0 v1 v2 => Sys2Proof.Machine.execSra v0 v1 v2 s
  | .mul v0 v1 v2 => Sys2Proof.Machine.execMul v0 v1 v2 s
  | .mulh v0 v1 v2 => Sys2Proof.Machine.execMulh v0 v1 v2 s
  | .mulhsu v0 v1 v2 => Sys2Proof.Machine.execMulhsu v0 v1 v2 s
  | .mulhu v0 v1 v2 => Sys2Proof.Machine.execMulhu v0 v1 v2 s
  | .div v0 v1 v2 => Sys2Proof.Machine.execDiv v0 v1 v2 s
  | .divu v0 v1 v2 => Sys2Proof.Machine.execDivu v0 v1 v2 s
  | .rem v0 v1 v2 => Sys2Proof.Machine.execRem v0 v1 v2 s
  | .remu v0 v1 v2 => Sys2Proof.Machine.execRemu v0 v1 v2 s
  | .min v0 v1 v2 => Sys2Proof.Machine.execMin v0 v1 v2 s
  | .max v0 v1 v2 => Sys2Proof.Machine.execMax v0 v1 v2 s
  | .minu v0 v1 v2 => Sys2Proof.Machine.execMinu v0 v1 v2 s
  | .maxu v0 v1 v2 => Sys2Proof.Machine.execMaxu v0 v1 v2 s
  | .clz v0 v1 => Sys2Proof.Machine.execClz v0 v1 s
  | .ctz v0 v1 => Sys2Proof.Machine.execCtz v0 v1 s
  | .popc v0 v1 => Sys2Proof.Machine.execPopc v0 v1 s
  | .brev v0 v1 => Sys2Proof.Machine.execBrev v0 v1 s
  | .sextb v0 v1 => Sys2Proof.Machine.execSextb v0 v1 s
  | .sexth v0 v1 => Sys2Proof.Machine.execSexth v0 v1 s
  | .sextw v0 v1 => Sys2Proof.Machine.execSextw v0 v1 s
  | .addi v0 v1 v2 => Sys2Proof.Machine.execAddi v0 v1 v2 s
  | .slti v0 v1 v2 => Sys2Proof.Machine.execSlti v0 v1 v2 s
  | .sltiu v0 v1 v2 => Sys2Proof.Machine.execSltiu v0 v1 v2 s
  | .xori v0 v1 v2 => Sys2Proof.Machine.execXori v0 v1 v2 s
  | .ori v0 v1 v2 => Sys2Proof.Machine.execOri v0 v1 v2 s
  | .andi v0 v1 v2 => Sys2Proof.Machine.execAndi v0 v1 v2 s
  | .slli v0 v1 v2 => Sys2Proof.Machine.execSlli v0 v1 v2 s
  | .srli v0 v1 v2 => Sys2Proof.Machine.execSrli v0 v1 v2 s
  | .srai v0 v1 v2 => Sys2Proof.Machine.execSrai v0 v1 v2 s
  | .lih v0 v1 => Sys2Proof.Machine.execLih v0 v1 s
  | .addpc v0 v1 => Sys2Proof.Machine.execAddpc v0 v1 s
  | .lb v0 v1 v2 => Sys2Proof.Machine.execLb v0 v1 v2 s
  | .lh v0 v1 v2 => Sys2Proof.Machine.execLh v0 v1 v2 s
  | .lw v0 v1 v2 => Sys2Proof.Machine.execLw v0 v1 v2 s
  | .ld v0 v1 v2 => Sys2Proof.Machine.execLd v0 v1 v2 s
  | .lbu v0 v1 v2 => Sys2Proof.Machine.execLbu v0 v1 v2 s
  | .lhu v0 v1 v2 => Sys2Proof.Machine.execLhu v0 v1 v2 s
  | .lwu v0 v1 v2 => Sys2Proof.Machine.execLwu v0 v1 v2 s
  | .sb v0 v1 v2 => Sys2Proof.Machine.execSb v0 v1 v2 s
  | .sh v0 v1 v2 => Sys2Proof.Machine.execSh v0 v1 v2 s
  | .sw v0 v1 v2 => Sys2Proof.Machine.execSw v0 v1 v2 s
  | .sd v0 v1 v2 => Sys2Proof.Machine.execSd v0 v1 v2 s
  | .beq v0 v1 v2 => Sys2Proof.Machine.execBeq v0 v1 v2 s
  | .bne v0 v1 v2 => Sys2Proof.Machine.execBne v0 v1 v2 s
  | .blt v0 v1 v2 => Sys2Proof.Machine.execBlt v0 v1 v2 s
  | .bge v0 v1 v2 => Sys2Proof.Machine.execBge v0 v1 v2 s
  | .bltu v0 v1 v2 => Sys2Proof.Machine.execBltu v0 v1 v2 s
  | .bgeu v0 v1 v2 => Sys2Proof.Machine.execBgeu v0 v1 v2 s
  | .jal v0 v1 => Sys2Proof.Machine.execJal v0 v1 s
  | .jalr v0 v1 v2 => Sys2Proof.Machine.execJalr v0 v1 v2 s
  | .bfx v0 v1 v2 v3 => Sys2Proof.Machine.execBfx v0 v1 v2 v3 s
  | .bfi v0 v1 v2 v3 => Sys2Proof.Machine.execBfi v0 v1 v2 v3 s
  | .mkaddr v0 v1 v2 => Sys2Proof.Machine.execMkaddr v0 v1 v2 s
  | .absaddr v0 v1 => Sys2Proof.Machine.execAbsaddr v0 v1 s
  | .ecall => Sys2Proof.Machine.execEcall s
  | .ebreak => Sys2Proof.Machine.execEbreak s
  | .tret => Sys2Proof.Machine.execTret s
  | .wfe => Sys2Proof.Machine.execWfe s
  | .isync => Sys2Proof.Machine.execIsync s
  | .csrrw v0 v1 v2 => Sys2Proof.Machine.execCsrrw v0 v1 v2 s
  | .csrrs v0 v1 v2 => Sys2Proof.Machine.execCsrrs v0 v1 v2 s
  | .csrrc v0 v1 v2 => Sys2Proof.Machine.execCsrrc v0 v1 v2 s
  | .csrrwi v0 v1 v2 => Sys2Proof.Machine.execCsrrwi v0 v1 v2 s
  | .csrrsi v0 v1 v2 => Sys2Proof.Machine.execCsrrsi v0 v1 v2 s
  | .csrrci v0 v1 v2 => Sys2Proof.Machine.execCsrrci v0 v1 v2 s
  | .flh v0 v1 v2 => Sys2Proof.Machine.execFlh v0 v1 v2 s
  | .flw v0 v1 v2 => Sys2Proof.Machine.execFlw v0 v1 v2 s
  | .fld v0 v1 v2 => Sys2Proof.Machine.execFld v0 v1 v2 s
  | .fsh v0 v1 v2 => Sys2Proof.Machine.execFsh v0 v1 v2 s
  | .fsw v0 v1 v2 => Sys2Proof.Machine.execFsw v0 v1 v2 s
  | .fsd v0 v1 v2 => Sys2Proof.Machine.execFsd v0 v1 v2 s
  | .fadd v0 v1 v2 v3 v4 => Sys2Proof.Machine.execFadd v0 v1 v2 v3 v4 s
  | .fsub v0 v1 v2 v3 v4 => Sys2Proof.Machine.execFsub v0 v1 v2 v3 v4 s
  | .fmul v0 v1 v2 v3 v4 => Sys2Proof.Machine.execFmul v0 v1 v2 v3 v4 s
  | .fdiv v0 v1 v2 v3 v4 => Sys2Proof.Machine.execFdiv v0 v1 v2 v3 v4 s
  | .fsqrt v0 v1 v2 v3 => Sys2Proof.Machine.execFsqrt v0 v1 v2 v3 s
  | .fsgnj v0 v1 v2 v3 => Sys2Proof.Machine.execFsgnj v0 v1 v2 v3 s
  | .fsgnjn v0 v1 v2 v3 => Sys2Proof.Machine.execFsgnjn v0 v1 v2 v3 s
  | .fsgnjx v0 v1 v2 v3 => Sys2Proof.Machine.execFsgnjx v0 v1 v2 v3 s
  | .fmin v0 v1 v2 v3 => Sys2Proof.Machine.execFmin v0 v1 v2 v3 s
  | .fmax v0 v1 v2 v3 => Sys2Proof.Machine.execFmax v0 v1 v2 v3 s
  | .fle v0 v1 v2 v3 => Sys2Proof.Machine.execFle v0 v1 v2 v3 s
  | .flt v0 v1 v2 v3 => Sys2Proof.Machine.execFlt v0 v1 v2 v3 s
  | .feq v0 v1 v2 v3 => Sys2Proof.Machine.execFeq v0 v1 v2 v3 s
  | .fclass v0 v1 v2 => Sys2Proof.Machine.execFclass v0 v1 v2 s
  | .fcvtFloatFloat v0 v1 v2 v3 v4 v5 => Sys2Proof.Machine.execFcvtFloatFloat v0 v1 v2 v3 v4 v5 s
  | .fcvtFloatInt v0 v1 v2 v3 v4 v5 => Sys2Proof.Machine.execFcvtFloatInt v0 v1 v2 v3 v4 v5 s
  | .fcvtIntFloat v0 v1 v2 v3 v4 => Sys2Proof.Machine.execFcvtIntFloat v0 v1 v2 v3 v4 s
  | .fmvx v0 v1 v2 => Sys2Proof.Machine.execFmvx v0 v1 v2 s
  | .fmvf v0 v1 v2 => Sys2Proof.Machine.execFmvf v0 v1 v2 s
  | .fmadd v0 v1 v2 v3 v4 v5 => Sys2Proof.Machine.execFmadd v0 v1 v2 v3 v4 v5 s
  | .fmsub v0 v1 v2 v3 v4 v5 => Sys2Proof.Machine.execFmsub v0 v1 v2 v3 v4 v5 s
  | .fnmadd v0 v1 v2 v3 v4 v5 => Sys2Proof.Machine.execFnmadd v0 v1 v2 v3 v4 v5 s
  | .fnmsub v0 v1 v2 v3 v4 v5 => Sys2Proof.Machine.execFnmsub v0 v1 v2 v3 v4 v5 s
  | .sbind v0 v1 v2 => Sys2Proof.Machine.execSbind v0 v1 v2 s
  | .sunbind v0 => Sys2Proof.Machine.execSunbind v0 s
  | .sskip v0 v1 => Sys2Proof.Machine.execSskip v0 v1 s
  | .ssync v0 => Sys2Proof.Machine.execSsync v0 s
  | .frep v0 v1 => Sys2Proof.Machine.execFrep v0 v1 s
  | .frepi v0 v1 => Sys2Proof.Machine.execFrepi v0 v1 s
  | .vld v0 v1 v2 v3 => Sys2Proof.Machine.execVld v0 v1 v2 v3 s
  | .vst v0 v1 v2 => Sys2Proof.Machine.execVst v0 v1 v2 s
  | .vlds v0 v1 v2 v3 v4 => Sys2Proof.Machine.execVlds v0 v1 v2 v3 v4 s
  | .vsts v0 v1 v2 v3 => Sys2Proof.Machine.execVsts v0 v1 v2 v3 s
  | .vgather v0 v1 v2 v3 v4 => Sys2Proof.Machine.execVgather v0 v1 v2 v3 v4 s
  | .vscatter v0 v1 v2 v3 => Sys2Proof.Machine.execVscatter v0 v1 v2 v3 s
  | .vldb v0 v1 v2 => Sys2Proof.Machine.execVldb v0 v1 v2 s
  | .vadd v0 v1 v2 v3 => Sys2Proof.Machine.execVadd v0 v1 v2 v3 s
  | .vsub v0 v1 v2 v3 => Sys2Proof.Machine.execVsub v0 v1 v2 v3 s
  | .vmul v0 v1 v2 v3 => Sys2Proof.Machine.execVmul v0 v1 v2 v3 s
  | .vmin v0 v1 v2 => Sys2Proof.Machine.execVmin v0 v1 v2 s
  | .vmax v0 v1 v2 => Sys2Proof.Machine.execVmax v0 v1 v2 s
  | .vand v0 v1 v2 => Sys2Proof.Machine.execVand v0 v1 v2 s
  | .vor v0 v1 v2 => Sys2Proof.Machine.execVor v0 v1 v2 s
  | .vxor v0 v1 v2 => Sys2Proof.Machine.execVxor v0 v1 v2 s
  | .vshl v0 v1 v2 => Sys2Proof.Machine.execVshl v0 v1 v2 s
  | .vshr v0 v1 v2 => Sys2Proof.Machine.execVshr v0 v1 v2 s
  | .vsra v0 v1 v2 => Sys2Proof.Machine.execVsra v0 v1 v2 s
  | .vcmp v0 v1 v2 v3 => Sys2Proof.Machine.execVcmp v0 v1 v2 v3 s
  | .vabs v0 v1 => Sys2Proof.Machine.execVabs v0 v1 s
  | .vneg v0 v1 => Sys2Proof.Machine.execVneg v0 v1 s
  | .vfma v0 v1 v2 v3 v4 => Sys2Proof.Machine.execVfma v0 v1 v2 v3 v4 s
  | .vfms v0 v1 v2 v3 v4 => Sys2Proof.Machine.execVfms v0 v1 v2 v3 v4 s
  | .vnfma v0 v1 v2 v3 v4 => Sys2Proof.Machine.execVnfma v0 v1 v2 v3 v4 s
  | .vsel v0 v1 v2 v3 => Sys2Proof.Machine.execVsel v0 v1 v2 v3 s
  | .vredAdd v0 v1 v2 => Sys2Proof.Machine.execVredAdd v0 v1 v2 s
  | .vredMin v0 v1 => Sys2Proof.Machine.execVredMin v0 v1 s
  | .vredMax v0 v1 => Sys2Proof.Machine.execVredMax v0 v1 s
  | .vdot v0 v1 v2 v3 => Sys2Proof.Machine.execVdot v0 v1 v2 v3 s
  | .vcvt v0 v1 v2 v3 v4 => Sys2Proof.Machine.execVcvt v0 v1 v2 v3 v4 s
  | .vqnt v0 v1 v2 v3 v4 => Sys2Proof.Machine.execVqnt v0 v1 v2 v3 v4 s
  | .vdqnt v0 v1 v2 v3 => Sys2Proof.Machine.execVdqnt v0 v1 v2 v3 s
  | .vperm v0 v1 v2 => Sys2Proof.Machine.execVperm v0 v1 v2 s
  | .vshuf v0 v1 v2 => Sys2Proof.Machine.execVshuf v0 v1 v2 s
  | .vslideUp v0 v1 v2 => Sys2Proof.Machine.execVslideUp v0 v1 v2 s
  | .vslideDown v0 v1 v2 => Sys2Proof.Machine.execVslideDown v0 v1 v2 s
  | .vbcastX v0 v1 => Sys2Proof.Machine.execVbcastX v0 v1 s
  | .vbcastF v0 v1 => Sys2Proof.Machine.execVbcastF v0 v1 s
  | .vexp2 v0 v1 => Sys2Proof.Machine.execVexp2 v0 v1 s
  | .vrcp v0 v1 => Sys2Proof.Machine.execVrcp v0 v1 s
  | .vrsq v0 v1 => Sys2Proof.Machine.execVrsq v0 v1 s
  | .vmov v0 v1 => Sys2Proof.Machine.execVmov v0 v1 s
  | .vmvx v0 v1 v2 => Sys2Proof.Machine.execVmvx v0 v1 v2 s
  | .vmvf v0 v1 v2 => Sys2Proof.Machine.execVmvf v0 v1 v2 s
  | .vtag v0 v1 v2 => Sys2Proof.Machine.execVtag v0 v1 v2 s
  | .vsideRead v0 v1 => Sys2Proof.Machine.execVsideRead v0 v1 s
  | .vsideWrite v0 v1 => Sys2Proof.Machine.execVsideWrite v0 v1 s
  | .bbinit v0 v1 => Sys2Proof.Machine.execBbinit v0 v1 s
  | .bbget v0 v1 => Sys2Proof.Machine.execBbget v0 v1 s
  | .bbpeek v0 v1 => Sys2Proof.Machine.execBbpeek v0 v1 s
  | .bbskip v0 => Sys2Proof.Machine.execBbskip v0 s
  | .bbdec v0 v1 v2 => Sys2Proof.Machine.execBbdec v0 v1 v2 s
  | .bbemit v0 v1 => Sys2Proof.Machine.execBbemit v0 v1 s
  | .bbflush => Sys2Proof.Machine.execBbflush s
  | .bbalign => Sys2Proof.Machine.execBbalign s
  | .amoswap v0 v1 v2 v3 v4 v5 v6 => Sys2Proof.Machine.execAmoswap v0 v1 v2 v3 v4 v5 v6 s
  | .amoadd v0 v1 v2 v3 v4 v5 v6 => Sys2Proof.Machine.execAmoadd v0 v1 v2 v3 v4 v5 v6 s
  | .amoand v0 v1 v2 v3 v4 v5 v6 => Sys2Proof.Machine.execAmoand v0 v1 v2 v3 v4 v5 v6 s
  | .amoor v0 v1 v2 v3 v4 v5 v6 => Sys2Proof.Machine.execAmoor v0 v1 v2 v3 v4 v5 v6 s
  | .amoxor v0 v1 v2 v3 v4 v5 v6 => Sys2Proof.Machine.execAmoxor v0 v1 v2 v3 v4 v5 v6 s
  | .amomin v0 v1 v2 v3 v4 v5 v6 => Sys2Proof.Machine.execAmomin v0 v1 v2 v3 v4 v5 v6 s
  | .amomax v0 v1 v2 v3 v4 v5 v6 => Sys2Proof.Machine.execAmomax v0 v1 v2 v3 v4 v5 v6 s
  | .amominu v0 v1 v2 v3 v4 v5 v6 => Sys2Proof.Machine.execAmominu v0 v1 v2 v3 v4 v5 v6 s
  | .amomaxu v0 v1 v2 v3 v4 v5 v6 => Sys2Proof.Machine.execAmomaxu v0 v1 v2 v3 v4 v5 v6 s
  | .amocas v0 v1 v2 v3 v4 v5 v6 => Sys2Proof.Machine.execAmocas v0 v1 v2 v3 v4 v5 v6 s
  | .amocasQ v0 v1 v2 v3 v4 v5 => Sys2Proof.Machine.execAmocasQ v0 v1 v2 v3 v4 v5 s
  | .famoadd v0 v1 v2 v3 v4 v5 v6 => Sys2Proof.Machine.execFamoadd v0 v1 v2 v3 v4 v5 v6 s
  | .fence v0 => Sys2Proof.Machine.execFence v0 s
  | .ldaq v0 v1 v2 v3 => Sys2Proof.Machine.execLdaq v0 v1 v2 v3 s
  | .strl v0 v1 v2 v3 => Sys2Proof.Machine.execStrl v0 v1 v2 v3 s
  | .bar v0 => Sys2Proof.Machine.execBar v0 s
  | .bararr v0 => Sys2Proof.Machine.execBararr v0 s
  | .barwait v0 => Sys2Proof.Machine.execBarwait v0 s
  | .tbinit v0 v1 v2 => Sys2Proof.Machine.execTbinit v0 v1 v2 s
  | .tbexp v0 v1 v2 => Sys2Proof.Machine.execTbexp v0 v1 v2 s
  | .tbarr v0 => Sys2Proof.Machine.execTbarr v0 s
  | .tbwait v0 v1 => Sys2Proof.Machine.execTbwait v0 v1 s
  | .tbtest v0 v1 => Sys2Proof.Machine.execTbtest v0 v1 s
  | .tbact v0 v1 => Sys2Proof.Machine.execTbact v0 v1 s
  | .tbretire v0 => Sys2Proof.Machine.execTbretire v0 s
  | .sendr v0 v1 v2 => Sys2Proof.Machine.execSendr v0 v1 v2 s
  | .pclr v0 => Sys2Proof.Machine.execPclr v0 s
  | .ptest v0 v1 => Sys2Proof.Machine.execPtest v0 v1 s
  | .xmsg v0 v1 v2 v3 => Sys2Proof.Machine.execXmsg v0 v1 v2 v3 s
  | .mtake v0 => Sys2Proof.Machine.execMtake v0 s
  | .mfree v0 => Sys2Proof.Machine.execMfree v0 s
  | .spawn v0 v1 v2 => Sys2Proof.Machine.execSpawn v0 v1 v2 s
  | .hexit => Sys2Proof.Machine.execHexit s
  | .hwait v0 => Sys2Proof.Machine.execHwait v0 s
  | .dqpush v0 => Sys2Proof.Machine.execDqpush v0 s
  | .dqpop v0 => Sys2Proof.Machine.execDqpop v0 s
  | .dqsteal v0 v1 => Sys2Proof.Machine.execDqsteal v0 v1 s
  | .dqlen v0 => Sys2Proof.Machine.execDqlen v0 s
  | .rinit v0 v1 => Sys2Proof.Machine.execRinit v0 v1 s
  | .rclaim v0 v1 => Sys2Proof.Machine.execRclaim v0 v1 s
  | .rcommit v0 => Sys2Proof.Machine.execRcommit v0 s
  | .rtake v0 v1 => Sys2Proof.Machine.execRtake v0 v1 s
  | .rfree v0 => Sys2Proof.Machine.execRfree v0 s
  | .xcopy v0 v1 v2 v3 v4 => Sys2Proof.Machine.execXcopy v0 v1 v2 v3 v4 s
  | .xsub v0 v1 v2 => Sys2Proof.Machine.execXsub v0 v1 v2 s
  | .xpub v0 v1 v2 => Sys2Proof.Machine.execXpub v0 v1 v2 s
  | .xamo v0 v1 v2 v3 v4 => Sys2Proof.Machine.execXamo v0 v1 v2 v3 v4 s
  | .xresume v0 => Sys2Proof.Machine.execXresume v0 s
  | .xcancel v0 => Sys2Proof.Machine.execXcancel v0 s
  | .xdisc v0 v1 => Sys2Proof.Machine.execXdisc v0 v1 s
  | .ptouch v0 v1 => Sys2Proof.Machine.execPtouch v0 v1 s
  | .mma v0 v1 v2 v3 => Sys2Proof.Machine.execMma v0 v1 v2 v3 s
  | .mzero v0 v1 => Sys2Proof.Machine.execMzero v0 v1 s
  | .mload v0 v1 v2 => Sys2Proof.Machine.execMload v0 v1 v2 s
  | .mstore v0 v1 v2 v3 => Sys2Proof.Machine.execMstore v0 v1 v2 v3 s
  | .mdrain v0 v1 v2 v3 v4 => Sys2Proof.Machine.execMdrain v0 v1 v2 v3 v4 s
  | .mfence v0 => Sys2Proof.Machine.execMfence v0 s
  | .fold v0 v1 v2 v3 v4 => Sys2Proof.Machine.execFold v0 v1 v2 v3 v4 s
  | .fres v0 v1 => Sys2Proof.Machine.execFres v0 v1 s
  | .frel v0 => Sys2Proof.Machine.execFrel v0 s
  | .fkey v0 v1 => Sys2Proof.Machine.execFkey v0 v1 s
  | .add16 v0 v1 => Sys2Proof.Machine.execAdd16 v0 v1 s
  | .sub16 v0 v1 => Sys2Proof.Machine.execSub16 v0 v1 s
  | .and16 v0 v1 => Sys2Proof.Machine.execAnd16 v0 v1 s
  | .or16 v0 v1 => Sys2Proof.Machine.execOr16 v0 v1 s
  | .xor16 v0 v1 => Sys2Proof.Machine.execXor16 v0 v1 s
  | .sll16 v0 v1 => Sys2Proof.Machine.execSll16 v0 v1 s
  | .srl16 v0 v1 => Sys2Proof.Machine.execSrl16 v0 v1 s
  | .mv16 v0 v1 => Sys2Proof.Machine.execMv16 v0 v1 s
  | .addi16 v0 v1 => Sys2Proof.Machine.execAddi16 v0 v1 s
  | .fadd16 v0 v1 => Sys2Proof.Machine.execFadd16 v0 v1 s
  | .fsub16 v0 v1 => Sys2Proof.Machine.execFsub16 v0 v1 s
  | .fmul16 v0 v1 => Sys2Proof.Machine.execFmul16 v0 v1 s
  | .fmax16 v0 v1 => Sys2Proof.Machine.execFmax16 v0 v1 s
  | .vadd16 v0 v1 => Sys2Proof.Machine.execVadd16 v0 v1 s
  | .vsub16 v0 v1 => Sys2Proof.Machine.execVsub16 v0 v1 s
  | .vmul16 v0 v1 => Sys2Proof.Machine.execVmul16 v0 v1 s
  | .sendrArrive v0 => Sys2Proof.Machine.execSendrArrive v0 s
  | .xmsgArrive v0 => Sys2Proof.Machine.execXmsgArrive v0 s
  | .helperStart v0 => Sys2Proof.Machine.execHelperStart v0 s
  | .enginePieceSend v0 v1 => Sys2Proof.Machine.execEnginePieceSend v0 v1 s
  | .layoutRecordRead v0 v1 => Sys2Proof.Machine.execLayoutRecordRead v0 v1 s
  | .engineSlotClaim v0 v1 => Sys2Proof.Machine.execEngineSlotClaim v0 v1 s
  | .xpubSlotTake v0 v1 => Sys2Proof.Machine.execXpubSlotTake v0 v1 s
  | .pieceLand v0 v1 v2 => Sys2Proof.Machine.execPieceLand v0 v1 v2 s
  | .handBack v0 v1 => Sys2Proof.Machine.execHandBack v0 v1 s
  | .ptouchResolved v0 v1 => Sys2Proof.Machine.execPtouchResolved v0 v1 s
  | .discardAccept v0 v1 => Sys2Proof.Machine.execDiscardAccept v0 v1 s
  | .matrixCommandStart v0 => Sys2Proof.Machine.execMatrixCommandStart v0 s
  | .kstepTake v0 => Sys2Proof.Machine.execKstepTake v0 s
  | .kstepRetire v0 => Sys2Proof.Machine.execKstepRetire v0 s
  | .kstepWaitTimeout v0 => Sys2Proof.Machine.execKstepWaitTimeout v0 s
  | .drainRowOffer v0 => Sys2Proof.Machine.execDrainRowOffer v0 s
  | .mloadDone v0 v1 => Sys2Proof.Machine.execMloadDone v0 v1 s
  | .foldOperandArrive v0 => Sys2Proof.Machine.execFoldOperandArrive v0 s
  | .foldResultDeliver v0 v1 => Sys2Proof.Machine.execFoldResultDeliver v0 v1 s
  | .foldOrphanTimeout v0 v1 => Sys2Proof.Machine.execFoldOrphanTimeout v0 v1 s
  | .fresGrant v0 => Sys2Proof.Machine.execFresGrant v0 s
  | .ecallExit v0 => Sys2Proof.Machine.execEcallExit v0 s
  | .park v0 v1 => Sys2Proof.Machine.execPark v0 v1 s
  | .setoto v0 v1 => Sys2Proof.Machine.execSetoto v0 v1 s
  | .setseed v0 v1 => Sys2Proof.Machine.execSetseed v0 v1 s
  | .wilziaAnswer v0 v1 => Sys2Proof.Machine.execWilziaAnswer v0 v1 s
  | .barTimeout v0 v1 => Sys2Proof.Machine.execBarTimeout v0 v1 s
  | .presenceTimeout v0 v1 => Sys2Proof.Machine.execPresenceTimeout v0 v1 s
  | .wfeRelease v0 v1 => Sys2Proof.Machine.execWfeRelease v0 v1 s
  | .remoteAck v0 v1 v2 => Sys2Proof.Machine.execRemoteAck v0 v1 v2 s
  | .streamPrefetch v0 v1 => Sys2Proof.Machine.execStreamPrefetch v0 v1 s
  | .latheIssue v0 => Sys2Proof.Machine.execLatheIssue v0 s
  | .launch v0 v1 v2 => Sys2Proof.Machine.execLaunch v0 v1 v2 s
  | .fencePacket v0 v1 v2 => Sys2Proof.Machine.execFencePacket v0 v1 v2 s
  | .fencePoll v0 v1 v2 => Sys2Proof.Machine.execFencePoll v0 v1 v2 s
  | .fenceTimeout v0 v1 => Sys2Proof.Machine.execFenceTimeout v0 v1 s
  | .cond v0 v1 v2 => Sys2Proof.Machine.execCond v0 v1 v2 s
  | .signal v0 v1 v2 => Sys2Proof.Machine.execSignal v0 v1 v2 s
  | .copyPacket v0 v1 v2 v3 => Sys2Proof.Machine.execCopyPacket v0 v1 v2 v3 s
  | .copyDone v0 v1 v2 => Sys2Proof.Machine.execCopyDone v0 v1 v2 s
  | .preemptHold v0 v1 v2 => Sys2Proof.Machine.execPreemptHold v0 v1 v2 s
  | .preemptRelease v0 v1 v2 => Sys2Proof.Machine.execPreemptRelease v0 v1 v2 s
  | .killPacket v0 v1 v2 => Sys2Proof.Machine.execKillPacket v0 v1 v2 s
  | .queueDoorbell v0 v1 v2 => Sys2Proof.Machine.execQueueDoorbell v0 v1 v2 s
  | .queueEnable v0 v1 v2 => Sys2Proof.Machine.execQueueEnable v0 v1 v2 s
  | .queueErrorClear v0 v1 => Sys2Proof.Machine.execQueueErrorClear v0 v1 s
  | .hostRegisterWrite v0 v1 v2 => Sys2Proof.Machine.execHostRegisterWrite v0 v1 v2 s
  | .bind v0 v1 => Sys2Proof.Machine.execBind v0 v1 s
  | .bindComplete v0 => Sys2Proof.Machine.execBindComplete v0 s
  | .bindWaitCap v0 => Sys2Proof.Machine.execBindWaitCap v0 s
  | .launchEnd v0 => Sys2Proof.Machine.execLaunchEnd v0 s
  | .preemptRequest v0 v1 => Sys2Proof.Machine.execPreemptRequest v0 v1 s
  | .haltComplete v0 => Sys2Proof.Machine.execHaltComplete v0 s
  | .swapComplete v0 => Sys2Proof.Machine.execSwapComplete v0 s
  | .saveComplete v0 => Sys2Proof.Machine.execSaveComplete v0 s
  | .evict v0 => Sys2Proof.Machine.execEvict v0 s
  | .restoreRequest v0 => Sys2Proof.Machine.execRestoreRequest v0 s
  | .restoreDone v0 v1 => Sys2Proof.Machine.execRestoreDone v0 v1 s
  | .killRequest v0 => Sys2Proof.Machine.execKillRequest v0 s
  | .killSweepEnd v0 v1 => Sys2Proof.Machine.execKillSweepEnd v0 v1 s
  | .killConfirm v0 => Sys2Proof.Machine.execKillConfirm v0 s
  | .stackFlitReceive v0 v1 => Sys2Proof.Machine.execStackFlitReceive v0 v1 s
  | .linkReplay v0 => Sys2Proof.Machine.execLinkReplay v0 s
  | .linkRetrain v0 v1 => Sys2Proof.Machine.execLinkRetrain v0 v1 s
  | .homeRequestApply v0 v1 => Sys2Proof.Machine.execHomeRequestApply v0 v1 s
  | .gleanerStep v0 => Sys2Proof.Machine.execGleanerStep v0 s
  | .wilziaGrowthAnswer v0 v1 v2 v3 => Sys2Proof.Machine.execWilziaGrowthAnswer v0 v1 v2 v3 s
  | .parkDeadline v0 => Sys2Proof.Machine.execParkDeadline v0 s
  | .faultAnswer v0 v1 => Sys2Proof.Machine.execFaultAnswer v0 v1 s
  | .cxlLinkDown v0 => Sys2Proof.Machine.execCxlLinkDown v0 s
  | .hostAtomic v0 v1 v2 v3 v4 v5 => Sys2Proof.Machine.execHostAtomic v0 v1 v2 v3 v4 v5 s
  | .ikirathFlitReceive v0 v1 => Sys2Proof.Machine.execIkirathFlitReceive v0 v1 s
  | .podArrival v0 v1 v2 => Sys2Proof.Machine.execPodArrival v0 v1 v2 s
  | .podPidAllot v0 v1 v2 => Sys2Proof.Machine.execPodPidAllot v0 v1 v2 s
  | .budgetPeriod v0 => Sys2Proof.Machine.execBudgetPeriod v0 s
  | .opChangeDone v0 => Sys2Proof.Machine.execOpChangeDone v0 s
  | .currentLimit v0 => Sys2Proof.Machine.execCurrentLimit v0 s
  | .limitRelease v0 => Sys2Proof.Machine.execLimitRelease v0 s
  | .temperatureSample v0 => Sys2Proof.Machine.execTemperatureSample v0 s
  | .savesDone => Sys2Proof.Machine.execSavesDone s
  | .thermalReenable => Sys2Proof.Machine.execThermalReenable s
  | .recoveryDone => Sys2Proof.Machine.execRecoveryDone s
  | .retentionEntry v0 => Sys2Proof.Machine.execRetentionEntry v0 s
  | .retentionExit v0 v1 => Sys2Proof.Machine.execRetentionExit v0 v1 s
  | .powerOn v0 => Sys2Proof.Machine.execPowerOn v0 s
  | .bootReady => Sys2Proof.Machine.execBootReady s
  | .recoveryGo v0 => Sys2Proof.Machine.execRecoveryGo v0 s
  | .attestationGo => Sys2Proof.Machine.execAttestationGo s
  | .attestationDone => Sys2Proof.Machine.execAttestationDone s
  | .funcon => Sys2Proof.Machine.execFuncon s
  | .funcoff => Sys2Proof.Machine.execFuncoff s
  | .trapk => Sys2Proof.Machine.execTrapk s
  | .homerng => Sys2Proof.Machine.execHomerng s
  | .map v0 => Sys2Proof.Machine.execMap v0 s
  | .unmap => Sys2Proof.Machine.execUnmap s
  | .quota v0 => Sys2Proof.Machine.execQuota v0 s
  | .functionRequestDone => Sys2Proof.Machine.execFunctionRequestDone s
  | .lifetimeUpdate => Sys2Proof.Machine.execLifetimeUpdate s
  | .fpVectorQueueDrain v0 => Sys2Proof.Machine.execFpVectorQueueDrain v0 s
  | .remoteAccessPerform v0 v1 v2 => Sys2Proof.Machine.execRemoteAccessPerform v0 v1 v2 s
  | .routerOutputGrant v0 v1 v2 => Sys2Proof.Machine.execRouterOutputGrant v0 v1 v2 s
  | .matrixCommandArrive v0 => Sys2Proof.Machine.execMatrixCommandArrive v0 s
  | .matrixCommandDone v0 => Sys2Proof.Machine.execMatrixCommandDone v0 s
  | .foldRequestArrive v0 => Sys2Proof.Machine.execFoldRequestArrive v0 s
  | .foldAnswer v0 => Sys2Proof.Machine.execFoldAnswer v0 s
  | .pieceFault v0 v1 v2 => Sys2Proof.Machine.execPieceFault v0 v1 v2 s
  | .linkRecovered v0 => Sys2Proof.Machine.execLinkRecovered v0 s
  | .podFormation v0 v1 => Sys2Proof.Machine.execPodFormation v0 v1 s
  | .uncorrectableError v0 => Sys2Proof.Machine.execUncorrectableError v0 s

end Sys2Proof.Machine
end

