-- ==== Sys2Proof/Machine/Slots.lean ====
section
/-! DEFINITION. Which context a core's issue cycle serves (R30), what moves by itself, and the events that time does
not pass by (R25, R37, R263, R334, R356, R399). -/

namespace Sys2Proof.Machine

/-- Jumps and branches, which may leave the PC where it is. -/
def Instr.jumps : Instr → Bool
  | .jal .. | .jalr .. | .beq .. | .bne .. | .blt .. | .bge .. | .bltu .. | .bgeu .. => true
  | _ => false

/-- What an instruction that does not issue leaves as it is: the PC, the level, the wait, the accesses on their way,
and whether the context runs. -/
def Ctx.place (x : Ctx) : BitVec 64 × Level × Option Wait × Nat × Bool :=
  (x.pc, x.level, x.wait, x.pending.length, x.live)

/-- Whether an instruction that has passed the gate must still wait before it issues: for room in the window or in an
injection queue, for an older store to its granules, for its turn at the vector unit, or for older work before its
trap. Such an instruction would leave its context where it is. -/
def State.stalls (t : State) (i : Instr) : Bool :=
  (t.inHelper && !t.vecOpen t.cur.1 i) ||
    (!Instr.jumps i &&
      match exec i t with
      | .next u => u.cx.place == t.cx.place
      | .fault _ | .refused _ => false)

/-- Whether a context can use an issue cycle (R30): it lives, no wait is in its way, and its next instruction issues,
traps, or begins to wait; of a control context with instructions to be reissued, the first of those. One that an absent
register keeps waiting cannot. -/
def State.ready (s : State) (c k : Nat) : Bool :=
  let x := s.ctxAt c k
  if k = 0 ∧ x.resume ≠ [] then x.live && s.reissues c
  else s.awake c k &&
    (if x.regBad then !x.trapWaits (k != 0)
     else
      match s.nextGate c k with
      | .error _ => !x.trapWaits (k != 0)
      | .ok (u, i, .go) => !u.stalls i
      | .ok (_, _, .trap _) => !x.trapWaits (k != 0)
      | .ok (_, _, .absent _) | .ok (_, _, .hold) => false)

/-- Round-robin in context order after the context that issued last (R30). -/
def State.pick (s : State) (c : Nat) : Option Nat :=
  ((List.range 11).map fun j => ((s.core c).lastIssue + 1 + j) % 11).find? (s.ready c)

/-- The control context's wait for an absent x source begins, without an issue cycle: of its next instruction, or of the
lathe's or the one to be reissued (R17). -/
def State.noteAbsent (s : State) (c : Nat) : State :=
  let t :=
    if s.runs c && s.awake c 0 && !(s.ctxAt c 0).regBad then
      match s.nextGate c 0 with
      | .ok (_, _, .absent n) => { (s.at c 0).await (.presence n) (word n) with cur := s.cur }
      | _ => s
    else s
  match (if t.runs c then t.resumeAbsent c else none), t.latheAbsent c with
  | some n, _ | none, some n => (t.awaitQueue c n).getD t
  | none, none => t

/-- The waits of every core that begin before time passes. -/
def State.noteAll (s : State) : State := s.cores.foldl (fun t e => t.noteAbsent e.1) s

/-- The issue cycle of a core: the context picked is in hand with the instruction it fetched, or the trap of its
fetch or of its registers (R301); none if the core cannot issue. -/
def State.issueSlot (s : State) (c : Nat) : Option (State × Except Trap Instr) :=
  if s.slotOpen c then
    match s.pick c with
    | none => none
    | some k =>
      let t := (s.issuedBy c k).at c k
      if (s.ctxAt c k).regBad then some (t, .error (trap cSramUncorr 0#64))
      else
        match t.fetch c k t.cx.pc with
        | .error tr => some (t.fetchFails c t.cx.pc, .error tr)
        | .ok (u, i) => some (if u.inHelper && i.isVec then u.takeVec c else u, .ok i)
  else none

/-- What the queue's drain does takes an issue slot only for an instruction to be reissued. -/
def State.drainTurn (s : State) (c : Nat) : Bool := !s.reissues c || s.pick c == some 0

/-- An event that takes an issue slot comes in the control context's turn (R30). -/
def State.inTurn (s : State) (i : Instr) : Bool :=
  match i with
  | .ecallExit c => s.pick c == some 0
  | .fpVectorQueueDrain c => s.drainTurn c
  | _ => true

-- What moves when the agenda is empty.

/-- What moves when the agenda is empty (log 1, DESIGN CHOICE, safe). -/
inductive Auto where
  | perform (c k id : Nat)
  | ack (c k id : Nat)
  | drain (c : Nat)
  | lathe (c : Nat)
  | issue (c : Nat)
  deriving DecidableEq, Repr

/-- The oldest access of a context that can move. -/
def State.pendingMove (s : State) (c k : Nat) : Option Auto :=
  (s.ctxAt c k).pending.findSome? fun p =>
    if !p.performed then
      (if p.held || (s.accessAt c k p.id).isNone || !s.answerRoom c p then none else some (.perform c k p.id))
    else if !p.acked && (s.answerAt c k p.id).isSome then some (.ack c k p.id) else none

/-- The work of the core in hand, oldest first: its unacknowledged accesses, its FP/vector queue, the lathe, and
else its issue slot. -/
def State.auto (s : State) : Auto :=
  let c := s.cur.1
  match (s.cur.2 :: List.range 11).findSome? (s.pendingMove c) with
  | some a => a
  | none =>
    if (s.runs c || s.stopping c) && (s.drain c).isSome && s.drainTurn c then .drain c
    else if (s.lathe c).isSome then .lathe c
    else .issue c

-- Events that time does not pass by.

/-- 1 µs in cycles of 1.8 GHz: how late a timeout may be (R37). -/
def lateness : Nat := 1800

/-- What must come by a deadline: a timeout of a context's wait, the end of a WFE, the start of a helper or a core, an
orphaned operand's leaving and its delivery, the refusal of an MMA whose k-step waits, the end of a FENCE's wait, the refusal
of a parked write, the end of a die's limit, the cap of a launch's wait. -/
inductive Due where
  | barTimeout (c k : Nat)
  | presenceTimeout (c k : Nat)
  | wfe (c k : Nat)
  | helperStart (c : Nat)
  | start (c : Nat)
  | orphan (cl entry : Nat)
  | alone (cl job : Nat)
  | kstep (quad : Nat)
  | fence (fn q : Nat)
  | parked (stack : Nat)
  | limit (die : Nat)
  | cap (launch : Nat)
  deriving DecidableEq, Repr

/-- The timeouts of a context's waits, each with the cycles that may still pass before it must have come (R37). -/
def State.waitDeadlines (s : State) (c k : Nat) : List (Due × Nat) :=
  let x := s.ctxAt c k
  let left (w : Wait) (us : BitVec 64) : Nat := us.toNat * 1800 + lateness - (s.clockOf c - w.since)
  let presence (w : Option Wait) : List (Due × Nat) :=
    match w with
    | some w =>
      match w.kind with
      | .presence _ => [(.presenceTimeout c k, left w (s.core c).prsto)]
      | _ => []
    | none => []
  (match x.wait with
   | some w =>
     if w.kind.timed || (s.fresWaits c k w).isSome then [(.barTimeout c k, left w (s.core c).waitto)]
     else if w.kind = .wfe then [(.wfe c k, left w (s.core c).waitto)]
     else []
   | none => [])
    ++ presence x.wait ++ presence x.qwait

/-- A free helper takes the oldest event in the cycle after its entry (R27). -/
def State.helperDue (s : State) (c : Nat) : List (Due × Nat) :=
  match (s.core c).events, s.freeHelper c with
  | e :: _, some _ => if s.runs c && !(s.ctxAt c 0).starting then [(.helperStart c, e.entered + 1 - s.now)] else []
  | _, _ => []

/-- Cores start within 4,096 cycles of the first of their partition (R25), counted at 1.8 GHz whatever a quad's operating
point (log 4, DESIGN CHOICE, safe). -/
def startWindow : Nat := 4096

/-- An MMA whose k-step has waited its core's WAITTO is refused within 1 µs (R37, R247). -/
def State.kstepDue (s : State) (q : Nat) : Option (Due × Nat) :=
  match (s.unit q).runningMma, (s.unit q).waitSince with
  | some (cmd, _, a, b), some t0 =>
    if (s.unit q).step.isNone && !bothCommitted (s.ring (q / 4) a) (s.ring (q / 4) b) then
      some (.kstep q, (s.core cmd.core).waitto.toNat * 1800 + lateness - (s.clockOf (4 * q) - t0))
    else none
  | _, _ => none

/-- Cycles kept for the way of an orphan's data to its target, in the 1.024 µs by which it may be late (R263). -/
def orphanWay : Nat := 256

/-- Deadlines of a partition whose run clock counts: the waits of its contexts, the start of its cores, the operands
that its folds hold (R263: a timeout may come up to 1.024 µs late). -/
def State.partDeadlines (s : State) (p : Part) : List (Due × Nat) :=
  if !p.counts then []
  else
    (p.shape.coreList.flatMap fun c =>
      (if (s.ctxAt c 0).starting then [(Due.start c, p.startClock + startWindow - p.clock)] else [])
        ++ s.helperDue c ++ (s.core c).ctxs.flatMap fun e => s.waitDeadlines c e.1)
    ++ p.shape.clusters.flatMap fun cl =>
      ((s.foldAt cl).entries.filterMap fun e =>
        e.2.held.map fun h => (Due.orphan cl e.1,
          (orphanTenths h.2.2 + 18432 - 10 * (s.clusterClock cl - h.2.1)) / 10 - orphanWay))
      ++ ((s.foldAt cl).jobs.filterMap fun j => j.due.map fun t => (Due.alone cl j.id, t - s.clusterClock cl - orphanWay))
      ++ (List.range 4).filterMap fun i => s.kstepDue (4 * cl + i)

/-- Deadlines on the wall clock: parked writes (R356), FENCEs (R320), limited dies (R399), waiting launches (R334). -/
def State.wallDeadlines (s : State) : List (Due × Nat) :=
  (s.bases.flatMap fun b => if b.2.asleep then [] else b.2.parked.map fun w => (Due.parked b.1, w.since + parkLimit - s.now))
    ++ (s.functions.flatMap fun f => f.2.queues.filterMap fun q =>
      q.2.fence.map fun w => (Due.fence f.1 q.1, w.since + w.limit - s.now))
    ++ ((List.range 16).filterMap fun d =>
      let p := s.die d
      if p.limited then p.lowSince.map fun t => (Due.limit d, max (p.limitedAt + 3600) (t + 1800) - s.now) else none)
    ++ s.parts.filterMap fun e =>
      if e.2.eligible && e.2.pending && !e.2.capped then some (Due.cap e.1, e.2.accepted + capCycles - s.now)
      else none

/-- Everything that must come within a number of cycles from now (log 4, DESIGN CHOICE, safe). -/
def State.deadlines (s : State) : List (Due × Nat) :=
  (s.parts.flatMap fun e => s.partDeadlines e.2) ++ s.wallDeadlines

/-- The state that an outcome goes on in. -/
def goesOn (o : Out) : Option State :=
  match o with
  | .next t => some t
  | .fault _ | .refused _ => none

/-- What is due, if the machine can make it come now. -/
def State.comes (s : State) : Due → Option State
  | .barTimeout c k => goesOn (execBarTimeout c k s)
  | .presenceTimeout c k => goesOn (execPresenceTimeout c k s)
  | .wfe c k => goesOn (execWfeRelease c k s)
  | .helperStart c => goesOn (execHelperStart c s)
  | .start c => s.startCore c
  | .orphan cl e => goesOn (execFoldOrphanTimeout cl e s)
  | .alone cl j => goesOn (execFoldResultDeliver cl j s)
  | .kstep q => goesOn (execKstepWaitTimeout q s)
  | .fence f q => goesOn (execFenceTimeout f q s)
  | .parked h => goesOn (execParkDeadline h s)
  | .limit d => goesOn (execLimitRelease d s)
  | .cap l => goesOn (execBindWaitCap l s)

/-- A core has work in the period: a context ready to issue, or the lathe's body (R393). -/
def State.hasWork (s : State) (c : Nat) : Bool := s.runs c && (s.latheCould c || (List.range 11).any (s.ready c))

/-- The demand of cores and units over some cycles is counted (R393). -/
def State.countWork (s : State) (n : Nat) : State :=
  { s with cores := s.cores.map fun (e : Nat × Core) => if s.hasWork e.1 then (e.1, { e.2 with work := e.2.work + n }) else e,
           quads := s.quads.map fun (e : Nat × Quad) =>
             if s.runs (4 * e.1) && s.unitCould e.1 then (e.1, { e.2 with unit := { e.2.unit with work := e.2.unit.work + n } })
             else e }

/-- Time passes, n cycles at most and one at least, to the next deadline; where one has come, what is due comes before
any more time passes. The second part is the time passed. -/
def State.pass (s : State) (n : Nat) : State × Nat :=
  let s := s.noteAll
  match (s.deadlines.filter fun d => d.2 == 0).findSome? fun d => s.comes d.1 with
  | some t => (t, 0)
  | none =>
    if s.netBusy then (s.netCycle.countWork 1 |>.elapse 1, 1)
    else
      let m := max 1 (s.deadlines.foldl (fun m d => min m d.2) n)
      ((s.countWork m).elapse m, m)

end Sys2Proof.Machine
end

