-- ==== Sys2Proof/Machine/Step.lean ====
section
/-! DEFINITION. The step of the machine: the agenda says which agent moves (log 1, DESIGN CHOICE, safe). And where a word must stand to be
fetched next (log 15, DESIGN CHOICE, safe). -/

namespace Sys2Proof.Machine

/-- What a move that has no instruction of its own leaves, where it can be made. -/
def moved (name : String) : Option State → Host.Outcome State Fault Refusal
  | some t => .next t
  | none => notNow name

/-- An issue cycle of a core (R30): the trap of a fetch is taken, or the instruction fetched has its effect; an instruction
to be reissued has its own step. A core that cannot issue leaves the cycle unused. -/
def issueStep (s : State) (c : Nat) (idle : State → State) : Host.Outcome State Fault Refusal :=
  let s := s.noteAbsent c
  if s.reissues c && s.pick c == some 0 then moved "FP_VECTOR_QUEUE_DRAIN" (s.drain c)
  else
    match s.issueSlot c with
    | none => .next (idle s)
    | some (t, .error tr) => t.raise t tr
    | some (t, .ok i) => exec i t

/-- What moves by itself when the agenda is empty; where nothing can, a cycle passes. -/
def autoStep (s : State) : Host.Outcome State Fault Refusal :=
  match s.auto with
  | .perform c k id => execRemoteAccessPerform c k id s
  | .ack c k id => execRemoteAck c k id s
  | .drain c => execFpVectorQueueDrain c s
  | .lathe c => execLatheIssue c s
  | .issue c => issueStep s c fun t => (t.pass 1).1

/-- One step. An encoded instruction is no event: it acts only through an issue cycle. -/
def step (s : State) : Host.Outcome State Fault Refusal :=
  match s.agenda with
  | [] => autoStep s
  | .advance 0 :: rest => .next { s with agenda := rest }
  | .advance (n + 1) :: rest =>
    let t := { s with agenda := rest }.pass (n + 1)
    .next { t.1 with agenda := if n + 1 ≤ t.2 then t.1.agenda else .advance (n + 1 - t.2) :: t.1.agenda }
  | .issue c :: rest => issueStep { s with agenda := rest } c id
  | .start c :: rest => moved "BIND_COMPLETE" ({ s with agenda := rest }.startCore c)
  | .arrive home i :: rest => moved "HOME_REQUEST_APPLY" ({ s with agenda := rest }.arrive home i)
  | .peers pid phase ms :: rest => moved "POD_ARRIVAL" ({ s with agenda := rest }.setPeers pid phase ms)
  | .peer port m :: rest => moved "IKIRATH_FLIT_RECEIVE" ({ s with agenda := rest }.peerSends port m)
  | .credit port cls :: rest => moved "IKIRATH_FLIT_RECEIVE" ({ s with agenda := rest }.creditBack port cls)
  | .peek fn q header :: rest => moved "QUEUE_DOORBELL" ({ s with agenda := rest }.peek fn q header)
  | .verified :: rest => moved "POWER_ON" { s with agenda := rest }.verified
  | .update check :: rest => moved "BOOT_READY" ({ s with agenda := rest }.updateFlash check)
  | .powerCycle :: rest => .next { s with agenda := rest }.powerCycle
  | .supply die current limit :: rest => moved "CURRENT_LIMIT" ({ s with agenda := rest }.supply die current limit)
  | .event i :: rest =>
    if !i.isEvent then .refused (.notEnabled "an encoded instruction")
    else if { s with agenda := rest }.inTurn i then exec i { s with agenda := rest }
    else .refused (.notEnabled "an issue out of turn")

/-- A running partition of one cluster whose core 0 fetches next at an address of its code image, with the bits
of an instruction standing there: what a launch, its bind and its start leave for one core. -/
def State.withFetchWord (s : State) (nbits w : Nat) : State :=
  let va : Nat := 0x10000
  let home := stackOf va
  let hrt : AMap (BitVec 64 × BitVec 64) := [(0, (0x8000000000000000#64, 0x0000FFFFFFE00000#64))]
  let pc := word (2 ^ 63 + s.modl.podNumber.toNat * 2 ^ 48 + va)
  let p : Part := { Part.none with
    fn := 1, state := .running, dieMask := 1#16, rect := 0#16, hrt := hrt,
    launch := { Part.none.launch with entry := pc, codebase := pc, codelen := 0x10000 } }
  let prgn := (Core.reset.prgn.set 0 0x8300000003000000#64).set 1 0xC300000080000000#64
  let k : Core := { Core.reset with
    ctxs := [(0, { Ctx.reset 0 with pc := pc, live := true, fetchPrgn := prgn })], pshape := 0x10000#64, prgn := prgn }
  let f : Function := { s.fn 1 with enabled := true, hrt := hrt }
  let b : Stack := { Stack.reset home with nextLoc := (s.base home).nextLoc, nextSector := (s.base home).nextSector }
  let t := State.mapAt { s with
    cores := amSet s.cores 0 k, quads := amSet s.quads 0 Quad.reset, parts := [(s.nextId, p)], nextId := s.nextId + 1,
    functions := amSet s.functions 1 f, bases := amSet s.bases home b, cur := (0, 0), agenda := [] } home 1 [1] true true false
  let bytes := natBytes 256 (w % 2 ^ nbits)
  let places := placeSectors [] (sectorsOf bytes) (t.base home).nextSector
  (t.store home (t.blockNo home 1 (va / 256)) BlockEntry.empty (encodingOf bytes) places (encoded bytes)).modBase home
    fun b => { b with nextSector := b.nextSector + places.length }

end Sys2Proof.Machine
end

