-- ==== Sys2Proof/Machine/HostView.lean ====
section
/-! DEFINITION. What the host reads in BAR0 of a function: the capability list (R412), and the windows of Table 17-1
(R410, R411). The state has no part in a read but its own. -/

namespace Sys2Proof.Machine

-- The capability list.

/-- The atomic mask of a path (R412): bit op for the 32-bit form, bit 16 + op for the 64-bit form; CASQ is bit 10 alone. -/
def atomicMask (home : Nat) : Nat :=
  ((List.range 12).map fun op =>
    (if carries home op (if op = 10 then 16 else 4) then 2 ^ op else 0)
      + (if op ≠ 10 ∧ carries home op 8 = true then 2 ^ (16 + op) else 0)).sum

/-- The module that an Ikirath port reaches (Table 17-3): one of those whose routes take the port, once a pod is formed; which
one, or which without a route, is open (log 89, DESIGN CHOICE, unsafe). -/
def Module.reached (m : Module) (p : Nat) : BitVec 8 :=
  let ms := (m.routes.filter fun r => r.2 == p).map fun r => r.1 % 64
  let c := Config.moduleReached p
  if ms.isEmpty then c else BitVec.ofNat 8 (ms.getD (c.toNat % ms.length) 0)

/-- Bodies of the entries, ids 1 to 5, in order. Table 17-3 names their fields; the widths that it does not give are the
model's (log 89, DESIGN CHOICE, unsafe). -/
def State.capabilities (s : State) : List (List (BitVec 8)) :=
  [(List.range 16).map Config.serialNumber ++ natBytes 8 (if s.modl.podFormed then s.modl.podNumber.toNat else 0)
      ++ s.modl.svns.take 4 ++ natBytes 4 0 ++ s.modl.digest,
    natBytes 4 (atomicMask 0) ++ natBytes 4 (atomicMask 32),
    (List.range 8).flatMap fun p =>
      natBytes 1 (b2n !(s.modl.cxlDown.contains p)) ++ (List.range 3).map (Config.cxlPort p),
    (List.range 24).flatMap fun p =>
      natBytes 1 (b2n !(amGet Link.up s.modl.ikirath p).down) ++ [s.modl.reached p],
    (List.range (96 + Config.chainLength.toNat)).map Config.identity]

/-- A body fills whole words. -/
def padded (bs : List (BitVec 8)) : List (BitVec 8) := bs ++ List.replicate ((8 - bs.length % 8) % 8) 0#8

/-- Entries from an offset on, each with its id: the header of Table 17-2, then the body. The last has NEXT 0. -/
def layEntries (off : Nat) : List (Nat × List (BitVec 8)) → List (BitVec 8)
  | [] => []
  | (id, body) :: rest =>
    let next := off + 8 + (padded body).length
    natBytes 8 (body.length * 2 ^ 32 + (if rest.isEmpty then 0 else next) * 2 ^ 16 + 256 + id) ++ padded body ++ layEntries next rest

/-- The capability list as it stands from BAR0 offset 0 on. -/
def State.capabilityList (s : State) : List (BitVec 8) :=
  layEntries 0 (s.capabilities.zipIdx.map fun e => (e.2 + 1, e.1))

-- The windows.

/-- Eight bytes of a list, 0 beyond its end. -/
def wordAt (bs : List (BitVec 8)) (off : Nat) : BitVec 64 := word (bytesNat ((bs.drop off).take 8))

/-- A host queue's registers (Table 13-1). -/
def HostQueue.read (h : HostQueue) (off : Nat) : BitVec 64 :=
  match off with
  | 0 => h.qbase
  | 8 => h.qcfg
  | 16 => h.tail.setWidth 64
  | 24 => h.head.setWidth 64
  | 32 => h.stat
  | _ => 0#64

/-- The fault queue's registers (R415). -/
def Function.readFault (f : Function) (off : Nat) : BitVec 64 :=
  match off with
  | 0 => f.fqbase
  | 8 => f.fqcfg
  | 0x10 => f.fqtail
  | 0x18 => f.fqhead
  | _ => 0#64

/-- The partition of a function in a place of its directory: V = 1 from its bind to its completion record (R410). -/
def State.inSlot (s : State) (fn slot : Nat) : Option (Nat × Part) :=
  s.parts.find? fun e => e.2.fn == fn && !e.2.pending && e.2.slot == slot

/-- Entry p of the partition directory (R410). -/
def State.directoryWord (s : State) (fn slot : Nat) : BitVec 64 :=
  match s.inSlot fn slot with
  | some e => word (2 ^ 63 + e.2.pid.toNat * 2 ^ 32 + e.2.launch.tag.toNat)
  | none => 0#64

/-- A word of the sector accounts; the account of a slot with V = 0 reads 0 (R410, Table 14-4). -/
def State.accountWord (s : State) (fn off : Nat) : BitVec 64 :=
  match s.inSlot fn (off / 1024) with
  | some e => (s.accountWords e.1 (off % 1024 / 32)).getD (off % 32 / 8) 0#64
  | none => 0#64

/-- EMST (Table 16-3). -/
def Emergency.code : Emergency → Nat
  | .normal => 0
  | .saving => 1
  | .refresh => 2
  | .tripped => 3
  | .recovery => 4

/-- A word of the power window (Table 16-3). -/
def State.powerWord (s : State) (n : Nat) : BitVec 64 :=
  if n = 0 then word (s.modl.temp % 256 * 2 ^ 40 + s.modl.emergency.code * 2 ^ 32 + s.modl.power % 2 ^ 32)
  else if n = 1 then word (s.modl.budget % 2 ^ 32)
  else if n < 18 then
    let d := s.die (n - 2)
    word (d.limcnt.toNat * 2 ^ 48 + d.temp % 256 * 2 ^ 40 + d.thcut.toNat * 2 ^ 32 + d.budget.floor.toNat % 2 ^ 32)
  else 0#64

/-- The attestation window (R414): nonce, GO and BUSY, report. -/
def Module.readAttestation (m : Module) (off : Nat) : BitVec 64 :=
  if off < 0x30 then wordAt m.nonce off
  else if off = 0x30 then word (b2n m.attBusy * 2)
  else if 0x100 ≤ off then wordAt m.report (off - 0x100)
  else 0#64

/-- The set-up mailbox (Table 17-7): GO is set as long as BUSY is. -/
def Mailbox.read (m : Mailbox) (off : Nat) : BitVec 64 :=
  if off = 0 then m.req
  else if h : 8 ≤ off ∧ off ≤ 0x28 then m.args.get ⟨(off - 8) / 8, by omega⟩
  else if off = 0x30 then word (b2n m.busy * 3)
  else if off = 0x38 then m.res
  else 0#64

/-- The boot and recovery window (Table 17-4). -/
def Module.readBoot (m : Module) (off : Nat) : BitVec 64 :=
  match off with
  | 0 => word (m.bootErr * 256 + m.stage)
  | 8 => m.rcvaddr
  | 0x10 => m.rcvlen
  | 0x18 => word (b2n m.rcvgo)
  | _ => 0#64

/-- A read of 8 aligned bytes of BAR0 by the host (Table 17-1, R410, R411): none where the function does not answer, which
endpoint 1 does only from READY on. Function 65 is the companion function. -/
def State.barRead (s : State) (fn off : Nat) : Option (BitVec 64) :=
  if 65 < fn ∨ 65536 ≤ off ∨ (33 ≤ fn ∧ s.responds = false) then none
  else if off < 0x1000 then some (wordAt s.capabilityList off)
  else if 0xE000 ≤ off then some (if fn = 0 ∨ fn = 65 then s.modl.readBoot (off - 0xE000) else 0#64)
  else if !s.responds ∨ fn = 65 then some 0#64
  else if 0x9000 ≤ off then
    some (
      if fn ≠ 0 then 0#64
      else if off < 0xA000 then s.powerWord ((off - 0x9000) / 8)
      else if off < 0xC000 then (if (off - 0xA000) / 8 < 132 then amGet 0#64 s.modl.lifetime ((off - 0xA000) / 8) else 0#64)
      else if off < 0xD000 then s.modl.readAttestation (off - 0xC000)
      else s.modl.mailbox.read (off - 0xD000))
  else if 0x5000 ≤ off then some (s.accountWord fn (off - 0x5000))
  else if 0x4000 ≤ off then some (if off < 0x4080 then s.directoryWord fn ((off - 0x4000) / 8) else 0#64)
  else if 0x2000 ≤ off then some ((s.fn fn).readFault (off - 0x2000))
  else some ((s.queue fn ((off - 0x1000) / 64)).read (off % 64))

/-- The example of R412. -/
theorem atomicMask_values : atomicMask 0 = 0x0BFF0FFF ∧ atomicMask 32 = 0x03FF03FF := by decide

end Sys2Proof.Machine
end

