-- ==== Sys2Proof/Safety.lean ====
section
/-! DEFINITION. What a safe run is, and the terms that the claims use: when a context issues an instruction, which
parts of the state an instruction may change, and what it can come to instead of completing. -/

namespace Sys2Proof

open Machine

/-- A state whose next step is no fault. -/
def SafeStep (s : State) : Prop := ∀ f, step s ≠ .fault f

/-- n steps from a state without a fault; a refused step ends the run. -/
def SafeRun : Nat → State → Prop
  | 0, _ => True
  | n + 1, s => SafeStep s ∧ ∀ t, step s = .next t → SafeRun n t

end Sys2Proof

namespace Sys2Proof.Machine

-- When an instruction issues.

/-- The context in hand owns every register that the instruction names (R16, R113). -/
def State.Owns (s : State) (i : Instr) : Prop := i.illegalReg s.inHelper = false

/-- In a control context, the presence bit of every x source is set (R17, R130). -/
def State.SourcesPresent (s : State) (i : Instr) : Prop :=
  s.inHelper = false → ∀ n, Reg.x n ∈ i.uses.rd → n ≠ 0 → s.cx.present.toNat.testBit n = true

/-- Nothing older of the context in hand is under way: no access unacknowledged, nothing in the queue or to be
reissued, no repetition. -/
def State.Settled (s : State) : Prop :=
  s.cx.pending = [] ∧ s.cx.queue = [] ∧ s.cx.resume = [] ∧ s.cx.refetch = false ∧ bitOf s.cx.lstat 12 = false

/-- The instruction issues in the context in hand: its registers are owned and its x sources present, and neither the
order of Table 6-2 and the queue (R31) nor the window of R102 holds it back. -/
def State.Issues (s : State) (i : Instr) : Prop :=
  s.Owns i ∧ s.SourcesPresent i ∧ s.cx.holds s.inHelper i = false

-- What changes.

/-- The byte at every address reads as before. -/
def SameBytes (s t : State) : Prop := ∀ a, memGet t.mem a = memGet s.mem a

/-- The byte at every address outside [k, k + n) reads as before. -/
def SameBytesBut (s t : State) (k n : Nat) : Prop := ∀ a, (a < k ∨ k + n ≤ a) → memGet t.mem a = memGet s.mem a

/-- Only the context in hand differs, and it as `r` says: every other part of the state is the same. -/
def State.OnlyContext (s t : State) (r : Ctx → Ctx → Prop) : Prop :=
  { t with cores := s.cores } = s ∧ (∀ c, c ≠ s.cur.1 → t.core c = s.core c) ∧ { t.me with ctxs := s.me.ctxs } = s.me ∧
    (∀ k, k ≠ s.cur.2 → t.ctxAt s.cur.1 k = s.ctxAt s.cur.1 k) ∧ r s.cx t.cx

/-- Of a context, only x register d with its presence bit, the PC and the wait differ; X(0) stays 0. -/
def Ctx.OnlyX (d : BitVec 5) (x y : Ctx) : Prop :=
  { y with x := x.x, present := x.present, pc := x.pc, wait := x.wait } = x ∧
    (∀ r, r ≠ d → y.xr r = x.xr r) ∧ (∀ n, n < 32 → n ≠ d.toNat → y.present.toNat.testBit n = x.present.toNat.testBit n)

/-- Of a context, only the PC and the wait differ. -/
def Ctx.OnlyPc (x y : Ctx) : Prop := { y with pc := x.pc, wait := x.wait } = x

-- What an instruction can come to instead of completing.

/-- The instruction waits, and the state is as before but for the wait on record. -/
def State.Waits (s t : State) : Prop := t = s ∨ ∃ k v, t = s.await k v

/-- A trap is taken at the instruction. -/
def State.Traps (s t : State) : Prop := ∃ tr, t = s.takeTrap s.cur.1 s.cur.2 tr s.cx.pc [] s.cx.pc

end Sys2Proof.Machine
end

