-- ==== Sys2Proof/Certificates/Slice0/Obligations.lean ====
section
/-! DEFINITION. The statements for the provers, and under Claims the tables that they are read from: what the rules
give as the result of an instruction, or as the state in which an event is taken. -/

open Sys2Proof Sys2Proof.Machine

-- Encoding (05_encoding.md).

/-- The bytes of a well-formed instruction, whatever follows them, decode to that instruction with what follows left
over (R107, R110 to R112, Table 5-5). -/
def Obligations.EncodeDecodeAgree : Prop :=
  ∀ (i : Instr) (bs rest : List Byte),
    i.wellFormed = true → encode i = some bs → decodeBytes (bs ++ rest) = .ok (i, rest)

/-- Bytes that decode to an instruction are that instruction's own bytes followed by what is left over, and it is well
formed: every pattern has at most one meaning, and no bit of it is dropped (R117). -/
def Obligations.DecodeEncodeAgree : Prop :=
  ∀ (i : Instr) (bs rest : List Byte),
    decodeBytes bs = .ok (i, rest) → i.wellFormed = true ∧ ∃ front, encode i = some front ∧ bs = front ++ rest

/-- The words of the spec's own worked encodings decode to the instructions that it names (R118, Tables 5-1, 5-2 and
5-5): LD a0, 16(sp); BNE t0, x0, −8; XCOPY a0, a1, a2, QUANT_TILE.T; BFX t1, a0, 8, 4; and of the kernel of R126
LI t0, 0x100; ADD.16 t0, a1; SD t0, −8(sp); MV.16 a0, t0; ECALL. -/
def Sys2Proof.Claims.WordsDecode : Prop :=
  decodeTableWord 32 0x0106250B = some (.ld 10#5 2#5 16#12) ∧
  decodeTableWord 32 0xFE023E0F = some (.bne 3#5 0#5 0xFFC#12) ∧
  decodeTableWord 32 0x2AB0A647 = some (.xcopy 10#5 11#5 12#5 1#1 5#4) ∧
  decodeTableWord 32 0x0C80A215 = some (.bfx 4#5 10#5 3#6 8#6) ∧
  decodeTableWord 32 0x10000185 = some (.addi 3#5 0#5 0x100#12) ∧
  decodeTableWord 16 0x58C2 = some (.add16 3#5 11#5) ∧
  decodeTableWord 32 0xFE362C0D = some (.sd 2#5 3#5 0xFF8#12) ∧
  decodeTableWord 16 0x1A90 = some (.mv16 10#5 3#5) ∧
  decodeTableWord 32 0x00000019 = some .ecall

/-- What is no instruction is rejected: a reserved major, the 16-bit ops 0 and 17 to 31, and a field outside its range
(R117). -/
def Sys2Proof.Claims.PatternsThatAreNoInstruction : Prop :=
  (∀ w : BitVec 32, opcodeOf w = 0x01#7 ∨ 0x4F ≤ (opcodeOf w).toNat → decode32 w = none) ∧
  (∀ h : BitVec 16, h.extractLsb' 0 1 = 0#1 → h.extractLsb' 1 5 = 0#5 ∨ 17 ≤ (h.extractLsb' 1 5).toNat →
    decode16 h = none) ∧
  (∀ (w : BitVec 32) (i : Instr), decode32 w = some i → i.wellFormed = true)

/-- Written-out words of the spec decode to the instructions it names, and what is no instruction is rejected (R117,
R118, R126). -/
def Obligations.WordsAndNoWords : Prop :=
  Claims.WordsDecode ∧ Claims.PatternsThatAreNoInstruction

-- The machine (01_machine.md, 05_encoding.md).

namespace Sys2Proof.Claims

/-- A core whose issue cycle goes to a context: its partition runs, its duty allows the cycle, nothing has issued in it
yet, the context is next in turn, its registers have no error, and nothing of a control context is to be reissued (R30,
R33, R301). -/
def Selects (s : State) (c k : Nat) : Prop :=
  s.slotOpen c = true ∧ s.pick c = some k ∧ (s.ctxAt c k).regBad = false ∧ (k = 0 → (s.ctxAt c 0).resume = [])

/-- The state with that context in hand, which has now issued last and used the core's slot of this cycle. -/
def inHand (s : State) (c k : Nat) : State := (s.issuedBy c k).at c k

/-- From one state to another at most the waits on record of a core's control context differ. -/
def OnlyWaitsBegin (s t : State) (c : Nat) : Prop :=
  { t with cores := s.cores } = s ∧ (∀ d, d ≠ c → t.core d = s.core d) ∧ { t.core c with ctxs := (s.core c).ctxs } = s.core c ∧
    (∀ k, k ≠ 0 → t.ctxAt c k = s.ctxAt c k) ∧
    { t.ctxAt c 0 with wait := (s.ctxAt c 0).wait, qwait := (s.ctxAt c 0).qwait } = s.ctxAt c 0

/-- A vector instruction of a helper also uses its quad's vector unit in this cycle (R18, R36). -/
def served (u : State) (c : Nat) (i : Instr) : State := if u.inHelper && i.isVec then u.takeVec c else u

/-- The instruction at the PC of the context in hand of core c, in the state that its fetch leaves: one even
halfword, or an odd one with the halfword after it (R107). -/
def Fetched (t : State) (c k : Nat) (u : State) (i : Instr) : Prop :=
  bitOf t.cx.pc 0 = false ∧
    ((∃ lo, t.fetchHalf c k t.cx.pc = .ok (u, lo) ∧ decodeHalves lo none = .ok (i, 2)) ∨
      (∃ lo hi t1, t.fetchHalf c k t.cx.pc = .ok (t1, lo) ∧ lo.extractLsb' 0 1 = 1#1 ∧
        t1.fetchHalf c k (t.cx.pc + 2#64) = .ok (u, hi) ∧ decodeHalves lo (some hi) = .ok (i, 4)))

end Sys2Proof.Claims

/-- An issue cycle of a core runs the instruction that stands at the PC of the context whose turn it is: where the
agenda names the core, in the state without that entry of the agenda, and where the agenda is empty and the issue slot
of the core in hand is what moves (log 1). Before it at most a wait of the control context for an absent register goes on
record. An event that the agenda names runs as itself, unless it is an issue out of its context's turn; an encoded
instruction that the agenda names is refused. -/
def Obligations.StepRunsTheDecodedInstruction : Prop :=
  ∀ (s t u : State) (c k : Nat) (i : Instr) (rest : List Move),
    Claims.OnlyWaitsBegin s (s.noteAbsent c) c ∧
    (s.agenda = .issue c :: rest → t = ({ s with agenda := rest } : State).noteAbsent c → Claims.Selects t c k →
      Claims.Fetched (Claims.inHand t c k) c k u i → step s = exec i (Claims.served u c i)) ∧
    (s.agenda = [] → s.auto = .issue c → t = s.noteAbsent c → Claims.Selects t c k →
      Claims.Fetched (Claims.inHand t c k) c k u i → step s = exec i (Claims.served u c i)) ∧
    (s.agenda = .event i :: rest → i.isEvent = true →
      (({ s with agenda := rest } : State).inTurn i = true → step s = exec i { s with agenda := rest }) ∧
      (({ s with agenda := rest } : State).inTurn i = false → step s = .refused (.notEnabled "an issue out of turn")) ∧
      ((∀ d, i ≠ .ecallExit d ∧ i ≠ .fpVectorQueueDrain d) → ({ s with agenda := rest } : State).inTurn i = true)) ∧
    (s.agenda = .event i :: rest → i.isEvent = false → step s = .refused (.notEnabled "an encoded instruction"))

/-- A halfword is fetched from the on-chip place of a mesh PC, under the context's own copy of the regions, or for a
device PC from the quad's cache or, on a miss, from the block at its home, which fills the cache; what a peer holds is a
free value (log 12) (R19, R107, R310, R351). -/
def Sys2Proof.Claims.FetchReadsTheBytesAtThePc : Prop :=
  ∀ (s : State) (c k : Nat) (pc : BitVec 64),
    (∀ m, bitOf pc 63 = false → s.checkIn (s.ctxAt c k).fetchPrgn c pc 2 1 [.x] false = .ok m → s.eccWord m.key 2 = none →
      s.fetchHalf c k pc = .ok (s, halfOf (memGet s.mem m.key) (memGet s.mem (m.key + 1)))) ∧
    (∀ h, bitOf pc 63 = true → amGet? (s.quad (quadOf c)).icache pc.toNat = some h → s.fetchHalf c k pc = .ok (s, h)) ∧
    (∀ p home, bitOf pc 63 = true → amGet? (s.quad (quadOf c)).icache pc.toNat = none → p = s.partOfCore c →
      fld pc 54 9 = 0 → s.serve p.fn p.pid p.hrt pc false = none → s.homeFor p.hrt pc = .ok home →
      ∃ t h, amGet? (t.quad (quadOf c)).icache pc.toNat = some h ∧ SameBytes s t ∧ t.cores = s.cores ∧
        (40 ≤ home → s.fetchHalf c k pc = .ok (t, h)) ∧
        (home < 40 → s.blockFail home p.fn (fld pc 0 48) ≠ none → s.fetchHalf c k pc = .error (trap cProt pc)) ∧
        (home < 40 → s.blockFail home p.fn (fld pc 0 48) = none → s.fetchHalf c k pc = .ok (t, h) ∧
          h = halfOf ((s.blockBytes home p.fn (fld pc 0 48 / 256)).getD (fld pc 0 8) 0#8)
            ((s.blockBytes home p.fn (fld pc 0 48 / 256)).getD (fld pc 0 8 + 1) 0#8)))

/-- A fetch that fails traps at the first halfword with the cause and the address that failed: an odd PC is ALIGN, a
place that the protection unit refuses has its cause, a device page that is not served is PROT (R19, R108). -/
def Sys2Proof.Claims.FetchThatFailsTraps : Prop :=
  ∀ (s : State) (c k : Nat) (pc : BitVec 64),
    (bitOf pc 0 = true → s.fetch c k pc = .error (trap cAlign pc)) ∧
    (∀ t, bitOf pc 63 = false → s.checkIn (s.ctxAt c k).fetchPrgn c pc 2 1 [.x] false = .error t →
      s.fetchHalf c k pc = .error t) ∧
    (bitOf pc 63 = true → amGet? (s.quad (quadOf c)).icache pc.toNat = none → fld pc 54 9 ≠ 0 →
      s.fetchHalf c k pc = .error (trap cProt pc)) ∧
    (∀ p e, bitOf pc 63 = true → amGet? (s.quad (quadOf c)).icache pc.toNat = none → p = s.partOfCore c →
      s.serve p.fn p.pid p.hrt pc false = some e → s.fetchHalf c k pc = .error (trap cProt pc)) ∧
    (∀ t1 lo e, bitOf pc 0 = false → s.fetchHalf c k pc = .ok (t1, lo) → lo.extractLsb' 0 1 = 1#1 →
      t1.fetchHalf c k (pc + 2#64) = .error e → s.fetch c k pc = .error e)

/-- Fetching an instruction: where its halfwords are read, and how a fetch that fails traps (R19, R107, R108).
The model's own choices in it are logs 7, 12 and 51. -/
def Obligations.FetchingReadsOrTraps : Prop :=
  Claims.FetchReadsTheBytesAtThePc ∧ Claims.FetchThatFailsTraps

/-- The canonical form of memory: every step keeps it. -/
def Obligations.StepKeepsMemoryForm : Prop :=
  ∀ s t : State, Memory.wf s.mem = true → step s = .next t → Memory.wf t.mem = true

/-- Memory is bytes at addresses, little-endian: after a value of n bytes is stored at a, the byte at a + j is the
value's bits 8j to 8j + 7, every other byte is as before, and a read of the n bytes gives the value (R4). Two memories
in canonical form that read alike at every address are the same list. -/
def Obligations.MemoryIsWhatItReads : Prop :=
  (∀ (m : List Host.Cell) (a n v : Nat), v < 256 ^ n →
    (∀ j, j < n → memGet (memWrite m a n v) (a + j) = BitVec.ofNat 8 (v / 256 ^ j)) ∧
    (∀ b, b < a ∨ a + n ≤ b → memGet (memWrite m a n v) b = memGet m b) ∧ memRead (memWrite m a n v) a n = v) ∧
  (∀ m m' : List Host.Cell, Memory.wf m = true → Memory.wf m' = true → (∀ a, memGet m a = memGet m' a) → m = m')

/-- The machine after power-on (R413): the boot at stage 0, no function enabled, no core in a partition, no page mapped,
and memory that lists nothing. The values of the registers of a core that has not been bound are the model's choice
(log 2), and so is what an unlisted byte reads as (log 3): WAITTO and PRSTO 1,000, XWGT 1, BARCFG 0x7F, OPREQ 7, FDUTY
16 and an observer mask of ones as a bind leaves them, and 0 in the other registers that are named here. -/
def Obligations.ResetState : Prop :=
  State.reset.modl.stage = 0 ∧ (∀ f, (State.reset.fn f).enabled = false) ∧
  (∀ c, State.reset.partOf c = none ∧ State.reset.runs c = false) ∧ State.reset.pages = [] ∧
  Memory.wf State.reset.mem = true ∧ (∀ a, memGet State.reset.mem a = 0#8) ∧
  (∀ c, (State.reset.core c).waitto = 1000#64 ∧ (State.reset.core c).prsto = 1000#64 ∧
    (State.reset.core c).xwgt = 1#64 ∧ (State.reset.core c).xrbase = 0#64 ∧ (State.reset.core c).barcfg = 0x7F#64 ∧
    (State.reset.core c).opreq = 7#64 ∧ (State.reset.core c).fduty = 16 ∧ (State.reset.core c).deque = [] ∧
    (State.reset.core c).tvec = 0#64 ∧ (State.reset.core c).uivec = 0#64 ∧ (State.reset.core c).mrbase = 0#64 ∧
    (State.reset.core c).mrsize = 0#64 ∧ (State.reset.core c).srseed = 0#64 ∧ (State.reset.core c).capkey = 0#64 ∧
    (State.reset.core c).pshape = 0#64 ∧ ∀ r ∈ (State.reset.core c).prgn.toList, r = 0#64) ∧
  (∀ c k, (State.reset.ctxAt c k).obs = BitVec.allOnes 64 ∧ (State.reset.ctxAt c k).fcsr = 0#64 ∧
    (State.reset.ctxAt c k).level = .u ∧ (State.reset.ctxAt c k).live = false ∧
    (∀ r, (State.reset.ctxAt c k).xr r = 0#64) ∧ (∀ r ∈ (State.reset.ctxAt c k).f.toList, r = 0#64) ∧
    (∀ r ∈ (State.reset.ctxAt c k).v.toList, r = VReg.zero) ∧ (State.reset.ctxAt c k).pc = 0#64 ∧
    (State.reset.ctxAt c k).tcause = 0#64 ∧ (State.reset.ctxAt c k).tepc = 0#64 ∧
    fld (State.reset.ctxAt c k).tstatus 0 20 = 0 ∧ (State.reset.ctxAt c k).lstat = 0#64)


-- Registers, presence and the gate (01_machine.md, 05_encoding.md, 06_isa_scalar.md).

namespace Sys2Proof.Claims

/-- A register that a field names and that the context does not own: v16 to v31 anywhere, and x16 to x31, f8 to f31
and v4 to v15 in a helper (Table 5-3). -/
def NotOwned (helper : Bool) : Reg → Prop
  | .x n => helper = true ∧ 16 ≤ n
  | .f n => helper = true ∧ 8 ≤ n
  | .v n => 16 ≤ n ∨ (helper = true ∧ 4 ≤ n)

/-- The CSR instructions, whose checks follow the order of R163, and ECALL, whose sources depend on its selector. -/
def OwnOrder : Instr → Prop
  | .csrrw .. | .csrrs .. | .csrrc .. | .csrrwi .. | .csrrsi .. | .csrrci .. | .ecall => True
  | _ => False

end Sys2Proof.Claims

/-- An instruction that names a register its context does not own, in a helper also one of the streams, the lathe, the
bit buffer and the presence bits, traps with ILLEGAL_REG and its bits in TVAL, and does nothing else (R16, R113). -/
def Sys2Proof.Claims.UnownedRegistersTrap : Prop :=
  ∀ (s : State) (i : Instr), i.isEvent = false → s.Settled →
    ((∃ r ∈ i.uses.rd ++ i.uses.wr, Claims.NotOwned s.inHelper r) ∨ (s.inHelper = true ∧ i.controlOnly = true)) →
    exec i s = .next (s.takeTrap s.cur.1 s.cur.2 (trap cIllegalReg i.bits) s.cx.pc [] s.cx.pc)

/-- A control context waits at an instruction that reads an x register whose presence bit is clear: nothing changes
but the wait, which names the lowest-placed such source (R17, R130). -/
def Sys2Proof.Claims.AbsentSourcesWait : Prop :=
  ∀ (s : State) (i : Instr) (n : Nat), i.isEvent = false → ¬ Claims.OwnOrder i → s.Owns i → s.inHelper = false →
    s.cx.absentReg i = some n →
    exec i s = .next (s.await (.presence n) (word n)) ∧ n ≠ 0 ∧ Reg.x n ∈ i.uses.rd ∧
      s.cx.present.toNat.testBit n = false

/-- An instruction that older work of its context holds back, by its ordering class, the queue or the window of
unacknowledged accesses, changes nothing (R31, R102, Table 6-2). -/
def Sys2Proof.Claims.HeldInstructionsChangeNothing : Prop :=
  ∀ (s : State) (i : Instr), i.isEvent = false → ¬ Claims.OwnOrder i → s.Owns i → s.SourcesPresent i →
    s.cx.holds s.inHelper i = true → exec i s = .next s

/-- What stands before every instruction: the registers it may name, the presence of its sources, and the older work
that holds it back (R16, R17, R31, R102, R113, R130). -/
def Obligations.TheGateOfAnInstruction : Prop :=
  Claims.UnownedRegistersTrap ∧ Claims.AbsentSourcesWait ∧ Claims.HeldInstructionsChangeNothing

/-- x0 reads as 0 and a write to it is discarded; a write to another x register is what it then reads as, sets its
presence bit, and leaves the others (R114, R130). -/
def Obligations.XRegisters : Prop :=
  ∀ (x : Ctx) (d r : BitVec 5) (v : BitVec 64),
    x.xr 0#5 = 0#64 ∧ x.setX 0#5 v = x ∧
    (d ≠ 0#5 → (x.setX d v).xr d = v ∧ (x.setX d v).present.toNat.testBit d.toNat = true) ∧
    (r ≠ d → (x.setX d v).xr r = x.xr r ∧
      (x.setX d v).present.toNat.testBit r.toNat = x.present.toNat.testBit r.toNat)

-- Traps (12_privileged.md).

/-- Taking a trap saves level and KTE, the cause and its value, the PCs and the deferred instructions, and goes on at K
level at the address in TVEC; where the context is at K level with KTE = 0, R304 applies instead (R302). -/
def Sys2Proof.Claims.TrapEntry : Prop :=
  ∀ (s t : State) (c k : Nat) (tr : Trap) (tepc tipc : BitVec 64) (defer : List (BitVec 64)),
    t = s.takeTrap c k tr tepc defer tipc → defer.length ≤ 8 →
    ¬ ((s.ctxAt c k).level = .k ∧ bitOf (s.ctxAt c k).tstatus 1 = false) →
      (t.ctxAt c k).level = .k ∧ (t.ctxAt c k).pc = (s.core c).tvec ∧
      bitOf (t.ctxAt c k).tstatus 0 = decide ((s.ctxAt c k).level = .k) ∧
      bitOf (t.ctxAt c k).tstatus 2 = bitOf (s.ctxAt c k).tstatus 1 ∧ bitOf (t.ctxAt c k).tstatus 1 = false ∧
      fld (t.ctxAt c k).tstatus 12 4 = 0 ∧ fld (t.ctxAt c k).tstatus 16 4 = defer.length ∧
      fld (t.ctxAt c k).tstatus 20 4 = fld (s.ctxAt c k).tstatus 20 4 ∧
      (t.ctxAt c k).tcause.toNat = tr.cause.toNat ∧ (t.ctxAt c k).tval = tr.tval ∧
      (t.ctxAt c k).tepc = tepc ∧ (t.ctxAt c k).tipc = tipc ∧
      (k = 0 → ∀ i : Fin 8, ∀ h : i.val < defer.length, (t.ctxAt c k).tdq.get i = defer[i.val]) ∧
      (t.ctxAt c k).x = (s.ctxAt c k).x ∧ (t.ctxAt c k).present = (s.ctxAt c k).present ∧
      (t.ctxAt c k).f = (s.ctxAt c k).f ∧ (t.ctxAt c k).v = (s.ctxAt c k).v ∧
      (t.ctxAt c k).fcsr = (s.ctxAt c k).fcsr ∧ t.mem = s.mem ∧
      (∀ d, d ≠ c → t.core d = s.core d) ∧ (∀ j, j ≠ k → t.ctxAt c j = s.ctxAt c j)

/-- A trap at K level with KTE = 0 is a double trap: the context is parked, TCAUSE, TVAL and TEPC keep the first trap,
the second one's cause and value are reported, and no handler runs (R304). The numbers under which the notices stand are
the model's choice (log 70). -/
def Sys2Proof.Claims.DoubleTrapParks : Prop :=
  ∀ (s t : State) (c k : Nat) (tr : Trap) (tepc tipc : BitVec 64) (defer : List (BitVec 64)),
    t = s.takeTrap c k tr tepc defer tipc → (s.ctxAt c k).level = .k → bitOf (s.ctxAt c k).tstatus 1 = false →
      (t.ctxAt c k).parked = true ∧ (t.ctxAt c k).live = false ∧ (t.ctxAt c k).finished = decide (k = 0) ∧
      (t.ctxAt c k).pc = (s.ctxAt c k).pc ∧ (t.ctxAt c k).tcause = (s.ctxAt c k).tcause ∧
      (t.ctxAt c k).tval = (s.ctxAt c k).tval ∧ (t.ctxAt c k).tepc = (s.ctxAt c k).tepc ∧
      (1, 0xFFFFFFFF#64) ∈ t.modl.notices ∧ (2, word tr.cause.toNat) ∈ t.modl.notices ∧
      (3, tr.tval) ∈ t.modl.notices ∧ t.mem = s.mem

/-- What taking a trap saves and where it goes, and the double trap (R302, R304). The numbers of its notices are the model's
choice (log 70). -/
def Obligations.TrapsAndDoubleTraps : Prop :=
  Claims.TrapEntry ∧ Claims.DoubleTrapParks

/-- An encoded instruction brings only its own context to K level, by a trap that goes on at TVEC, and takes a live
context from it only as that context's own TRET or HEXIT: it changes the level of no other live context (R296). What events
do to levels is stated with them. -/
def Obligations.LevelsChangeOnlyByTrapAndTret : Prop :=
  ∀ (i : Instr) (s t : State) (c k : Nat), i.isEvent = false → exec i s = .next t →
    ((s.ctxAt c k).level = .u → (t.ctxAt c k).level = .k →
      (c, k) = s.cur ∧ (t.ctxAt c k).pc = (t.core c).tvec) ∧
    ((s.ctxAt c k).level = .k → (s.ctxAt c k).live = true → (t.ctxAt c k).level = .u →
      (c, k) = s.cur ∧ (i = .tret ∨ i = .hexit))

/-- ILLEGAL_ENCODING, EBREAK and a U-level TRET trap with their causes and values; ECALL at U level in the control
context traps with a7 where that is not 0, and in a helper names a register it does not own (R117, R166, R303, R165). -/
def Sys2Proof.Claims.TrappingSystemInstructions : Prop :=
  ∀ (s : State), s.Settled →
    (∀ bits, exec (.illegalEncoding false bits) s =
      .next (s.takeTrap s.cur.1 s.cur.2 (trap cIllegal (word bits.toNat)) s.cx.pc [] s.cx.pc)) ∧
    (∀ bits, exec (.illegalEncoding true bits) s =
      .next (s.takeTrap s.cur.1 s.cur.2 (trap cIllegal (word (bits.toNat % 65536))) s.cx.pc [] s.cx.pc)) ∧
    (exec .ebreak s = .next (s.takeTrap s.cur.1 s.cur.2 (trap cEbreak 0#64) s.cx.pc [] s.cx.pc)) ∧
    (s.cx.level = .u → exec .tret s =
      .next (s.takeTrap s.cur.1 s.cur.2 (trap cPriv 0x00200019#64) s.cx.pc [] s.cx.pc)) ∧
    (s.cx.level = .u → s.inHelper = true → exec .ecall s =
      .next (s.takeTrap s.cur.1 s.cur.2 (trap cIllegalReg 0x19#64) s.cx.pc [] s.cx.pc)) ∧
    (s.cx.level = .u → s.inHelper = false → s.cx.present.toNat.testBit 17 = true → s.x 17#5 ≠ 0#64 →
      exec .ecall s = .next (s.takeTrap s.cur.1 s.cur.2 (trap cEcall (s.x 17#5)) s.cx.pc [] s.cx.pc))

/-- TRET at K level restores level and KTE and goes on at TIPC; in the control context the deferred instructions from
DQS on are to be reissued, oldest first, ports that had trapped prefetch again, and an active repetition goes on, where
the trap was not taken between another trap of the context and its TRET: then it stays as that trap found it (R174, R179,
R303; log 71). -/
def Sys2Proof.Claims.TretRestores : Prop :=
  ∀ (s : State), s.Issues .tret → s.cx.level = .k →
    ∃ t : State, exec .tret s = .next t ∧
      s.OnlyContext t (fun x y =>
        { y with level := x.level, tstatus := x.tstatus, pc := x.pc, wait := x.wait, resume := x.resume,
                 latheHeld := x.latheHeld, heldBefore := x.heldBefore, refetch := x.refetch, ports := x.ports } = x ∧
        y.level = (if bitOf x.tstatus 0 then .k else .u) ∧ bitOf y.tstatus 1 = bitOf x.tstatus 2 ∧
        (∀ n, n < 64 → n ≠ 1 → bitOf y.tstatus n = bitOf x.tstatus n) ∧ y.pc = x.tipc ∧ y.wait = none ∧
        (s.inHelper = false → y.latheHeld = (bitOf x.tstatus 0 && x.heldBefore.headD false) ∧
          y.heldBefore = (if bitOf x.tstatus 0 then x.heldBefore.tail else []) ∧
          y.refetch = (bitOf x.lstat 12 && !y.latheHeld) ∧
          y.ports = x.ports.map (fun p => { p with held := false }) ∧
          y.resume = (x.tdq.toList.take (fld x.tstatus 16 4)).drop (fld x.tstatus 12 4)) ∧
        (s.inHelper = true → y.resume = x.resume ∧ y.latheHeld = x.latheHeld ∧ y.heldBefore = x.heldBefore ∧
          y.refetch = x.refetch ∧ y.ports = x.ports))

/-- ECALL with a7 = 0 at U level in the control context ends the context with a0 as its exit value and ends its region;
at K level an ECALL waits for Wilzia; WFE completes on the wake latch, clearing it, and otherwise waits; ISYNC empties
the quad's instruction cache and lets the context's fetches follow the regions as they are; each of the last two goes on
(R35, R308, R167, R168, R310). -/
def Sys2Proof.Claims.SystemInstructionsComplete : Prop :=
  ∀ (s : State),
    (s.Settled → s.inHelper = false → s.cx.level = .u → s.cx.present.toNat.testBit 17 = true →
      s.cx.present.toNat.testBit 10 = true → s.x 17#5 = 0#64 →
      ∃ t : State, exec .ecall s = .next t ∧
      t.cx = { s.cx with live := false, finished := true, exitValue := s.x 10#5, wait := none } ∧
        (∀ r ∈ t.races, ¬ (r.core = s.cur.1 ∧ r.ctx = s.cur.2)) ∧ SameBytes s t) ∧
    (s.Settled → s.cx.level = .k → (s.inHelper = false → ∀ n ∈ [10, 11, 12, 13, 14, 15, 17],
      s.cx.present.toNat.testBit n = true) → exec .ecall s = .next (s.await .wilzia 0#64)) ∧
    (s.Issues .wfe → s.cx.wake = true →
      exec .wfe s = .next (s.setCx { s.cx with wake := false, pc := s.cx.pc + 4#64, wait := none })) ∧
    (s.Issues .wfe → s.cx.wake = false → exec .wfe s = .next (s.await .wfe 0#64)) ∧
    (s.Issues .isync → ∃ t : State, exec .isync s = .next t ∧ (t.quad (quadOf s.cur.1)).icache = [] ∧
      t.cx = { s.cx with pc := s.cx.pc + 4#64, wait := none, fetchPrgn := s.me.prgn } ∧ SameBytes s t ∧
      (∀ q, q ≠ quadOf s.cur.1 → t.quad q = s.quad q) ∧ (∀ c, c ≠ s.cur.1 → t.core c = s.core c))

/-- EBREAK, ECALL, TRET, WFE, ISYNC and what is no instruction: what each does at either level (R35, R117, R165, R166,
R167, R168, R303, R308). -/
def Obligations.SystemInstructions : Prop :=
  Claims.TrappingSystemInstructions ∧ Claims.TretRestores ∧ Claims.SystemInstructionsComplete


-- Integer instructions (06_isa_scalar.md).

namespace Sys2Proof.Claims

/-- An integer modulo 2^64. -/
def wrap (z : Int) : BitVec 64 := BitVec.ofInt 64 z

/-- The destination, the value and the length in bytes of an instruction of Tables 6-3 and 6-4, R134 and R135, from
the sources read as unsigned and as signed numbers. -/
def intResult (s : State) : Instr → Option (BitVec 5 × BitVec 64 × Nat)
  | .add d a b => some (d, wrap ((s.x a).toNat + (s.x b).toNat), 4)
  | .sub d a b => some (d, wrap ((s.x a).toNat - (s.x b).toNat), 4)
  | .sll d a b => some (d, wrap ((s.x a).toNat * 2 ^ ((s.x b).toNat % 64)), 4)
  | .slt d a b => some (d, if (s.x a).toInt < (s.x b).toInt then 1#64 else 0#64, 4)
  | .sltu d a b => some (d, if (s.x a).toNat < (s.x b).toNat then 1#64 else 0#64, 4)
  | .xor d a b => some (d, s.x a ^^^ s.x b, 4)
  | .srl d a b => some (d, wrap ((s.x a).toNat / 2 ^ ((s.x b).toNat % 64)), 4)
  | .sra d a b => some (d, wrap ((s.x a).toInt / 2 ^ ((s.x b).toNat % 64)), 4)
  | .or d a b => some (d, s.x a ||| s.x b, 4)
  | .and d a b => some (d, s.x a &&& s.x b, 4)
  | .min d a b => some (d, wrap (min (s.x a).toInt (s.x b).toInt), 4)
  | .max d a b => some (d, wrap (max (s.x a).toInt (s.x b).toInt), 4)
  | .minu d a b => some (d, wrap (min (s.x a).toNat (s.x b).toNat : Nat), 4)
  | .maxu d a b => some (d, wrap (max (s.x a).toNat (s.x b).toNat : Nat), 4)
  | .mul d a b => some (d, wrap ((s.x a).toNat * (s.x b).toNat), 4)
  | .mulh d a b => some (d, wrap ((s.x a).toInt * (s.x b).toInt / 2 ^ 64), 4)
  | .mulhsu d a b => some (d, wrap ((s.x a).toInt * (s.x b).toNat / 2 ^ 64), 4)
  | .mulhu d a b => some (d, wrap (((s.x a).toNat : Int) * (s.x b).toNat / 2 ^ 64), 4)
  | .sextb d a => some (d, wrap ((s.x a).extractLsb' 0 8).toInt, 4)
  | .sexth d a => some (d, wrap ((s.x a).extractLsb' 0 16).toInt, 4)
  | .sextw d a => some (d, wrap ((s.x a).extractLsb' 0 32).toInt, 4)
  | .addi d a i => some (d, wrap ((s.x a).toNat + i.toInt), 4)
  | .slti d a i => some (d, if (s.x a).toInt < i.toInt then 1#64 else 0#64, 4)
  | .sltiu d a i => some (d, if (s.x a).toNat < (wrap i.toInt).toNat then 1#64 else 0#64, 4)
  | .xori d a i => some (d, s.x a ^^^ wrap i.toInt, 4)
  | .ori d a i => some (d, s.x a ||| wrap i.toInt, 4)
  | .andi d a i => some (d, s.x a &&& wrap i.toInt, 4)
  | .slli d a h => some (d, wrap ((s.x a).toNat * 2 ^ h.toNat), 4)
  | .srli d a h => some (d, wrap ((s.x a).toNat / 2 ^ h.toNat), 4)
  | .srai d a h => some (d, wrap ((s.x a).toInt / 2 ^ h.toNat), 4)
  | .lih d i => some (d, wrap (i ++ 0#12 : BitVec 32).toInt, 4)
  | .addpc d i => some (d, wrap (s.cx.pc.toNat + (i ++ 0#12 : BitVec 32).toInt), 4)
  | .add16 d b => some (d, wrap ((s.x d).toNat + (s.x b).toNat), 2)
  | .sub16 d b => some (d, wrap ((s.x d).toNat - (s.x b).toNat), 2)
  | .and16 d b => some (d, s.x d &&& s.x b, 2)
  | .or16 d b => some (d, s.x d ||| s.x b, 2)
  | .xor16 d b => some (d, s.x d ^^^ s.x b, 2)
  | .sll16 d b => some (d, wrap ((s.x d).toNat * 2 ^ ((s.x b).toNat % 64)), 2)
  | .srl16 d b => some (d, wrap ((s.x d).toNat / 2 ^ ((s.x b).toNat % 64)), 2)
  | .mv16 d b => some (d, s.x b, 2)
  | .addi16 d i => some (d, wrap ((s.x d).toNat + i.toInt), 2)
  | _ => none

end Sys2Proof.Claims

namespace Sys2Proof.Claims

/-- A word in the R layout (R111): fn7, rs2, fn3, rs1, rd and the opcode, from the highest bit down. -/
def rWord (f7 : BitVec 7) (b : BitVec 5) (f3 : BitVec 3) (a d : BitVec 5) (op : BitVec 7) : BitVec 32 :=
  f7 ++ b ++ f3 ++ a ++ d ++ op

/-- A word in the I layout: a 12-bit immediate, fn3, rs1, rd and the opcode. -/
def iWord (imm : BitVec 12) (f3 : BitVec 3) (a d : BitVec 5) (op : BitVec 7) : BitVec 32 :=
  imm ++ f3 ++ a ++ d ++ op

/-- The integer register and immediate forms with their fn7 and fn3 (Tables 6-3 to 6-5, R134, R135, R137). -/
def IntegerWords : Prop :=
  (∀ (d a b : BitVec 5),
    (∀ f7 f3 i, (f7, f3, i) ∈ ([(0x00, 0, .add d a b), (0x20, 0, .sub d a b), (0x00, 1, .sll d a b), (0x00, 2, .slt d a b),
        (0x00, 3, .sltu d a b), (0x00, 4, .xor d a b), (0x00, 5, .srl d a b), (0x20, 5, .sra d a b), (0x00, 6, .or d a b),
        (0x00, 7, .and d a b)] : List (BitVec 7 × BitVec 3 × Instr)) → decode32 (rWord f7 b f3 a d 0x03) = some i) ∧
    (∀ f7 f3 i, (f7, f3, i) ∈ ([(0x02, 0, .min d a b), (0x02, 1, .max d a b), (0x02, 2, .minu d a b),
        (0x02, 3, .maxu d a b), (0x01, 0, .mul d a b), (0x01, 1, .mulh d a b), (0x01, 2, .mulhsu d a b),
        (0x01, 3, .mulhu d a b)] : List (BitVec 7 × BitVec 3 × Instr)) → decode32 (rWord f7 b f3 a d 0x03) = some i) ∧
    (∀ f3 i, (f3, i) ∈ ([(0, .clz d a), (1, .ctz d a), (2, .popc d a), (3, .brev d a), (4, .sextb d a), (5, .sexth d a),
        (6, .sextw d a)] : List (BitVec 3 × Instr)) → decode32 (rWord 0x04 0 f3 a d 0x03) = some i)) ∧
  (∀ (d a : BitVec 5) (imm : BitVec 12),
    (∀ f3 i, (f3, i) ∈ ([(0, .addi d a imm), (2, .slti d a imm), (3, .sltiu d a imm), (4, .xori d a imm), (6, .ori d a imm),
        (7, .andi d a imm)] : List (BitVec 3 × Instr)) → decode32 (iWord imm f3 a d 0x05) = some i)) ∧
  (∀ (d a : BitVec 5) (sh : BitVec 6), decode32 (iWord (0#6 ++ sh) 1 a d 0x05) = some (.slli d a sh) ∧
    decode32 (iWord (0#6 ++ sh) 5 a d 0x05) = some (.srli d a sh) ∧
    decode32 (iWord (0x10#6 ++ sh) 5 a d 0x05) = some (.srai d a sh) ∧
    (∀ h : BitVec 6, h ≠ 0#6 → decode32 (iWord (h ++ sh) 1 a d 0x05) = none ∧
      (h ≠ 0x10#6 → decode32 (iWord (h ++ sh) 5 a d 0x05) = none))) ∧
  (∀ (d : BitVec 5) (imm : BitVec 20), decode32 (imm ++ d ++ 0x07#7) = some (.lih d imm) ∧
    decode32 (imm ++ d ++ 0x09#7) = some (.addpc d imm)) ∧
  (∀ (d a : BitVec 5) (l p : BitVec 6), (p.toNat + l.toNat + 1 ≤ 64 →
      decode32 (l ++ p ++ 0#3 ++ a ++ d ++ 0x15#7) = some (.bfx d a l p) ∧
      decode32 (l ++ p ++ 1#3 ++ a ++ d ++ 0x15#7) = some (.bfi d a l p)) ∧
    (64 < p.toNat + l.toNat + 1 → decode32 (l ++ p ++ 0#3 ++ a ++ d ++ 0x15#7) = none ∧
      decode32 (l ++ p ++ 1#3 ++ a ++ d ++ 0x15#7) = none))

end Sys2Proof.Claims

/-- The integer instructions of Tables 6-3 and 6-5, the multiplications, LIH, ADDPC and the 16-bit forms write their
result, wrapped to 64 bits, and go on; nothing else changes (R112, R133 to R135, R137). -/
def Sys2Proof.Claims.IntegerResults : Prop :=
  ∀ (s : State) (i : Instr) (d : BitVec 5) (v : BitVec 64) (n : Nat),
    Claims.intResult s i = some (d, v, n) → i.cls = .none ∧ (s.Issues i → exec i s = .next ((s.setX d v).bump n))

/-- DIV, DIVU, REM and REMU: their encodings and class, the truncated quotient and the remainder with the dividend's sign, the corner cases of
Table 6-4, and no trap and no flag in any case (R136). -/
def Obligations.Division : Prop :=
  ∀ (s : State) (d a b : BitVec 5),
    (∀ f3 i, (f3, i) ∈ ([(4, .div d a b), (5, .divu d a b), (6, .rem d a b), (7, .remu d a b)] :
      List (BitVec 3 × Instr)) → decode32 (Claims.rWord 0x01 b f3 a d 0x03) = some i ∧ i.cls = .none) ∧
    (s.Issues (.div d a b) → ∃ v : BitVec 64, exec (.div d a b) s = .next ((s.setX d v).bump 4) ∧
      (s.x b = 0#64 → v = 0xFFFFFFFFFFFFFFFF#64) ∧
      (s.x a = 0x8000000000000000#64 → s.x b = 0xFFFFFFFFFFFFFFFF#64 → v = 0x8000000000000000#64) ∧
      (s.x b ≠ 0#64 → ¬ (s.x a = 0x8000000000000000#64 ∧ s.x b = 0xFFFFFFFFFFFFFFFF#64) →
        v.toInt = (s.x a).toInt.tdiv (s.x b).toInt)) ∧
    (s.Issues (.divu d a b) → ∃ v : BitVec 64, exec (.divu d a b) s = .next ((s.setX d v).bump 4) ∧
      (s.x b = 0#64 → v = 0xFFFFFFFFFFFFFFFF#64) ∧ (s.x b ≠ 0#64 → v.toNat = (s.x a).toNat / (s.x b).toNat)) ∧
    (s.Issues (.rem d a b) → ∃ v : BitVec 64, exec (.rem d a b) s = .next ((s.setX d v).bump 4) ∧
      (s.x b = 0#64 → v = s.x a) ∧
      (s.x b ≠ 0#64 → v.toInt = (s.x a).toInt.tmod (s.x b).toInt)) ∧
    (s.Issues (.remu d a b) → ∃ v : BitVec 64, exec (.remu d a b) s = .next ((s.setX d v).bump 4) ∧
      (s.x b = 0#64 → v = s.x a) ∧ (s.x b ≠ 0#64 → v.toNat = (s.x a).toNat % (s.x b).toNat))

/-- CLZ, CTZ, POPC and BREV, said of the bits: the count of zeros above the highest one, below the lowest one, the
number of ones, and every bit i of the source at bit 63 − i; BFX and BFI move the field of len bits at pos, which the
encoding holds as len − 1 (R137, R138). -/
def Sys2Proof.Claims.BitOperations : Prop :=
  ∀ (s : State) (d a : BitVec 5) (l p : BitVec 6),
    (∀ i ∈ [Instr.clz d a, .ctz d a, .popc d a, .brev d a, .bfx d a l p, .bfi d a l p], i.cls = .none) ∧
    (s.Issues (.clz d a) → ∃ n ≤ 64, exec (.clz d a) s = .next ((s.setX d (word n)).bump 4) ∧
      (∀ j, j < n → bitOf (s.x a) (63 - j) = false) ∧ (n < 64 → bitOf (s.x a) (63 - n) = true)) ∧
    (s.Issues (.ctz d a) → ∃ n ≤ 64, exec (.ctz d a) s = .next ((s.setX d (word n)).bump 4) ∧
      (∀ j, j < n → bitOf (s.x a) j = false) ∧ (n < 64 → bitOf (s.x a) n = true)) ∧
    (s.Issues (.popc d a) → exec (.popc d a) s = .next ((s.setX d
      (word ((Finset.range 64).filter fun j => bitOf (s.x a) j = true).card)).bump 4)) ∧
    (s.Issues (.brev d a) → ∃ v, exec (.brev d a) s = .next ((s.setX d v).bump 4) ∧
      ∀ j, j < 64 → bitOf v j = bitOf (s.x a) (63 - j)) ∧
    (s.Issues (.bfx d a l p) → ∃ v, exec (.bfx d a l p) s = .next ((s.setX d v).bump 4) ∧
      ∀ j, j < 64 → bitOf v j = (decide (j ≤ l.toNat) && bitOf (s.x a) (p.toNat + j))) ∧
    (s.Issues (.bfi d a l p) → (Instr.bfi d a l p).wellFormed = true →
      ∃ v, exec (.bfi d a l p) s = .next ((s.setX d v).bump 4) ∧
        ∀ j, j < 64 → bitOf v j =
          if p.toNat ≤ j ∧ j ≤ p.toNat + l.toNat then bitOf (s.x a) (j - p.toNat) else bitOf (s.x d) j)

/-- The integer, multiply, bit and field instructions: their encodings, their ordering class and their results (R112,
R133, R134, R135, R137, R138). -/
def Obligations.IntegerInstructions : Prop :=
  Claims.IntegerWords ∧ Claims.IntegerResults ∧ Claims.BitOperations

/-- MKADDR builds an address from its selector and offset, or traps with ADDR at the first of its checks that fails
(R139). -/
def Sys2Proof.Claims.MkaddrBuildsAnAddress : Prop :=
  ∀ (s : State) (d a b : BitVec 5) (t : BitVec 64),
    decode32 (Claims.rWord 0 b 0 a d 0x17) = some (.mkaddr d a b) ∧ (Instr.mkaddr d a b).cls = .none ∧
    (s.Issues (.mkaddr d a b) →
    t = word (fld (s.x a) 21 2 * 2 ^ 46 + fld (s.x a) 4 12 * 2 ^ 34 + fld (s.x a) 16 5 * 2 ^ 29 + (s.x b).toNat) →
    (2 ^ 23 ≤ (s.x a).toNat → exec (.mkaddr d a b) s = s.raise s (trap cAddr (s.x a))) ∧
    ((s.x a).toNat < 2 ^ 23 → 2 ^ 29 ≤ (s.x b).toNat → exec (.mkaddr d a b) s = s.raise s (trap cAddr (s.x b))) ∧
    ((s.x a).toNat < 2 ^ 23 → (s.x b).toNat < 2 ^ 29 → resolve s.cur.1 t 1 = none →
      exec (.mkaddr d a b) s = s.raise s (trap cAddr t)) ∧
    ((s.x a).toNat < 2 ^ 23 → (s.x b).toNat < 2 ^ 29 → resolve s.cur.1 t 1 ≠ none →
      exec (.mkaddr d a b) s = .next ((s.setX d t).bump 4)))

/-- ABSADDR passes a device address through unchecked, and writes the absolute form of a mesh address that exists,
with the core's own unit for unit 0; another traps with ADDR (R140). -/
def Sys2Proof.Claims.AbsaddrResolves : Prop :=
  ∀ (s : State) (d a : BitVec 5),
    decode32 (Claims.rWord 0 0 1 a d 0x17) = some (.absaddr d a) ∧ (Instr.absaddr d a).cls = .none ∧
    (s.Issues (.absaddr d a) →
    (bitOf (s.x a) 63 = true → exec (.absaddr d a) s = .next ((s.setX d (s.x a)).bump 4)) ∧
    (bitOf (s.x a) 63 = false → resolve s.cur.1 (s.x a) 1 = none →
      exec (.absaddr d a) s = s.raise s (trap cAddr (s.x a))) ∧
    (∀ m v, bitOf (s.x a) 63 = false → resolve s.cur.1 (s.x a) 1 = some m →
      v = word (2 * 2 ^ 46 + m.cluster * 2 ^ 34 + m.unit * 2 ^ 29 + m.off) →
      exec (.absaddr d a) s = .next ((s.setX d v).bump 4) ∧ (∀ c, resolve c v 1 = some m) ∧
      m.off = fld (s.x a) 0 29 ∧
      m.unit = (if fld (s.x a) 29 5 = 0 then 1 + s.cur.1 % 16 else fld (s.x a) 29 5) ∧
      (fld (s.x a) 46 2 = 0 → m.cluster = s.cur.1 / 16) ∧ (fld (s.x a) 46 2 = 2 → m.cluster = fld (s.x a) 34 12) ∧
      (fld (s.x a) 46 2 = 1 →
        m.cluster / 256 = (s.cur.1 / 4096 % 16 + fld (s.x a) 42 4) % 16 ∧
        m.cluster / 16 % 16 = (s.cur.1 / 256 % 16 + fld (s.x a) 38 4) % 16 ∧
        m.cluster % 16 = (s.cur.1 / 16 % 16 + fld (s.x a) 34 4) % 16)))

/-- MKADDR and ABSADDR: their encodings and the addresses they write (R139, R140). -/
def Obligations.AddressInstructions : Prop :=
  Claims.MkaddrBuildsAnAddress ∧ Claims.AbsaddrResolves

/-- The encodings of branches and jumps. A branch whose condition holds goes on at its own address plus twice its offset, another after its four bytes; JAL
writes the address after it and goes to its target; JALR reads its source before it writes, and traps with ALIGN where
the target is odd, writing nothing (R141 to R143). -/
def Obligations.BranchesAndJumps : Prop :=
  ∀ (s : State) (d a b : BitVec 5) (o : BitVec 12) (j : BitVec 20),
    (∀ f3 i, (f3, i) ∈ ([(0, .beq a b o), (1, .bne a b o), (4, .blt a b o), (5, .bge a b o), (6, .bltu a b o),
        (7, .bgeu a b o)] : List (BitVec 3 × Instr)) →
      decode32 (Claims.rWord (o.extractLsb' 5 7) b f3 a (o.extractLsb' 0 5) 0x0F) = some i ∧ i.cls = .none) ∧
    (∀ f7 d, decode32 (Claims.rWord f7 b 2 a d 0x0F) = none ∧ decode32 (Claims.rWord f7 b 3 a d 0x0F) = none) ∧
    decode32 (j ++ d ++ 0x11#7) = some (.jal d j) ∧ decode32 (Claims.iWord o 0 a d 0x13) = some (.jalr d a o) ∧
    (∀ i cond, (i, cond) ∈ [(Instr.beq a b o, decide (s.x a = s.x b)), (.bne a b o, decide (s.x a ≠ s.x b)),
        (.blt a b o, decide ((s.x a).toInt < (s.x b).toInt)), (.bge a b o, decide ((s.x b).toInt ≤ (s.x a).toInt)),
        (.bltu a b o, decide ((s.x a).toNat < (s.x b).toNat)), (.bgeu a b o, decide ((s.x b).toNat ≤ (s.x a).toNat))] →
      s.Issues i → exec i s = .next (s.jump (if cond then Claims.wrap (s.cx.pc.toNat + o.toInt * 2) else s.cx.pc + 4#64))) ∧
    (s.Issues (.jal d j) →
      exec (.jal d j) s = .next ((s.setX d (s.cx.pc + 4#64)).jump (Claims.wrap (s.cx.pc.toNat + j.toInt * 2)))) ∧
    (s.Issues (.jalr d a o) → bitOf (Claims.wrap ((s.x a).toNat + o.toInt)) 0 = false →
      exec (.jalr d a o) s = .next ((s.setX d (s.cx.pc + 4#64)).jump (Claims.wrap ((s.x a).toNat + o.toInt)))) ∧
    (s.Issues (.jalr d a o) → bitOf (Claims.wrap ((s.x a).toNat + o.toInt)) 0 = true →
      exec (.jalr d a o) s = s.raise s (trap cAlign (Claims.wrap ((s.x a).toNat + o.toInt))))

namespace Sys2Proof.Claims

/-- The instructions of the integer pipe that touch no memory and no special register. -/
def registerOnly : Instr → Option (BitVec 5)
  | .mkaddr d _ _ | .absaddr d _ | .jal d _ | .jalr d _ _ | .div d _ _ | .divu d _ _ | .rem d _ _ | .remu d _ _
  | .clz d _ | .ctz d _ | .popc d _ | .brev d _ | .bfx d _ _ _ | .bfi d _ _ _ => some d
  | .beq _ _ _ | .bne _ _ _ | .blt _ _ _ | .bge _ _ _ | .bltu _ _ _ | .bgeu _ _ _ => some 0#5
  | i => (intResult State.reset i).map Prod.fst

end Sys2Proof.Claims

/-- The frame of the integer instructions, MKADDR, ABSADDR, branches and jumps: where one comes to a state, only its
destination with its presence bit, the PC and the wait of its own context differ, or it has waited or trapped. Memory,
every flag, special register and other context is as before. -/
def Obligations.RegisterOnlyFrame : Prop :=
  ∀ (s t : State) (i : Instr) (d : BitVec 5), Claims.registerOnly i = some d → exec i s = .next t →
    s.OnlyContext t (Ctx.OnlyX d) ∨ s.Waits t ∨ s.Traps t


-- Addresses, protection, loads and stores (02_memory_spaces.md, 04_consistency.md, 06_isa_scalar.md).

/-- Which mesh addresses exist for an access of n bytes, and what they name: the kind, the reserved bits, the form, the
unit and its size, and for unit 0 the core's own cluster (R39 to R43). -/
def Sys2Proof.Claims.MeshAddressesResolve : Prop :=
  ∀ (c n : Nat) (ea : BitVec 64) (m : Mesh), c < 65536 →
    (resolve c ea n = some m ↔
      fld ea 48 16 = 0 ∧ fld ea 46 2 ≠ 3 ∧ m.off = fld ea 0 29 ∧
      m.unit = (if fld ea 29 5 = 0 then 1 + c % 16 else fld ea 29 5) ∧
      (fld ea 29 5 = 0 → m.cluster = c / 16) ∧ m.unit ≤ 18 ∧
      (m.unit ≤ 16 → m.off + n ≤ 0x6000) ∧ (m.unit = 17 → m.off + n ≤ 0x100000) ∧ (m.unit = 18 → m.off + n ≤ 0x800) ∧
      (fld ea 46 2 = 0 → fld ea 34 12 = 0 ∧ m.cluster = c / 16) ∧
      (fld ea 46 2 = 1 → m.cluster = (c / 4096 + fld ea 42 4) % 16 * 256 + (c / 256 % 16 + fld ea 38 4) % 16 * 16
        + (c / 16 % 16 + fld ea 34 4) % 16) ∧
      (fld ea 46 2 = 2 → m.cluster = fld ea 34 12))

/-- The checks of a core access in their order, each with its trap and the address: existence (ADDR), alignment
(ALIGN), the partition, unit 18 where the access does not permit it, and the regions (PROT) (R51). -/
def Sys2Proof.Claims.AccessChecksInOrder : Prop :=
  ∀ (s : State) (c n al : Nat) (ea : BitVec 64) (rights : List Right) (window : Bool),
    (resolve c ea n = none → s.check c ea n al rights window = .error (trap cAddr ea)) ∧
    (∀ m, resolve c ea n = some m →
      (ea.toNat % al ≠ 0 → s.check c ea n al rights window = .error (trap cAlign ea)) ∧
      (ea.toNat % al = 0 → (s.shape c).hasCluster m.cluster = false →
        s.check c ea n al rights window = .error (trap cProt ea)) ∧
      (ea.toNat % al = 0 → (s.shape c).hasCluster m.cluster = true →
        (m.unit = 18 → s.check c ea n al rights window = if window then .ok m else .error (trap cProt ea)) ∧
        (m.unit ≠ 18 → s.check c ea n al rights window =
          if (∃ p ∈ (s.core c).prgn.toList, bitOf p 63 = true ∧ bitOf p 62 = decide (m.unit = 17) ∧
              (∀ g ∈ rights, bitOf p g.bit = true) ∧ fld p 32 15 * 32 ≤ m.off ∧
              m.off + n ≤ (fld p 32 15 + fld p 16 16) * 32)
          then .ok m else .error (trap cProt ea))))

/-- Which mesh addresses exist and the checks of an access in their order (R39, R40, R41, R42, R43, R51). -/
def Obligations.AddressesAndProtection : Prop :=
  Claims.MeshAddressesResolve ∧ Claims.AccessChecksInOrder

namespace Sys2Proof.Claims

/-- Destination, base, offset, bytes, whether the value is sign-extended, and whether unit 18 permits it, of a scalar
load (R146, R148). -/
def loadForm : Instr → Option (BitVec 5 × BitVec 5 × BitVec 12 × Nat × Bool × Bool)
  | .lb d a i => some (d, a, i, 1, true, false)
  | .lh d a i => some (d, a, i, 2, true, false)
  | .lw d a i => some (d, a, i, 4, true, true)
  | .ld d a i => some (d, a, i, 8, false, true)
  | .lbu d a i => some (d, a, i, 1, false, false)
  | .lhu d a i => some (d, a, i, 2, false, false)
  | .lwu d a i => some (d, a, i, 4, false, false)
  | _ => none

/-- Base, source, offset and bytes of a scalar store (R147). -/
def storeForm : Instr → Option (BitVec 5 × BitVec 5 × BitVec 12 × Nat)
  | .sb a b i => some (a, b, i, 1)
  | .sh a b i => some (a, b, i, 2)
  | .sw a b i => some (a, b, i, 4)
  | .sd a b i => some (a, b, i, 8)
  | _ => none

/-- The address of a load or store: base plus offset, modulo 2^64 (R145). -/
def ea (s : State) (a : BitVec 5) (i : BitVec 12) : BitVec 64 := wrap ((s.x a).toNat + i.toInt)

/-- What some bytes, least significant first, come to in a register. -/
def loadedFrom (bs : List (BitVec 8)) (signed : Bool) : BitVec 64 :=
  let v : Nat := (bs.zipIdx.map fun b => b.1.toNat * 256 ^ b.2).sum
  if signed = true ∧ 2 ^ (8 * bs.length - 1) ≤ v then wrap ((v : Int) - 2 ^ (8 * bs.length)) else wrap v

/-- The n bytes that stand in memory from a place on. -/
def bytesAt (s : State) (k n : Nat) : List (BitVec 8) := (List.range n).map fun j => memGet s.mem (k + j)

/-- What a plain read of a context may return for the n bytes from a place on: those that stood there before the last
few writes over them, none of which happens before the read; the bytes that stand there are among them, and are the only
ones where every write over them is known to the context (R97, R104). -/
def MaySee (s : State) (c ctx k n : Nat) (bs : List (BitVec 8)) : Prop :=
  ∃ j ≤ (s.unseen c ctx k n).length, bs = ((s.unseen c ctx k n).take j).foldl (OldWrite.undo k) (bytesAt s k n)

/-- No granule rule and no memory error stands in the way of a read (R56, R301). -/
def Readable (s : State) (ea : BitVec 64) (k n : Nat) : Prop :=
  s.granuleTrap s.cur.1 ea (granulesOf k n) false false = none ∧ s.eccWord k n = none

/-- No granule rule stands in the way of a write. -/
def Writable (s : State) (ea : BitVec 64) (k n : Nat) : Prop :=
  s.granuleTrap s.cur.1 ea (granulesOf k n) true false = none

/-- Of a state, at most the context in hand as `r` says, race records with the splits they count, the words with an
uncorrectable error, the bytes of memory and what they replaced, a packet that sets out, and the model's counters of
ids and free values differ. -/
def OnlyAccess (s t : State) (r : Ctx → Ctx → Prop) : Prop :=
  { t with cores := s.cores, races := s.races, eccBad := s.eccBad, mem := s.mem, olds := s.olds, net := s.net,
           fresh := s.fresh, nextId := s.nextId } = s ∧
    (t.net = s.net ∨ ∃ q, t.net = s.net ++ [q]) ∧
    (∀ c, c ≠ s.cur.1 → t.core c = s.core c) ∧ { t.me with ctxs := s.me.ctxs } = s.me ∧
    (∀ k, k ≠ s.cur.2 → t.ctxAt s.cur.1 k = s.ctxAt s.cur.1 k) ∧ r s.cx t.cx

/-- Of a context, x register d with its presence bit, the PC, the wait, the window of unacknowledged accesses and the
count of splits may differ, and a port may have lost prefetched elements from its young end. -/
def OnlyLoaded (d : BitVec 5) (x y : Ctx) : Prop :=
  { y with x := x.x, present := x.present, pc := x.pc, wait := x.wait, pending := x.pending, rdsplit := x.rdsplit,
           ports := x.ports } = x ∧
    (∀ r, r ≠ d → y.xr r = x.xr r) ∧
    (∀ n, n < 32 → n ≠ d.toNat → y.present.toNat.testBit n = x.present.toNat.testBit n) ∧
    (x.pending <+: y.pending ∧ y.pending.length ≤ x.pending.length + 1) ∧
    (∀ i : Fin 4, { y.ports.get i with fifo := (x.ports.get i).fifo } = x.ports.get i ∧
      (y.ports.get i).fifo <+: (x.ports.get i).fifo)

end Sys2Proof.Claims

/-- A load from the core's own local memory whose checks pass reads its bytes, little-endian, writes them zero- or
sign-extended, goes on, and puts its granules on record; a load for which a check fails traps and writes nothing; one
that overlaps an unacknowledged store of its context waits; one that reads a word with an uncorrectable error traps there.
The bytes are those that stand there where every write over them is known to the context, and else what a racy read may
return (R145, R146, R149, R51, R56, R97, R104, R301; log 6). -/
def Sys2Proof.Claims.LoadsFromOwnLocalMemory : Prop :=
  ∀ (s : State) (i : Instr) (d a : BitVec 5) (o : BitVec 12) (n : Nat) (sg w : Bool),
    Claims.loadForm i = some (d, a, o, n, sg, w) → s.Issues i →
    (∀ tr, s.check s.cur.1 (Claims.ea s a o) n n [.r] w = .error tr → exec i s = s.raise s tr) ∧
    (∀ m, s.check s.cur.1 (Claims.ea s a o) n n [.r] w = .ok m →
      (s.cx.storeOverlap (granulesOf m.key n) = true → exec i s = .next s) ∧
      (s.cx.storeOverlap (granulesOf m.key n) = false → ownLocal s.cur.1 m = true →
        (∀ tr, s.granuleTrap s.cur.1 (Claims.ea s a o) (granulesOf m.key n) false false = some tr →
          exec i s = s.raise s tr) ∧
        (∀ e, s.granuleTrap s.cur.1 (Claims.ea s a o) (granulesOf m.key n) false false = none → s.eccWord m.key n = some e →
          exec i s = s.raise s (trap cSramUncorr (word e))) ∧
        (Claims.Readable s (Claims.ea s a o) m.key n → ∃ bs f, Claims.MaySee s s.cur.1 s.cur.2 m.key n bs ∧
          (s.unseen s.cur.1 s.cur.2 m.key n = [] → bs = Claims.bytesAt s m.key n ∧ f = s.fresh) ∧
          exec i s = .next ((({ s.addRaces s.cur.1 s.cur.2 false false (granulesOf m.key n) with fresh := f } : State).setX d
            (Claims.loadedFrom bs sg)).bump 4))))

/-- LW and LD of the engine control window leave the core as other accesses do, of the core's own cluster too; at their
target they read the word that stands there, by its layout; every other access to unit 18 raises PROT (R45, R102, R148,
R264). -/
def Sys2Proof.Claims.ControlWindowLoads : Prop :=
  ∀ (s : State) (d a : BitVec 5) (o : BitVec 12) (m : Mesh), m.unit = 18 →
    (∀ i n sg, Claims.loadForm i = some (d, a, o, n, sg, true) → s.Issues i →
      s.check s.cur.1 (Claims.ea s a o) n n [.r] true = .ok m → s.cx.storeOverlap (granulesOf m.key n) = false →
      s.cx.pending.length < 4 →
      s.roomFor s.cur.1 { ea := Claims.ea s a o, key := m.key, size := n, act := .read false } = true →
      ∃ (t : State) (p : Pending), exec i s = .next t ∧ t.cx.pending = s.cx.pending ++ [p] ∧ p.dest = .reg d sg ∧
        p.acc = { ea := Claims.ea s a o, key := m.key, size := n, act := .read false }) ∧
    (∀ (c k : Nat) (p : Pending) (rest : List Pending) (pkt : Packet),
      (s.ctxAt c k).pending = p :: rest → p.performed = false → p.held = false → s.accessAt c k p.id = some pkt →
      meshOfKey p.acc.key = m → p.acc.act = .read false → s.answerRoom c p = true →
      ∃ (t : State) (q : Pending) (v : BitVec 64), exec (.remoteAccessPerform c k p.id) s = .next t ∧
        q ∈ (t.ctxAt c k).pending ∧ q.id = p.id ∧ q.performed = true ∧ q.fail = p.fail ∧ SameBytes s t ∧
        (p.acc.size = 8 → m.off % 8 = 0 → q.value = v.toNat) ∧
        (p.acc.size = 4 → m.off % 4 = 0 → q.value = (v.extractLsb' (8 * (m.off % 8)) 32).toNat) ∧
        v = (if m.off < 0x400 then (s.ring m.cluster (m.off / 64)).word (m.off / 8 % 8)
          else (s.cluster m.cluster).fold.word (m.off - 0x400))) ∧
    (∀ i n sg, Claims.loadForm i = some (d, a, o, n, sg, false) → s.Issues i →
      resolve s.cur.1 (Claims.ea s a o) n = some m → (Claims.ea s a o).toNat % n = 0 →
      exec i s = s.raise s (trap cProt (Claims.ea s a o)))

/-- A store to the core's own local memory whose checks pass writes the low bytes of its source there, least
significant first, and goes on; what it replaced stays what a context may read that the store does not happen before; one
for which a check fails traps and writes nothing (R145, R147, R51, R56, R104; log 6). -/
def Sys2Proof.Claims.StoresToOwnLocalMemory : Prop :=
  ∀ (s : State) (i : Instr) (a b : BitVec 5) (o : BitVec 12) (n : Nat),
    Claims.storeForm i = some (a, b, o, n) → s.Issues i →
    (∀ tr, s.check s.cur.1 (Claims.ea s a o) n n [.w] false = .error tr → exec i s = s.raise s tr) ∧
    (∀ m, s.check s.cur.1 (Claims.ea s a o) n n [.w] false = .ok m → ownLocal s.cur.1 m = true →
      (∀ tr, s.granuleTrap s.cur.1 (Claims.ea s a o) (granulesOf m.key n) true false = some tr →
        exec i s = s.raise s tr) ∧
      (Claims.Writable s (Claims.ea s a o) m.key n → ∃ t : State, exec i s = .next t ∧
        (∀ j, j < n → (memGet t.mem (m.key + j)).toNat = (s.x b).toNat / 256 ^ j % 256) ∧
        SameBytesBut s t m.key n ∧ t.cx.pc = s.cx.pc + 4#64 ∧ t.cx.x = s.cx.x ∧
        (∀ w, w ∈ t.eccBad ↔ w ∈ s.eccBad ∧ ¬ (m.key ≤ w ∧ w + 8 ≤ m.key + n)) ∧
        (∃ e, t.olds.head? = some e ∧ e.key = m.key ∧ e.old = Claims.bytesAt s m.key n ∧
          e.known = [.thread s.cur.1 s.cur.2] ∧ e.writer = some s.cur)))

/-- The scalar loads and stores of the core's own local memory and of unit 18 (R45, R51, R56, R145, R146, R147, R148, R149,
R264). What a read may see of other writes is the model's choice (log 6). -/
def Obligations.LoadsAndStoresAtHome : Prop :=
  Claims.LoadsFromOwnLocalMemory ∧ Claims.ControlWindowLoads ∧ Claims.StoresToOwnLocalMemory

/-- A scalar access to any other place leaves the issue slot at once: it enters the context's window, at most four deep,
with what a rollback restores, its packet sets out, and no byte changes until its target performs it. It waits while the
core's part of the injection queue is full; a fifth load waits, and a store issues only while the window is empty (R102,
R147, R149, R373, R380). -/
def Sys2Proof.Claims.RemoteAccessesArePosted : Prop :=
  ∀ (s : State) (i : Instr) (m : Mesh) (acc : Access),
    (∀ d a o n sg w, Claims.loadForm i = some (d, a, o, n, sg, w) → s.Issues i →
      acc = { ea := Claims.ea s a o, key := m.key, size := n, act := .read false } →
      s.check s.cur.1 (Claims.ea s a o) n n [.r] w = .ok m → ownLocal s.cur.1 m = false →
      s.cx.storeOverlap (granulesOf m.key n) = false →
      (4 ≤ s.cx.pending.length ∨ s.roomFor s.cur.1 acc = false → exec i s = .next s) ∧
      (s.cx.pending.length < 4 → s.roomFor s.cur.1 acc = true → ∃ (t : State) (p : Pending) (q : Packet),
        exec i s = .next t ∧ t.cx.pending = s.cx.pending ++ [p] ∧ p.acc = acc ∧ p.dest = .reg d sg ∧
        p.pc0 = s.cx.pc ∧ p.x0 = s.cx.x ∧ p.performed = false ∧ p.acked = false ∧ p.id = s.nextId ∧
        t.net = s.net ++ [q] ∧ q.cls = .request ∧ q.src = s.cur.1 / 16 ∧ q.dst = (meshOfKey m.key).cluster ∧
        q.body = .access s.cur.1 s.cur.2 p.id (answerer (meshOfKey m.key)) [] ∧
        t.cx.pc = s.cx.pc + 4#64 ∧ t.cx.x = s.cx.x ∧ SameBytes s t)) ∧
    (∀ a b o n, Claims.storeForm i = some (a, b, o, n) → s.Issues i →
      acc = { ea := Claims.ea s a o, key := m.key, size := n, act := .write (natBytes n (s.x b).toNat) false } →
      s.check s.cur.1 (Claims.ea s a o) n n [.w] false = .ok m → ownLocal s.cur.1 m = false →
      (s.roomFor s.cur.1 acc = false → exec i s = .next s) ∧
      (s.roomFor s.cur.1 acc = true → s.cx.pending = [] ∧ ∃ (t : State) (p : Pending) (q : Packet),
        exec i s = .next t ∧ t.cx.pending = [p] ∧ p.acc = acc ∧ p.dest = .none ∧
        p.pc0 = s.cx.pc ∧ p.x0 = s.cx.x ∧ p.performed = false ∧ p.acked = false ∧ p.id = s.nextId ∧
        t.net = s.net ++ [q] ∧ q.cls = .request ∧ q.src = s.cur.1 / 16 ∧ q.dst = (meshOfKey m.key).cluster ∧
        q.body = .access s.cur.1 s.cur.2 p.id (answerer (meshOfKey m.key)) (natBytes n (s.x b).toNat) ∧
        t.cx.pc = s.cx.pc + 4#64 ∧ t.cx.x = s.cx.x ∧ SameBytes s t))

namespace Sys2Proof.Claims

/-- Whether an access writes, with what it finds, and whether it is a synchronisation access. -/
def writesWith (a : Access) (old : Nat) : Bool :=
  match a.act with
  | .read _ => false
  | .write .. => true
  | .amo op b cmp _ _ => (amoNew op a.size old b cmp).isSome

def synchronises (a : Access) : Bool :=
  match a.act with
  | .read sync | .write _ sync => sync
  | .amo .. => true

/-- The bytes that an access leaves at its place, from those that it finds. -/
def leaves (a : Access) (old : Nat) : Option (List (BitVec 8)) :=
  match a.act with
  | .read _ => none
  | .write bs _ => some bs
  | .amo op b cmp _ _ => (amoNew op a.size old b cmp).map (natBytes a.size)

end Sys2Proof.Claims

/-- The packet of an access to a place outside unit 18 is at its target: the access performs there, storing its bytes,
reading its value or doing both as one, or is refused and changes no byte; its answer sets out, or is held behind others
that the agent holds. A target that has no room for the answer does not take it, and a store to a core that has not started
is held (REMOTE_ACCESS_PERFORM; R25, R88, R101, R102, R373, R380; log 6). -/
def Sys2Proof.Claims.PostedAccessesPerform : Prop :=
  ∀ (s : State) (c k : Nat) (p : Pending) (rest : List Pending) (pkt : Packet),
    (s.ctxAt c k).pending = p :: rest → p.acc.key = (meshOfKey p.acc.key).key → (meshOfKey p.acc.key).unit ≠ 18 →
    p.performed = false → p.held = false → s.accessAt c k p.id = some pkt →
    (p.acc.act.isWrite = true → s.unstarted (meshOfKey p.acc.key) = true → ∃ t : State,
      exec (.remoteAccessPerform c k p.id) s = .next t ∧ { p with held := true } ∈ (t.ctxAt c k).pending ∧
      SameBytes s t ∧ t.net = s.net) ∧
    ((p.acc.act.isWrite = false ∨ s.unstarted (meshOfKey p.acc.key) = false) → s.answerRoom c p = true →
      ∃ (t : State) (q : Pending), exec (.remoteAccessPerform c k p.id) s = .next t ∧
      q ∈ (t.ctxAt c k).pending ∧ q.id = p.id ∧ q.performed = true ∧
      ((∀ h ∈ (s.cluster p.acc.cluster).held, ∀ d a o pid b f, h ≠ .packet d a .response o pid b f) →
        ∃ b : Packet, t.net = s.net.filter (fun x => x.id != pkt.id) ++ [b] ∧ b.cls = .response ∧ b.dst = c / 16 ∧
          b.body = .ack c k p.id (p.acc.back q.value)) ∧
      ((∃ d o pid b f, .packet d (answerer (meshOfKey p.acc.key)) .response o pid b f ∈ (s.cluster p.acc.cluster).held) →
        t.net = s.net.filter (fun x => x.id != pkt.id) ∧
        ∃ h, (t.cluster p.acc.cluster).held = (s.cluster p.acc.cluster).held ++ [h]) ∧
      (let g := granulesOf p.acc.key p.acc.size
       let old := memRead s.mem p.acc.key p.acc.size
       (∀ tr, s.granuleTrap c p.acc.ea g (Claims.writesWith p.acc old) (Claims.synchronises p.acc) = some tr →
          q.fail = some (tr.cause, tr.race.getD tr.tval) ∧ SameBytes s t) ∧
       (s.granuleTrap c p.acc.ea g (Claims.writesWith p.acc old) (Claims.synchronises p.acc) = none →
         (∀ bs sync, p.acc.act = .write bs sync → bs.length = p.acc.size → q.fail = p.fail ∧
           SameBytesBut s t p.acc.key p.acc.size ∧ Claims.bytesAt t p.acc.key p.acc.size = bs) ∧
         (p.acc.act = .read false → p.acc.size ≤ 8 → s.eccWord p.acc.key p.acc.size = none → q.fail = p.fail ∧
           SameBytes s t ∧ ∃ bs, Claims.MaySee s c k p.acc.key p.acc.size bs ∧ q.value = bytesNat bs) ∧
         (p.acc.act = .read true → s.eccWord p.acc.key p.acc.size = none → q.fail = p.fail ∧ q.value = old ∧
           SameBytes s t) ∧
         (∀ op x cmp aq rl, p.acc.act = .amo op x cmp aq rl → s.eccWord p.acc.key p.acc.size = none →
           q.fail = p.fail ∧ q.value = old ∧ SameBytesBut s t p.acc.key p.acc.size ∧
           (∀ bs, Claims.leaves p.acc old = some bs → Claims.bytesAt t p.acc.key p.acc.size = bs) ∧
           (Claims.leaves p.acc old = none → SameBytes s t)))))

/-- The answer of the oldest access retires it with its value, or hands the value to the FP or vector instruction that
waits for it; an access of the integer pipe that was refused returns PC and x registers to before it and traps there
(REMOTE_ACK; R101, R102). -/
def Sys2Proof.Claims.PostedAccessesAreAcknowledged : Prop :=
  ∀ (s : State) (c k : Nat) (p : Pending) (rest : List Pending) (pkt : Packet),
    (s.ctxAt c k).pending = p :: rest → p.performed = true → p.acked = false → (∀ q ∈ rest, q.acked = false) →
    (∀ q ∈ rest, q.id ≠ p.id) → s.answerAt c k p.id = some pkt →
      ∃ t : State, exec (.remoteAck c k p.id) s = .next t ∧ SameBytes s t ∧
        (p.dest = .part → (t.ctxAt c k).pending = rest ∧
          (t.ctxAt c k).answers = (s.ctxAt c k).answers ++ [{ value := p.value, fail := p.fail }]) ∧
        (p.fail = none → ∀ d sg, p.dest = .reg d sg →
          (t.ctxAt c k).x = ((s.ctxAt c k).setX d (loadVal p.acc.size sg p.value)).x ∧
          (t.ctxAt c k).pending.length = rest.length) ∧
        (p.fail = none → ∀ d, p.dest = .pair d →
          (t.ctxAt c k).x = (((s.ctxAt c k).setX d (word p.value)).setX (d + 1#5) (word (p.value / 2 ^ 64))).x) ∧
        (p.fail = none → p.dest = .none → (t.ctxAt c k).x = (s.ctxAt c k).x ∧ (t.ctxAt c k).pending = rest) ∧
        (∀ f, p.fail = some f → p.dest ≠ .part → (s.ctxAt c k).level = .u →
          (k = 0 → (s.ctxAt c k).olderWork p = false) →
          (t.ctxAt c k).x = p.x0 ∧ (t.ctxAt c k).tepc = p.pc0 ∧ (t.ctxAt c k).tipc = p.pc0 ∧
          (t.ctxAt c k).tcause.toNat = f.1.toNat ∧ (t.ctxAt c k).pending = [] ∧ (t.ctxAt c k).level = .k)

/-- The accesses to other places than the own local memory: posted at issue, performed, and acknowledged (R25, R88, R101,
R102, R147, R149, R373). The model's own choices in it are logs 6, 9 and 85. -/
def Obligations.PostedAccesses : Prop :=
  Claims.RemoteAccessesArePosted ∧ Claims.PostedAccessesPerform ∧ Claims.PostedAccessesAreAcknowledged

/-- The frame of scalar loads and stores: where one comes to a state, only its destination, the PC, the window and the
record of the access differ in its own context, and for a store the elements that its ports have prefetched; at most one
packet has set out, every byte of memory outside those that the form stores to its own local memory is as before, and so is
every flag, special register and other context; or it has waited or trapped. -/
def Obligations.LoadStoreFrame : Prop :=
  ∀ (s t : State) (i : Instr), exec i s = .next t →
    (∀ d a o n sg w, Claims.loadForm i = some (d, a, o, n, sg, w) →
      (Claims.OnlyAccess s t (Claims.OnlyLoaded d) ∧ SameBytes s t ∧ t.eccBad = s.eccBad ∧ t.olds = s.olds ∧
        t.cx.ports = s.cx.ports) ∨ s.Waits t ∨ s.Traps t) ∧
    (∀ a b o n, Claims.storeForm i = some (a, b, o, n) →
      (Claims.OnlyAccess s t (Claims.OnlyLoaded 0#5) ∧
        ((∃ m, resolve s.cur.1 (Claims.ea s a o) n = some m ∧ SameBytesBut s t m.key n) ∨ SameBytes s t)) ∨
        s.Waits t ∨ s.Traps t)


-- CSRs (06_isa_scalar.md, 12_privileged.md).

namespace Sys2Proof.Claims

/-- The rows of Table 12-1: first and last number, columns U and K, and whether every field is RO. -/
def csrRows : List (Nat × Nat × Col × Col × Bool) :=
  [(0x000, 0x002, .rw, .rw, false), (0x003, 0x003, .r, .r, true), (0x004, 0x005, .rw, .rw, false),
   (0x008, 0x00A, .r, .rw, false), (0x010, 0x013, .rw, .rw, false), (0x020, 0x021, .rw, .rw, false),
   (0x022, 0x022, .r, .rw, false), (0x023, 0x024, .rw, .rw, false), (0x025, 0x025, .r, .r, true),
   (0x028, 0x029, .rw, .rw, false), (0x02A, 0x02B, .r, .r, true), (0x030, 0x030, .r, .r, true),
   (0x031, 0x031, .rw, .rw, false), (0x038, 0x038, .r, .r, true), (0x039, 0x039, .rw, .rw, false),
   (0x040, 0x042, .r, .r, true), (0x100, 0x10B, .rw, .rw, false), (0x110, 0x11B, .rw, .rw, false),
   (0x120, 0x12B, .rw, .rw, false), (0x130, 0x13B, .rw, .rw, false), (0x200, 0x201, .r, .r, true),
   (0x202, 0x203, .r, .rw, false), (0x210, 0x217, .r, .rw, false), (0x220, 0x23F, .none, .r, true),
   (0x300, 0x301, .none, .rw, false), (0x302, 0x304, .r, .rw, false), (0x305, 0x30F, .none, .rw, false)]

/-- The row of a number. -/
def csrRow (n : Nat) : Option (Col × Col × Bool) :=
  (csrRows.find? fun r => decide (r.1 ≤ n ∧ n ≤ r.2.1)).map fun r => r.2.2

/-- Destination, number and, where it writes, the new value from the old one, of a CSR instruction (R162). -/
def csrForm (s : State) : Instr → Option (BitVec 5 × BitVec 12 × Option (BitVec 64 → BitVec 64))
  | .csrrw d a c => some (d, c, some fun _ => s.x a)
  | .csrrs d a c => some (d, c, if a = 0#5 then none else some fun old => old ||| s.x a)
  | .csrrc d a c => some (d, c, if a = 0#5 then none else some fun old => old &&& ~~~(s.x a))
  | .csrrwi d c u => some (d, c, some fun _ => word u.toNat)
  | .csrrsi d c u => some (d, c, if u = 0#5 then none else some fun old => old ||| word u.toNat)
  | .csrrci d c u => some (d, c, if u = 0#5 then none else some fun old => old &&& ~~~(word u.toNat))
  | _ => none

/-- A CSR of the streams, the lathe or the bit buffer, or SPOS, whose scope is the control context (R16, R298). -/
def controlCsr (n : Nat) : Prop := (8 ≤ n ∧ n ≤ 10) ∨ (0x10 ≤ n ∧ n ≤ 0x13) ∨ (0x100 ≤ n ∧ n < 0x140) ∨ n = 0x307

/-- The column of the context's level. -/
def column (s : State) (u k : Col) : Col := if s.cx.level = .k then k else u

/-- What a write of v leaves in CSR k of a stream port (Table 7-1). -/
def portMap (k : Nat) (v : BitVec 64) : BitVec 64 :=
  let w := v.toNat
  let ctl := w / 8 % 2 ^ 21 * 8
  if 1 ≤ k ∧ k ≤ 4 then word (w % 2 ^ 20)
  else if k = 10 then word (w % 2 ^ 48)
  else if k = 11 then
    if w / 2 ^ 13 % 2 = 1 ∧ w / 2 ^ 14 % 2 = 1 ∧ (16 ≤ w / 2 ^ 15 % 32 ∨ 14 ≤ w / 2 ^ 20 % 16) then word (ctl - 2 ^ 13)
    else word ctl
  else v

/-- What a write of v leaves in the CSR with number n of the context in hand, by its field map. -/
def csrMap (s : State) (n : Nat) (v : BitVec 64) : Option (BitVec 64) :=
  let w := v.toNat
  if n = 0x000 then some (word (if 6 ≤ w / 32 % 8 then w % 32 else w % 256))
  else if n = 0x002 then some (word (w / 256 * 256 + 255))
  else if n = 0x005 then some (word (w % 128))
  else if n = 0x020 ∨ n = 0x021 then some (if w % 2 ^ 20 = 0 then 1#64 else word (w % 2 ^ 20))
  else if n = 0x022 then some (if w % 16 = 0 then 1#64 else word (w % 16))
  else if n = 0x024 then some (word (w % 128))
  else if n = 0x028 then some (word (w / 8 % 4096 * 8))
  else if n = 0x029 then some (if 8 ≤ w % 32 ∧ w % 32 ≤ 14 then word (w % 32) else 0#64)
  else if n = 0x031 then some (word (w % 8))
  else if n = 0x039 ∨ n = 0x300 then some (word (w / 2 * 2))
  else if n = 0x302 then some (word (w % 256))
  else if n = 0x00A then some (word (w / 256 % 32 * 256 + w % 16))
  else if n = 0x013 then some (word ((if w / 128 % 4 = 3 then 0 else w / 128 % 4) * 128 + min (w % 128) 64))
  else if n = 0x023 then
    some (word ((if w / 2 ^ 63 = 1 ∧ w / 64 % 512 * 64 + 1024 ≤ 0x6000 then 2 ^ 63 else 0) + w / 64 % 512 * 64))
  else if 0x100 ≤ n ∧ n < 0x140 then some (portMap (n % 16) v)
  else if n = 0x203 then some (word (w / 2 ^ 63 * 2 ^ 63 + w % 2 ^ 32))
  else if 0x210 ≤ n ∧ n ≤ 0x217 then
    some (word (w / 2 ^ 62 * 2 ^ 62 + w / 2 ^ 56 % 8 * 2 ^ 56 + w / 2 ^ 32 % 2 ^ 15 * 2 ^ 32
      + min (w / 2 ^ 16 % 2 ^ 16) 0x8000 * 2 ^ 16))
  else if n = 0x301 then
    some (word (fld s.cx.tstatus 20 4 * 2 ^ 20 + min (w / 2 ^ 16 % 16) 8 * 2 ^ 16 + min (w / 2 ^ 12 % 16) 8 * 2 ^ 12 + w % 8))
  else if n = 0x307 then some (word (w % 2 ^ 50))
  else if 0x308 ≤ n ∧ n ≤ 0x30F then some (if s.inHelper then 0#64 else v)
  else if n = 0x001 ∨ n = 0x004 ∨ n = 0x008 ∨ n = 0x009 ∨ (0x010 ≤ n ∧ n ≤ 0x012) ∨ n = 0x202 ∨
    (0x303 ≤ n ∧ n ≤ 0x306) then some v
  else none

end Sys2Proof.Claims

/-- A CSR instruction whose checks pass writes the old value to its destination, and where its form writes, the CSR by
its field map with the value that R162 gives; then it goes on (R162). -/
def Sys2Proof.Claims.CsrInstructions : Prop :=
  ∀ (s : State) (i : Instr) (d : BitVec 5) (n : BitVec 12) (w : Option (BitVec 64 → BitVec 64)) (u k : Col) (ro : Bool),
    Claims.csrForm s i = some (d, n, w) → s.Issues i → Claims.csrRow n.toNat = some (u, k, ro) →
    (s.inHelper = true → ¬ Claims.controlCsr n.toNat) → Claims.column s u k ≠ .none →
    (w ≠ none → ro = false ∧ Claims.column s u k = .rw) →
      exec i s = .next (((match w with
        | some f => s.csrWrite n.toNat (f (s.csrRead n.toNat))
        | none => s).setX d (s.csrRead n.toNat)).bump 4)

/-- The checks of a CSR instruction in their order: an unassigned number (ILLEGAL), a CSR of the control context in a
helper (ILLEGAL_REG), a level without access (PRIV), a write where every field is RO (ILLEGAL), a write where the
level's column is R (PRIV); the first that fails traps with the instruction bits (R163, R298, Table 12-1). -/
def Sys2Proof.Claims.CsrChecksInOrder : Prop :=
  ∀ (s : State) (i : Instr) (d : BitVec 5) (n : BitVec 12) (w : Option (BitVec 64 → BitVec 64)),
    Claims.csrForm s i = some (d, n, w) → s.Owns i →
    (Claims.csrRow n.toNat = none → exec i s = s.raise s (trap cIllegal i.bits)) ∧
    (∀ u k ro, Claims.csrRow n.toNat = some (u, k, ro) →
      (s.inHelper = true → Claims.controlCsr n.toNat → exec i s = s.raise s (trap cIllegalReg i.bits)) ∧
      (¬ (s.inHelper = true ∧ Claims.controlCsr n.toNat) →
        (Claims.column s u k = .none → exec i s = s.raise s (trap cPriv i.bits)) ∧
        (Claims.column s u k ≠ .none → w ≠ none → ro = true → exec i s = s.raise s (trap cIllegal i.bits)) ∧
        (w ≠ none → ro = false → Claims.column s u k = .r → exec i s = s.raise s (trap cPriv i.bits))))

/-- A CSR that is written reads back by its field map; every other CSR reads as before, but that a write of MRBASE or
MRSIZE empties the ring; and no register, byte of memory, level or other core changes (R8, R9, R61 and the field maps). -/
def Sys2Proof.Claims.CsrWritesByFieldMap : Prop :=
  ∀ (s : State) (n : Nat) (v : BitVec 64) (row : Col × Col × Bool), Claims.csrRow n = some row → row.2.2 = false →
    (∀ m, Claims.csrMap s n v = some m → (s.csrWrite n v).csrRead n = m) ∧
    (∀ j r, Claims.csrRow j = some r → j ≠ n → ¬ ((n = 0x028 ∨ n = 0x029) ∧ (j = 0x02A ∨ j = 0x02B)) →
      (s.csrWrite n v).csrRead j = s.csrRead j) ∧
    ((n = 0x028 ∨ n = 0x029) → (s.csrWrite n v).csrRead 0x02A = 0#64 ∧ (s.csrWrite n v).csrRead 0x02B = 0#64) ∧
    (s.csrWrite n v).mem = s.mem ∧ (s.csrWrite n v).cx.x = s.cx.x ∧ (s.csrWrite n v).cx.f = s.cx.f ∧
    (s.csrWrite n v).cx.v = s.cx.v ∧ (s.csrWrite n v).cx.pc = s.cx.pc ∧ (s.csrWrite n v).cx.level = s.cx.level ∧
    (∃ m, Claims.csrMap s n v = some m) ∧
    (∀ c, c ≠ s.cur.1 → (s.csrWrite n v).core c = s.core c)

/-- The CSR instructions: their effect, their checks in order, and what a write keeps (R8, R9, R61, R162, R163, R298).
The model's own choice in it is log 36. -/
def Obligations.ControlRegisters : Prop :=
  Claims.CsrInstructions ∧ Claims.CsrChecksInOrder ∧ Claims.CsrWritesByFieldMap


-- Numbers and scalar floating point (03_formats.md, 06_isa_scalar.md).

namespace Sys2Proof.Claims

/-- A finite value as a rational number. -/
def rat : Machine.Num → ℚ
  | .fin neg man exp _ => (if neg then -1 else 1) * man * (2 : ℚ) ^ exp
  | _ => 0

/-- A number without a remainder. -/
def Exact : Machine.Num → Prop
  | .fin _ _ _ sticky => sticky = false
  | _ => False

/-- The value of a finite code of a format; none for another code. -/
def codeValue (f : Fmt) (c : Nat) : Option ℚ :=
  if c < 2 ^ f.w then match f.decode c with
    | .fin n m e _ => some (rat (.fin n m e false))
    | _ => none
  else none

/-- The formats of Table 3-2. -/
def formats : List Fmt := [fp64, fp32, fp16, bf16, e5m2, e4m3, e2m1]

/-- Code c of a format is what v rounds to downwards (`up` false) or upwards: the nearest value on that side. -/
def Directed (f : Fmt) (up : Bool) (v : ℚ) (c : Nat) : Prop :=
  ∃ y, codeValue f c = some y ∧ (if up then v ≤ y else y ≤ v) ∧
    ∀ c' y', codeValue f c' = some y' → (if up then v ≤ y' else y' ≤ v) → (if up then y ≤ y' else y' ≤ y)

/-- Code c is a value nearest to v; of two as near, that for which `tie` holds. -/
def Nearest (f : Fmt) (tie : Nat → ℚ → Prop) (v : ℚ) (c : Nat) : Prop :=
  ∃ y, codeValue f c = some y ∧ ∀ c' y', codeValue f c' = some y' →
    |y - v| < |y' - v| ∨ y' = y ∨ (|y - v| = |y' - v| ∧ tie c y)

/-- Code c is what v rounds to in a mode of Table 3-7; SR gives one of the two neighbours (R76). -/
def Rounded (f : Fmt) (mode : BitVec 3) (v : ℚ) (c : Nat) : Prop :=
  match mode.toNat with
  | 0 => Nearest f (fun c _ => c % 2 = 0) v c
  | 1 => Directed f (decide (v < 0)) v c
  | 2 => Directed f false v c
  | 3 => Directed f true v c
  | 4 => Nearest f (fun _ y => |v| < |y|) v c
  | _ => Directed f false v c ∨ Directed f true v c

/-- The 32 bits that decide a stochastic rounding, from the seed and the logical index J (R76). -/
def chance (seed j : BitVec 64) : Nat :=
  let mix (z : BitVec 64) (n k : Nat) : BitVec 64 := BitVec.ofNat 64 ((z ^^^ z >>> n).toNat * k)
  let z := mix (mix (seed ^^^ BitVec.ofNat 64 (j.toNat * 0x9E3779B97F4A7C15)) 30 0xBF58476D1CE4E5B9) 27 0x94D049BB133111EB
  (z ^^^ z >>> 31).toNat / 2 ^ 32

/-- The integer y is what v rounds to in a mode of Table 3-7 (R74, R76). -/
def RoundedInt (r : Rnd) (v : ℚ) (y : Int) : Prop :=
  let zero : Int := if v < 0 then ⌈v⌉ else ⌊v⌋
  let away : Int := if v < 0 then ⌊v⌋ else ⌈v⌉
  match r.mode.toNat with
  | 0 => |(y : ℚ) - v| < 1 / 2 ∨ (|(y : ℚ) - v| = 1 / 2 ∧ y % 2 = 0)
  | 1 => y = zero
  | 2 => y = ⌊v⌋
  | 3 => y = ⌈v⌉
  | 4 => |(y : ℚ) - v| < 1 / 2 ∨ (|(y : ℚ) - v| = 1 / 2 ∧ y = away)
  | _ => y = if (chance r.seed r.j : Int) < ⌊|v - zero| * 2 ^ 32⌋ then away else zero

/-- The i-th value of level l of the pairwise tree of R82 over n values, nodes counted from 0 through the levels. -/
def treeAt (op : Nat → Machine.Num → Machine.Num → Val × Machine.Num) (ts : List Machine.Num) : Nat → Nat → Machine.Num
  | 0, i => ts.getD i .zero
  | l + 1, i => (op (ts.length - ts.length / 2 ^ l + i) (treeAt op ts l (2 * i)) (treeAt op ts l (2 * i + 1))).2

/-- A relation of two numbers by value (R155). -/
def lessThan (a b : Machine.Num) : Prop :=
  match a, b with
  | .nan _, _ => False
  | _, .nan _ => False
  | .inf n, .inf m => n = true ∧ m = false
  | .inf n, _ => n = true
  | _, .inf m => m = false
  | a, b => rat a < rat b

def equalTo (a b : Machine.Num) : Prop :=
  match a, b with
  | .nan _, _ => False
  | _, .nan _ => False
  | .inf n, .inf m => n = m
  | .inf _, _ => False
  | _, .inf _ => False
  | a, b => rat a = rat b

end Sys2Proof.Claims

/-- Sums, products and fused sums of finite values are exact, a sum of a list among them; a quotient, a root and the
reciprocal of a root are held to within less than one unit of a last place that lies at least 2^53 below them, with a mark
where they are not exact; a power of 2 to within 2^−39 of itself, with a mark where it is not exact, and far out of range
where its exponent is (R81, R152, R153, R196). -/
def Obligations.ExactArithmetic : Prop :=
  ∀ (rdn : Bool) (a b c : Machine.Num), Claims.Exact a → Claims.Exact b → Claims.Exact c →
    (Claims.Exact (addNum rdn a b).v ∧ Claims.rat (addNum rdn a b).v = Claims.rat a + Claims.rat b ∧
    (addNum rdn a b).fl = 0#5) ∧
    (Claims.Exact (mulNum a b).v ∧ Claims.rat (mulNum a b).v = Claims.rat a * Claims.rat b ∧ (mulNum a b).fl = 0#5) ∧
    (Claims.Exact (fmaNum rdn a b c).v ∧ Claims.rat (fmaNum rdn a b c).v = Claims.rat a * Claims.rat b + Claims.rat c ∧
      (fmaNum rdn a b c).fl = 0#5) ∧
    (Claims.rat a ≠ 0 → Claims.rat b ≠ 0 → ∃ m e k, (divNum a b).v = .fin (a.isNeg != b.isNeg) m e k ∧
      (divNum a b).fl = 0#5 ∧ (m : ℚ) * 2 ^ e ≤ |Claims.rat a / Claims.rat b| ∧
      |Claims.rat a / Claims.rat b| < (m + 1 : ℚ) * 2 ^ e ∧
      (k = true ↔ (m : ℚ) * 2 ^ e ≠ |Claims.rat a / Claims.rat b|) ∧ 2 ^ 53 ≤ m) ∧
    (0 < Claims.rat a → (∃ n m e, a = .fin n m e false ∧ m < 2 ^ 53) → ∃ m e k, (sqrtNum a).v = .fin false m e k ∧
      (sqrtNum a).fl = 0#5 ∧ ((m : ℚ) * 2 ^ e) ^ 2 ≤ Claims.rat a ∧ Claims.rat a < ((m + 1 : ℚ) * 2 ^ e) ^ 2 ∧
      (k = true ↔ ((m : ℚ) * 2 ^ e) ^ 2 ≠ Claims.rat a) ∧ 2 ^ 53 ≤ m) ∧
    (0 < Claims.rat a → (∃ n m e, a = .fin n m e false ∧ m < 2 ^ 53) → ∃ m e k, (rsqrtNum a).v = .fin false m e k ∧
      (rsqrtNum a).fl = 0#5 ∧ ((m : ℚ) * 2 ^ e) ^ 2 * Claims.rat a ≤ 1 ∧ 1 < ((m + 1 : ℚ) * 2 ^ e) ^ 2 * Claims.rat a ∧
      (k = true ↔ ((m : ℚ) * 2 ^ e) ^ 2 * Claims.rat a ≠ 1) ∧ 2 ^ 53 ≤ m) ∧
    (rcpNum a = divNum (.fin false 1 0 false) a) ∧
    (∃ m e k, (exp2Num a).v = .fin false m e k ∧ (exp2Num a).fl = 0#5 ∧
      (|Claims.rat a| < 2 ^ 10 → |(m : ℝ) * 2 ^ e - (2 : ℝ) ^ (Claims.rat a : ℝ)| ≤ 2 ^ (-39 : ℤ) * (2 : ℝ) ^ (Claims.rat a : ℝ) ∧
        (k = false → (m : ℝ) * 2 ^ e = (2 : ℝ) ^ (Claims.rat a : ℝ))) ∧
      (2 ^ 10 ≤ Claims.rat a → 2 ^ 128 ≤ (m : ℚ) * 2 ^ e) ∧
      (Claims.rat a ≤ -2 ^ 10 → 0 < m ∧ (m + 1 : ℚ) * 2 ^ e < 2 ^ (-150 : ℤ))) ∧
    (∀ ts : List Machine.Num, (∀ t ∈ ts, Claims.Exact t) → ts ≠ [] →
      Claims.Exact (exactSum rdn ts).v ∧ Claims.rat (exactSum rdn ts).v = (ts.map Claims.rat).sum ∧
      (exactSum rdn ts).fl = 0#5 ∧
      ((ts.map Claims.rat).sum = 0 →
        ((exactSum rdn ts).v.isNeg = true ↔ rdn = true ∨ ∀ t ∈ ts, Claims.rat t = 0 ∧ t.isNeg = true)))

/-- One rounding of a value that does not overflow delivers the code that the mode of Table 3-7 names, among all finite
codes of the format, and sets NX exactly where the result differs from the value; UF comes only with NX. A zero keeps
its sign; a value that overflows delivers the format's largest value or what stands for infinity, with OF and NX. In mode
SR it is the neighbour away from zero exactly where the bits that the seed and the index give are below the part of the
step that lies below the value. Flags join those of FCSR, which keeps every flag it has
(R65, R73, R74, R76, Tables 3-2, 3-6 and 3-7, the float rows of Table 3-9). -/
def Obligations.RoundingIsCorrect : Prop :=
  (∀ (s : State) (fl : Flg) (n : Nat), n < 64 →
    bitOf (s.flags fl).cx.fcsr n = (bitOf s.cx.fcsr n || fl.getLsbD n) ∧
    { (s.flags fl).cx with fcsr := s.cx.fcsr } = s.cx) ∧
  ∀ (f : Fmt) (sat : Bool) (r : Rnd) (neg : Bool) (m : Nat) (e : Int), f ∈ Claims.formats → r.mode.toNat ≤ 5 →
    let v := Claims.rat (.fin neg m e false)
    let q := roundTo f sat r (.fin neg m e false)
    (m = 0 → q = { code := f.signBit neg, fl := 0#5 }) ∧
    (q.fl &&& flgOF = 0#5 →
      Claims.Rounded f r.mode v q.code ∧ (q.fl &&& flgNX ≠ 0#5 ↔ Claims.codeValue f q.code ≠ some v) ∧
      (q.fl &&& flgUF ≠ 0#5 → q.fl = flgUF ||| flgNX) ∧ q.fl &&& (flgNV ||| flgDZ) = 0#5 ∧
      (∀ c0 c1 y0 y1, r.mode = 5#3 → Claims.Directed f (decide (v < 0)) v c0 → Claims.Directed f (decide (0 < v)) v c1 →
        Claims.codeValue f c0 = some y0 → Claims.codeValue f c1 = some y1 → y0 ≠ y1 →
        Claims.codeValue f q.code =
          some (if (Claims.chance r.seed r.j : Int) < ⌊(v - y0) / (y1 - y0) * 2 ^ 32⌋ then y1 else y0))) ∧
    (q.fl &&& flgOF ≠ 0#5 → q.fl = flgOF ||| flgNX ∧
      (∀ c y, Claims.codeValue f c = some y → |y| < |v|) ∧
      q.code = f.signBit neg + (if sat = true ∨ r.mode = 1#3 ∨ (r.mode = 2#3 ∧ neg = false) ∨ (r.mode = 3#3 ∧
      neg = true)
        then f.maxCode else f.infCode))

/-- The special operands: the canonical NaN and NV of a signalling one; ∞ − ∞, 0 × ∞ (also with a NaN addend), 0 / 0,
∞ / ∞ and roots below 0; a finite value over 0 with DZ, over ∞ without; −0 and +∞ under the root; an exact zero sum is
+0, in RDN −0, and keeps the sign that both zero terms have; a sum of a list with NaNs or infinities; the smaller and the
larger of two values, −0 below +0; and the special operands of a power of 2 and of the reciprocal of a root (R66, R74,
R81, R83, R153, R154, R196, Tables 6-7 and 7-7; log 101). -/
def Obligations.SpecialOperands : Prop :=
  (∀ a b : Machine.Num,
    ((a.isNan = true ∨ b.isNan = true) → ∀ op ∈ [minNum, maxNum], (op a b).v = .nan false ∧
      (op a b).fl = if a = .nan true ∨ b = .nan true then flgNV else 0#5) ∧
    (Claims.lessThan a b → minNum a b = { v := a, fl := 0#5 } ∧ maxNum a b = { v := b, fl := 0#5 }) ∧
    (Claims.lessThan b a → minNum a b = { v := b, fl := 0#5 } ∧ maxNum a b = { v := a, fl := 0#5 }) ∧
    (Claims.equalTo a b → minNum a b = { v := if a.isNeg then a else b, fl := 0#5 } ∧
      maxNum a b = { v := if a.isNeg then b else a, fl := 0#5 })) ∧
  (∀ (rdn : Bool) (ts : List Machine.Num),
    ((∃ t ∈ ts, t.isNan = true) → (exactSum rdn ts).v = .nan false ∧
      (exactSum rdn ts).fl = if .nan true ∈ ts then flgNV else 0#5) ∧
    ((∀ t ∈ ts, t.isNan = false) →
      (.inf false ∈ ts → .inf true ∈ ts → exactSum rdn ts = { v := .nan false, fl := flgNV }) ∧
      (∀ n, .inf n ∈ ts → .inf (!n) ∉ ts → exactSum rdn ts = { v := .inf n, fl := 0#5 }))) ∧
  (∀ k : Bool, exp2Num (.nan k) = { v := .nan false, fl := if k then flgNV else 0#5 } ∧
    rsqrtNum (.nan k) = { v := .nan false, fl := if k then flgNV else 0#5 } ∧
    exp2Num (.inf k) = { v := if k then .fin false 0 0 false else .inf false, fl := 0#5 } ∧
    rsqrtNum (.inf k) = (if k then { v := .nan false, fl := flgNV } else { v := .fin false 0 0 false, fl := 0#5 })) ∧
  (∀ x : Machine.Num, Claims.Exact x →
    (Claims.rat x = 0 → rsqrtNum x = { v := .inf x.isNeg, fl := flgDZ }) ∧
    (Claims.rat x < 0 → rsqrtNum x = { v := .nan false, fl := flgNV })) ∧
  (∀ (f : Fmt) (r : Rnd) (sat k : Bool), roundTo f sat r (.nan k) = { code := f.nanCode, fl := if k then flgNV else 0#5 }) ∧
  (∀ (op : Machine.Num → Machine.Num → Val) (k : Bool) (y : Machine.Num) (rdn : Bool),
    op ∈ [addNum rdn, mulNum, divNum] →
    (op (.nan k) y).v = .nan false ∧ (op y (.nan k)).v = .nan false ∧
    ((op (.nan k) y).fl = if k = true ∨ y = .nan true then flgNV else 0#5)) ∧
  (∀ (rdn n m : Bool) (x : Machine.Num), Claims.Exact x →
    addNum rdn (.inf n) (.inf n) = { v := .inf n, fl := 0#5 } ∧
    addNum rdn (.inf n) (.inf (!n)) = { v := .nan false, fl := flgNV } ∧
    addNum rdn (.inf n) x = { v := .inf n, fl := 0#5 } ∧ addNum rdn x (.inf n) = { v := .inf n, fl := 0#5 } ∧
    (Claims.rat x = 0 → (addNum rdn x x).v.isNeg = x.isNeg ∧ (addNum rdn x x.neg).v.isNeg = rdn) ∧
    (Claims.rat x ≠ 0 → (addNum rdn x x.neg).v = .fin rdn 0 0 false ∧
      mulNum (.inf n) x = { v := .inf (n != x.isNeg), fl := 0#5 } ∧
      divNum x (.fin m 0 0 false) = { v := .inf (x.isNeg != m), fl := flgDZ }) ∧
    (Claims.rat x = 0 → mulNum (.inf n) x = { v := .nan false, fl := flgNV } ∧
      mulNum x (.inf n) = { v := .nan false, fl := flgNV } ∧
      divNum x (.fin m 0 0 false) = { v := .nan false, fl := flgNV } ∧
      (∀ k, (fmaNum rdn (.inf n) x (.nan k)).v = .nan false ∧ (fmaNum rdn (.inf n) x (.nan k)).fl = flgNV)) ∧
    divNum (.inf n) (.inf m) = { v := .nan false, fl := flgNV } ∧
    divNum x (.inf m) = { v := .fin (x.isNeg != m) 0 0 false, fl := 0#5 } ∧
    divNum (.inf n) x = { v := .inf (n != x.isNeg), fl := 0#5 }) ∧
  (∀ (x : Machine.Num), Claims.Exact x →
    (Claims.rat x < 0 → sqrtNum x = { v := .nan false, fl := flgNV }) ∧
    (Claims.rat x = 0 → (sqrtNum x).v = .fin x.isNeg 0 0 false ∧ (sqrtNum x).fl = 0#5)) ∧
  sqrtNum (.inf false) = { v := .inf false, fl := 0#5 } ∧ sqrtNum (.inf true) = { v := .nan false, fl := flgNV }

namespace Sys2Proof.Claims

/-- A code of .S or .D read from an f register. -/
def fnum (s : State) (f : BitVec 1) (r : BitVec 5) : Machine.Num := (fmtSD f).decode (s.cx.fr r).toNat

/-- The low n bits of an f register. -/
def fbits (s : State) (n : Nat) (r : BitVec 5) : Nat := (s.cx.fr r).toNat % 2 ^ n

/-- The operation of an instruction whose result is an exact value rounded once into .S or .D: destination, format,
rounding field and the value (R152 to R154, R112). -/
def fpArith (s : State) : Instr → Option (BitVec 5 × BitVec 1 × BitVec 3 × (Bool → Val))
  | .fadd d a b f r => some (d, f, r, fun k => addNum k (fnum s f a) (fnum s f b))
  | .fsub d a b f r => some (d, f, r, fun k => addNum k (fnum s f a) (fnum s f b).neg)
  | .fmul d a b f r => some (d, f, r, fun _ => mulNum (fnum s f a) (fnum s f b))
  | .fdiv d a b f r => some (d, f, r, fun _ => divNum (fnum s f a) (fnum s f b))
  | .fsqrt d a f r => some (d, f, r, fun _ => sqrtNum (fnum s f a))
  | .fmadd d a b c f r => some (d, f, r, fun k => fmaNum k (fnum s f a) (fnum s f b) (fnum s f c))
  | .fmsub d a b c f r => some (d, f, r, fun k => fmaNum k (fnum s f a) (fnum s f b) (fnum s f c).neg)
  | .fnmadd d a b c f r => some (d, f, r, fun k => fmaNum k (fnum s f a).neg (fnum s f b) (fnum s f c).neg)
  | .fnmsub d a b c f r => some (d, f, r, fun k => fmaNum k (fnum s f a).neg (fnum s f b) (fnum s f c))
  | .fmin d a b f => some (d, f, 0#3, fun _ => minNum (fnum s f a) (fnum s f b))
  | .fmax d a b f => some (d, f, 0#3, fun _ => maxNum (fnum s f a) (fnum s f b))
  | .fadd16 d b => some (d, 0#1, 7#3, fun k => addNum k (fnum s 0#1 d) (fnum s 0#1 b))
  | .fsub16 d b => some (d, 0#1, 7#3, fun k => addNum k (fnum s 0#1 d) (fnum s 0#1 b).neg)
  | .fmul16 d b => some (d, 0#1, 7#3, fun _ => mulNum (fnum s 0#1 d) (fnum s 0#1 b))
  | .fmax16 d b => some (d, 0#1, 0#3, fun _ => maxNum (fnum s 0#1 d) (fnum s 0#1 b))
  | _ => none

/-- The rounding that a field and the context give: the field's mode, 7 the mode of FCSR, with SRSEED and SRBASE (R74,
R76). -/
def rounding (s : State) (r : BitVec 3) : Rnd :=
  { mode := if r = 7#3 then BitVec.ofNat 3 ((s.cx.fcsr.toNat / 32) % 8) else r, seed := s.me.srseed, j := s.cx.srbase }

/-- S, D, H and B of R158 to R160, with their widths. -/
def fourFormats (e : BitVec 2) : Fmt × Nat :=
  if e = 0#2 then (fp32, 32) else if e = 1#2 then (fp64, 64) else if e = 2#2 then (fp16, 16) else (bf16, 16)

/-- W, WU, L and LU: the smallest and the largest value and the width. -/
def fourInts (t : BitVec 2) : Int × Int × Nat :=
  if t = 0#2 then (-2 ^ 31, 2 ^ 31 - 1, 32) else if t = 1#2 then (0, 2 ^ 32 - 1, 32)
  else if t = 2#2 then (-2 ^ 63, 2 ^ 63 - 1, 64) else (0, 2 ^ 64 - 1, 64)

/-- The value in an x register as a source of R160. -/
def intSource (s : State) (t : BitVec 2) (a : BitVec 5) : Int :=
  let w := (fourInts t).2.2
  let v := (s.x a).toNat % 2 ^ w
  if (fourInts t).1 < 0 ∧ 2 ^ (w - 1) ≤ v then (v : Int) - 2 ^ w else v

/-- Destination, value and flags of an instruction that writes an f register without a rounding of .S or .D arithmetic
(R157, R158, R160, R161). -/
def fpMove (s : State) : Instr → Option (BitVec 5 × Nat × Flg)
  | .fsgnj d a b f => let n := (fmtSD f).w - 1
    some (d, fbits s n a + (s.cx.fr b).toNat / 2 ^ n % 2 * 2 ^ n, 0#5)
  | .fsgnjn d a b f => let n := (fmtSD f).w - 1
    some (d, fbits s n a + (1 - (s.cx.fr b).toNat / 2 ^ n % 2) * 2 ^ n, 0#5)
  | .fsgnjx d a b f => let n := (fmtSD f).w - 1
    some (d, fbits s n a + ((s.cx.fr a).toNat / 2 ^ n + (s.cx.fr b).toNat / 2 ^ n) % 2 * 2 ^ n, 0#5)
  | .fcvtFloatFloat d a e sat g r =>
    let q := roundTo (fourFormats e).1 (sat == 1#1) (rounding s r)
      ((fourFormats g).1.decode (fbits s (fourFormats g).2 a))
    some (d, q.code, q.fl)
  | .fcvtIntFloat d a e t r =>
    let q := roundTo (fourFormats e).1 false (rounding s r) (.ofInt (intSource s t a))
    some (d, q.code, q.fl)
  | .fmvf d a w => some (d, (s.x a).toNat % 2 ^ (if w = 0#2 then 32 else if w = 1#2 then 64 else 16), 0#5)
  | _ => none

/-- NV of a comparison: for any NaN, or in FEQ for a signalling one alone. -/
def cmpFlags (quiet : Bool) (a b : Machine.Num) : Flg :=
  if (if quiet then a = .nan true ∨ b = .nan true else a.isNan = true ∨ b.isNan = true) then flgNV else 0#5

/-- The bit that FCLASS sets (R156). -/
def classBit (f : Fmt) (x : Machine.Num) : Nat :=
  match x with
  | .inf true => 0
  | .inf false => 7
  | .nan true => 8
  | .nan false => 9
  | .fin neg m e k =>
    if m = 0 then (if neg then 3 else 4)
    else if |rat (.fin neg m e k)| < 2 ^ (1 - (f.bias : Int)) then (if neg then 2 else 5)
    else (if neg then 1 else 6)

/-- No enabled stream port is bound to a register that the instruction names, or the context is a helper, which has
no ports. -/
def Unbound (s : State) (i : Instr) : Prop := s.inHelper = true ∨ s.cx.touchesPort i = false

/-- The instruction is the oldest entry of the queue of the control context in hand, of a partition that runs; a vector
instruction, in its core's turn at the quad's vector unit; and no access is unacknowledged (R18, R31, R36, R102). -/
def Oldest (s : State) (i : Instr) : Prop :=
  s.inHelper = false ∧ (s.runs s.cur.1 = true ∨ s.stopping s.cur.1 = true) ∧ s.cx.pending = [] ∧
    s.vecOpen s.cur.1 i = true ∧ ∃ e q, s.cx.queue = e :: q ∧ e.ins = i

/-- A helper issues the instruction, and no access is unacknowledged. -/
def IssuesAlone (s : State) (i : Instr) : Prop := s.inHelper = true ∧ s.Issues i ∧ s.cx.pending = []

/-- A vector instruction of the queue uses its quad's vector unit in this cycle (R18). -/
def turn (s : State) (i : Instr) : State := if i.isVec then s.takeVec s.cur.1 else s

/-- Wherever the queued instruction executes, the machine goes on to the state u, the answers to its accesses used up: in
a helper at its issue, the PC going on by its length; in the control context as the oldest entry of the queue, which it
leaves. -/
def Does (s : State) (i : Instr) (u : State) : Prop :=
  (IssuesAlone s i →
    exec i s = .next ((u.modCx fun x => { x with answers := x.answers.drop x.used, used := 0 }).bump i.len)) ∧
  (Oldest s i → exec (.fpVectorQueueDrain s.cur.1) s =
    .next ((turn u i).modCx fun x => { x with queue := x.queue.tail, answers := x.answers.drop x.used, used := 0 }))

/-- Wherever it executes, it traps before any effect: in a helper at its issue; in the control context as R302 says of
the queue, which is emptied, the entries that the lathe did not issue deferred. -/
def Stops (s : State) (i : Instr) (tr : Trap) : Prop :=
  (IssuesAlone s i → exec i s = s.raise s tr) ∧
  (Oldest s i → ∀ e q, s.cx.queue = e :: q → exec (.fpVectorQueueDrain s.cur.1) s =
    .next (((turn s i).setCx { s.cx.deferQueue.1 with answers := [], used := 0 }).queueTrap s.cur.1 tr e.pc
      (if e.lathe.isSome then [] else s.cx.deferQueue.2)))

/-- Wherever it executes, it sends an access whose answer it needs, where the window and the injection queue have room,
and has no other effect yet; where they have none it waits (R102, R373, R380). -/
def Sends (s : State) (i : Instr) (a : Access) : Prop :=
  (IssuesAlone s i → exec i s = .next (if s.roomFor s.cur.1 a then s.addPending s.cur.1 s.cur.2 a .part else s)) ∧
  (Oldest s i → s.roomFor s.cur.1 a = true →
    exec (.fpVectorQueueDrain s.cur.1) s = .next ((turn s i).addPending s.cur.1 0 a .part))

/-- The flags of a result join those of FCSR (R73). -/
def raised (s : State) (fl : Flg) : State :=
  s.setCx { s.cx with fcsr := word (s.cx.fcsr.toNat ||| fl.toNat) }

end Sys2Proof.Claims

/-- In the control context an FP or vector instruction enters the queue, the newest of its entries, and the integer pipe
goes on after it; nothing else changes (R31). -/
def Obligations.QueuedInstructionsEnterTheQueue : Prop :=
  ∀ (s : State) (i : Instr), i.queued = true → s.inHelper = false → s.Issues i →
    exec i s = .next (s.setCx { s.cx with
      queue := s.cx.queue ++ [{ ins := i, pc := s.cx.pc, lathe := none, seq := s.nextId }],
      pc := s.cx.pc + word i.len, wait := none }) ∧
    s.cx.queue.length < 8 ∧ (bitOf s.cx.lstat 12 = false ∨ s.cx.latheHeld = true) ∧ ∀ e ∈ s.cx.queue, e.lathe = none

/-- FADD to FSQRT, the fused forms, FMIN, FMAX and the 16-bit FP forms write their value, rounded once into .S or .D, the
bits above it 0, and join its flags to FCSR (R112, R150, R152 to R154). -/
def Sys2Proof.Claims.FpArithmetic : Prop :=
  ∀ (s : State) (i : Instr) (d : BitVec 5) (f : BitVec 1) (r : BitVec 3) (v : Bool → Val), Claims.Unbound s i →
    Claims.fpArith s i = some (d, f, r, v) →
      let rn := Claims.rounding s r
      let x := v (rn.mode == 2#3)
      let q := roundTo (fmtSD f) false rn x.v
      Claims.Does s i (Claims.raised (s.setCx (s.cx.setF d (word q.code))) (x.fl ||| q.fl))

/-- Sign injection, conversions into a float format and FMVF write an f register; FCVT into an integer, FMVX, the
comparisons and FCLASS write an x register, each with the flags of its rule (R155 to R161, Table 3-9). -/
def Sys2Proof.Claims.FpConversionsMovesAndComparisons : Prop :=
  ∀ (s : State) (d a b : BitVec 5) (f : BitVec 1),
    (∀ i d' v fl, Claims.fpMove s i = some (d', v, fl) → Claims.Unbound s i →
      Claims.Does s i (Claims.raised (s.setCx (s.cx.setF d' (word v))) fl)) ∧
    (∀ i rel quiet, (i, rel, quiet) ∈
        [(Instr.flt d a b f, Claims.lessThan (Claims.fnum s f a) (Claims.fnum s f b), false),
         (.fle d a b f, Claims.lessThan (Claims.fnum s f a) (Claims.fnum s f b) ∨
            Claims.equalTo (Claims.fnum s f a) (Claims.fnum s f b), false),
         (.feq d a b f, Claims.equalTo (Claims.fnum s f a) (Claims.fnum s f b), true)] →
      Claims.Unbound s i → ∃ one : Bool, (one = true ↔ rel) ∧
        Claims.Does s i (Claims.raised (s.setX d (if one then 1#64 else 0#64))
          (Claims.cmpFlags quiet (Claims.fnum s f a) (Claims.fnum s f b)))) ∧
    (Claims.Unbound s (.fclass d a f) → Claims.Does s (.fclass d a f)
      (s.setX d (word (2 ^ Claims.classBit (fmtSD f) (Claims.fnum s f a))))) ∧
    (∀ (w : BitVec 2), Claims.Unbound s (.fmvx d a w) → Claims.Does s (.fmvx d a w)
      (s.setX d (word (Claims.fbits s (if w = 0#2 then 32 else if w = 1#2 then 64 else 16) a)))) ∧
    (∀ (e t : BitVec 2) (sat : BitVec 1) (r : BitVec 3), Claims.Unbound s (.fcvtFloatInt d a e sat t r) →
      (Claims.rounding s r).mode.toNat ≤ 5 →
      ∃ (z : Int) (fl : Flg), Claims.Does s (.fcvtFloatInt d a e sat t r) (Claims.raised (s.setX d
          (if t = 0#2 then Claims.wrap z else word (z % 2 ^ (Claims.fourInts t).2.2).toNat)) fl) ∧
        let lo := (Claims.fourInts t).1
        let hi := (Claims.fourInts t).2.1
        match (Claims.fourFormats e).1.decode (Claims.fbits s (Claims.fourFormats e).2 a) with
        | .nan _ => z = (if sat = 1#1 then 0 else lo) ∧ fl = flgNV
        | .inf n => z = (if sat = 1#1 ∧ n = false then hi else lo) ∧ fl = flgNV
        | .fin n m x k =>
          ∃ y : Int, Claims.RoundedInt (Claims.rounding s r) (Claims.rat (.fin n m x k)) y ∧
            (lo ≤ y ∧ y ≤ hi → z = y ∧ fl = if (y : ℚ) = Claims.rat (.fin n m x k) then 0#5 else flgNX) ∧
            (¬ (lo ≤ y ∧ y ≤ hi) → z = (if sat = 1#1 then max lo (min hi y) else lo) ∧ fl = flgNV))

/-- The floating-point instructions: results, flags and registers (R112, R150, R152, R153, R154, R155, R156, R157,
R158, R159, R160, R161). -/
def Obligations.FloatingPoint : Prop :=
  Claims.FpArithmetic ∧ Claims.FpConversionsMovesAndComparisons

-- Vector instructions (07_isa_streams_vector.md).

namespace Sys2Proof.Claims

/-- The code of element j: bits [w (j + 1) − 1 : w j] (Table 3-4). -/
def el (v : VReg) (j : Nat) : Nat := v.data.toNat / 2 ^ (tagWidth v.tag * j) % 2 ^ tagWidth v.tag

/-- Its value, scaled by its block where the tag is scaled (R70). -/
def nm (v : VReg) (j : Nat) : Machine.Num :=
  elemValue v.tag (fld v.side (j / 32 * 16) 8) (fld v.side (j / 32 * 16 + 8) 8) (el v j)

/-- Its value as an integer: signed but for U8. -/
def it (v : VReg) (j : Nat) : Int :=
  let w := tagWidth v.tag
  if v.tag ≠ 2#4 ∧ 2 ^ (w - 1) ≤ el v j then (el v j : Int) - 2 ^ w else el v j

/-- The register of elements of w bits with these codes. -/
def filled (w : Nat) (tag : BitVec 4) (side : BitVec 64) (g : Nat → Nat) : VReg :=
  { data := BitVec.ofNat 512 (((List.range (512 / w)).map fun j => g j % 2 ^ w * 2 ^ (w * j)).sum),
    tag := tag, side := side }

/-- Lanes under a tag and the flags that they raise. -/
def lanes (tag : BitVec 4) (g : Nat → Res) : VReg × Flg :=
  (filled (tagWidth tag) tag 0#64 fun j => (g j).code,
   ((List.range (512 / tagWidth tag)).map fun j => (g j).fl).foldl (· ||| ·) 0#5)

/-- A lane without flags. -/
def plain (c : Nat) : Res := { code := c, fl := 0#5 }

/-- An integer into the elements of an N tag: modulo 2^w, or first clamped. -/
def intInto (tag : BitVec 4) (sat : Bool) (z : Int) : Nat :=
  let w := tagWidth tag
  let lo : Int := if tag = 2#4 then 0 else -2 ^ (w - 1)
  let hi : Int := if tag = 2#4 then 2 ^ w - 1 else 2 ^ (w - 1) - 1
  ((if sat then max lo (min hi z) else z) % 2 ^ w).toNat

/-- The lanes of an instruction that rounds an F value by its field, and an integer by saturating (0) or wrapping (7). -/
def arith (s : State) (x y : VReg) (r : BitVec 3) (fop : Bool → Machine.Num → Machine.Num → Val)
    (iop : Int → Int → Int) : VReg × Flg :=
  let rn := rounding s r
  if tagF x.tag then lanes x.tag fun j => (fop (rn.mode == 2#3) (nm x j) (nm y j)).round (tagFmt x.tag) (rn.at j)
  else lanes x.tag fun j => plain (intInto x.tag (r == 0#3) (iop (it x j) (it y j)))

/-- The lanes of VMIN and VMAX. -/
def pick (x y : VReg) (fop : Machine.Num → Machine.Num → Val) (iop : Int → Int → Int) : VReg × Flg :=
  if tagF x.tag then lanes x.tag fun j => (fop (nm x j) (nm y j)).round (tagFmt x.tag) .rne
  else lanes x.tag fun j => plain (intInto x.tag false (iop (it x j) (it y j)))

/-- A fused lane. -/
def fused (s : State) (x y z : VReg) (r : BitVec 3) (np nc : Bool) : VReg × Flg :=
  let rn := rounding s r
  lanes x.tag fun j =>
    (fmaNum (rn.mode == 2#3) (if np then (nm x j).neg else nm x j) (nm y j) (if nc then (nm z j).neg else nm z j)).round
      (tagFmt x.tag) (rn.at j)

/-- A comparison of two elements. -/
def compared (cc : BitVec 3) (x y : VReg) (j : Nat) : Bool × Flg :=
  let a := nm x j
  let b := nm y j
  let nan : Flg := if a.isNan || b.isNan then flgNV else 0#5
  if cc = 0#3 then (eqNum a b, a.sigFlag ||| b.sigFlag)
  else if cc = 1#3 then (!eqNum a b, a.sigFlag ||| b.sigFlag)
  else if cc = 2#3 then (ltNum a b, nan)
  else if cc = 3#3 then (ltNum a b || eqNum a b, nan)
  else if cc = 4#3 then (decide (el x j < el y j), 0#5)
  else (decide (el x j ≤ el y j), 0#5)

/-- The lanes of VABS and VNEG: the sign bit of an F code, or the integer modulo 2^w. -/
def unary (x : VReg) (fop : Nat → Nat → Nat) (iop : Int → Int) : VReg × Flg :=
  let w := tagWidth x.tag
  lanes x.tag fun j =>
    plain (if tagF x.tag then fop (el x j) (2 ^ (w - 1)) else intInto x.tag false (iop (it x j)))

/-- A shift of each element by the low log2 w bits of the other. -/
def shifted (x y : VReg) (op : Nat → Nat → Nat) : VReg × Flg :=
  lanes x.tag fun j => plain (op j (el y j % tagWidth x.tag))

/-- The register with other data and the side that its tag has. -/
def keeping (x : VReg) (data : BitVec 512) : VReg × Flg :=
  ({ data := data, tag := x.tag, side := x.side &&& sideMask x.tag }, 0#5)

/-- The 16 bits of a block in a side, moved up or down by k blocks of n; a vacated block has scale 0x7F. -/
def movedSide (up : Bool) (k n : Nat) (side : BitVec 64) : BitVec 64 :=
  word (((List.range n).map fun j =>
    (if up then (if j < k then 0x7F else fld side (16 * (j - k)) 16)
     else if j + k < n then fld side (16 * (j + k)) 16 else 0x7F) * 2 ^ (16 * j)).sum)

/-- What an instruction with a v destination does: destination, whether its tags are those of its rule, the source tags
and the requested tag for TVAL, the register that it writes and its flags (R182, R185 to R188, R191 to R196). -/
def vecForm (s : State) : Instr → Option (BitVec 5 × Bool × List (BitVec 4) × BitVec 4 × (VReg × Flg))
  | .vadd d a b r => two d a b (arithTags r) fun x y => arith s x y r addNum (· + ·)
  | .vsub d a b r => two d a b (arithTags r) fun x y => arith s x y r (fun k p q => addNum k p q.neg) (· - ·)
  | .vmul d a b r => two d a b (arithTags r) fun x y => arith s x y r (fun _ => mulNum) (· * ·)
  | .vadd16 d b => two d d b (arithTags 7#3) fun x y => arith s x y 7#3 addNum (· + ·)
  | .vsub16 d b => two d d b (arithTags 7#3) fun x y => arith s x y 7#3 (fun k p q => addNum k p q.neg) (· - ·)
  | .vmul16 d b => two d d b (arithTags 7#3) fun x y => arith s x y 7#3 (fun _ => mulNum) (· * ·)
  | .vmin d a b => two d a b (fun g => tagF g || tagN g) fun x y => pick x y minNum min
  | .vmax d a b => two d a b (fun g => tagF g || tagN g) fun x y => pick x y maxNum max
  | .vand d a b => two d a b tagOk fun x y => keeping x (x.data &&& y.data)
  | .vor d a b => two d a b tagOk fun x y => keeping x (x.data ||| y.data)
  | .vxor d a b => two d a b tagOk fun x y => keeping x (x.data ^^^ y.data)
  | .vshl d a b => two d a b tagN fun x y => shifted x y fun j n => el x j * 2 ^ n
  | .vshr d a b => two d a b tagN fun x y => shifted x y fun j n => el x j / 2 ^ n
  | .vsra d a b => two d a b tagN fun x y => shifted x y fun j n =>
      let w := tagWidth x.tag
      (((if 2 ^ (w - 1) ≤ el x j then (el x j : Int) - 2 ^ w else el x j) / 2 ^ n) % 2 ^ w).toNat
  | .vcmp d a b cc =>
    two d a b (fun g => if cc.toNat ≤ 3 then tagF g || tagN g || g == 10#4 || g == 11#4 else tagN g) fun x y =>
      let w := tagWidth x.tag
      let r := lanes (if w = 8 then 1#4 else if w = 16 then 3#4 else if w = 32 then 4#4 else 5#4) fun j =>
        { code := if (compared cc x y j).1 then 2 ^ w - 1 else 0, fl := (compared cc x y j).2 }
      r
  | .vabs d a => one d a (fun g => tagF g || tagN g) 0#4 fun x => unary x (fun c b => c % b) fun z => |z|
  | .vneg d a => one d a (fun g => tagF g || tagN g) 0#4 fun x =>
      unary x (fun c b => if b ≤ c then c - b else c + b) fun z => -z
  | .vfma d a b c r => three d a b c fun x y z => fused s x y z r false false
  | .vfms d a b c r => three d a b c fun x y z => fused s x y z r false true
  | .vnfma d a b c r => three d a b c fun x y z => fused s x y z r true false
  | .vsel d a b c =>
    let x := s.cx.vr a
    let y := s.cx.vr b
    let m := s.cx.vr c
    let w := if x.tag = 12#4 then 8 else tagWidth x.tag
    some (d, x.tag == y.tag && tagOk x.tag && tagN m.tag && tagWidth m.tag == w, [x.tag, y.tag, m.tag], 0#4,
      filled w x.tag (x.side &&& sideMask x.tag) fun j =>
        (if m.data.toNat / 2 ^ (w * j) % 2 ^ w ≠ 0 then x else y).data.toNat / 2 ^ (w * j) % 2 ^ w, 0#5)
  | .vcvt d a sat tag r => one d a (fun g => (tagF g || tagN g || tagS g) && (tagF tag || tagN tag)) tag fun x =>
      let rn := rounding s r
      lanes tag fun j =>
        if tagCount x.tag ≤ j then plain 0
        else if tagF tag then roundTo (tagFmt tag) (sat == 1#1) (rn.at j) (nm x j)
        else if tagN x.tag then
          { code := intInto tag (sat == 1#1) (it x j),
            fl := if sat = 1#1 ∧ intInto tag true (it x j) ≠ intInto tag false (it x j) ∨
                (sat = 1#1 ∧ ¬ (IntTy.lo (tagInt tag) ≤ it x j ∧ it x j ≤ IntTy.hi (tagInt tag))) then flgNV else 0#5 }
        else toInt (tagInt tag) (sat == 1#1) (rn.at j) (nm x j)
  | .vqnt d a _ tag r =>
    let x := s.cx.vr a
    let y := s.cx.vr (a + 1#5)
    let pair := x.tag == 7#4 && a.toNat % 2 == 0
    let q := quantBlock (tagFmt tag) (rounding s r).at ((List.range 32).map fun j =>
      if 512 / tagWidth x.tag ≤ j then nm y (j - 512 / tagWidth x.tag) else nm x j)
    some (d, tagS tag && (x.tag == 8#4 || x.tag == 9#4 || (pair && y.tag == 7#4)),
      if pair then [x.tag, y.tag] else [x.tag], tag,
      filled (tagWidth tag) tag (word (q.scale + q.spec * 256 + (freshSide tag).toNat / 65536 * 65536))
        (fun j => q.codes.getD j 0), q.fl)
  | .vdqnt d a tag r => one d a (fun g => tagS g && (tag == 7#4 || tag == 8#4 || tag == 9#4)) tag fun x =>
      lanes tag fun j => roundTo (tagFmt tag) false ((rounding s r).at j) (nm x j)
  | .vperm d a b =>
    let x := s.cx.vr a
    let y := s.cx.vr b
    some (d, tagOk x.tag && tagN y.tag && decide (tagCount x.tag ≤ tagCount y.tag), [x.tag, y.tag], 0#4,
      filled (tagWidth x.tag) x.tag (x.side &&& sideMask x.tag) fun j => el x (el y j % tagCount x.tag), 0#5)
  | .vshuf d a b =>
    let x := s.cx.vr a
    let y := s.cx.vr b
    some (d, tagOk x.tag && (y.tag == 1#4 || y.tag == 2#4), [x.tag, y.tag], 0#4,
      filled 8 x.tag (x.side &&& sideMask x.tag) fun j =>
        if el y j < 128 then x.data.toNat / 2 ^ (8 * (el y j % 64)) % 256 else 0, 0#5)
  | .vslideUp d a b => slid d a b true
  | .vslideDown d a b => slid d a b false
  | .vbcastX d a =>
    let v := s.cx.vr d
    some (d, true, [], 0#4, filled (tagWidth v.tag) v.tag v.side fun _ => (s.x a).toNat, 0#5)
  | .vbcastF d a =>
    let v := s.cx.vr d
    some (d, true, [], 0#4, filled (tagWidth v.tag) v.tag v.side fun _ => (s.cx.fr a).toNat, 0#5)
  | .vexp2 d a => one d a (· == 7#4) 0#4 fun x => lanes 7#4 fun j => (exp2Num (nm x j)).round fp32 .rne
  | .vrcp d a => one d a (· == 7#4) 0#4 fun x => lanes 7#4 fun j => (divNum (.mk' false 1 0) (nm x j)).round fp32 .rne
  | .vrsq d a => one d a (· == 7#4) 0#4 fun x => lanes 7#4 fun j => (rsqrtNum (nm x j)).round fp32 .rne
  | .vmov d a => one d a tagOk 0#4 fun x => keeping x x.data
  | .vtag d a tag => one d a (fun g => tagOk g && tagOk tag) tag fun x =>
      ({ data := x.data, tag := tag, side := freshSide tag }, 0#5)
  | .vsideWrite d a =>
    let v := s.cx.vr d
    some (d, true, [], 0#4, { data := v.data, tag := v.tag, side := s.x a &&& sideMask v.tag }, 0#5)
  | _ => none
where
  arithTags (r : BitVec 3) (g : BitVec 4) : Bool := tagF g || (tagN g && (r == 0#3 || r == 7#3))
  one (d a : BitVec 5) (ok : BitVec 4 → Bool) (tag : BitVec 4) (g : VReg → VReg × Flg) :=
    some (d, ok (s.cx.vr a).tag, [(s.cx.vr a).tag], tag, g (s.cx.vr a))
  two (d a b : BitVec 5) (ok : BitVec 4 → Bool) (g : VReg → VReg → VReg × Flg) :=
    some (d, (s.cx.vr a).tag == (s.cx.vr b).tag && ok (s.cx.vr a).tag, [(s.cx.vr a).tag, (s.cx.vr b).tag], 0#4,
      g (s.cx.vr a) (s.cx.vr b))
  three (d a b c : BitVec 5) (g : VReg → VReg → VReg → VReg × Flg) :=
    some (d, (s.cx.vr a).tag == (s.cx.vr b).tag && (s.cx.vr b).tag == (s.cx.vr c).tag && tagF (s.cx.vr a).tag,
      [(s.cx.vr a).tag, (s.cx.vr b).tag, (s.cx.vr c).tag], 0#4, g (s.cx.vr a) (s.cx.vr b) (s.cx.vr c))
  slid (d a b : BitVec 5) (up : Bool) :=
    let x := s.cx.vr a
    let k := (s.x b).toNat
    some (d, tagOk x.tag && (!tagS x.tag || k % 32 == 0), [x.tag], 0#4,
      filled (tagWidth x.tag) x.tag
        (if tagS x.tag then movedSide up (k / 32) (tagCount x.tag / 32) x.side &&& sideMask x.tag else 0#64)
        (fun j => if up then (if j < k then 0 else el x (j - k)) else if j + k < tagCount x.tag then el x (j + k) else 0),
      0#5)

/-- FORMAT with the source tags, lowest first, and the requested tag in TVAL (R72). -/
def formatStop (srcs : List (BitVec 4)) (tag : BitVec 4) : Trap :=
  trap cFormat (word ((srcs.getD 0 0#4).toNat + (srcs.getD 1 0#4).toNat * 16 + (srcs.getD 2 0#4).toNat * 256
    + tag.toNat * 4096))

end Sys2Proof.Claims

/-- A vector instruction whose tags are those of its rule writes the elements that its rule gives to its destination,
with the tag, the side and the flags of the rule; another traps with FORMAT and its tags, and writes nothing (R72, R73,
R76, R112, R185 to R188, R191 to R196). -/
def Sys2Proof.Claims.VectorResults : Prop :=
  ∀ (s : State) (i : Instr) (d : BitVec 5) (ok : Bool) (srcs : List (BitVec 4)) (tag : BitVec 4) (v : VReg) (fl : Flg),
    Claims.Unbound s i → Claims.vecForm s i = some (d, ok, srcs, tag, v, fl) →
      (ok = true → Claims.Does s i (Claims.raised (s.setCx (s.cx.setV d v)) fl)) ∧
      (ok = false → Claims.Stops s i (Claims.formatStop srcs tag))

namespace Sys2Proof.Claims

/-- The sum, the minimum or the maximum of the elements as integers. -/
def overElements (v : VReg) (op : Int → Int → Int) : Int :=
  ((List.range (tagCount v.tag - 1)).map fun j => it v (j + 1)).foldl op (it v 0)

/-- The leaves of a reduction: exact in FP64, else each taken into FP32 (R82). -/
def redLeaves (v : VReg) : List Machine.Num × Flg :=
  if v.tag = 6#4 then ((List.range 8).map (nm v), 0#5)
  else
    let rs := (List.range (tagCount v.tag)).map fun j => roundTo fp32 false .rne (nm v j)
    (rs.map fun r => fp32.decode r.code, (rs.map Res.fl).foldl (· ||| ·) 0#5)

/-- Destination, whether the tags are those of the rule, the source tags, and the word with its flags, of an instruction
that writes an f register from v registers: the tree of R82 over the leaves, or the exact integer (R189, R190, R195). -/
def scalarForm (s : State) : Instr → Option (BitVec 5 × Bool × List (BitVec 4) × BitVec 64 × Flg)
  | .vredAdd d a r => some (red d a (· + ·) (fun f => addNode f (rounding s r)))
  | .vredMin d a => some (red d a min fun _ _ p q => (minNum p q, (minNum p q).v))
  | .vredMax d a => some (red d a max fun _ _ p q => (maxNum p q, (maxNum p q).v))
  | .vdot d a b r =>
    let x := s.cx.vr a
    let y := s.cx.vr b
    let rn := rounding s r
    let f := if x.tag = 6#4 then fp64 else fp32
    let n := tagCount x.tag
    let exact (ts : List Val) : Val :=
      let e := exactSum (rn.mode == 2#3) (ts.map Val.v)
      { v := e.v, fl := (ts.map Val.fl).foldl (· ||| ·) e.fl }
    let gs := (List.range (n / 32)).map fun k =>
      let sx := fld x.side (16 * k) 8
      let sy := fld y.side (16 * k) 8
      let e : Val := if sx = 255 ∨ sy = 255 then { v := .nan false, fl := 0#5 }
        else
          let e := exact ((List.range 32).map fun j => mulNum
            (elemValue x.tag 127 (fld x.side (16 * k + 8) 8) (el x (32 * k + j)))
            (elemValue y.tag 127 (fld y.side (16 * k + 8) 8) (el y (32 * k + j))))
          { v := e.v.scale ((sx : Int) + sy - 254), fl := e.fl }
      e.round fp32 (rn.at k)
    let t := tree (addNode fp32 (rn.at (n / 32))) 3 0 (gs.map fun g => fp32.decode g.code)
    let all := exact ((List.range n).map fun j => mulNum (nm x j) (nm y j))
    let z := all.round f rn
    let r : BitVec 64 × Flg :=
      if tagN x.tag then (wrap ((List.range n).map fun j => it x j * it y j).sum, 0#5)
      else if tagF x.tag then (word z.code, z.fl)
      else (word (roundTo fp32 false .rne t.1).code, (gs.map Res.fl).foldl (· ||| ·) t.2)
    some (d, (x.tag == y.tag && (tagF x.tag || x.tag == 1#4 || x.tag == 2#4 || x.tag == 3#4 || x.tag == 12#4)) ||
      ((x.tag == 10#4 || x.tag == 11#4) && (y.tag == 10#4 || y.tag == 11#4)), [x.tag, y.tag], r)
  | .vmvf d a b =>
    let x := s.cx.vr a
    some (d, tagOk x.tag, [x.tag], if (s.x b).toNat < tagCount x.tag then word (el x (s.x b).toNat) else 0#64, 0#5)
  | _ => none
where
  red (d a : BitVec 5) (iop : Int → Int → Int)
      (node : Fmt → Nat → Machine.Num → Machine.Num → Val × Machine.Num) :
      BitVec 5 × Bool × List (BitVec 4) × BitVec 64 × Flg :=
    let x := s.cx.vr a
    let f := if x.tag = 6#4 then fp64 else fp32
    let t := tree (node f) 8 0 (redLeaves x).1
    (d, tagF x.tag || tagN x.tag || tagS x.tag, [x.tag],
      if tagN x.tag then (wrap (overElements x iop), 0#5)
      else (word (roundTo f false .rne t.1).code, (redLeaves x).2 ||| t.2))

end Sys2Proof.Claims

/-- Reductions, dot products and VMVF write an f register, VMVX and the reading VSIDE an x register: the exact integer, or
the rounded tree of R82, or one element, or the side; or they trap with FORMAT (R72, R82, R189, R190, R195). -/
def Sys2Proof.Claims.VectorScalarResults : Prop :=
  ∀ (s : State) (d a b : BitVec 5),
    (∀ i d' ok srcs v fl, Claims.Unbound s i → Claims.scalarForm s i = some (d', ok, srcs, v, fl) →
      (ok = true → Claims.Does s i (Claims.raised (s.setCx (s.cx.setF d' v)) fl)) ∧
      (ok = false → Claims.Stops s i (Claims.formatStop srcs 0#4))) ∧
    (Claims.Unbound s (.vmvx d a b) → tagOk (s.cx.vr a).tag = true → Claims.Does s (.vmvx d a b) (s.setX d
      (if (s.x b).toNat < tagCount (s.cx.vr a).tag then
        (if (s.cx.vr a).tag ∈ [1#4, 3#4, 4#4] then Claims.wrap (Claims.it (s.cx.vr a) (s.x b).toNat)
         else word (Claims.el (s.cx.vr a) (s.x b).toNat))
       else 0#64))) ∧
    (Claims.Unbound s (.vsideRead d a) → tagOk (s.cx.vr a).tag = true →
      Claims.Does s (.vsideRead d a) (s.setX d (s.cx.vr a).side)) ∧
    (Claims.Unbound s (.vmvx d a b) → tagOk (s.cx.vr a).tag = false →
      Claims.Stops s (.vmvx d a b) (Claims.formatStop [(s.cx.vr a).tag] 0#4)) ∧
    (Claims.Unbound s (.vsideRead d a) → tagOk (s.cx.vr a).tag = false →
      Claims.Stops s (.vsideRead d a) (Claims.formatStop [(s.cx.vr a).tag] 0#4))

/-- The tree of a reduction: over 2^L values its result is the one value of its last level, and its flags are those of its
nodes (R82). -/
def Sys2Proof.Claims.TheTreeOfASum : Prop :=
  ∀ (op : Nat → Machine.Num → Machine.Num → Val × Machine.Num) (fuel L : Nat) (ts : List Machine.Num),
    ts.length = 2 ^ L → L ≤ fuel →
    (tree op fuel 0 ts).1 = Claims.treeAt op ts L 0 ∧
    ∀ b, b < 5 → ((tree op fuel 0 ts).2.getLsbD b = true ↔ ∃ l i, l < L ∧ i < 2 ^ (L - l - 1) ∧
      (op (2 ^ L - 2 ^ (L - l) + i) (Claims.treeAt op ts l (2 * i)) (Claims.treeAt op ts l (2 * i + 1))).1.fl.getLsbD b = true)

/-- The vector instructions: lanes, reductions and moves (R72, R73, R76, R82, R112, R185, R186, R187, R188, R189,
R190, R191, R192, R193, R194, R195, R196). The model's own choice in it is log 50. -/
def Obligations.VectorInstructions : Prop :=
  Claims.VectorResults ∧ Claims.VectorScalarResults ∧ Claims.TheTreeOfASum

/-- A quantised block: its scale is the smallest power of two, not below 2^−127, under which the largest magnitude fits,
for E2M1 the largest but the special one, or where all but that are 0 the special one against 448; without a NaN or
infinity each code is its element over the scale, rounded and saturated; with one, every code is 0 and the scale is NaN; a
block of zeros has scale 2^0. The flags are those of its roundings, with UF where the scale is held at 2^−127, or NV of a
signalling NaN (R67, R78, R79, Table 3-10). The model's own choices in it are logs 33 and 88. -/
def Obligations.QuantisedBlocks : Prop :=
  ∀ (f : Fmt) (r : Nat → Rnd) (xs : List Machine.Num) (q : QBlock), f ∈ [e5m2, e4m3, e2m1] → xs.length = 32 →
    q = quantBlock f r xs →
    ((∃ x ∈ xs, ¬ Claims.Exact x ∧ (x.isNan = true ∨ x.isInf = true)) →
      q.codes = List.replicate 32 0 ∧ q.scale = 255 ∧ q.spec = 0 ∧
      q.fl = if .nan true ∈ xs then flgNV else 0#5) ∧
    ((∀ x ∈ xs, Claims.Exact x) → (∀ x ∈ xs, Claims.rat x = 0) →
      q = { codes := List.replicate 32 0, scale := 127, spec := 0, fl := 0#5 }) ∧
    ((∀ x ∈ xs, Claims.Exact x) → f ≠ e2m1 → (∃ x ∈ xs, Claims.rat x ≠ 0) →
      ∃ e : Int, -127 ≤ e ∧ q.scale = (e + 127).toNat ∧ q.spec = 0 ∧
        (∀ x ∈ xs, |Claims.rat x| ≤ Claims.rat (f.decode f.maxCode) * 2 ^ e) ∧
        (-127 < e → ∃ x ∈ xs, Claims.rat (f.decode f.maxCode) * 2 ^ (e - 1) < |Claims.rat x|) ∧
        q.codes = ((List.range 32).map fun j => (roundTo f true (r j) ((xs.getD j .zero).scale (-e))).code) ∧
        ∃ low : Bool, (low = true ↔ ∀ x ∈ xs, |Claims.rat x| ≤ Claims.rat (f.decode f.maxCode) * 2 ^ (-128 : ℤ)) ∧
          q.fl = ((List.range 32).map fun j => (roundTo f true (r j) ((xs.getD j .zero).scale (-e))).fl).foldl (· ||| ·)
            (if low then flgUF else 0#5)) ∧
    ((∀ x ∈ xs, Claims.Exact x) → f = e2m1 → (∃ x ∈ xs, Claims.rat x ≠ 0) →
      ∃ (e : Int) (p : Nat), -127 ≤ e ∧ p < 32 ∧ q.scale = (e + 127).toNat ∧
        (∀ j, j < 32 → |Claims.rat (xs.getD j .zero)| ≤ |Claims.rat (xs.getD p .zero)|) ∧
        (∀ j, j < p → |Claims.rat (xs.getD j .zero)| < |Claims.rat (xs.getD p .zero)|) ∧
        (∀ j, j < 32 → j ≠ p → |Claims.rat (xs.getD j .zero)| ≤ 6 * 2 ^ e) ∧
        (-127 < e → (∃ j, j < 32 ∧ j ≠ p ∧ 6 * 2 ^ (e - 1) < |Claims.rat (xs.getD j .zero)|) ∨
          ((∀ j, j < 32 → j ≠ p → Claims.rat (xs.getD j .zero) = 0) ∧
            448 * 2 ^ (e - 1) < |Claims.rat (xs.getD p .zero)|)) ∧
        ((∀ j, j < 32 → j ≠ p → Claims.rat (xs.getD j .zero) = 0) → |Claims.rat (xs.getD p .zero)| ≤ 448 * 2 ^ e) ∧
        (let c := roundTo e4m3 true (r p) ((xs.getD p .zero).scale (-e))
         let g (j : Nat) : Res := roundTo e2m1 true (r j) ((xs.getD j .zero).scale (-e))
         q.spec = (if c.code = 0x80 then 0 else c.code) ∧
         q.codes = ((List.range 32).map fun j => if j = p then 8 else if (g j).code = 8 then 0 else (g j).code) ∧
         ∃ low : Bool,
          (low = true ↔ ((∃ j, j < 32 ∧ j ≠ p ∧ Claims.rat (xs.getD j .zero) ≠ 0) →
              ∀ j, j < 32 → j ≠ p → |Claims.rat (xs.getD j .zero)| ≤ 6 * 2 ^ (-128 : ℤ)) ∧
            ((∀ j, j < 32 → j ≠ p → Claims.rat (xs.getD j .zero) = 0) →
              |Claims.rat (xs.getD p .zero)| ≤ 448 * 2 ^ (-128 : ℤ))) ∧
          q.fl = ((List.range 32).map fun j => if j = p then 0#5 else (g j).fl).foldl (· ||| ·)
            (c.fl ||| if low then flgUF else 0#5)))

-- FP and vector memory, the queue, the lathe and streams (06_isa_scalar.md, 07_isa_streams_vector.md).

namespace Sys2Proof.Claims

/-- Base, offset, bytes and the destination with its new contents from the number read, of an FP or vector load of one
piece (R151, R182). -/
def queuedLoad (s : State) : Instr → Option (BitVec 64 × Nat × (Nat → Ctx → Ctx))
  | .flh d a o => some (ea s a o, 2, fun v x => x.setF d (word v))
  | .flw d a o => some (ea s a o, 4, fun v x => x.setF d (word v))
  | .fld d a o => some (ea s a o, 8, fun v x => x.setF d (word v))
  | .vld d a tag o => some (wrap ((s.x a).toNat + o.toInt * 64), 64, fun v x =>
      x.setV d { data := BitVec.ofNat 512 v, tag := tag, side := freshSide tag })
  | .vldb d a o => some (ea s a o, 8, fun v x =>
      x.setV d { data := (s.cx.vr d).data, tag := (s.cx.vr d).tag, side := word v &&& sideMask (s.cx.vr d).tag })
  | _ => none

/-- Address, bytes and value of an FP or vector store of one piece. -/
def queuedStore (s : State) : Instr → Option (BitVec 64 × Nat × Nat)
  | .fsh a b o => some (ea s a o, 2, (s.cx.fr b).toNat)
  | .fsw a b o => some (ea s a o, 4, (s.cx.fr b).toNat)
  | .fsd a b o => some (ea s a o, 8, (s.cx.fr b).toNat)
  | .vst a b o => some (wrap ((s.x a).toNat + o.toInt * 64), 64, (s.cx.vr b).data.toNat)
  | _ => none

/-- The tags that the loads and stores of v registers check. -/
def memTags (s : State) : Instr → Bool × List (BitVec 4) × BitVec 4
  | .vld _ _ tag _ => (tagOk tag, [], tag)
  | .vst _ b _ => (tagOk (s.cx.vr b).tag, [(s.cx.vr b).tag], 0#4)
  | .vlds _ _ _ _ tag => (tagOk tag, [], tag)
  | .vsts d _ _ _ => (tagOk (s.cx.vr d).tag, [(s.cx.vr d).tag], 0#4)
  | .vgather _ _ b e tag =>
    (tagOk tag && tagN (s.cx.vr b).tag && decide (64 ≤ 2 ^ e.toNat * tagCount (s.cx.vr b).tag), [(s.cx.vr b).tag], tag)
  | .vscatter d _ b e =>
    (tagN (s.cx.vr b).tag && decide (64 ≤ 2 ^ e.toNat * tagCount (s.cx.vr b).tag) && tagOk (s.cx.vr d).tag,
      [(s.cx.vr b).tag, (s.cx.vr d).tag], 0#4)
  | _ => (true, [], 0#4)

/-- n bytes as a number, least significant first. -/
def numAt (s : State) (k n : Nat) : Nat := ((List.range n).map fun j => (memGet s.mem (k + j)).toNat * 256 ^ j).sum

/-- What a read of a context returns, 8 bytes at a time, each as `MaySee` allows; what stands there, where every write
over it is known to the context (R89, R104). -/
def Seen (s : State) (c ctx k n : Nat) (bs : List (BitVec 8)) : Prop :=
  bs.length = n ∧
    (∀ j, 8 * j < n → MaySee s c ctx (k + 8 * j) (min 8 (n - 8 * j)) ((bs.drop (8 * j)).take 8)) ∧
    ((∀ j, 8 * j < n → s.unseen c ctx (k + 8 * j) (min 8 (n - 8 * j)) = []) → bs = bytesAt s k n)

/-- The answer that awaits the r-th access of the instruction in progress. -/
def answered (s : State) (r : Nat) : Option Answer := if s.cx.used = 0 then s.cx.answers[r]? else none

/-- A read or write of n bytes as an access to another place than the own local memory. -/
def reads (ea : BitVec 64) (k n : Nat) : Access := { ea := ea, key := k, size := n, act := .read false }
def writes (ea : BitVec 64) (k n v : Nat) : Access := { ea := ea, key := k, size := n, act := .write (natBytes n v) false }

/-- The trap of an access that its target refused. -/
def refusal (ea : BitVec 64) (f : BitVec 8 × BitVec 64) : Trap :=
  { trap f.1 (if f.1 = cSramUncorr then f.2 else ea) with race := if f.1 = cRace then some f.2 else none }

/-- Register, bytes of a chunk, the address of chunk j, and the tag of a load, of a strided or indexed form (R183). -/
def chunks (s : State) : Instr → Option (BitVec 5 × Nat × (Nat → BitVec 64) × Option (BitVec 4))
  | .vlds d a b e tag => some (d, 2 ^ e.toNat, fun j => wrap ((s.x a).toNat + j * (s.x b).toInt), some tag)
  | .vsts d a b e => some (d, 2 ^ e.toNat, fun j => wrap ((s.x a).toNat + j * (s.x b).toInt), none)
  | .vgather d a b e tag =>
    some (d, 2 ^ e.toNat, fun j => wrap ((s.x a).toNat + it (s.cx.vr b) j * 2 ^ e.toNat), some tag)
  | .vscatter d a b e => some (d, 2 ^ e.toNat, fun j => wrap ((s.x a).toNat + it (s.cx.vr b) j * 2 ^ e.toNat), none)
  | _ => none

/-- Of a context, the v register d, PIDX, the answers used and the count of splits may differ, besides PC, wait, queue
and elements. -/
def OnlyLong (d : Option (BitVec 5)) (x y : Ctx) : Prop :=
  { y with v := x.v, pidx := x.pidx, rdsplit := x.rdsplit, pc := x.pc, wait := x.wait, queue := x.queue,
           ports := x.ports, used := x.used } = x ∧
    (∀ r : BitVec 5, some (r.toNat % 16) ≠ d.map (·.toNat % 16) → y.vr r = x.vr r) ∧
    y.ports.map (fun p => { p with fifo := [] }) = x.ports.map (fun p => { p with fifo := [] })

end Sys2Proof.Claims

/-- FP loads, VLD and VLDB read their bytes into their destination, FP stores and VST write the low bytes of their
source; a tag that the form forbids traps with FORMAT, and an access that fails its checks or its granule rules traps,
before any effect. An access to another place than the own local memory is sent, and the instruction completes, or traps,
with its answer; what a read may see of other writes is the model's choice (R145, R150, R151, R182, R51, R56, R102, R104,
R301; log 6). -/
def Sys2Proof.Claims.QueuedLoadsAndStores : Prop :=
  ∀ (s : State) (i : Instr), Claims.Unbound s i →
    (∀ ea n put, Claims.queuedLoad s i = some (ea, n, put) →
      ((Claims.memTags s i).1 = false →
      Claims.Stops s i (Claims.formatStop (Claims.memTags s i).2.1 (Claims.memTags s i).2.2)) ∧
      ((Claims.memTags s i).1 = true →
        (∀ tr, s.check s.cur.1 ea n n [.r] false = .error tr → Claims.Stops s i tr) ∧
        (∀ m, s.check s.cur.1 ea n n [.r] false = .ok m → ownLocal s.cur.1 m = true →
          (∀ tr, s.granuleTrap s.cur.1 ea (granulesOf m.key n) false false = some tr → Claims.Stops s i tr) ∧
          (∀ w, s.granuleTrap s.cur.1 ea (granulesOf m.key n) false false = none → s.eccWord m.key n = some w →
            Claims.Stops s i (trap cSramUncorr (word w))) ∧
          (Claims.Readable s ea m.key n → ∃ bs f, Claims.Seen s s.cur.1 s.cur.2 m.key n bs ∧ Claims.Does s i
            (({ s.addRaces s.cur.1 s.cur.2 false false (granulesOf m.key n) with fresh := f } : State).modCx
              (put (bytesNat bs))))) ∧
        (∀ m, s.check s.cur.1 ea n n [.r] false = .ok m → ownLocal s.cur.1 m = false →
          (s.cx.answers = [] → s.cx.used = 0 → Claims.Sends s i (Claims.reads ea m.key n)) ∧
          (∀ a, Claims.answered s 0 = some a →
            (a.fail = none → Claims.Does s i (s.modCx fun x => { put a.value x with used := 1 })) ∧
            (∀ f, a.fail = some f → Claims.Stops s i (Claims.refusal ea f)))))) ∧
    (∀ ea n v, Claims.queuedStore s i = some (ea, n, v) →
      ((Claims.memTags s i).1 = false →
      Claims.Stops s i (Claims.formatStop (Claims.memTags s i).2.1 (Claims.memTags s i).2.2)) ∧
      ((Claims.memTags s i).1 = true →
        (∀ tr, s.check s.cur.1 ea n n [.w] false = .error tr → Claims.Stops s i tr) ∧
        (∀ m, s.check s.cur.1 ea n n [.w] false = .ok m → ownLocal s.cur.1 m = true →
          (∀ tr, s.granuleTrap s.cur.1 ea (granulesOf m.key n) true false = some tr → Claims.Stops s i tr) ∧
          (Claims.Writable s ea m.key n → ∃ u, Claims.Does s i u ∧
            (∀ j, j < n → (memGet u.mem (m.key + j)).toNat = v / 256 ^ j % 256) ∧ SameBytesBut s u m.key n ∧
            Claims.OnlyAccess s u (Claims.OnlyLong none))) ∧
        (∀ m, s.check s.cur.1 ea n n [.w] false = .ok m → ownLocal s.cur.1 m = false →
          (s.cx.answers = [] → s.cx.used = 0 → Claims.Sends s i (Claims.writes ea m.key n v)) ∧
          (∀ a, Claims.answered s 0 = some a →
            (a.fail = none → Claims.Does s i (s.modCx fun x => { x with used := 1 })) ∧
            (∀ f, a.fail = some f → Claims.Stops s i (Claims.refusal ea f))))))

namespace Sys2Proof.Claims

/-- Chunks from p up to j that lie elsewhere than in the own local memory: the accesses sent before chunk j's. -/
def away (s : State) (mesh : Nat → Mesh) (p j : Nat) : Nat :=
  ((List.range j).filter fun h => decide (p ≤ h) && !ownLocal s.cur.1 (mesh h)).length

/-- An access of an instruction that takes its effect in order, at a checked place, passes: in the own local memory by its
granule rules; elsewhere the r-th answer is at hand and refuses nothing. -/
def Passes (s : State) (ea : BitVec 64) (m : Mesh) (n r : Nat) (load : Bool) : Prop :=
  (ownLocal s.cur.1 m = true → if load then Readable s ea m.key n else Writable s ea m.key n) ∧
    (ownLocal s.cur.1 m = false → ∃ a, answered s r = some a ∧ a.fail = none)

/-- It fails with a trap: a granule rule or a memory error of the own local memory, or what its answer says. -/
def Fails (s : State) (ea : BitVec 64) (m : Mesh) (n r : Nat) (load : Bool) (tr : Trap) : Prop :=
  (ownLocal s.cur.1 m = true ∧
      (s.granuleTrap s.cur.1 ea (granulesOf m.key n) (!load) false = some tr ∨
        (load = true ∧ s.granuleTrap s.cur.1 ea (granulesOf m.key n) false false = none ∧
          ∃ w, s.eccWord m.key n = some w ∧ tr = trap cSramUncorr (word w)))) ∨
    (ownLocal s.cur.1 m = false ∧ ∃ a f, answered s r = some a ∧ a.fail = some f ∧ tr = refusal ea f)

/-- It must still be sent: elsewhere, the accesses before it answered. -/
def Unsent (s : State) (m : Mesh) (r : Nat) : Prop :=
  ownLocal s.cur.1 m = false ∧ s.cx.used = 0 ∧ s.cx.answers.length = r

/-- Chunk j passes its checks and its access. -/
def ChunkPasses (s : State) (mesh : Nat → Mesh) (addr : Nat → BitVec 64) (p eb j : Nat) (load : Bool) : Prop :=
  s.check s.cur.1 (addr j) eb eb [if load then .r else .w] false = .ok (mesh j) ∧
    Passes s (addr j) (mesh j) eb (away s mesh p j) load

/-- Chunk j fails with a trap, in its checks or in its access. -/
def ChunkFails (s : State) (mesh : Nat → Mesh) (addr : Nat → BitVec 64) (p eb j : Nat) (load : Bool) (tr : Trap) : Prop :=
  s.check s.cur.1 (addr j) eb eb [if load then .r else .w] false = .error tr ∨
  ∃ m, s.check s.cur.1 (addr j) eb eb [if load then .r else .w] false = .ok m ∧
    Fails s (addr j) m eb (away s mesh p j) load tr

/-- What chunk j of a load is: the bytes read in the own local memory, or the value of its answer. -/
def ChunkIs (s : State) (mesh : Nat → Mesh) (p eb j v : Nat) : Prop :=
  (ownLocal s.cur.1 (mesh j) = true → ∃ bs, Seen s s.cur.1 s.cur.2 (mesh j).key eb bs ∧ v = bytesNat bs) ∧
    (∀ a, ownLocal s.cur.1 (mesh j) = false → answered s (away s mesh p j) = some a → v = a.value % 256 ^ eb)

end Sys2Proof.Claims

/-- A strided or indexed form whose accesses pass moves the chunks from the one that PIDX names on, each at its own
address, and leaves PIDX 0; a load gives its tag and keeps the chunks before. A chunk that lies elsewhere than in the own
local memory is sent, and the form goes on with its answer. The first chunk that fails, in a helper or at the head of the
control context's queue, traps with PIDX naming it, and the chunks before it have been moved (R32, R183, R184, R102;
log 6). -/
def Sys2Proof.Claims.StridedAndIndexedForms : Prop :=
  ∀ (s : State) (i : Instr) (d : BitVec 5) (eb p : Nat) (addr : Nat →
  BitVec 64) (tag : Option (BitVec 4)) (mesh : Nat → Mesh),
    Claims.Unbound s i → Claims.chunks s i = some (d, eb, addr, tag) → p = fld s.cx.pidx 0 7 →
    ((Claims.memTags s i).1 = false →
      Claims.Stops s i (Claims.formatStop (Claims.memTags s i).2.1 (Claims.memTags s i).2.2)) ∧
    ((Claims.memTags s i).1 = true → ∀ n ≤ 64 / eb,
      (∀ j, p ≤ j → j < n → Claims.ChunkPasses s mesh addr p eb j tag.isSome) →
      let after (u : State) (pidx : Nat) : Prop :=
        u.cx.pidx = word pidx ∧ u.cx.used = s.cx.used + Claims.away s mesh p n ∧
        Claims.OnlyAccess s u (Claims.OnlyLong (if tag.isSome then some d else none)) ∧
        (∀ g, tag = some g → SameBytes s u ∧ (u.cx.vr d).tag = g ∧ (u.cx.vr d).side = freshSide g ∧
          ∀ j, j < 64 / eb → ∃ v, (u.cx.vr d).data.toNat / 256 ^ (eb * j) % 256 ^ eb = v ∧
            (p ≤ j ∧ j < n → Claims.ChunkIs s mesh p eb j v) ∧
            (¬ (p ≤ j ∧ j < n) → v = (s.cx.vr d).data.toNat / 256 ^ (eb * j) % 256 ^ eb)) ∧
        (tag = none → u.mem = ((List.range n).filter fun j => decide (p ≤ j) && ownLocal s.cur.1 (mesh j)).foldl
          (fun mem j => memPut mem (mesh j).key (natBytes eb ((s.cx.vr d).data.toNat / 256 ^ (eb * j)))) s.mem)
      (n = 64 / eb → ∃ u, Claims.Does s i u ∧ after u 0) ∧
      (∀ m, p ≤ n → n < 64 / eb → s.check s.cur.1 (addr n) eb eb [if tag.isSome then .r else .w] false = .ok m →
        Claims.Unsent s m (Claims.away s mesh p n) →
        Claims.Sends s i (if tag.isSome then Claims.reads (addr n) m.key eb
          else Claims.writes (addr n) m.key eb ((s.cx.vr d).data.toNat / 256 ^ (eb * n)))) ∧
      (∀ tr, p ≤ n → n < 64 / eb → Claims.ChunkFails s mesh addr p eb n tag.isSome tr →
        (Claims.IssuesAlone s i →
          ∃ u, after u n ∧ exec i s = .next (u.takeTrap s.cur.1 s.cur.2 tr s.cx.pc [] s.cx.pc)) ∧
        (Claims.Oldest s i → ∀ e q, s.cx.queue = e :: q → ∃ u, after u n ∧ u.cx.queue = s.cx.queue ∧
          exec (.fpVectorQueueDrain s.cur.1) s =
            .next (((Claims.turn u i).setCx { u.cx.deferQueue.1 with answers := [], used := 0 }).queueTrap s.cur.1 tr
              e.pc (if e.lathe.isSome then [] else u.cx.deferQueue.2)))))

/-- The loads and stores of the FP/vector queue (R51, R56, R145, R150, R151, R182, R183, R184, R301). Forms with a bound
register are in `Streams`. The model's own choices in it are logs 6, 9 and 50. -/
def Obligations.QueuedMemoryAccesses : Prop :=
  Claims.QueuedLoadsAndStores ∧ Claims.StridedAndIndexedForms

/-- The queue executes its oldest entry, wherever its context stands in hand: the entry leaves the queue with its effect,
or traps precisely: the PC of the instruction in TEPC, that of the integer pipe in TIPC, the queue empty, the PCs of the
entries that no repetition issued in TDQ0 onward, oldest first, with their number in DQN, and LITER and LSTAT set back to
the oldest entry of a repetition. A reissued instruction of TDQ takes the issue slot and executes the same way. What an
entry writes to an x register is older than every unacknowledged access of the integer pipe: a rollback keeps it
(FP_VECTOR_QUEUE_DRAIN; R30, R31, R32, R102, R179, R302, R303). The model's own choice in it is log 13. -/
def Obligations.TheQueueExecutesInOrder : Prop :=
  (∀ (s : State) (c : Nat) (e : QEntry) (q : List QEntry) (t : State), s.runs c = true →
    (s.ctxAt c 0).queue = e :: q → s.vecOpen c e.ins = true →
    runQueued e.ins ((if e.ins.isVec then s.takeVec c else s).at c 0) = .ok t →
    (t.ctxAt c 0).pending = (s.ctxAt c 0).pending →
    (∀ p ∈ (s.ctxAt c 0).pending, p.dest ≠ .part ∧ e.seq ≤ p.id ∧ p.acked = false) →
    ∃ u, exec (.fpVectorQueueDrain c) s = .next u ∧ (u.ctxAt c 0).x = (t.ctxAt c 0).x ∧
      (u.ctxAt c 0).pending.map Pending.id = (s.ctxAt c 0).pending.map Pending.id ∧
      ∀ d : BitVec 5, d ≠ 0#5 → Reg.x d.toNat ∈ e.ins.uses.wr → ∀ p ∈ (u.ctxAt c 0).pending,
        p.x0.get (Fin.ofNat 32 d.toNat) = (t.ctxAt c 0).xr d) ∧
  ∀ (s : State) (c : Nat), s.runs c = true → (s.ctxAt c 0).pending = [] →
    (∀ e q r, (s.ctxAt c 0).queue = e :: q → q.length ≤ 7 → s.vecOpen c e.ins = true →
      r = runQueued e.ins ((if e.ins.isVec then s.takeVec c else s).at c 0) →
      (∀ t, r = .ok t → (t.ctxAt c 0).pending = [] →
        exec (.fpVectorQueueDrain c) s = .next { t.modCtxAt c 0 fun x =>
          { x with queue := x.queue.tail, answers := x.answers.drop x.used, used := 0 } with cur := s.cur }) ∧
      (∀ t tr a, r = .error (t, tr) → tr.post = some a → s.roomFor c a = true →
        ∃ u p, exec (.fpVectorQueueDrain c) s = .next u ∧ (u.ctxAt c 0).pending = [p] ∧ p.acc = a ∧ p.dest = .part ∧
          (u.ctxAt c 0).queue = e :: q ∧ SameBytes s u) ∧
      (∀ t tr, r = .error (t, tr) → tr.post = none → (t.ctxAt c 0).queue = e :: q → (t.ctxAt c 0).pending = [] →
        t.stopping c = false → ¬ ((t.ctxAt c 0).level = .k ∧ bitOf (t.ctxAt c 0).tstatus 1 = false) →
        ∃ u, exec (.fpVectorQueueDrain c) s = .next u ∧ u.mem = t.mem ∧ (u.ctxAt c 0).queue = [] ∧
          (u.ctxAt c 0).level = .k ∧ (u.ctxAt c 0).pc = (t.core c).tvec ∧ (u.ctxAt c 0).tepc = e.pc ∧
          (u.ctxAt c 0).tipc = (t.ctxAt c 0).pc ∧ (u.ctxAt c 0).tcause.toNat = tr.cause.toNat ∧
          (u.ctxAt c 0).tval = tr.tval ∧
          (∀ pcs, pcs = (if e.lathe.isSome then [] else ((e :: q).filter fun x => x.lathe.isNone).map QEntry.pc) →
            fld (u.ctxAt c 0).tstatus 16 4 = pcs.length ∧
            (∀ j : Fin 8, ∀ h : j.val < pcs.length, (u.ctxAt c 0).tdq.get j = pcs[j.val])) ∧
          (∀ x, ((e :: q).filterMap QEntry.lathe).head? = some x →
            fld (u.ctxAt c 0).liter 0 32 = x.1.toNat ∧ fld (u.ctxAt c 0).lstat 0 4 = x.2.toNat ∧
            bitOf (u.ctxAt c 0).lstat 12 = true) ∧
          (((e :: q).filterMap QEntry.lathe) = [] → (u.ctxAt c 0).liter = (t.ctxAt c 0).liter ∧
            (u.ctxAt c 0).lstat = (t.ctxAt c 0).lstat))) ∧
    (∀ pc rest t i u, (s.ctxAt c 0).queue = [] → (s.ctxAt c 0).resume = pc :: rest →
      s.fetch c 0 pc = .ok (t, i) → i.isEvent = false → i.illegalReg false = false →
      (∀ n, (t.ctxAt c 0).absentReg i = some n → ((s.ctxAt c 0).qwait.map Wait.kind) ≠ some (.presence n) →
        ∃ v w, exec (.fpVectorQueueDrain c) s = .next v ∧ (v.ctxAt c 0).qwait = some w ∧ w.kind = .presence n ∧
          (v.ctxAt c 0).resume = pc :: rest) ∧
      ((t.ctxAt c 0).absentReg i = none → s.slotOpen c = true → s.fetchWaits c pc 2 = false → t.vecOpen c i = true →
        runQueued i (((if i.isVec then t.takeVec c else t).issuedBy c 0).at c 0) = .ok u →
        exec (.fpVectorQueueDrain c) s = .next { u.modCtxAt c 0 fun x =>
          { x with resume := rest, qwait := none, answers := x.answers.drop x.used, used := 0 } with cur := t.cur }))

/-- FREP and FREPI take the next N + 1 instructions as a body, which they check first, and go on after it with LBASE,
LITER and LSTAT set for LAST + 1 iterations; an instruction that writes an x register or is none of FP and vectors traps
with ILLEGAL, one that names a register that no control context owns with ILLEGAL_REG. LATHE_ISSUE puts the body
instruction that LSTAT names at the end of the queue, one a cycle, and counts: the next index, or the next iteration, or
the end; it waits for an absent x source. A body whose bytes a home still holds back waits, and one that cannot be fetched
traps (R17, R33, R176, R178). The model's own choices in it are log 14 and, for a FREP at K level, log 71. -/
def Obligations.TheLatheRepeats : Prop :=
  (∀ (s : State) (i : Instr) (n : BitVec 4) (last : Nat) (t : State) (b : List (Instr × BitVec 64)),
    ((∃ a, i = .frep a n ∧ last = fld (s.x a) 0 32) ∨ ∃ l, i = .frepi l n ∧ last = l.toNat) → s.Issues i →
    (s.fetchWaits s.cur.1 (s.cx.pc + 4#64) (2 * n.toNat + 2) = true → exec i s = .next s) ∧
    (s.fetchWaits s.cur.1 (s.cx.pc + 4#64) (2 * n.toNat + 2) = false →
    (∀ e, s.fetchBody s.cur.1 (n.toNat + 1) (s.cx.pc + 4#64) = .error e → exec i s = s.raise s e.1) ∧
    (s.fetchBody s.cur.1 (n.toNat + 1) (s.cx.pc + 4#64) = .ok (t, b) →
    ((∀ e ∈ b, e.1.queued = true ∧ (∀ r, Reg.x r ∉ e.1.uses.wr) ∧ e.1.illegalReg false = false) →
      exec i s = .next (t.setCx { t.cx with
        lbase := s.cx.pc + 4#64, liter := word (last * 2 ^ 32), lstat := word (2 ^ 12 + n.toNat * 2 ^ 8), body := b,
        latheHeld := false, refetch := false, wait := none,
        pc := s.cx.pc + 4#64 + word ((b.map fun e => fetchedLen e.1).sum) })) ∧
    (∀ front e rest, b = front ++ e :: rest →
      (∀ x ∈ front, x.1.queued = true ∧ (∀ r, Reg.x r ∉ x.1.uses.wr) ∧ x.1.illegalReg false = false) →
      (∀ short bits, e.1 = .illegalEncoding short bits → exec i s = t.raise t (trap cIllegal (bits.setWidth 64))) ∧
      (e.1.isEvent = false →
      (¬ (e.1.queued = true ∧ ∀ r, Reg.x r ∉ e.1.uses.wr) → exec i s = t.raise t (trap cIllegal e.1.bits)) ∧
      (e.1.queued = true → (∀ r, Reg.x r ∉ e.1.uses.wr) → e.1.illegalReg false = true →
        exec i s = t.raise t (trap cIllegalReg e.1.bits))))))) ∧
  (∀ (s : State) (c idx n it last : Nat) (i : Instr) (pc : BitVec 64), s.runs c = true → s.dutyOk c = true →
    (s.ctxAt c 0).live = true → bitOf (s.ctxAt c 0).lstat 12 = true → (s.ctxAt c 0).latheHeld = false →
    (s.ctxAt c 0).resume = [] → (s.ctxAt c 0).refetch = false → (s.ctxAt c 0).queue.length < 8 →
    idx = fld (s.ctxAt c 0).lstat 0 4 → n = fld (s.ctxAt c 0).lstat 8 4 → it = fld (s.ctxAt c 0).liter 0 32 →
    last = fld (s.ctxAt c 0).liter 32 32 → (s.ctxAt c 0).body[idx]? = some (i, pc) →
    (s.core c).latheFree ≤ s.cycleOf c → (∀ p ∈ (s.ctxAt c 0).pending, p.acked = true) →
    (∀ r, (s.ctxAt c 0).absentReg i = some r → ((s.ctxAt c 0).qwait.map Wait.kind) ≠ some (.presence r) →
      exec (.latheIssue c) s = .next (s.setCtxAt c 0 { s.ctxAt c 0 with
        qwait := some { kind := .presence r, since := s.clockOf c, tval := word r } })) ∧
    ((∀ r, Reg.x r ∈ i.uses.rd → r ≠ 0 → (s.ctxAt c 0).present.toNat.testBit r = true) →
      ∃ x, exec (.latheIssue c) s =
          .next ((s.setCtxAt c 0 x).setCore c { (s.setCtxAt c 0 x).core c with latheFree := s.cycleOf c + 1 }) ∧
        { x with queue := (s.ctxAt c 0).queue, lstat := (s.ctxAt c 0).lstat, liter := (s.ctxAt c 0).liter,
                 qwait := (s.ctxAt c 0).qwait } = s.ctxAt c 0 ∧ x.qwait = none ∧
        x.queue = (s.ctxAt c 0).queue ++
          [{ ins := i, pc := pc, lathe := some (BitVec.ofNat 32 it, BitVec.ofNat 4 idx), seq := 0 }] ∧
        fld x.liter 32 32 = last ∧ fld x.lstat 8 4 = n ∧
        (idx < n → fld x.lstat 0 4 = idx + 1 ∧ fld x.liter 0 32 = it ∧ bitOf x.lstat 12 = true) ∧
        (n ≤ idx → it < last → fld x.lstat 0 4 = 0 ∧ fld x.liter 0 32 = it + 1 ∧ bitOf x.lstat 12 = true) ∧
        (n ≤ idx → last ≤ it → bitOf x.lstat 12 = false ∧ fld x.liter 0 32 = it)))

/-- The element at digits k_0, k_1, … of a pattern lies at BASE plus the sum of its digits times their strides, and the
pattern has as many elements as the product of the counts, at most 2^48 (R170). -/
def Obligations.StreamPatterns : Prop :=
  ∀ (p : Port) (k : Fin 4 → Nat), (∀ d : Fin 4, k d < fld (p.b.get d) 0 20 + 1) →
    (∀ d : Fin 4, fld p.ctl 3 2 < d.val → k d = 0) →
    let c (d : Fin 4) : Nat := fld (p.b.get d) 0 20 + 1
    p.address (k 0 + c 0 * (k 1 + c 1 * (k 2 + c 2 * k 3))) =
      Claims.wrap (p.base.toNat + (k 0 * (p.st.get 0).toInt + k 1 * (p.st.get 1).toInt + k 2 * (p.st.get 2).toInt
        + k 3 * (p.st.get 3).toInt)) ∧
    p.total = min (2 ^ 48) (c 0 * (if fld p.ctl 3 2 < 1 then 1 else c 1) * (if fld p.ctl 3 2 < 2 then 1 else c 2)
      * (if fld p.ctl 3 2 < 3 then 1 else c 3))

namespace Sys2Proof.Claims

/-- What a prefetch of a core's control context makes of the bytes at an address: data that a read may return, or a mark:
RACE and SRAM_UNCORR as they are, STREAM for every other failure, each with the address that failed (R173, R174). -/
def Fetches (s : State) (c : Nat) (a : BitVec 64) (size : Nat) (e : Elem) : Prop :=
  (∀ tr, s.check c a size size [.r] false = .error tr → e.fail = some (cStream, a)) ∧
  (∀ m, s.check c a size size [.r] false = .ok m →
    (∀ tr, s.granuleTrap c a (granulesOf m.key size) false false = some tr →
      e.fail = some (if tr.cause = cRace then cRace else cStream, a) ∧ (tr.cause = cRace → tr.race = some e.raceInfo)) ∧
    (s.granuleTrap c a (granulesOf m.key size) false false = none →
      (∀ w, s.eccWord m.key size = some w → e.fail = some (cSramUncorr, word w)) ∧
      (s.eccWord m.key size = none → e.fail = none ∧ e.addr = a ∧
        ∃ bs, Seen s c 0 m.key size bs ∧ e.data.toNat = bytesNat bs)))

/-- The bytes of an element of a port: 64 of a v port, else 2^WIDTH. -/
def elemBytes (p : Port) : Nat := if bitOf p.ctl 14 then 64 else 2 ^ fld p.ctl 5 2

/-- The element at position k of a port: in direct mode the bytes at the pattern's address; in indirect mode those at
IDXBASE plus the index there times 2^IDXSHIFT, the index a number of 2 or 4 bytes; a mark of the index is the element's
(R170, R173, R174). -/
def ElementIs (s : State) (c : Nat) (p : Port) (k : Nat) (e : Elem) : Prop :=
  (bitOf p.ctl 11 = false → Fetches s c (p.address k) (elemBytes p) e) ∧
  (bitOf p.ctl 11 = true → ∃ x : Elem, Fetches s c (p.address k) (if bitOf p.ctl 10 then 4 else 2) x ∧
    (x.fail ≠ none → e.fail = x.fail ∧ e.raceInfo = x.raceInfo) ∧
    (x.fail = none → Fetches s c (p.idx + word (x.data.toNat * 2 ^ fld p.ctl 7 3)) (elemBytes p) e))

end Sys2Proof.Claims

/-- SBIND unbinds every other port of the register and binds its port, or raises FORMAT; SUNBIND clears EN of a bound port
and keeps the position; SSKIP moves the position, at most to the end; SSYNC discards what the named read ports
prefetched; a prefetch reads and checks the next element, of f and v ports, direct and indirect, at most four ahead, and
raises nothing: what fails is marked (R171, R173, R174; logs 6 and 9). -/
def Sys2Proof.Claims.StreamPortInstructions : Prop :=
  ∀ (s : State) (p : BitVec 2) (n : Fin 4), n.val = p.toNat →
    (∀ (d : BitVec 5) (k : BitVec 1), s.Issues (.sbind d k p) →
      (k = 1#1 ∧ 14 ≤ fld (s.cx.port n).ctl 20 4 →
        exec (.sbind d k p) s = s.raise s (trap cFormat (word (fld (s.cx.port n).ctl 20 4 * 4096)))) ∧
      (¬ (k = 1#1 ∧ 14 ≤ fld (s.cx.port n).ctl 20 4) → ∃ x, exec (.sbind d k p) s = .next ((s.setCx x).bump 4) ∧
        { x with ports := s.cx.ports } = s.cx ∧
        (x.port n) = { s.cx.port n with ctl := (x.port n).ctl, fifo := [], held := false } ∧
        bitOf (x.port n).ctl 13 = true ∧ bitOf (x.port n).ctl 14 = decide (k = 1#1) ∧
        fld (x.port n).ctl 15 5 = d.toNat ∧
        fld (x.port n).ctl 0 13 = fld (s.cx.port n).ctl 0 13 ∧ fld (x.port n).ctl 20 44 = fld (s.cx.port n).ctl 20 44 ∧
        (∀ j : Fin 4, j ≠ n → x.port j =
          if bitOf (s.cx.port j).ctl 13 = true ∧ bitOf (s.cx.port j).ctl 14 = decide (k = 1#1) ∧
              fld (s.cx.port j).ctl 15 5 = d.toNat
          then { s.cx.port j with ctl := setFld (s.cx.port j).ctl 13 1 0, fifo := [], held := false } else s.cx.port j))) ∧
    (s.Issues (.sunbind p) → exec (.sunbind p) s = .next ((if bitOf (s.cx.port n).ctl 13 = true
      then s.setCx (s.cx.setPort n { s.cx.port n with
        ctl := setFld (s.cx.port n).ctl 13 1 0, fifo := [], held := false }) else s).bump 4)) ∧
    (∀ a, s.Issues (.sskip a p) → exec (.sskip a p) s = .next ((s.setCx (s.cx.setPort n { s.cx.port n with
      pos := word (min ((s.cx.port n).pos.toNat + (s.x a).toNat) (s.cx.port n).total % 2 ^ 48), fifo := [] })).bump 4)) ∧
    (∀ m : BitVec 4, s.Issues (.ssync m) → ∃ x, exec (.ssync m) s = .next ((s.setCx x).bump 4) ∧
      { x with ports := s.cx.ports } = s.cx ∧
      ∀ j : Fin 4, x.port j = if m.toNat.testBit j ∧ bitOf (s.cx.port j).ctl 12 = false
        then { s.cx.port j with fifo := [] } else s.cx.port j) ∧
    (∀ c, s.runs c = true → (s.ctxAt c 0).live = true → bitOf ((s.ctxAt c 0).port n).ctl 13 = true →
      bitOf ((s.ctxAt c 0).port n).ctl 12 = false → ((s.ctxAt c 0).port n).held = false →
      ((s.ctxAt c 0).port n).fifo.length < 4 →
      ((s.ctxAt c 0).port n).pos.toNat + ((s.ctxAt c 0).port n).fifo.length < ((s.ctxAt c 0).port n).total →
      ∃ t : State, ∃ e, exec (.streamPrefetch c n) s = .next t ∧ SameBytes s t ∧ t.cur = s.cur ∧
        (t.ctxAt c 0).port n = { (s.ctxAt c 0).port n with fifo := ((s.ctxAt c 0).port n).fifo ++ [e] } ∧
        (t.ctxAt c 0).x = (s.ctxAt c 0).x ∧ (t.ctxAt c 0).pc = (s.ctxAt c 0).pc ∧
        Claims.ElementIs s c ((s.ctxAt c 0).port n)
          (((s.ctxAt c 0).port n).pos.toNat + ((s.ctxAt c 0).port n).fifo.length) e)

namespace Sys2Proof.Claims

/-- Port n of the control context in hand is enabled and bound to the f register, and no other port is bound to it. -/
def Bound (s : State) (n : Fin 4) (r : BitVec 5) : Prop :=
  s.inHelper = false ∧ ∀ j : Fin 4, (bitOf (s.cx.port j).ctl 13 = true ∧ bitOf (s.cx.port j).ctl 14 = false ∧
    fld (s.cx.port j).ctl 15 5 = r.toNat) ↔ j = n

/-- SPOS as a pop or push of a port writes it (Table 7-2). -/
def sposAt (s : State) (n : Fin 4) : BitVec 64 := word (n.val * 2 ^ 48 + (s.cx.port n).pos.toNat)

/-- SSnPOS after it: one more, in 48 bits (Table 7-2). -/
def nextPos (s : State) (n : Fin 4) : BitVec 64 := word (((s.cx.port n).pos.toNat + 1) % 2 ^ 48)

/-- The misuse of a port, or a position at its end: STREAM with TVAL 0. -/
def misuse (s : State) (n : Fin 4) : Trap :=
  { cause := cStream, tval := 0#64, race := none, spos := some (sposAt s n) }

/-- Port n of the control context in hand is enabled and bound to the v register, and no other port is bound to it. -/
def BoundV (s : State) (n : Fin 4) (r : BitVec 5) : Prop :=
  s.inHelper = false ∧ ∀ j : Fin 4, (bitOf (s.cx.port j).ctl 13 = true ∧ bitOf (s.cx.port j).ctl 14 = true ∧
    fld (s.cx.port j).ctl 15 5 = r.toNat) ↔ j = n

/-- No enabled port is bound to a register of the class. -/
def Free (s : State) (v : Bool) (r : BitVec 5) : Prop :=
  ∀ j : Fin 4, ¬ (bitOf (s.cx.port j).ctl 13 = true ∧ bitOf (s.cx.port j).ctl 14 = v ∧
    fld (s.cx.port j).ctl 15 5 = r.toNat)

/-- The state after the next element of a read port has been popped, the rest of its elements left (R172). -/
def popped (s : State) (n : Fin 4) (es : List Elem) : State :=
  s.setCx (s.cx.setPort n { s.cx.port n with fifo := es, pos := nextPos s n })

/-- The port of a failed pop or push: nothing is consumed, what it prefetched goes, and it prefetches again after TRET; the
trap has the mark's cause and address, RACEINFO of a RACE, and SPOS but for SRAM_UNCORR (R174). -/
def MarkedTrap (s t : State) (n : Fin 4) (f : BitVec 8 × BitVec 64) (info : BitVec 64) : Prop :=
  (t.cx.port n).pos = (s.cx.port n).pos ∧ (t.cx.port n).fifo = [] ∧ (t.cx.port n).held = true ∧
    t.cx.tval = f.2 ∧ t.cx.tcause = word f.1.toNat ∧ t.cx.x = s.cx.x ∧ t.cx.level = .k ∧
    t.cx.raceinfo = (if f.1 = cRace then info else s.cx.raceinfo) ∧
    t.cx.spos = (if f.1 = cSramUncorr then s.cx.spos else sposAt s n)

/-- The sources of an FP arithmetic instruction, in the order of their fields. -/
def fpSources : Instr → List (BitVec 5)
  | .fadd _ a b _ _ | .fsub _ a b _ _ | .fmul _ a b _ _ | .fdiv _ a b _ _ | .fmin _ a b _ | .fmax _ a b _ => [a, b]
  | .fsqrt _ a _ _ => [a]
  | .fmadd _ a b c _ _ | .fmsub _ a b c _ _ | .fnmadd _ a b c _ _ | .fnmsub _ a b c _ _ => [a, b, c]
  | .fadd16 d b | .fsub16 d b | .fmul16 d b | .fmax16 d b => [d, b]
  | _ => []

/-- An FP arithmetic instruction with this value leaves state s' after its pops. -/
def Computes (s s' : State) (i : Instr) (d : BitVec 5) (f : BitVec 1) (r : BitVec 3) (v : Bool → Val) : Prop :=
  let rn := rounding s r
  let x := v (rn.mode == 2#3)
  let q := roundTo (fmtSD f) false rn x.v
  Does s i (raised (s'.setCx (s'.cx.setF d (word q.code))) (x.fl ||| q.fl))

end Sys2Proof.Claims

/-- A source that names the register of a read port is its next element, which is consumed, read now where none was
prefetched; a marked element traps with its cause and address and is not consumed; a destination that names the register
of a write port is stored at the next element's address, in another place than the own local memory through the window of
R102; a wrong direction, or a position at the end, raises STREAM with TVAL 0; shown for the moves between x and f
registers (R172, R174; logs 6 and 9). -/
def Sys2Proof.Claims.PopsAndPushes : Prop :=
  ∀ (s : State) (n : Fin 4) (d a : BitVec 5), fld (s.cx.port n).ctl 5 2 ≤ 3 →
    (Claims.Bound s n a → bitOf (s.cx.port n).ctl 12 = false →
      ((s.cx.port n).total ≤ (s.cx.port n).pos.toNat → Claims.Stops s (.fmvx d a 1#2) (Claims.misuse s n)) ∧
      ((s.cx.port n).pos.toNat < (s.cx.port n).total →
        (∀ e es, (s.cx.port n).fifo = e :: es →
          (e.fail = none → Claims.Does s (.fmvx d a 1#2) ((Claims.popped s n es).setX d (e.data.setWidth 64))) ∧
          (∀ f, e.fail = some f → ∀ t, Claims.Oldest s (.fmvx d a 1#2) → s.stopping s.cur.1 = false →
            exec (.fpVectorQueueDrain s.cur.1) s = .next t → ¬ (s.cx.level = .k ∧ bitOf s.cx.tstatus 1 = false) →
            Claims.MarkedTrap s t n f e.raceInfo)) ∧
        ((s.cx.port n).fifo = [] → ∃ e, Claims.ElementIs s s.cur.1 (s.cx.port n) (s.cx.port n).pos.toNat e ∧
          (e.fail = none → ∃ u, Claims.Does s (.fmvx d a 1#2) u ∧ SameBytes s u ∧ u.olds = s.olds ∧
            u.cx.port n = { s.cx.port n with pos := Claims.nextPos s n } ∧ u.cx.f = s.cx.f ∧
            u.cx.x = (s.cx.setX d (e.data.setWidth 64)).x) ∧
          (∀ f, e.fail = some f → ∀ t, Claims.Oldest s (.fmvx d a 1#2) → s.stopping s.cur.1 = false →
            exec (.fpVectorQueueDrain s.cur.1) s = .next t → ¬ (s.cx.level = .k ∧ bitOf s.cx.tstatus 1 = false) →
            Claims.MarkedTrap s t n f e.raceInfo)))) ∧
    (Claims.Bound s n a → bitOf (s.cx.port n).ctl 12 = true → Claims.Stops s (.fmvx d a 1#2) (Claims.misuse s n)) ∧
    (Claims.Bound s n d → bitOf (s.cx.port n).ctl 12 = false → Claims.Stops s (.fmvf d a 1#2) (Claims.misuse s n)) ∧
    (Claims.Bound s n d → bitOf (s.cx.port n).ctl 12 = true → bitOf (s.cx.port n).ctl 11 = false →
      ∀ size k, size = 2 ^ fld (s.cx.port n).ctl 5 2 → k = (s.cx.port n).address (s.cx.port n).pos.toNat →
      ((s.cx.port n).total ≤ (s.cx.port n).pos.toNat → Claims.Stops s (.fmvf d a 1#2) (Claims.misuse s n)) ∧
      ((s.cx.port n).pos.toNat < (s.cx.port n).total →
        (∀ tr, s.check s.cur.1 k size size [.w] false = .error tr → ∀ t, Claims.Oldest s (.fmvf d a 1#2) →
          s.stopping s.cur.1 = false → ¬ (s.cx.level = .k ∧ bitOf s.cx.tstatus 1 = false) →
          exec (.fpVectorQueueDrain s.cur.1) s = .next t → Claims.MarkedTrap s t n (cStream, k) 0#64 ∧ SameBytes s t) ∧
        ∀ m, s.check s.cur.1 k size size [.w] false = .ok m →
        (ownLocal s.cur.1 m = true → Claims.Writable s k m.key size → ∃ u, Claims.Does s (.fmvf d a 1#2) u ∧
          SameBytesBut s u m.key size ∧
          (∀ j, j < size → (memGet u.mem (m.key + j)).toNat = (s.x a).toNat / 256 ^ j % 256) ∧
          (u.cx.port n).pos = Claims.nextPos s n ∧ u.cx.f = s.cx.f ∧ u.cx.x = s.cx.x) ∧
        (ownLocal s.cur.1 m = false → s.cx.answers = [] → s.cx.used = 0 →
          Claims.Sends s (.fmvf d a 1#2) (Claims.writes k m.key size (s.x a).toNat)) ∧
        (ownLocal s.cur.1 m = false → (Claims.answered s 0).map Answer.fail = some none →
          Claims.Does s (.fmvf d a 1#2) (s.setCx { s.cx.setPort n { s.cx.port n with pos := Claims.nextPos s n } with
            used := 1 }))))

/-- FADD to FSQRT, the fused forms, FMIN, FMAX and the 16-bit forms pop the element of the one source that is bound, and
compute with it as with any register's value; two fields that name the bound register pop two consecutive elements, the
first for rs1; a destination bound to a write port is stored at the next element's address, with the flags joined (R152,
R153, R154, R172). -/
def Sys2Proof.Claims.ArithmeticPopsAndPushes : Prop :=
  ∀ (s : State) (n : Fin 4) (d a : BitVec 5) (f : BitVec 1) (r : BitVec 3) (e : Elem) (es : List Elem),
    (Claims.Bound s n a → bitOf (s.cx.port n).ctl 12 = false → (s.cx.port n).pos.toNat < (s.cx.port n).total →
      (s.cx.port n).fifo = e :: es → e.fail = none → Claims.Free s false d →
      (∀ i v, (Claims.fpSources i).count a = 1 → (∀ b ∈ Claims.fpSources i, b ≠ a → Claims.Free s false b) →
        Claims.fpArith ((Claims.popped s n es).modCx fun x => x.setF a (e.data.setWidth 64)) i = some (d, f, r, v) →
        Claims.Computes s (Claims.popped s n es) i d f r v) ∧
      (∀ e2 rest i (v : Bool → Val), es = e2 :: rest → e2.fail = none →
        (s.cx.port n).pos.toNat + 1 < (s.cx.port n).total →
        (let y (z : Elem) : Machine.Num := (fmtSD f).decode (z.data.toNat % 2 ^ 64)
         (i, v) ∈ [(Instr.fadd d a a f r, fun k => addNum k (y e) (y e2)), (.fsub d a a f r, fun k => addNum k (y e) (y e2).neg),
           (.fmul d a a f r, fun _ => mulNum (y e) (y e2)), (.fdiv d a a f r, fun _ => divNum (y e) (y e2))]) →
        Claims.Computes s (Claims.popped (Claims.popped s n es) n rest) i d f r v)) ∧
    (∀ i v m size k, Claims.Bound s n d → bitOf (s.cx.port n).ctl 12 = true → bitOf (s.cx.port n).ctl 11 = false →
      (s.cx.port n).pos.toNat < (s.cx.port n).total → d ∉ Claims.fpSources i →
      (∀ b ∈ Claims.fpSources i, Claims.Free s false b) → Claims.fpArith s i = some (d, f, r, v) →
      size = 2 ^ fld (s.cx.port n).ctl 5 2 → k = (s.cx.port n).address (s.cx.port n).pos.toNat →
      s.check s.cur.1 k size size [.w] false = .ok m → ownLocal s.cur.1 m = true → Claims.Writable s k m.key size →
      let rn := Claims.rounding s r
      let x := v (rn.mode == 2#3)
      let q := roundTo (fmtSD f) false rn x.v
      ∃ u, Claims.Does s i u ∧ SameBytesBut s u m.key size ∧
        (∀ j, j < size → (memGet u.mem (m.key + j)).toNat = q.code / 256 ^ j % 256) ∧
        (u.cx.port n).pos = Claims.nextPos s n ∧ u.cx.f = s.cx.f ∧
        u.cx.fcsr = word (s.cx.fcsr.toNat ||| (x.fl ||| q.fl).toNat))

/-- A v port's element is 64 bytes with the tag of SSnCTL and a fresh block side: VMOV moves it, or raises FORMAT for a
tag that is none, and VST stores it; a bound destination of VMOV and VLD has its 64 bytes stored at the next element's
address; an instruction that keeps part of a bound destination raises STREAM with TVAL 0, and so does the wrong direction
(R172, R71, R182 to R184; log 103). -/
def Sys2Proof.Claims.VectorPopsAndPushes : Prop :=
  ∀ (s : State) (n : Fin 4) (d a : BitVec 5) (o : BitVec 8) (tag : BitVec 4),
    (Claims.BoundV s n a → bitOf (s.cx.port n).ctl 12 = false → (s.cx.port n).pos.toNat < (s.cx.port n).total →
      tag = BitVec.ofNat 4 (fld (s.cx.port n).ctl 20 4) → ∀ e es, (s.cx.port n).fifo = e :: es → e.fail = none →
      (tagOk tag = true → Claims.Free s true d → Claims.Does s (.vmov d a)
        ((Claims.popped s n es).modCx fun x => x.setV d { data := e.data, tag := tag, side := freshSide tag })) ∧
      (tagOk tag = false → Claims.Free s true d → Claims.Stops s (.vmov d a) (Claims.formatStop [tag] 0#4)) ∧
      (∀ m ea, tagOk tag = true → ea = Claims.wrap ((s.x d).toNat + o.toInt * 64) →
        s.check s.cur.1 ea 64 64 [.w] false = .ok m → ownLocal s.cur.1 m = true → Claims.Writable s ea m.key 64 →
        ∃ u, Claims.Does s (.vst d a o) u ∧ SameBytesBut s u m.key 64 ∧
          (∀ j, j < 64 → (memGet u.mem (m.key + j)).toNat = e.data.toNat / 256 ^ j % 256) ∧
          (u.cx.port n).pos = Claims.nextPos s n ∧ u.cx.v = s.cx.v)) ∧
    (Claims.BoundV s n a → bitOf (s.cx.port n).ctl 12 = true → Claims.Stops s (.vmov d a) (Claims.misuse s n)) ∧
    (Claims.BoundV s n d → bitOf (s.cx.port n).ctl 12 = true → bitOf (s.cx.port n).ctl 11 = false →
      (s.cx.port n).pos.toNat < (s.cx.port n).total →
      ∀ m k, k = (s.cx.port n).address (s.cx.port n).pos.toNat → s.check s.cur.1 k 64 64 [.w] false = .ok m →
        ownLocal s.cur.1 m = true → Claims.Writable s k m.key 64 →
      (Claims.Free s true a → tagOk (s.cx.vr a).tag = true → ∃ u, Claims.Does s (.vmov d a) u ∧
        SameBytesBut s u m.key 64 ∧
        (∀ j, j < 64 → (memGet u.mem (m.key + j)).toNat = (s.cx.vr a).data.toNat / 256 ^ j % 256) ∧
        (u.cx.port n).pos = Claims.nextPos s n ∧ u.cx.v = s.cx.v) ∧
      (∀ p ea, tagOk tag = true → ea = Claims.wrap ((s.x a).toNat + o.toInt * 64) →
        s.check s.cur.1 ea 64 64 [.r] false = .ok p → ownLocal s.cur.1 p = true → Claims.Readable s ea p.key 64 →
        ∃ u bs, Claims.Does s (.vld d a tag o) u ∧ Claims.Seen s s.cur.1 s.cur.2 p.key 64 bs ∧
          SameBytesBut s u m.key 64 ∧ (∀ j, j < 64 → memGet u.mem (m.key + j) = bs.getD j 0#8) ∧
          (u.cx.port n).pos = Claims.nextPos s n ∧ u.cx.v = s.cx.v)) ∧
    (Claims.BoundV s n d →
      (∀ b e, tagOk tag = true → Claims.Stops s (.vlds d a b e tag) (Claims.misuse s n)) ∧
      (∀ imm, Claims.Stops s (.vldb d a imm) (Claims.misuse s n)) ∧
      (Claims.Free s true a → bitOf (s.cx.port n).ctl 12 = false → tagOk (s.cx.vr a).tag = true →
        Claims.Stops s (.vmov d a) (Claims.misuse s n)))

/-- The stream instructions, and the pops and pushes of bound registers (R171, R172, R173, R174).
The model's own choices in it are logs 6, 9, 32, 55 and 103. -/
def Obligations.Streams : Prop :=
  Claims.StreamPortInstructions ∧ Claims.PopsAndPushes ∧ Claims.ArithmeticPopsAndPushes ∧ Claims.VectorPopsAndPushes

-- The bit buffer (07_isa_streams_vector.md).

namespace Sys2Proof.Claims

/-- The valid bits of the window, the next bit first (Table 7-8). -/
def validBits (x : Ctx) : List Bool := (List.range (fld x.bbcnt 0 7)).map fun i => bitOf x.bbwin (63 - i)

/-- Bits as a number, most significant first. -/
def bitsNat (l : List Bool) : Nat := l.foldl (fun a b => 2 * a + (if b then 1 else 0)) 0

/-- The bits of a byte, most significant first. -/
def byteBits (b : Byte) : List Bool := (List.range 8).map fun i => b.toNat.testBit (7 - i)

/-- Bytes that a refill to m bits loads: as many as are short, at most those before BBEND (R198). -/
def refill (x : Ctx) (m : Nat) : Nat := min ((m - fld x.bbcnt 0 7 + 7) / 8) (x.bbend.toNat - x.bbptr.toNat)

/-- The window is in the mode of an instruction that reads, and the k bytes at BBPTR can be read, at these places: in the
own local memory at once, elsewhere by the answers at hand. -/
def Refills (s : State) (k : Nat) (mesh : Nat → Mesh) : Prop :=
  fld s.cx.bbcnt 7 2 ≠ 2 ∧ fld s.cx.bbcnt 0 7 ≤ 64 ∧
    ∀ j, j < k → s.check s.cur.1 (s.cx.bbptr + word j) 1 1 [.r] false = .ok (mesh j) ∧
      Passes s (s.cx.bbptr + word j) (mesh j) 1 (away s mesh 0 j) true

/-- The valid bits after a refill of k bytes: those that a read of the own local memory may return, or that came in the
answers. -/
def Refilled (s : State) (k : Nat) (mesh : Nat → Mesh) (v : List Bool) : Prop :=
  ∃ b : Nat → Byte,
    (∀ j, j < k → ownLocal s.cur.1 (mesh j) = true → MaySee s s.cur.1 s.cur.2 (mesh j).key 1 [b j]) ∧
    (∀ j a, j < k → ownLocal s.cur.1 (mesh j) = false → answered s (away s mesh 0 j) = some a →
      b j = BitVec.ofNat 8 a.value) ∧
    v = validBits s.cx ++ (List.range k).flatMap fun j => byteBits (b j)

/-- Of a context, besides what an access changes, register d, the bit buffer and the answers may differ, BBEND not. -/
def OnlyBits (d : BitVec 5) (x y : Ctx) : Prop :=
  { y with x := x.x, present := x.present, pc := x.pc, wait := x.wait, rdsplit := x.rdsplit, bbptr := x.bbptr,
           bbwin := x.bbwin, bbcnt := x.bbcnt, ports := x.ports, answers := x.answers, used := x.used } = x ∧
    (∀ r, r ≠ d → y.xr r = x.xr r) ∧
    y.ports.map (fun p => { p with fifo := [] }) = x.ports.map (fun p => { p with fifo := [] })

/-- A step to a state with these valid bits, mode and pointer, register d written and this many answers used up,
everything else but the record of the accesses as before. -/
def BitStep (s : State) (i : Instr) (d : BitVec 5) (v : Option (BitVec 64)) (bits : List Bool) (mode : Nat)
    (ptr : BitVec 64) (sent : Nat) (keys : List Nat) : Prop :=
  ∃ t : State, exec i s = .next t ∧ validBits t.cx = bits ∧ fld t.cx.bbcnt 0 7 = bits.length ∧
  fld t.cx.bbcnt 7 2 = mode ∧
    t.cx.bbptr = ptr ∧ t.cx.pc = s.cx.pc + 4#64 ∧ t.cx.x = (match v with | some w => s.cx.setX d w | none => s.cx).x ∧
    t.cx.answers = s.cx.answers.drop sent ∧ t.cx.used = 0 ∧
    (∀ a, a ∉ keys → memGet t.mem a = memGet s.mem a) ∧ OnlyAccess s t (OnlyBits d)

/-- The step sends an access whose answer the instruction needs, if the injection queue has room, and does nothing else. -/
def BitSends (s : State) (i : Instr) (a : Access) : Prop :=
  exec i s = .next (if s.roomFor s.cur.1 a then s.addPending s.cur.1 s.cur.2 a .part else s)

end Sys2Proof.Claims

/-- BBINIT sets pointer, end and an empty window, or raises ADDR. BBGET, BBSKIP and BBPEEK refill, then take or show the
next n bits; BBDEC takes the code whose length and symbol its table gives; too few bits raise BITBUF with BBEND, WRITE
mode BITBUF with 0, and nothing changes. A byte, or a table entry, that lies elsewhere than in the own local memory is
asked for, and the instruction goes on with its answer (R51, R56, R102, R198, R199, Table 7-9; logs 6 and 16). -/
def Sys2Proof.Claims.BitBufferReads : Prop :=
  ∀ (s : State) (d a b n : BitVec 5) (kk : BitVec 4) (mesh : Nat → Mesh),
    (s.Issues (.bbinit a b) →
      (bitOf (s.x a) 63 = true → exec (.bbinit a b) s = s.raise s (trap cAddr (s.x a))) ∧
      (bitOf (s.x a) 63 = false → bitOf (s.x b) 63 = true ∨ (s.x b).toNat < (s.x a).toNat →
        exec (.bbinit a b) s = s.raise s (trap cAddr (s.x b))) ∧
      (bitOf (s.x a) 63 = false → bitOf (s.x b) 63 = false → (s.x a).toNat ≤ (s.x b).toNat →
        exec (.bbinit a b) s = .next ((s.setCx { s.cx with
          bbptr := s.x a, bbend := s.x b, bbwin := 0#64, bbcnt := 0#64 }).bump 4))) ∧
    (∀ i m, (i, m) ∈ [(Instr.bbget d n, n.toNat + 1), (.bbskip n, n.toNat + 1), (.bbpeek d n, n.toNat + 1),
        (.bbdec d a kk, kk.toNat + 1)] → s.Issues i → s.cx.used = 0 →
      (fld s.cx.bbcnt 7 2 = 2 → exec i s = s.raise s (trap cBitbuf 0#64)) ∧
      (∀ j ea, j < Claims.refill s.cx m → Claims.Refills s j mesh → ea = s.cx.bbptr + word j →
        (∀ tr, s.check s.cur.1 ea 1 1 [.r] false = .error tr → exec i s = s.raise s (trap cBitbuf ea)) ∧
        (∀ p, s.check s.cur.1 ea 1 1 [.r] false = .ok p →
          (∀ tr, Claims.Fails s ea p 1 (Claims.away s mesh 0 j) true tr → exec i s = s.raise s tr) ∧
          (Claims.Unsent s p (Claims.away s mesh 0 j) → Claims.BitSends s i (Claims.reads ea p.key 1)))) ∧
      (∀ k r, k = Claims.refill s.cx m → r = Claims.away s mesh 0 k → Claims.Refills s k mesh →
        ∃ v, Claims.Refilled s k mesh v ∧
        (m ≤ v.length → i = .bbget d n → Claims.BitStep s i d (some (word (Claims.bitsNat (v.take m)))) (v.drop m) 1
          (s.cx.bbptr + word k) r []) ∧
        (m ≤ v.length → i = .bbskip n → Claims.BitStep s i 0#5 none (v.drop m) 1 (s.cx.bbptr + word k) r []) ∧
        (v.length < m → i = .bbget d n ∨ i = .bbskip n → exec i s = s.raise s (trap cBitbuf s.cx.bbend)) ∧
        (i = .bbpeek d n → Claims.BitStep s i d
          (some (word (Claims.bitsNat (v.take m) * 2 ^ (m - v.length)))) v 1 (s.cx.bbptr + word k) r []) ∧
        (∀ ea, i = .bbdec d a kk →
          ea = s.x a + word (2 * (Claims.bitsNat (v.take m) * 2 ^ (m - v.length))) →
          (∀ tr, s.check s.cur.1 ea 2 2 [.r] false = .error tr → exec i s = s.raise s tr) ∧
          (∀ p, s.check s.cur.1 ea 2 2 [.r] false = .ok p →
            (∀ tr, Claims.Fails s ea p 2 r true tr → exec i s = s.raise s tr) ∧
            (Claims.Unsent s p r → Claims.BitSends s i (Claims.reads ea p.key 2)) ∧
            (Claims.Passes s ea p 2 r true → ∃ e len q,
              (ownLocal s.cur.1 p = true → q = r ∧ ∃ bs, Claims.MaySee s s.cur.1 s.cur.2 p.key 2 bs ∧ e = bytesNat bs) ∧
              (ownLocal s.cur.1 p = false → q = r + 1 ∧ (Claims.answered s r).map Answer.value = some e) ∧
              len = e % 32 ∧
              (len = 0 ∨ m < len → exec i s = s.raise s (trap cBitbuf ea)) ∧
              (0 < len → len ≤ m → v.length < len → exec i s = s.raise s (trap cBitbuf s.cx.bbend)) ∧
              (0 < len → len ≤ m → len ≤ v.length → Claims.BitStep s i d (some (word (e / 32))) (v.drop len) 1
                (s.cx.bbptr + word k) q []))))))

/-- BBEMIT appends the low n bits, checks and then writes every complete byte at BBPTR; the first byte that lies at BBEND
or fails a check raises BITBUF with its address, one of the own local memory that breaks a granule rule that rule's trap,
READ mode BITBUF with 0, and nothing is written. A byte that lies elsewhere is sent, and the instruction goes on with its
answer, or traps with its refusal. BBFLUSH and BBALIGN act by the mode, their byte as one of BBEMIT (R51, R56, R102, R198,
R200, Table 7-9; log 16). -/
def Sys2Proof.Claims.BitBufferWrites : Prop :=
  ∀ (s : State) (a n : BitVec 5) (mesh : Nat → Mesh), fld s.cx.bbcnt 0 7 ≤ 64 → s.cx.used = 0 →
    let ea (j : Nat) : BitVec 64 := s.cx.bbptr + word j
    let checked (j : Nat) : Prop := s.cx.bbptr.toNat + j < s.cx.bbend.toNat ∧
      s.check s.cur.1 (ea j) 1 1 [.w] false = .ok (mesh j) ∧
      (ownLocal s.cur.1 (mesh j) = true → Claims.Writable s (ea j) (mesh j).key 1)
    let writesByte (i : Instr) (k : Nat) (byte : Nat → List Bool) (bits : List Bool) : Prop :=
      (∀ j, j < k → (∀ h, h < j → checked h) →
        (s.cx.bbend.toNat ≤ s.cx.bbptr.toNat + j ∨ (s.cx.bbptr.toNat + j < s.cx.bbend.toNat ∧
            ∃ tr, s.check s.cur.1 (ea j) 1 1 [.w] false = .error tr) →
          exec i s = s.raise s (trap cBitbuf (ea j))) ∧
        (∀ p tr, s.cx.bbptr.toNat + j < s.cx.bbend.toNat → s.check s.cur.1 (ea j) 1 1 [.w] false = .ok p →
          ownLocal s.cur.1 p = true → s.granuleTrap s.cur.1 (ea j) (granulesOf p.key 1) true false = some tr →
          exec i s = s.raise s tr)) ∧
      ((∀ h, h < k → checked h) →
        (∀ j, j < k → (∀ h, h < j → Claims.Passes s (ea h) (mesh h) 1 (Claims.away s mesh 0 h) false) →
          (Claims.Unsent s (mesh j) (Claims.away s mesh 0 j) →
            Claims.BitSends s i (Claims.writes (ea j) (mesh j).key 1 (Claims.bitsNat (byte j)))) ∧
          (∀ tr, Claims.Fails s (ea j) (mesh j) 1 (Claims.away s mesh 0 j) false tr → exec i s = s.raise s tr)) ∧
        ((∀ h, h < k → Claims.Passes s (ea h) (mesh h) 1 (Claims.away s mesh 0 h) false) →
          Claims.BitStep s i 0#5 none bits 2 (s.cx.bbptr + word k) (Claims.away s mesh 0 k)
            (((List.range k).filter fun h => ownLocal s.cur.1 (mesh h)).map fun h => (mesh h).key) ∧
          ∀ t, exec i s = .next t → ∀ h, h < k → ownLocal s.cur.1 (mesh h) = true →
            Claims.byteBits (memGet t.mem (mesh h).key) = byte h))
    (∀ v, s.Issues (.bbemit a n) →
      v = Claims.validBits s.cx ++ (List.range (n.toNat + 1)).map (fun j => bitOf (s.x a) (n.toNat - j)) →
      (fld s.cx.bbcnt 7 2 = 1 → exec (.bbemit a n) s = s.raise s (trap cBitbuf 0#64)) ∧
      (fld s.cx.bbcnt 7 2 ≠ 1 → writesByte (.bbemit a n) (v.length / 8) (fun h => (v.drop (8 * h)).take 8)
        (v.drop (8 * (v.length / 8))))) ∧
    (∀ i mode, i = .bbflush ∨ i = .bbalign → mode = fld s.cx.bbcnt 7 2 → s.Issues i →
      (mode = 0 ∨ mode = 3 ∨ (mode = 2 ∧ fld s.cx.bbcnt 0 7 = 0) → exec i s = .next (s.bump 4)) ∧
      (mode = 1 → i = .bbflush → Claims.BitStep s i 0#5 none [] 0 (s.cx.bbptr - word (fld s.cx.bbcnt 0 7 / 8)) 0 []) ∧
      (mode = 1 → i = .bbalign → Claims.BitStep s i 0#5 none ((Claims.validBits s.cx).drop (fld s.cx.bbcnt 0 7 % 8)) 1
        s.cx.bbptr 0 []) ∧
      (mode = 2 → 0 < fld s.cx.bbcnt 0 7 → fld s.cx.bbcnt 0 7 < 8 →
        writesByte i 1 (fun _ => Claims.validBits s.cx ++ List.replicate (8 - fld s.cx.bbcnt 0 7) false) []))

/-- The bit buffer: refills, reads, codes and emission (R102, R198, R199, R200).
The model's own choices in it are logs 6, 9, 16 and 54. -/
def Obligations.TheBitBuffer : Prop :=
  Claims.BitBufferReads ∧ Claims.BitBufferWrites

-- Atomics, fences, acquire and release (08_isa_sync_async.md).

namespace Sys2Proof.Claims

/-- A number of n bytes in two's complement. -/
def signedOf (n v : Nat) : Int := if v < 2 ^ (8 * n - 1) then v else (v : Int) - 2 ^ (8 * n)

/-- Operands of an atomic: its address register, its bytes, AQ and RL, the new value for an old one, none where a
comparison fails, and what the destination receives (R204, Table 8-1). -/
def atomicForm (s : State) :
    Instr → Option (BitVec 5 × Nat × BitVec 1 × BitVec 1 × (Nat → Option Nat) × (Nat → Ctx → Ctx))
  | .amoswap d a b q l w _ => int d a b q l w fun _ v => some v
  | .amoadd d a b q l w _ => int d a b q l w fun old v => some ((old + v) % 256 ^ bytes w)
  | .amoand d a b q l w _ => int d a b q l w fun old v => some (old &&& v)
  | .amoor d a b q l w _ => int d a b q l w fun old v => some (old ||| v)
  | .amoxor d a b q l w _ => int d a b q l w fun old v => some (old ^^^ v)
  | .amomin d a b q l w _ => int d a b q l w fun old v =>
      some (if signedOf (bytes w) v < signedOf (bytes w) old then v else old)
  | .amomax d a b q l w _ => int d a b q l w fun old v =>
      some (if signedOf (bytes w) old < signedOf (bytes w) v then v else old)
  | .amominu d a b q l w _ => int d a b q l w fun old v => some (min old v)
  | .amomaxu d a b q l w _ => int d a b q l w fun old v => some (max old v)
  | .amocas d a b q l w _ => int d a b q l w fun old v => if old = (s.x d).toNat % 256 ^ bytes w then some v else none
  | .amocasQ d a b q l _ =>
    some (a, 16, q, l,
      fun old => if old = (s.x d).toNat + (s.x (d + 1#5)).toNat * 2 ^ 64
        then some ((s.x b).toNat + (s.x (b + 1#5)).toNat * 2 ^ 64) else none,
      fun old x => (x.setX d (word old)).setX (d + 1#5) (word (old / 2 ^ 64)))
  | .famoadd d a b q l w _ =>
    let f := if bytes w = 4 then fp32 else fp64
    some (a, bytes w, q, l,
      fun old => some (roundTo f false .rne (addNum false (f.decode old)
        (f.decode ((s.x b).toNat % 256 ^ bytes w))).v).code,
      fun old x => x.setX d (word old))
  | _ => none
where
  bytes (w : BitVec 1) : Nat := if w = 1#1 then 8 else 4
  int (d a b : BitVec 5) (q l w : BitVec 1) (f : Nat → Nat → Option Nat) :
      Option (BitVec 5 × Nat × BitVec 1 × BitVec 1 × (Nat → Option Nat) × (Nat → Ctx → Ctx)) :=
    some (a, bytes w, q, l, fun old => f old ((s.x b).toNat % 256 ^ bytes w),
      fun old x => x.setX d (wrap (signedOf (bytes w) old)))

/-- The observer index of an atomic (R91). -/
def obsField : Instr → Option (BitVec 3)
  | .amoswap _ _ _ _ _ _ o | .amoadd _ _ _ _ _ _ o | .amoand _ _ _ _ _ _ o | .amoor _ _ _ _ _ _ o
  | .amoxor _ _ _ _ _ _ o | .amomin _ _ _ _ _ _ o | .amomax _ _ _ _ _ _ o | .amominu _ _ _ _ _ _ o
  | .amomaxu _ _ _ _ _ _ o | .amocas _ _ _ _ _ _ o | .amocasQ _ _ _ _ _ o | .famoadd _ _ _ _ _ _ o => some o
  | _ => none

/-- Of a context, besides what an access changes, the registers that its instruction names may differ. -/
def OnlyNamed (i : Instr) (x y : Ctx) : Prop :=
  { y with x := x.x, present := x.present, pc := x.pc, wait := x.wait, rdsplit := x.rdsplit, ports := x.ports } = x ∧
    (∀ r : BitVec 5, Reg.x r.toNat ∉ i.uses.wr → y.xr r = x.xr r) ∧
    y.ports.map (fun p => { p with fifo := [] }) = x.ports.map (fun p => { p with fifo := [] })

end Sys2Proof.Claims

/-- An atomic in the own local memory reads the value at its address and writes the new one as one access: the destination
receives the old value, .W sign-extended, FAMOADD zero-extended and without flags; a CAS whose comparison fails writes
nothing. AQ ends the region before it, RL ends it after it, and a check or granule rule that fails traps before any effect
(R100, R204, R51, R56, Table 8-1). -/
def Sys2Proof.Claims.AtomicsReadAndWriteAtOnce : Prop :=
  ∀ (s : State) (i : Instr) (a : BitVec 5) (n : Nat) (q l : BitVec 1) (new : Nat → Option Nat) (put : Nat → Ctx → Ctx),
    Claims.atomicForm s i = some (a, n, q, l, new, put) → s.Issues i →
    (∀ tr, s.check s.cur.1 (s.x a) n n [.r, .w] false = .error tr → exec i s = s.raise s tr) ∧
    (∀ m old, s.check s.cur.1 (s.x a) n n [.r, .w] false = .ok m → ownLocal s.cur.1 m = true →
      old = Claims.numAt s m.key n →
      (∀ tr, s.granuleTrap s.cur.1 (s.x a) (granulesOf m.key n) (new old).isSome true = some tr →
        exec i s = s.raise s tr) ∧
      (s.granuleTrap s.cur.1 (s.x a) (granulesOf m.key n) (new old).isSome true = none → s.eccWord m.key n = none →
        ∃ t : State, exec i s = .next t ∧ t.cx.pc = s.cx.pc + 4#64 ∧ t.cx.x = (put old s.cx).x ∧
          t.cx.present = (put old s.cx).present ∧ SameBytesBut s t m.key n ∧
          (∀ j, j < n → (memGet t.mem (m.key + j)).toNat = (new old).getD old / 256 ^ j % 256) ∧
          Claims.OnlyAccess s t (Claims.OnlyNamed i) ∧
          (q = 1#1 → ∀ r ∈ t.races, r.core = s.cur.1 → r.ctx = s.cur.2 → r.granule ∈ granulesOf m.key n ∧
          r.sync = true) ∧
          (l = 1#1 → q = 0#1 → ∀ r ∈ t.races, ¬ (r.core = s.cur.1 ∧ r.ctx = s.cur.2)) ∧
          (∀ r ∈ s.races, r.core ≠ s.cur.1 ∨ r.ctx ≠ s.cur.2 → r ∈ t.races)))

/-- FENCE ends the region of its context, and with a nonzero mask discards what its ports prefetched; LDAQ reads as a
sign-extended load at the start of a new region; STRL writes the low bytes as the last access of its region, both in the
own local memory (R96, R105, R205, R206). -/
def Sys2Proof.Claims.FencesAndAcquireRelease : Prop :=
  ∀ (s : State) (d a b : BitVec 5) (z : BitVec 2) (x : BitVec 3) (m : BitVec 8),
    (s.Issues (.fence m) → ∃ t : State, exec (.fence m) s = .next t ∧ t.cx.pc = s.cx.pc + 4#64 ∧
      t.races = s.races.filter (fun r => !(r.core == s.cur.1 && r.ctx == s.cur.2)) ∧ t.mem = s.mem ∧
      Claims.OnlyAccess s t (Claims.OnlyNamed (.fence m)) ∧
      (∀ p ∈ t.cx.ports.toList, m ≠ 0#8 → s.inHelper = false → p.fifo = []) ∧
      (m = 0#8 → t.cx.ports = s.cx.ports)) ∧
    (s.Issues (.ldaq d a z x) →
      (∀ tr, s.check s.cur.1 (s.x a) (2 ^ z.toNat) (2 ^ z.toNat) [.r] false = .error tr →
        exec (.ldaq d a z x) s = s.raise s tr) ∧
      (∀ p, s.check s.cur.1 (s.x a) (2 ^ z.toNat) (2 ^ z.toNat) [.r] false = .ok p → ownLocal s.cur.1 p = true →
        (∀ tr, s.granuleTrap s.cur.1 (s.x a) (granulesOf p.key (2 ^ z.toNat)) false true = some tr →
          exec (.ldaq d a z x) s = s.raise s tr) ∧
        (s.granuleTrap s.cur.1 (s.x a) (granulesOf p.key (2 ^ z.toNat)) false true = none →
          s.eccWord p.key (2 ^ z.toNat) = none →
          ∃ t : State, exec (.ldaq d a z x) s = .next t ∧ t.cx.pc = s.cx.pc + 4#64 ∧ t.mem = s.mem ∧
            t.cx.x = (s.cx.setX d (Claims.wrap (Claims.signedOf (2 ^ z.toNat) (Claims.numAt s p.key (2 ^ z.toNat))))).x ∧
            Claims.OnlyAccess s t (Claims.OnlyNamed (.ldaq d a z x)) ∧
            (∀ r ∈ t.races, r.core = s.cur.1 → r.ctx = s.cur.2 → r.granule ∈ granulesOf p.key (2 ^ z.toNat) ∧
            r.sync = true)))) ∧
    (s.Issues (.strl a b z x) →
      (∀ tr, s.check s.cur.1 (s.x a) (2 ^ z.toNat) (2 ^ z.toNat) [.w] false = .error tr →
        exec (.strl a b z x) s = s.raise s tr) ∧
      (∀ p, s.check s.cur.1 (s.x a) (2 ^ z.toNat) (2 ^ z.toNat) [.w] false = .ok p → ownLocal s.cur.1 p = true →
        (∀ tr, s.granuleTrap s.cur.1 (s.x a) (granulesOf p.key (2 ^ z.toNat)) true true = some tr →
          exec (.strl a b z x) s = s.raise s tr) ∧
        (s.granuleTrap s.cur.1 (s.x a) (granulesOf p.key (2 ^ z.toNat)) true true = none →
          ∃ t : State, exec (.strl a b z x) s = .next t ∧ t.cx.pc = s.cx.pc + 4#64 ∧ t.cx.x = s.cx.x ∧
            SameBytesBut s t p.key (2 ^ z.toNat) ∧
            (∀ j, j < 2 ^ z.toNat → (memGet t.mem (p.key + j)).toNat = (s.x b).toNat / 256 ^ j % 256) ∧
            Claims.OnlyAccess s t (Claims.OnlyNamed (.strl a b z x)) ∧
            (∀ r ∈ t.races, ¬ (r.core = s.cur.1 ∧ r.ctx = s.cur.2)))))

namespace Sys2Proof.Claims

/-- Core b is a core observer of a mask of core a: one of those of its highest core bit (R92, Table 4-4). -/
def Observes (mask : BitVec 8) (a b : Nat) : Prop :=
  if mask.getLsbD 3 then True else if mask.getLsbD 2 then a / 4096 = b / 4096 else if mask.getLsbD 1 then a / 16 = b / 16
  else if mask.getLsbD 0 then a / 4 = b / 4 else False

/-- The on-chip bytes from a key on lie in the reach of a mask of core a: of one of its bits (Table 4-4). -/
def Reaches (mask : BitVec 8) (a key : Nat) : Prop :=
  (mask.getLsbD 3 = true ∨ mask.getLsbD 4 = true ∨ mask.getLsbD 5 = true) ∨
  (mask.getLsbD 2 = true ∧ (meshOfKey key).cluster / 256 = a / 4096) ∨
  (mask.getLsbD 1 = true ∧ (meshOfKey key).cluster = a / 16) ∨
  (mask.getLsbD 0 = true ∧ (meshOfKey key).cluster = a / 16 ∧ 1 ≤ (meshOfKey key).unit ∧ (meshOfKey key).unit ≤ 16 ∧
    ((meshOfKey key).unit - 1) / 4 = a % 16 / 4)

/-- A context reads, with a mask, a release of a location in [k, k + n), each core an observer of the other's mask: the
two synchronise (R93). -/
def Synchronises (e : OldWrite) (c k n : Nat) (mask : BitVec 8) : Prop :=
  ∃ a m o w, Knows.cell a m o w ∈ e.known ∧ a < k + n ∧ k < a + m ∧ Observes w o c ∧ Observes mask c o

/-- Of the writes that some read need not see, each as before but for who knows of it, which the relation says. -/
def Learn (olds news : List OldWrite) (r : OldWrite → Knows → Prop) : Prop :=
  news.length = olds.length ∧ ∀ i (h : i < olds.length) (h' : i < news.length),
    news[i].key = olds[i].key ∧ news[i].old = olds[i].old ∧ news[i].writer = olds[i].writer ∧
      ∀ q, q ∈ news[i].known ↔ r olds[i] q

/-- What a release or a nonzero FENCE of a context with a mask adds, for a write that it knows: to what it leaves at its
place, where the mask reaches the write; and with COPY or MAT in the mask to the context's later forks (R91, R94). -/
def Released (c k : Nat) (mask : BitVec 8) (left : Knows) (key : Nat) (q : Knows) : Prop :=
  (q = left ∧ Reaches mask c key) ∨ (q = .copied c k ∧ mask.getLsbD 4 = true) ∨ (q = .given c k ∧ mask.getLsbD 5 = true)

end Sys2Proof.Claims

/-- What observer masks do: an STRL leaves, at its location, the writes that its context knows and its mask reaches to
those who synchronise with it; an LDAQ makes known to its context what the releases hold that it synchronises with; a
FENCE with a nonzero mask hands on what its mask reaches; with COPY or MAT in the mask a later fork carries it. With mask
0x01 a core of another quad learns nothing. In the own local memory. Who knows which write is how the model keeps the
orders of R92 to R97 (R91 to R96; logs 6 and 84). -/
def Sys2Proof.Claims.MasksSayWhatIsKnown : Prop :=
  ∀ (s t : State) (d a b : BitVec 5) (z : BitVec 2) (x : BitVec 3) (p : Mesh) (n : Nat) (mask m : BitVec 8),
    n = 2 ^ z.toNat → mask = BitVec.ofNat 8 (fld s.cx.obs (8 * x.toNat) 8) → ownLocal s.cur.1 p = true →
    (s.Issues (.strl a b z x) → s.check s.cur.1 (s.x a) n n [.w] false = .ok p →
      s.granuleTrap s.cur.1 (s.x a) (granulesOf p.key n) true true = none → exec (.strl a b z x) s = .next t →
      ∃ e rest, t.olds = e :: rest ∧ e.key = p.key ∧ e.old = Claims.bytesAt s p.key n ∧
        (∀ q, q ∈ e.known ↔ q = .thread s.cur.1 s.cur.2 ∨
          Claims.Released s.cur.1 s.cur.2 mask (.cell p.key n s.cur.1 mask) p.key q) ∧
        Claims.Learn s.olds rest fun e q =>
          (q ∈ e.known ∧ ∀ k l o w, q = .cell k l o w → ¬ (k < p.key + n ∧ p.key < k + l)) ∨
          (Knows.thread s.cur.1 s.cur.2 ∈ e.known ∧
            Claims.Released s.cur.1 s.cur.2 mask (.cell p.key n s.cur.1 mask) e.key q)) ∧
    (s.Issues (.ldaq d a z x) → s.check s.cur.1 (s.x a) n n [.r] false = .ok p →
      s.granuleTrap s.cur.1 (s.x a) (granulesOf p.key n) false true = none → s.eccWord p.key n = none →
      exec (.ldaq d a z x) s = .next t →
      Claims.Learn s.olds t.olds fun e q =>
        q ∈ e.known ∨ (q = .thread s.cur.1 s.cur.2 ∧ Claims.Synchronises e s.cur.1 p.key n mask)) ∧
    (m ≠ 0#8 → s.Issues (.fence m) → exec (.fence m) s = .next t →
      Claims.Learn s.olds t.olds fun e q =>
        let known := Knows.thread s.cur.1 s.cur.2 ∈ e.known ∨
          ∃ o w, Knows.heard s.cur.1 s.cur.2 o w ∈ e.known ∧ Claims.Observes m s.cur.1 o
        q ∈ e.known ∨ (q = .thread s.cur.1 s.cur.2 ∧ known) ∨
          (known ∧ Claims.Released s.cur.1 s.cur.2 m (.fence s.cur.1 s.cur.2 m) e.key q))

/-- An atomic, LDAQ or STRL to another place than the own local memory enters the window with its operands and its mask,
its packet sets out for the agent that answers there, and no byte changes until its target performs it; its answer will go
to the registers that the instruction names; it waits while the injection queue has no room (R88, R91, R102, R204, R206,
R373). -/
def Sys2Proof.Claims.RemoteSynchronisation : Prop :=
  ∀ (s : State) (i : Instr) (a : BitVec 5) (n : Nat) (acc : Access) (m : Mesh) (rights : List Right)
    (put : Nat → Ctx → Ctx),
    s.Issues i → s.check s.cur.1 (s.x a) n n rights false = .ok m → ownLocal s.cur.1 m = false →
    ((∃ q l new, Claims.atomicForm s i = some (a, n, q, l, new, put) ∧ rights = [.r, .w] ∧
        (∃ op b cmp,
          acc = Access.mk (s.x a) m.key n (Act.amo op b cmp (q == 1#1) (l == 1#1)) acc.mask ∧
          ∀ old, old < 256 ^ n → amoNew op n old b cmp = new old) ∧
        ∃ o : BitVec 3, acc.mask = BitVec.ofNat 8 (fld s.cx.obs (8 * o.toNat) 8) ∧ Claims.obsField i = some o) ∨
      (∃ d z x, i = .ldaq d a z x ∧ n = 2 ^ z.toNat ∧ rights = [.r] ∧
        (put = fun v y => y.setX d (Claims.wrap (Claims.signedOf n v))) ∧ acc =
        { ea := s.x a, key := m.key, size := n, act := .read true, mask := BitVec.ofNat 8 (fld s.cx.obs (8 * x.toNat) 8) }) ∨
      (∃ b z x, i = .strl a b z x ∧ n = 2 ^ z.toNat ∧ rights = [.w] ∧ (put = fun _ y => y) ∧ acc =
        { ea := s.x a, key := m.key, size := n, act := .write (natBytes n (s.x b).toNat) true,
          mask := BitVec.ofNat 8 (fld s.cx.obs (8 * x.toNat) 8) })) →
      (s.roomFor s.cur.1 acc = false → exec i s = .next s) ∧
      (s.roomFor s.cur.1 acc = true → ∃ (t : State) (p : Pending) (q : Packet), exec i s = .next t ∧
        t.cx.pending = [p] ∧ p.acc = acc ∧ p.pc0 = s.cx.pc ∧ p.x0 = s.cx.x ∧ p.performed = false ∧ p.acked = false ∧
        (∀ v y, v < 256 ^ n → (y.deliver acc p.dest v).x = (put v y).x ∧ (y.deliver acc p.dest v).present = (put v y).present) ∧
        t.net = s.net ++ [q] ∧ q.cls = .request ∧ q.src = s.cur.1 / 16 ∧ q.dst = (meshOfKey m.key).cluster ∧
        q.body = .access s.cur.1 s.cur.2 p.id (answerer (meshOfKey m.key)) acc.sent ∧ t.cx.pc = s.cx.pc + 4#64 ∧
        t.cx.x = s.cx.x ∧ SameBytes s t)

/-- The atomic instructions, the fences and the acquire and release accesses, with their observer masks (R51, R56, R91,
R92, R93, R96, R100, R105, R204, R205, R206). The model's own choices in it are logs 6, 9 and 84. -/
def Obligations.AtomicsAndFences : Prop :=
  Claims.AtomicsReadAndWriteAtOnce ∧ Claims.FencesAndAcquireRelease ∧ Claims.MasksSayWhatIsKnown ∧
    Claims.RemoteSynchronisation

-- Hardware barriers and transfer barriers (08_isa_sync_async.md).

namespace Sys2Proof.Claims

/-- Bits of BARCFG.PART, of the open phase's participant set, and of ARR, and the count of completed phases of a core. -/
def partBit (s : State) (c net : Nat) : Bool := bitOf (s.core c).barcfg net
def inPhase (s : State) (c net : Nat) : Bool := (s.core c).barPart.toNat.testBit net
def arrived (s : State) (c net : Nat) : Bool := (s.core c).barArr.toNat.testBit net
def phaseOf (s : State) (c net : Nat) : Nat := (s.core c).barPhase.get (Fin.ofNat 7 net)

/-- Every other participant of the core's group has arrived, and no other module has a part in the network. -/
def LastToArrive (s : State) (net : Nat) : Prop :=
  (∀ d ∈ s.group s.cur.1 net, d ≠ s.cur.1 → inPhase s d net = true → arrived s d net = true) ∧
    ¬ (net = 6 ∧ s.podPeers s.cur.1 = true)

/-- The phase has completed: ARR cleared and PH toggled on every participant, and the next participant set formed from
BARCFG; other networks and cores outside the group as before (R209). -/
def Completed (s t : State) (net : Nat) : Prop :=
  (∀ c ∈ s.group s.cur.1 net,
    (inPhase s c net = true → phaseOf t c net = phaseOf s c net + 1 ∧ arrived t c net = false) ∧
    (inPhase s c net = false → phaseOf t c net = phaseOf s c net ∧ arrived t c net = arrived s c net) ∧
    inPhase t c net = partBit s c net) ∧
  (∀ c, c ∉ s.group s.cur.1 net → c ≠ s.cur.1 → t.core c = s.core c) ∧
  (∀ c j, j < 7 → j ≠ net → phaseOf t c j = phaseOf s c j ∧ arrived t c j = arrived s c j ∧
  inPhase t c j = inPhase s c j)

/-- The core has arrived and the phase is open still. -/
def OpenStill (s t : State) (net : Nat) : Prop :=
  arrived t s.cur.1 net = true ∧ phaseOf t s.cur.1 net = phaseOf s s.cur.1 net ∧ (∀ c, c ≠ s.cur.1 →
  t.core c = s.core c)

/-- The registers and the memory are as before and the region has ended. -/
def RegionOnly (s t : State) : Prop :=
  t.cx.x = s.cx.x ∧ t.cx.present = s.cx.present ∧ t.cx.f = s.cx.f ∧ t.cx.fcsr = s.cx.fcsr ∧ t.mem = s.mem ∧
    t.races = s.races.filter fun r => !(r.core == s.cur.1 && r.ctx == s.cur.2)

end Sys2Proof.Claims

/-- BAR, BARARR and BARWAIT: a core outside the open phase raises PROT; the last arrival completes the phase, BAR and
BARARR going on; an earlier one leaves BAR waiting for the phase and BARARR going on; with the arrival already made BAR
and BARWAIT wait without arriving again and BARARR waits for the open phase; without one BARWAIT goes on; and a wait whose
phase has completed ends (R207 to R209). The model's own choice in it is log 18. -/
def Obligations.HardwareBarriers : Prop :=
  ∀ (s : State) (n : BitVec 4) (net : Nat), net = n.toNat → net < 7 → s.cur.1 ∈ s.group s.cur.1 net →
    (s.group s.cur.1 net).Nodup →
    (s.barWaitOn net = none → Claims.inPhase s s.cur.1 net = false → ∀ i ∈ [Instr.bar n, .bararr n, .barwait n],
      s.Issues i → exec i s = s.raise s (trap cProt (word net))) ∧
    (s.barWaitOn net = none → Claims.inPhase s s.cur.1 net = true → Claims.arrived s s.cur.1 net = false →
      (s.Issues (.bararr n) → ∃ t : State, exec (.bararr n) s = .next t ∧ t.cx.pc = s.cx.pc + 4#64 ∧
      Claims.RegionOnly s t ∧
        (Claims.LastToArrive s net → Claims.Completed s t net) ∧ (¬ Claims.LastToArrive s net →
        Claims.OpenStill s t net)) ∧
      (s.Issues (.bar n) → ∃ t : State, exec (.bar n) s = .next t ∧ Claims.RegionOnly s t ∧
        (Claims.LastToArrive s net → Claims.Completed s t net ∧ t.cx.pc = s.cx.pc + 4#64) ∧
        (¬ Claims.LastToArrive s net → Claims.OpenStill s t net ∧ t.cx.pc = s.cx.pc ∧
          ∃ w, t.cx.wait = some w ∧ w.kind = .barrier net (Claims.phaseOf s s.cur.1 net) ∧ w.tval = word net)) ∧
      (s.Issues (.barwait n) → ∃ t : State, exec (.barwait n) s = .next t ∧ t.cx.pc = s.cx.pc + 4#64 ∧
      Claims.RegionOnly s t)) ∧
    (s.barWaitOn net = none → Claims.inPhase s s.cur.1 net = true → Claims.arrived s s.cur.1 net = true →
      ∀ i ∈ [Instr.bar n, .bararr n, .barwait n], s.Issues i → ∃ t : State, ∃ w, exec i s = .next t ∧
      t.cx = { s.cx with wait := some w } ∧
        w.kind = .barrier net (Claims.phaseOf s s.cur.1 net) ∧ t.mem = s.mem ∧ t.races = s.races) ∧
    (∀ ph, s.barWaitOn net = some ph → ph < Claims.phaseOf s s.cur.1 net → ∀ i ∈ [Instr.bar n, .barwait n], s.Issues i →
      ∃ t : State, exec i s = .next t ∧ t.cx.pc = s.cx.pc + 4#64 ∧ t.cx.wait = none ∧ Claims.RegionOnly s t)

namespace Sys2Proof.Claims

/-- A status word by its fields (Table 8-4): bits 63 to 60, OWNER, AREM, AEXP and PEND. -/
def TbFields (w : BitVec 64) (live err ovr ph : Bool) (owner arem aexp pend : Nat) : Prop :=
  bitOf w 63 = live ∧ bitOf w 62 = err ∧ bitOf w 61 = ovr ∧ bitOf w 60 = ph ∧ fld w 56 4 = owner ∧ fld w 44 12 = arem ∧
    fld w 32 12 = aexp ∧ fld w 0 32 = pend

/-- PEND as a signed number. -/
def pendOf (w : BitVec 64) : Int := if fld w 0 32 < 2 ^ 31 then fld w 0 32 else (fld w 0 32 : Int) - 2 ^ 32

/-- The barrier has flipped in its phase: nothing remains (R210, R212; log 10). -/
def doneOf (w : BitVec 64) : Prop := fld w 44 12 = 0 ∧ pendOf w ≤ 0

/-- An action word names a core of the partition, and for KIND 3 an address of the launch's code image (R214). -/
def ActionFits (s : State) (w : BitVec 64) : Prop :=
  let l := (s.partOfCore s.cur.1).launch
  let pc : Nat := (l.entry.toNat + 2 * fld w 20 26) % 2 ^ 64
  fld w 46 16 < (s.shape s.cur.1).cores ∧
    (fld w 62 2 = 3 → l.codebase.toNat ≤ pc ∧ pc < l.codebase.toNat + l.codelen)

/-- The context in hand goes on, and its own registers but d, its flags and the bytes outside [key, key + n) are as
before. -/
def TbStep (s t : State) (d : BitVec 5) (key n : Nat) : Prop :=
  t.cx.pc = s.cx.pc + 4#64 ∧ (∀ r, r ≠ d → t.cx.xr r = s.cx.xr r) ∧ t.cx.fcsr = s.cx.fcsr ∧ t.cx.f = s.cx.f ∧
    t.cx.v = s.cx.v ∧ SameBytesBut s t key n

end Sys2Proof.Claims

/-- The transfer-barrier instructions at a live barrier, and TBINIT at a granule that may become one: each completes, with
the status word and the action word that it leaves and the flip that the last arrival makes, but that TBWAIT and TBRETIRE
wait for DONE and that the checks of R211 and R214 trap (R210 to R214, Table 8-5). The model's own choices in it are log 10
and, for a barrier in another cluster, whose word changes in the same step, log 9. -/
def Obligations.TransferBarriers : Prop :=
  ∀ (s : State) (d a b c : BitVec 5) (m : Mesh) (w : BitVec 64), w = s.tbWord m.key →
    s.check s.cur.1 (s.x a) 16 16 [.r, .w] false = .ok m →
    (s.Issues (.tbinit a b c) → s.cur ∉ s.tbWaiters m.key →
      (m.cluster ≠ clusterOf s.cur.1 → exec (.tbinit a b c) s = s.raise s (trap cProt (s.x a))) ∧
      (m.cluster = clusterOf s.cur.1 → ∀ tr, s.granuleTrap s.cur.1 (s.x a) [granuleOf m.key] true false = some tr →
        exec (.tbinit a b c) s = s.raise s tr) ∧
      (m.cluster = clusterOf s.cur.1 → s.granuleTrap s.cur.1 (s.x a) [granuleOf m.key] true false = none →
        (2 ^ 31 ≤ (s.x b).toNat → exec (.tbinit a b c) s = s.raise s (trap cAddr (s.x b))) ∧
        ((s.x b).toNat < 2 ^ 31 → 4096 ≤ (s.x c).toNat → exec (.tbinit a b c) s = s.raise s (trap cAddr (s.x c))) ∧
        ((s.x b).toNat < 2 ^ 31 → (s.x c).toNat < 4096 → ∃ t : State, exec (.tbinit a b c) s = .next t ∧
          Claims.TbStep s t 0#5 m.key 16 ∧ t.live = granuleOf m.key :: s.live ∧ t.tbAction m.key = 0#64 ∧
          Claims.TbFields (t.tbWord m.key) true false false (decide ((s.x b).toNat = 0 ∧ (s.x c).toNat = 0))
            (s.cur.1 % 16) (s.x c).toNat (s.x c).toNat (s.x b).toNat))) ∧
    (s.isLive m.key = false → ∀ i ∈ [Instr.tbexp a b c, .tbarr a, .tbwait d a, .tbtest d a, .tbact a b, .tbretire a],
      s.Issues i → exec i s = s.raise s (trap cBarrierWord (s.x a))) ∧
    (s.isLive m.key = true →
      (s.Issues (.tbarr a) → s.cur ∉ s.tbWaiters m.key →
        (1 < fld w 44 12 ∨ (fld w 44 12 = 1 ∧ 0 < Claims.pendOf w) → ∃ t : State, exec (.tbarr a) s = .next t ∧
          Claims.TbStep s t 0#5 m.key 8 ∧ t.live = s.live ∧
          Claims.TbFields (t.tbWord m.key) (bitOf w 63) (bitOf w 62) (bitOf w 61) (bitOf w 60) (fld w 56 4)
            (fld w 44 12 - 1) (fld w 32 12) (fld w 0 32)) ∧
        (fld w 44 12 = 1 → Claims.pendOf w ≤ 0 → ∃ t : State, exec (.tbarr a) s = .next t ∧
        Claims.TbStep s t 0#5 m.key 8 ∧
          Claims.TbFields (t.tbWord m.key) (bitOf w 63) (bitOf w 62) (bitOf w 61) (!bitOf w 60) (fld w 56 4)
            0 (fld w 32 12) (fld w 0 32) ∧
          (∀ e k r x, (e, k) ∈ s.tbWaiters m.key → (s.ctxAt e k).wait = some x → x.kind = .transfer m.key (some r) →
            (t.ctxAt e k).wait = none ∧ (t.ctxAt e k).pc = (s.ctxAt e k).pc + 4#64 ∧
            (t.ctxAt e k).x = ((s.ctxAt e k).setX r (t.tbWord m.key)).x)) ∧
        (fld w 44 12 = 0 → ∃ t : State, exec (.tbarr a) s = .next t ∧ Claims.TbStep s t 0#5 m.key 8 ∧
          Claims.TbFields (t.tbWord m.key) (bitOf w 63) (bitOf w 62) true (bitOf w 60) (fld w 56 4) 0 (fld w 32 12)
            (fld w 0 32))) ∧
      (s.Issues (.tbexp a b c) → 2 ^ 31 ≤ (s.x b).toNat → exec (.tbexp a b c) s = s.raise s (trap cAddr (s.x b))) ∧
      (s.Issues (.tbexp a b c) → (s.x b).toNat < 2 ^ 31 → Claims.doneOf w ∨ Claims.pendOf w + (s.x b).toNat < 2 ^ 31 →
        4096 ≤ (s.x c).toNat → exec (.tbexp a b c) s = s.raise s (trap cAddr (s.x c))) ∧
      (s.Issues (.tbexp a b c) → s.cur ∉ s.tbWaiters m.key → (s.x b).toNat < 2 ^ 31 → (s.x c).toNat < 4096 →
        (¬ Claims.doneOf w → 2 ^ 31 ≤ Claims.pendOf w + (s.x b).toNat →
          exec (.tbexp a b c) s = s.raise s (trap cAddr (s.x b))) ∧
        (¬ Claims.doneOf w → Claims.pendOf w + (s.x b).toNat < 2 ^ 31 → 4096 ≤ fld w 44 12 + (s.x c).toNat →
          exec (.tbexp a b c) s = s.raise s (trap cAddr (s.x c))) ∧
        (¬ Claims.doneOf w → Claims.pendOf w + (s.x b).toNat < 2 ^ 31 → fld w 44 12 + (s.x c).toNat < 4096 →
          ∃ t : State, exec (.tbexp a b c) s = .next t ∧ Claims.TbStep s t 0#5 m.key 8 ∧
            Claims.TbFields (t.tbWord m.key) (bitOf w 63) (bitOf w 62) (bitOf w 61) (bitOf w 60) (fld w 56 4)
              (fld w 44 12 + (s.x c).toNat) ((fld w 32 12 + (s.x c).toNat) % 4096) ((fld w 0 32 + (s.x b).toNat) % 2 ^ 32)) ∧
        (Claims.doneOf w → ∃ t : State, exec (.tbexp a b c) s = .next t ∧ Claims.TbStep s t 0#5 m.key 8 ∧
          Claims.TbFields (t.tbWord m.key) (bitOf w 63) false false
            (bitOf w 60 != decide ((s.x b).toNat = 0 ∧ (s.x c).toNat = 0)) (fld w 56 4)
            (s.x c).toNat (s.x c).toNat (s.x b).toNat)) ∧
      (s.Issues (.tbwait d a) →
        (Claims.doneOf w → ∃ t : State, exec (.tbwait d a) s = .next t ∧ Claims.TbStep s t d m.key 0 ∧
          t.cx.x = (s.cx.setX d w).x ∧ (∀ r ∈ t.races, ¬ (r.core = s.cur.1 ∧ r.ctx = s.cur.2))) ∧
        (¬ Claims.doneOf w → exec (.tbwait d a) s = .next (s.await (.transfer m.key (some d)) (s.x a)))) ∧
      (s.Issues (.tbtest d a) → ∃ t : State, exec (.tbtest d a) s = .next t ∧ Claims.TbStep s t d m.key 0 ∧
        t.cx.x = (s.cx.setX d w).x) ∧
      (s.Issues (.tbact a b) →
        (¬ Claims.ActionFits s (s.x b) → exec (.tbact a b) s = s.raise s (trap cAddr (s.x b))) ∧
        (Claims.ActionFits s (s.x b) → ∃ t : State, exec (.tbact a b) s = .next t ∧ Claims.TbStep s t 0#5 (m.key + 8) 8 ∧
          t.tbAction m.key = s.x b)) ∧
      (s.Issues (.tbretire a) →
        (Claims.doneOf w → ∃ t : State, exec (.tbretire a) s = .next t ∧ Claims.TbStep s t 0#5 m.key 8 ∧
          granuleOf m.key ∉ t.live ∧ (∀ g, g ≠ granuleOf m.key → (g ∈ t.live ↔ g ∈ s.live)) ∧
          bitOf (t.tbWord m.key) 63 = false) ∧
        (¬ Claims.doneOf w → exec (.tbretire a) s = .next (s.await (.transfer m.key none) (s.x a)))))

-- Presence, messages, helpers, the deque and slot rings (08_isa_sync_async.md).

namespace Sys2Proof.Claims

/-- The packets of a state are those of another and one more, which carries this body from cluster to cluster. -/
def Sent (s t : State) (src dst agent : Nat) (cls : MsgClass) (body : PktBody) : Prop :=
  ∃ p : Packet, t.net = s.net ++ [p] ∧ p.id = s.nextId ∧ t.nextId = s.nextId + 1 ∧ p.body = body ∧ p.cls = cls ∧
    p.src = src ∧ p.dst = dst ∧ p.agent = agent ∧ p.pid = s.pidAt src ∧
    p.place = (if src = dst then .eject dst else .inject src)

/-- The context goes on after its instruction: only x register d with its presence bit, the PC, the wait, race records
with their count and prefetched elements differ in it, and no byte of memory does. -/
def GoesOn (s t : State) (d : BitVec 5) : Prop :=
  t.cx.pc = s.cx.pc + 4#64 ∧ t.cx.wait = none ∧ t.mem = s.mem ∧ (∀ r, r ≠ d → t.cx.xr r = s.cx.xr r) ∧
    { t.cx with x := s.cx.x, present := s.cx.present, pc := s.cx.pc, wait := s.cx.wait, rdsplit := s.cx.rdsplit,
                ports := s.cx.ports } = s.cx

/-- The context has no race record left: the region has ended (R100). -/
def Ended (s t : State) : Prop := ∀ r ∈ t.races, ¬ (r.core = s.cur.1 ∧ r.ctx = s.cur.2)

/-- The whole of a packet stands at its target, in turn where it is ordered (R379, R381). -/
def AtTarget (s : State) (id : Nat) (p : Packet) : Prop :=
  p ∈ s.net ∧ p.id = id ∧ p.home = true ∧ p.ready ≤ s.now ∧
    (p.ordered = true → ∀ q ∈ s.net, q.ordered = true → q.src = p.src → q.agent = p.agent → q.dst = p.dst →
      p.id ≤ q.id) ∧ ∀ q ∈ s.net, q.id = id → q = p

end Sys2Proof.Claims

/-- SENDR sends a value to a register of another core's control context and ends the region, or waits while its injection
queue is full; on arrival the value is written, its presence bit set and the context woken, unless the context has
finished or the partition has changed; PCLR clears a presence bit and PTEST reads one (R216, R217, R341, R380). -/
def Sys2Proof.Claims.PresenceAndSendr : Prop :=
  (∀ (s : State) (a b n d : BitVec 5), s.Issues (.sendr a b n) →
    ((s.shape s.cur.1).coreOf (s.x a).toNat = none → exec (.sendr a b n) s = s.raise s (trap cAddr (s.x a))) ∧
    (∀ c, (s.shape s.cur.1).coreOf (s.x a).toNat = some c →
      (s.canInject (s.cur.1 / 16) (c / 16) (s.cur.1 % 16) .request = false → exec (.sendr a b n) s = .next s) ∧
      (s.canInject (s.cur.1 / 16) (c / 16) (s.cur.1 % 16) .request = true →
      ∃ t : State, exec (.sendr a b n) s = .next t ∧
        Claims.GoesOn s t d ∧ t.cx.x = s.cx.x ∧ Claims.Ended s t ∧
        Claims.Sent s t (s.cur.1 / 16) (c / 16) (s.cur.1 % 16) .request (.sendr c n (s.x b))))) ∧
  (∀ (s : State) (id c : Nat) (r : BitVec 5) (v : BitVec 64) (p : Packet), Claims.AtTarget s id p →
  p.body = .sendr c r v →
    ∃ t : State, exec (.sendrArrive id) s = .next t ∧ t.net = s.net.filter (fun q => q.id != id) ∧ t.mem = s.mem ∧
      (p.pid = s.pidAt p.dst → (s.ctxAt c 0).finished = false →
        (t.ctxAt c 0).x = ((s.ctxAt c 0).setX r v).x ∧ (t.ctxAt c 0).present = ((s.ctxAt c 0).setX r v).present ∧
        (t.ctxAt c 0).wake = true ∧ (t.ctxAt c 0).pc = (s.ctxAt c 0).pc ∧ (∀ e, e ≠ c → t.core e = s.core e)) ∧
      (p.pid ≠ s.pidAt p.dst ∨ (s.ctxAt c 0).finished = true → t.cores = s.cores)) ∧
  (∀ (s : State) (n d : BitVec 5),
    (s.Issues (.pclr n) → ∃ m, exec (.pclr n) s = .next ((s.setCx { s.cx with present := m }).bump 4) ∧
      m.toNat.testBit n.toNat = false ∧ ∀ j, j < 32 → j ≠ n.toNat → m.toNat.testBit j = s.cx.present.toNat.testBit j) ∧
    (s.Issues (.ptest d n) → exec (.ptest d n) s =
      .next ((s.setX d (if s.cx.present.toNat.testBit n.toNat then 1#64 else 0#64)).bump 4)))

namespace Sys2Proof.Claims

/-- A message record of n bytes finds room at the tail of core c's ring, whole (R63). -/
def Fits (s : State) (c n size : Nat) : Prop :=
  (s.core c).mrsize.toNat ≠ 0 ∧ size = 2 ^ (s.core c).mrsize.toNat ∧ (s.core c).mrbase.toNat + size ≤ 0x6000 ∧
    n ≤ size - (s.core c).mrtail.toNat % size ∧
    n ≤ size - ((s.core c).mrtail.toNat + 2 ^ 64 - (s.core c).mrhead.toNat) % 2 ^ 32

/-- Place of a byte of a core's local memory in the model's memory. -/
def localKey (c off : Nat) : Nat := 2 ^ 47 + (c / 16) * 2 ^ 34 + (1 + c % 16) * 2 ^ 29 + off

end Sys2Proof.Claims

/-- XMSG sends its payload, read before it completes, to a core's message ring and ends the region, or traps with ADDR for
its target or its word; a message that finds room is placed with its header at the tail, an active one becomes an event,
and one that finds none is rejected at its sender with MSG_REJECT; MTAKE takes the oldest data record that has not been
taken, or answers 0, and MFREE frees a taken one. A payload that lies elsewhere than in the own local memory is asked for,
and the XMSG goes on with its answer (R51, R56, R63, R102, R218, R219, Tables 2-10 and 2-11; log 6 on what a payload may
see, log 81 on the header of a PAD record). -/
def Sys2Proof.Claims.Messages : Prop :=
  (∀ (s : State) (a b c : BitVec 5) (v : BitVec 1), s.Issues (.xmsg a b c v) →
    ((s.shape s.cur.1).coreOf (s.x a).toNat = none → exec (.xmsg a b c v) s = s.raise s (trap cAddr (s.x a))) ∧
    (∀ d, (s.shape s.cur.1).coreOf (s.x a).toNat = some d →
      (¬ (fld (s.x c) 10 6 = 0 ∧ fld (s.x c) 32 32 = 0 ∧ fld (s.x c) 0 10 ≤ 512 ∧ (v = 1#1 → 8 ≤ fld (s.x c) 0 10)) →
        exec (.xmsg a b c v) s = s.raise s (trap cAddr (s.x c))) ∧
      (fld (s.x c) 10 6 = 0 → fld (s.x c) 32 32 = 0 → fld (s.x c) 0 10 = 0 → v = 0#1 → s.cx.used = 0 →
      ∀ m, resolve s.cur.1 (s.x b) 0 = some m → (s.x b).toNat % 8 = 0 →
        (m.unit = 18 → (s.shape s.cur.1).hasCluster m.cluster = true →
          exec (.xmsg a b c v) s = s.raise s (trap cProt (s.x b))) ∧
        (m.unit ≠ 18 → (s.shape s.cur.1).hasCluster m.cluster = true → s.canInject (s.cur.1 / 16) (d / 16) (s.cur.1 % 16) .request = true →
        ∃ t : State, exec (.xmsg a b c v) s = .next t ∧ Claims.GoesOn s t 0#5 ∧ t.cx.x = s.cx.x ∧ Claims.Ended s t ∧
          Claims.Sent s t (s.cur.1 / 16) (d / 16) (s.cur.1 % 16) .request
            (.xmsg d s.cur.1 false (BitVec.ofNat 16 (fld (s.x c) 16 16)) (s.x c) []))) ∧
      (fld (s.x c) 10 6 = 0 → fld (s.x c) 32 32 = 0 → fld (s.x c) 0 10 ≤ 512 → (v = 1#1 → 8 ≤ fld (s.x c) 0 10) →
        0 < fld (s.x c) 0 10 → s.cx.used = 0 → ∀ n, n = fld (s.x c) 0 10 →
        (∀ tr, s.check s.cur.1 (s.x b) n 8 [.r] false = .error tr → exec (.xmsg a b c v) s = s.raise s tr) ∧
        (∀ m, s.check s.cur.1 (s.x b) n 8 [.r] false = .ok m →
          (∀ tr, Claims.Fails s (s.x b) m n 0 true tr → exec (.xmsg a b c v) s = s.raise s tr) ∧
          (Claims.Unsent s m 0 → Claims.BitSends s (.xmsg a b c v) (Claims.reads (s.x b) m.key n)) ∧
          (Claims.Passes s (s.x b) m n 0 true →
          (s.canInject (s.cur.1 / 16) (d / 16) (s.cur.1 % 16) .request = false → exec (.xmsg a b c v) s = .next s) ∧
          (s.canInject (s.cur.1 / 16) (d / 16) (s.cur.1 % 16) .request = true →
          ∃ t : State, ∃ data, exec (.xmsg a b c v) s = .next t ∧
            Claims.GoesOn (s.setCx { s.cx with
              answers := s.cx.answers.drop (if ownLocal s.cur.1 m then 0 else 1) }) t 0#5 ∧ t.cx.x = s.cx.x ∧
            Claims.Ended s t ∧
            (ownLocal s.cur.1 m = true → Claims.Seen s s.cur.1 s.cur.2 m.key n data) ∧
            (ownLocal s.cur.1 m = false → (Claims.answered s 0).map (fun z => natBytes n z.value) = some data) ∧
            Claims.Sent s t (s.cur.1 / 16) (d / 16) (s.cur.1 % 16) .request
              (.xmsg d s.cur.1 (v == 1#1) (BitVec.ofNat 16 (fld (s.x c) 16 16)) (s.x c) data))))))) ∧
  (∀ (s : State) (id c sender : Nat) (act : Bool) (tag : BitVec 16) (w : BitVec 64) (data : List Byte) (p : Packet),
    Claims.AtTarget s id p → p.body = .xmsg c sender act tag w data → data.length ≤ 512 →
    ∀ need, need = 8 + (data.length + 7) / 8 * 8 →
    (p.pid ≠ s.pidAt p.dst → exec (.xmsgArrive id) s = .next (s.dropPacket id)) ∧
    (p.pid = s.pidAt p.dst → s.canInject p.dst p.src (c % 16) .response = true →
      (∀ size o, Claims.Fits s c need size → (act = true → (s.core c).events.length < 16) →
        o = (s.core c).mrbase.toNat + (s.core c).mrtail.toNat % size →
        ∃ t : State, exec (.xmsgArrive id) s = .next t ∧ SameBytesBut s t (Claims.localKey c o) need ∧
          (t.core c).mrtail = word (((s.core c).mrtail.toNat + need) % 2 ^ 32) ∧ (t.core c).mrhead = (s.core c).mrhead ∧
          Claims.numAt t (Claims.localKey c o) 8 = ((s.shape sender).indexOf sender * 2 ^ 32 + tag.toNat * 2 ^ 16 +
            (if act then 1 else 0) * 2 ^ 10 + data.length) % 2 ^ 64 ∧
          (∀ j, j < data.length → memGet t.mem (Claims.localKey c o + 8 + j) = data.getD j 0#8) ∧
          (t.core c).records = (s.core c).records ++
            [{ off := o, bytes := need, kind := if act then 1 else 0, taken := false, freed := false }] ∧
          (act = true → (t.core c).events.length = (s.core c).events.length + 1) ∧
          (act = false → (t.core c).events = (s.core c).events)) ∧
      (∀ size o e, (s.core c).mrsize.toNat ≠ 0 → size = 2 ^ (s.core c).mrsize.toNat →
        (s.core c).mrbase.toNat + size ≤ 0x6000 → o = (s.core c).mrtail.toNat % size → e = size - o → e < need →
        need ≤ size →
        e + need ≤ size - ((s.core c).mrtail.toNat + 2 ^ 64 - (s.core c).mrhead.toNat) % 2 ^ 32 →
        (act = true → (s.core c).events.length < 16) →
        ∃ t : State, exec (.xmsgArrive id) s = .next t ∧
          (t.core c).mrtail = word (((s.core c).mrtail.toNat + e + need) % 2 ^ 32) ∧
          Claims.numAt t (Claims.localKey c ((s.core c).mrbase.toNat + o)) 8 = 2 * 2 ^ 10 + (e - 8) ∧
          (t.core c).records = (s.core c).records ++
            [{ off := (s.core c).mrbase.toNat + o, bytes := e, kind := 2, taken := false, freed := false },
             { off := (s.core c).mrbase.toNat, bytes := need, kind := if act then 1 else 0, taken := false, freed := false }] ∧
          (∀ j, j < data.length →
            memGet t.mem (Claims.localKey c (s.core c).mrbase.toNat + 8 + j) = data.getD j 0#8)) ∧
      ((s.core c).mrsize = 0#64 ∨ (act = true ∧ 16 ≤ (s.core c).events.length ∧
          ∀ x ∈ (s.core c).events, x.entered = s.now → x.source ≤ 4) ∨
        (∃ size, size = 2 ^ (s.core c).mrsize.toNat ∧ size < need) →
        ∃ t : State, exec (.xmsgArrive id) s = .next t ∧ t.mem = s.mem ∧ (t.core c).mrtail = (s.core c).mrtail ∧
          (p.src = p.dst → t = ((s.dropPacket id).unlearn (· == .packet id)).interrupt sender 9 0
            (word ((s.shape c).indexOf c)) w none) ∧
          (p.src ≠ p.dst → Claims.Sent (s.dropPacket id) t p.dst p.src (c % 16) .response
            (.msgAnswer sender (some (word ((s.shape c).indexOf c), w))))))) ∧
  (∀ (s : State) (d a : BitVec 5), s.me.records.Pairwise (fun r q => r.off ≠ q.off) →
    (s.Issues (.mtake d) → ∃ t : State, exec (.mtake d) s = .next t ∧ Claims.GoesOn s t d ∧ Claims.Ended s t ∧
      ((∀ r ∈ s.me.records, r.kind ≠ 0 ∨ r.taken = true) → t.cx.x = (s.cx.setX d 0#64).x) ∧
      (∀ front r rest, s.me.records = front ++ r :: rest → (∀ q ∈ front, q.kind ≠ 0 ∨ q.taken = true) → r.kind = 0 →
        r.taken = false →
        t.cx.x = (s.cx.setX d (word ((1 + s.cur.1 % 16) * 2 ^ 29 + r.off))).x ∧
        (r.freed = false → ∃ q ∈ t.me.records, q = { r with taken := true }))) ∧
    (s.Issues (.mfree a) → ∀ off, (s.x a = word ((1 + s.cur.1 % 16) * 2 ^ 29 + off) ∨ s.x a = word off) → off < 2 ^ 29 →
      (∀ r ∈ s.me.records, r.off = off → r.kind ≠ 2 → r.taken = true → r.freed = false →
        ∃ t : State, exec (.mfree a) s = .next t ∧ Claims.GoesOn s t 0#5 ∧ t.cx.x = s.cx.x ∧ t.races = s.races ∧
          r ∉ t.me.records) ∧
      ((∀ r ∈ s.me.records, r.off = off → r.kind = 2 ∨ r.taken = false ∨ r.freed = true) →
        exec (.mfree a) s = s.raise s (trap cAddr (s.x a)))))

/-- Presence bits and SENDR, and the messages and mailboxes (R63, R216, R217, R218, R219, R341, R380).
The model's own choices in it are logs 6, 56 and 81. -/
def Obligations.SendingAndMessages : Prop :=
  Claims.PresenceAndSendr ∧ Claims.Messages

/-- SPAWN starts the lowest-numbered free helper at a PC with its argument and its number, if no event is queued, and
writes its number, else 0; HEXIT frees the helper and discards its registers; HWAIT goes on once the helper is free, and
times out at once on itself; HELPER_START gives the oldest event, in a cycle after that in which it entered, to the
lowest-numbered free helper (R26, R27, R29, R220). -/
def Sys2Proof.Claims.Helpers : Prop :=
  (∀ (s : State) (d a b : BitVec 5), s.Issues (.spawn d a b) →
    (s.me.events ≠ [] ∨ (∀ h, 1 ≤ h → h ≤ 10 → (s.ctxAt s.cur.1 h).live = true) →
      exec (.spawn d a b) s = .next ((s.setX d 0#64).bump 4)) ∧
    (∀ h, s.me.events = [] → 1 ≤ h → h ≤ 10 → (s.ctxAt s.cur.1 h).live = false → h ≠ s.cur.2 →
      (∀ j, 1 ≤ j → j < h → (s.ctxAt s.cur.1 j).live = true) →
      ∃ t : State, exec (.spawn d a b) s = .next t ∧ Claims.GoesOn s t d ∧ Claims.Ended s t ∧
      t.cx.x = (s.cx.setX d (word h)).x ∧
        (t.ctxAt s.cur.1 h).live = true ∧ (t.ctxAt s.cur.1 h).pc = s.x a ∧ (t.ctxAt s.cur.1 h).level = .u ∧
        (t.ctxAt s.cur.1 h).xr 10#5 = s.x b ∧ (t.ctxAt s.cur.1 h).xr 11#5 = 0#64 ∧
        (t.ctxAt s.cur.1 h).xr 12#5 = word h ∧
        (∀ r : BitVec 5, r ≠ 10#5 → r ≠ 12#5 → (t.ctxAt s.cur.1 h).xr r = 0#64) ∧
        (∀ j, j ≠ h → j ≠ s.cur.2 → t.ctxAt s.cur.1 j = s.ctxAt s.cur.1 j))) ∧
  (∀ (s : State), s.Issues .hexit → s.cx.row = none →
    ∃ o, Claims.Learn s.olds o (fun e q => q ∈ e.known ∨
        (q = .exited s.cur.1 s.cur.2 ∧ Knows.thread s.cur.1 s.cur.2 ∈ e.known)) ∧
      exec .hexit s = .next ({ s with olds := o, races := s.races.filter fun r =>
        !(r.core == s.cur.1 && r.ctx == s.cur.2) }.setCx (Ctx.reset s.cur.2))) ∧
  (∀ (s : State) (h : BitVec 4), s.Issues (.hwait h) →
    (s.cur.2 = h.toNat → exec (.hwait h) s = s.raise s (trap cBarTimeout (word h.toNat))) ∧
    (s.cur.2 ≠ h.toNat → (s.ctxAt s.cur.1 h.toNat).live = true →
      exec (.hwait h) s = .next (s.await (.helper h.toNat) (word h.toNat))) ∧
    (s.cur.2 ≠ h.toNat → (s.ctxAt s.cur.1 h.toNat).live = false →
      ∃ t : State, exec (.hwait h) s = .next t ∧ Claims.GoesOn s t 0#5 ∧ t.cx.x = s.cx.x ∧ Claims.Ended s t)) ∧
  (∀ (s : State) (c h : Nat) (e : HelperEvent) (rest : List HelperEvent), s.runs c = true →
    (s.core c).events = e :: rest → e.entered < s.now → (s.ctxAt c 0).starting = false → 1 ≤ h → h ≤ 10 → (s.ctxAt c h).live = false →
    (∀ j, 1 ≤ j → j < h → (s.ctxAt c j).live = true) →
    ∃ t : State, exec (.helperStart c) s = .next t ∧ (t.ctxAt c h).live = true ∧ (t.ctxAt c h).pc = e.pc ∧
      (t.ctxAt c h).xr 10#5 = e.a0 ∧ (t.ctxAt c h).xr 11#5 = e.a1 ∧ (t.ctxAt c h).xr 12#5 = word h ∧
      (t.ctxAt c h).uicause = e.uicause ∧ (t.ctxAt c h).uival = e.uival ∧ (t.ctxAt c h).uixfer = e.uixfer ∧
      (t.ctxAt c h).fetchPrgn = (s.core c).prgn ∧ t.mem = s.mem ∧ (∀ r ∈ rest, r ∈ (t.core c).events) ∧
      ((s.cluster (c / 16)).held = [] → (t.core c).events = rest))

/-- DQPUSH puts a value at the bottom of the core's deque and ends the region, or traps with DEQUE for 0 and for a full
deque; DQPOP takes the bottom item, DQSTEAL the top item of a core of the cluster, each 0 if there is none; DQLEN counts
(R221). -/
def Sys2Proof.Claims.TheDeque : Prop :=
  ∀ (s : State) (d a : BitVec 5), (∀ e ∈ (s.cluster (s.cur.1 / 16)).held, ∀ c v k, e ≠ .push c v k) →
    (s.Issues (.dqpush a) →
      (s.x a = 0#64 ∨ 64 ≤ s.me.deque.length → exec (.dqpush a) s = s.raise s (trap cDeque (s.x a))) ∧
      (s.x a ≠ 0#64 → s.me.deque.length < 64 → ∃ t : State, exec (.dqpush a) s = .next t ∧ Claims.GoesOn s t 0#5 ∧
        t.cx.x = s.cx.x ∧ Claims.Ended s t ∧ t.me.deque = s.me.deque ++ [s.x a])) ∧
    (s.Issues (.dqpop d) → ∃ t : State, exec (.dqpop d) s = .next t ∧ Claims.GoesOn s t d ∧ Claims.Ended s t ∧
      (s.me.deque = [] → t.me.deque = [] ∧ t.cx.x = (s.cx.setX d 0#64).x) ∧
      (∀ front v, s.me.deque = front ++ [v] → t.me.deque = front ∧ t.cx.x = (s.cx.setX d v).x)) ∧
    (s.Issues (.dqsteal d a) →
      (16 ≤ (s.x a).toNat → exec (.dqsteal d a) s = s.raise s (trap cAddr (s.x a))) ∧
      (∀ v, (s.x a).toNat < 16 → v = s.cur.1 / 16 * 16 + (s.x a).toNat →
        ∃ t : State, exec (.dqsteal d a) s = .next t ∧ Claims.GoesOn s t d ∧ Claims.Ended s t ∧
          ((s.core v).deque = [] → (t.core v).deque = [] ∧ t.cx.x = (s.cx.setX d 0#64).x) ∧
          (∀ w rest, (s.core v).deque = w :: rest → (t.core v).deque = rest ∧ t.cx.x = (s.cx.setX d w).x))) ∧
    (s.Issues (.dqlen d) → exec (.dqlen d) s = .next ((s.setX d (word s.me.deque.length)).bump 4))

/-- Helpers, and the deque of descriptors (R26, R27, R29, R220, R221). The model's own choices in it are logs 6 and 57. -/
def Obligations.HelpersAndTheDeque : Prop :=
  Claims.Helpers ∧ Claims.TheDeque

namespace Sys2Proof.Claims

/-- Slot j of the enabled ring q of the core's cluster starts at an address (R222, Table 2-8). -/
def StartsAt (s : State) (cl : Nat) (a : BitVec 64) (q j : Nat) : Prop :=
  ∃ m, resolve s.cur.1 a 1 = some m ∧ m.unit = 17 ∧ m.cluster = cl ∧ q < 16 ∧ (s.ring cl q).en = true ∧
    j < (s.ring cl q).count ∧ m.off = (s.ring cl q).base * 64 + j * ((s.ring cl q).slotsz * 64)

/-- A matrix unit of the cluster takes from ring n in this cycle: its MMA has started, no k-step is under way, it may run,
and the heads of both its rings are COMMITTED (R247). -/
def UnitTakes (s : State) (cl n : Nat) : Prop :=
  ∃ i g a b cmd rest, i < 4 ∧ (s.unit (4 * cl + i)).fifo = cmd :: rest ∧ cmd.kind = .mma g a b ∧
    (s.unit (4 * cl + i)).started = true ∧ (s.unit (4 * cl + i)).step = none ∧ s.unitRuns (4 * cl + i) = true ∧
    (a = n ∨ b = n) ∧ (s.ring cl a).slot (s.ring cl a).head = .committed ∧
    (s.ring cl b).slot (s.ring cl b).head = .committed

end Sys2Proof.Claims

/-- RINIT writes a ring's descriptor from its word, or traps with ADDR, FORMAT or PROT; RCLAIM claims the slot at TAIL and
RTAKE takes the one at HEAD, which a matrix unit comes before, each with the slot's address, or waits; RCOMMIT and RFREE
move the slot that starts at an address on, ADDR where none does and PROT in a wrong state (R58 to R60, R222, R247, Tables
2-8 and 2-9). The model's own choices in it are logs 17 and, where slots of several rings start there, 82. -/
def Obligations.SlotRings : Prop :=
  ∀ (s : State) (d a : BitVec 5) (n : BitVec 4) (r : Ring) (cl : Nat), cl = s.cur.1 / 16 → r = s.ring cl n.toNat →
    (s.Issues (.rinit a n) → ∀ w, w = s.x a →
      (fld w 51 9 ≠ 0 ∨ fld w 20 10 ≠ 0 ∨ fld w 0 6 ≠ 0 ∨ fld w 44 7 = 0 ∨ 64 < fld w 44 7 ∨ fld w 30 14 = 0 ∨
          0x100000 < fld w 6 14 * 64 + fld w 44 7 * (fld w 30 14 * 64) →
        exec (.rinit a n) s = s.raise s (trap cAddr (word (18 * 2 ^ 29 + 64 * n.toNat)))) ∧
      (fld w 51 9 = 0 → fld w 20 10 = 0 → fld w 0 6 = 0 → fld w 44 7 ≠ 0 → fld w 44 7 ≤ 64 → fld w 30 14 ≠ 0 →
          fld w 6 14 * 64 + fld w 44 7 * (fld w 30 14 * 64) ≤ 0x100000 →
        (14 ≤ fld w 60 4 → exec (.rinit a n) s = s.raise s (trap cFormat (word (fld w 60 4 * 4096)))) ∧
        (fld w 60 4 < 14 → r.en = true → (∃ x ∈ r.slots, x ≠ .free) →
          exec (.rinit a n) s = s.raise s (trap cProt (word (18 * 2 ^ 29 + 64 * n.toNat)))) ∧
        (fld w 60 4 < 14 → (r.en = false ∨ ((∀ x ∈ r.slots, x = .free) ∧
        (∀ e ∈ (s.cluster cl).attached, e.2.2 ≠ n.toNat) ∧
            s.mmaOn cl n.toNat = false)) → exec (.rinit a n) s = .next ((s.setRing cl n.toNat
          { fmt := BitVec.ofNat 4 (fld w 60 4), en := true, count := fld w 44 7, slotsz := fld w 30 14, base := fld w 6 14,
            head := 0, tail := 0, slots := List.replicate (fld w 44 7) .free }).bump 4)))) ∧
    (s.Issues (.rclaim d n) →
      (r.en = false → exec (.rclaim d n) s = s.raise s (trap cProt (word (18 * 2 ^ 29 + 64 * n.toNat)))) ∧
      (r.en = true → r.slots[r.tail]? = some .free → exec (.rclaim d n) s = .next (((s.setRing cl n.toNat
        { r with slots := r.slots.set r.tail .claimed, tail := (r.tail + 1) % r.count }).setX d
          (word (17 * 2 ^ 29 + (r.base * 64 + r.tail * (r.slotsz * 64))))).bump 4)) ∧
      (∀ x, r.en = true → r.slots[r.tail]? = some x → x ≠ .free → ∃ t : State, exec (.rclaim d n) s = .next t ∧
      s.Waits t)) ∧
    (s.Issues (.rtake d n) →
      (r.en = false → exec (.rtake d n) s = s.raise s (trap cProt (word (18 * 2 ^ 29 + 64 * n.toNat)))) ∧
      (r.en = true → r.slots[r.head]? = some .committed → ¬ Claims.UnitTakes s cl n.toNat →
      ∃ t : State, exec (.rtake d n) s = .next t ∧ Claims.GoesOn s t d ∧
        Claims.Ended s t ∧
        t.cx.x = (s.cx.setX d (word (17 * 2 ^ 29 + (r.base * 64 + r.head * (r.slotsz * 64))))).x ∧
        t.ring cl n.toNat = { r with slots := r.slots.set r.head .taken, head := (r.head + 1) % r.count } ∧
        (∀ j, j ≠ n.toNat → t.ring cl j = s.ring cl j)) ∧
      (∀ x, r.en = true → r.slots[r.head]? = some x → x ≠ .committed ∨ Claims.UnitTakes s cl n.toNat →
      ∃ t : State, exec (.rtake d n) s = .next t ∧ s.Waits t)) ∧
    ((∀ q j, ¬ Claims.StartsAt s cl (s.x a) q j) → ∀ i ∈ [Instr.rcommit a, .rfree a], s.Issues i →
    exec i s = s.raise s (trap cAddr (s.x a))) ∧
    (∀ q j, Claims.StartsAt s cl (s.x a) q j → (∀ h i, h < q ∨ (h = q ∧ i < j) → ¬ Claims.StartsAt s cl (s.x a) h i) →
      (s.Issues (.rcommit a) →
        ((s.ring cl q).slot j = .claimed → ∃ t : State, exec (.rcommit a) s = .next t ∧ Claims.GoesOn s t 0#5 ∧
        t.cx.x = s.cx.x ∧
          Claims.Ended s t ∧ t.ring cl q = { s.ring cl q with slots := (s.ring cl q).slots.set j .committed }) ∧
        ((s.ring cl q).slot j ≠ .claimed → exec (.rcommit a) s = s.raise s (trap cProt (s.x a)))) ∧
      (s.Issues (.rfree a) →
        ((s.ring cl q).slot j = .taken → ∃ t : State, exec (.rfree a) s = .next t ∧ Claims.GoesOn s t 0#5 ∧
        t.cx.x = s.cx.x ∧
          t.ring cl q = { s.ring cl q with slots := (s.ring cl q).slots.set j .free }) ∧
        ((s.ring cl q).slot j ≠ .taken → exec (.rfree a) s = s.raise s (trap cProt (s.x a)))))

-- The copy engine (08_isa_sync_async.md).

namespace Sys2Proof.Claims

/-- What is wrong with an operand by itself: it names no place of units 0 to 17, or is misaligned (R227, step 1). -/
def opTrap (c : Nat) (ea : BitVec 64) (n : Nat) : Option Trap :=
  match resolve c ea n with
  | none => some (trap cAddr ea)
  | some m => if m.unit = 18 then some (trap cAddr ea) else if ea.toNat % n ≠ 0 then some (trap cAlign ea) else none

/-- A field of n bytes at an offset of a record. -/
def fieldAt (bs : List (BitVec 8)) (off n : Nat) : Nat := bytesNat ((bs.drop off).take n)

/-- The record at an operand's address, with its bytes; none where the kind has no such operand. -/
def RecordOf (s : State) (c : Nat) : Option (BitVec 64) → Option RawRec → Prop
  | none, r => r = none
  | some a, r => ∃ m, resolve c a 128 = some m ∧ r = some (LRec.read (bytesAt s m.key 128) a, bytesAt s m.key 128)

/-- A demand on a record that fails with ADDR and the record's address (R227). -/
def demands (r : LRec) (ok : Prop) [Decidable ok] : Option (Trap × BitVec 64) :=
  if ok then none else some (trap cAddr r.addr, r.addr)

/-- No reserved bit set, and RANK, RM and PCMP in range (R227, step 4). -/
abbrev Plain (q : RawRec) : Prop :=
  fieldAt q.2 0x0D 3 = 0 ∧ fieldAt q.2 0x2E 2 = 0 ∧ 1 ≤ q.1.rank ∧ q.1.rank ≤ 5 ∧ q.1.rm.toNat ≤ 5 ∧ q.1.pcmp ≠ 7

/-- Validity of a record by itself (R223, R224): dead dimensions 0, ADIM by REP, and the E2M1 demands. -/
abbrev Valid (q : RawRec) : Prop :=
  (∀ d, d < 5 → q.1.rank ≤ d → fieldAt q.2 (0x10 + 4 * d) 4 = 0 ∧ fieldAt q.2 (0x24 + 2 * d) 2 = 0 ∧
    fieldAt q.2 (0x30 + 4 * d) 4 = 0 ∧ (d ≠ 0 → fieldAt q.2 (0x48 + 6 * (d - 1)) 6 = 0)) ∧
  (if q.1.rep = 0 then q.1.adim = 0 else q.1.adim < q.1.rank) ∧
  (q.1.tag = 12#4 → q.1.org.getD 0 0 % 2 = 0 ∧ q.1.ext.getD 0 1 % 2 = 0)

/-- The source box is transposed (R228). -/
abbrev Swaps (k : BitVec 4) (t : Bool) : Prop := t = true ∨ k = 2#4 ∨ k = 4#4

/-- The demands of Table 8-8 on RANK and on extents; those of a quantisation are on its destination. -/
abbrev Shaped (k : BitVec 4) (t : Bool) (r : LRec) (dest : Prop) : Prop :=
  (k = 9#4 ∨ k = 10#4 → r.rank = 2) ∧ (Swaps k t → 2 ≤ r.rank) ∧
    (dest → k = 6#4 ∨ k = 7#4 → r.ext.getD 0 1 % 32 = 0) ∧
    (dest → k = 7#4 → 2 ≤ r.rank ∧ r.ext.getD 1 1 % 32 = 0)

/-- Extents as the transform sees the source's. -/
def seenExt (k : BitVec 4) (t : Bool) (r : LRec) : List Nat :=
  if Swaps k t then r.ext.getD 1 1 :: r.ext.getD 0 1 :: r.ext.drop 2 else r.ext

/-- Tags that suit a transform (Table 8-8; codes of Table 3-4). -/
def suits (k : BitVec 4) (src : Option (BitVec 4)) (dst : BitVec 4) : Prop :=
  match src with
  | none => dst.toNat ≤ 13 ∧ dst.toNat ∉ [10, 11, 12]
  | some a => a.toNat ≤ 13 ∧ dst.toNat ≤ 13 ∧
    (k = 0#4 → a = dst) ∧
    (k = 2#4 ∨ k = 9#4 ∨ k = 10#4 → a = dst ∧ a.toNat ∉ [10, 11, 12]) ∧
    (k = 3#4 ∨ k = 4#4 → (tagF a = true ∨ tagN a = true ∨ tagS a = true) ∧ (tagF dst = true ∨ tagN dst = true)) ∧
    (k = 5#4 → a.toNat ∈ [7, 8, 9] ∧ dst.toNat ∈ [10, 11]) ∧
    (k = 6#4 ∨ k = 7#4 → a.toNat ∈ [7, 8, 9] ∧ dst.toNat ∈ [10, 11, 12]) ∧
    (k = 8#4 → tagS a = true ∧ tagF dst = true)

/-- Bytes of a box's scale array, and of its dense image (R224). -/
def scaleLen (r : LRec) : Nat :=
  (r.ext.drop 1).prod * ((r.ext.getD 0 1 + 31) / 32) * (if r.tag = 12#4 then 2 else 1)
def imageLen (r : LRec) : Nat :=
  (r.ext.prod * tagWidth r.tag + 7) / 8 + if tagS r.tag = true then scaleLen r else 0

/-- The bytes of a row of a box in tile k that lie in its tensor: their address and number (R224, R229). -/
def rowSpan (r : LRec) (k row : Nat) : Option (BitVec 64 × Nat) :=
  let at_ (d : Nat) : Int :=
    r.org.getD d 0 + (if d = 0 then 0 else (row / ((r.ext.drop 1).take (d - 1)).prod % r.ext.getD d 1 : Nat)) +
      (if r.rep ≠ 0 ∧ d = r.adim then (k * r.ext.getD d 1 : Nat) else 0)
  let lo : Int := max 0 (-at_ 0)
  let hi : Int := min (r.ext.getD 0 1) (r.size.getD 0 1 - at_ 0)
  if (∀ d ∈ [1, 2, 3, 4], 0 ≤ at_ d ∧ at_ d < r.size.getD d 1) ∧ lo < hi then
    some (r.base + BitVec.ofInt 64 ((at_ 0 + lo) * tagWidth r.tag / 8 + (at_ 1 * r.stride.getD 1 0 +
      at_ 2 * r.stride.getD 2 0 + at_ 3 * r.stride.getD 3 0 + at_ 4 * r.stride.getD 4 0)),
      ((hi - lo).toNat * tagWidth r.tag + 7) / 8)
  else none

/-- The rows of a box in tile k. -/
def rowSpans (r : LRec) (k : Nat) : List (BitVec 64 × Nat) :=
  (List.range (r.ext.drop 1).prod).filterMap (rowSpan r k)

/-- What step 5 of R227 finds wrong with a range: a device VA by R47, a mesh range by R51. -/
def rangeTrap (s : State) (c : Nat) (right : Right) (p : BitVec 64 × Nat) : Option Trap :=
  if bitOf p.1 63 = true then (if fld p.1 54 9 = 0 then none else some (trap cAddr p.1))
  else if p.2 = 0 then none
  else match s.check c p.1 p.2 1 [right] false with
    | .error t => some t
    | .ok _ => none

/-- Ranges in order, for a record. -/
def spans (s : State) (c : Nat) (right : Right) (r : LRec) (ps : List (BitVec 64 × Nat)) :
    List (Option (Trap × BitVec 64)) :=
  ps.map fun p => (rangeTrap s c right p).map fun t => (t, r.addr)

/-- A record's scale array, if it has one: at a mesh address (Table 8-6). -/
def scaleSpan (s : State) (c : Nat) (right : Right) (r : LRec) : List (Option (Trap × BitVec 64)) :=
  if tagS r.tag = false then []
  else if bitOf r.fill 63 = true then [some (trap cAddr r.fill, r.addr)]
  else spans s c right r [(r.fill, scaleLen r)]

/-- A record's predicate word: a 4-aligned mesh address that may be read (R225). -/
def predTrap (s : State) (c : Nat) (r : LRec) : Option (Trap × BitVec 64) :=
  if r.pcmp = 0 then none
  else if bitOf r.paddr 63 = true then some (trap cAddr r.paddr, r.addr)
  else match s.check c r.paddr 4 4 [.r] false with
    | .error t => some (t, r.addr)
    | .ok _ => none

/-- A ring that a record names is enabled; PROT with its descriptor's address (R227). -/
def ringTrap (s : State) (c n : Nat) (r : LRec) : Option (Trap × BitVec 64) :=
  if (s.ring (clusterOf c) n).en = true then none else some (trap cProt (word (18 * 2 ^ 29 + 64 * n)), r.addr)

/-- A ring that is to be filled with a record's tiles has its FMT, and slots large enough (R229). -/
def fillTraps (s : State) (c n : Nat) (r : LRec) : List (Option (Trap × BitVec 64)) :=
  [if (s.ring (clusterOf c) n).fmt = r.tag then none else some (formatStop [r.tag] (s.ring (clusterOf c) n).fmt, r.addr),
   demands r (imageLen r ≤ (s.ring (clusterOf c) n).slotsz * 64)]

/-- The two record checks that come first, for the records just read. -/
def rawTraps (raws : List RawRec) (fits : LRec → Prop) [DecidablePred fits] : List (Option (Trap × BitVec 64)) :=
  (raws.map fun q => demands q.1 (Plain q)) ++ (raws.map fun q => demands q.1 (Valid q ∧ fits q.1))

open Classical in
/-- The checks of an XCOPY's pair in the order of steps 4 and 5 of R227; which record's address stands for extents that
disagree is the model's choice. -/
noncomputable def copyTraps (s : State) (c : Nat) (k : BitVec 4) (t : Bool) (raws : List RawRec) (src : Option LRec)
    (d : LRec) : List (Option (Trap × BitVec 64)) :=
  rawTraps raws (fun r => Shaped k t r (r = d)) ++
  [demands d (∀ r ∈ src, seenExt k t r = d.ext), demands d (d.rep = 0)] ++
  (src.toList.map fun r => demands r (r.rep = 0 ∧ r.ring = false)) ++
  [if d.ring = true then ringTrap s c d.ringno d else none,
   if suits k (src.map LRec.tag) d.tag then none else some (formatStop (src.toList.map LRec.tag) d.tag, d.addr)] ++
  (if d.ring = true then fillTraps s c d.ringno d else []) ++
  (src.toList.flatMap fun r =>
    spans s c .r r (if k = 9#4 then
      (List.range (d.ext.drop 1).prod).filterMap fun i =>
        rowSpan { r with ext := [r.ext.getD 0 1, 1, 1, 1, 1],
                         org := r.org.set 1 (s.engNum c (d.fill + word (4 * i)) 4) } 0 0
      else rowSpans r 0) ++
    scaleSpan s c .r r ++
    if k = 5#4 ∧ bitOf d.fill 63 = true then [some (trap cAddr d.fill, d.addr)]
    else spans s c .r d (if k = 5#4 then [(d.fill, if d.sfp32 = true then 4 else 1)]
      else if k = 9#4 then [(d.fill, 4 * (d.ext.drop 1).prod)]
      else if k = 10#4 then [(d.fill + 8#64, (d.ext.drop 1).prod)] else [])) ++
  (if d.ring = true then [] else
    spans s c .w d (rowSpans d 0) ++ if k = 0#4 ∨ k = 6#4 ∨ k = 7#4 then scaleSpan s c .w d else []) ++
  (if k = 10#4 then spans s c .w d [(d.fill, 4)] else []) ++
  raws.map fun q => predTrap s c q.1

/-- The checks of an XSUB's record, and of an XPUB's (R227, R229). -/
def subTraps (s : State) (c n : Nat) (raws : List RawRec) (r : LRec) : List (Option (Trap × BitVec 64)) :=
  rawTraps raws (fun _ => True) ++ [demands r (r.ring = false), ringTrap s c n r] ++ fillTraps s c n r ++
  ((List.range (r.rep + 1)).flatMap fun i => spans s c .r r (rowSpans r i)) ++ scaleSpan s c .r r ++
  raws.map fun q => predTrap s c q.1
def pubTraps (s : State) (c n : Nat) (raws : List RawRec) (d : LRec) : List (Option (Trap × BitVec 64)) :=
  rawTraps raws (fun _ => True) ++ [demands d (d.ring = false), ringTrap s c n d,
    if (s.ring (clusterOf c) n).fmt = d.tag then none
    else some (formatStop [(s.ring (clusterOf c) n).fmt] d.tag, d.addr)] ++
  ((List.range (d.rep + 1)).flatMap fun i => spans s c .w d (rowSpans d i)) ++ scaleSpan s c .w d ++
  raws.map fun q => predTrap s c q.1

/-- The first of checks that fails, as the outcome of all. -/
def firstOf (l : List (Option (Trap × BitVec 64))) : Except (Trap × BitVec 64) Unit :=
  match l.findSome? id with
  | some e => .error e
  | none => .ok ()

/-- A record as a chain's reader has it: five entries of each list, none of them an empty extent. -/
abbrev FiveDims (r : LRec) : Prop :=
  r.ext.length = 5 ∧ r.org.length = 5 ∧ r.stride.length = 5 ∧ r.size.length = 5 ∧ ∀ e ∈ r.ext, 0 < e

/-- A granule that is IN-FLIGHT, or holds a record of another core. -/
def Taken (s : State) (c g : Nat) : Prop :=
  (∃ q, (g, q) ∈ s.inflight) ∨ ∃ r ∈ s.races, r.granule = g ∧ r.core ≠ c

/-- The first trap among the results of checks, in their order. -/
def firstErr {α : Type} (l : List (Except Trap α)) : Option Trap :=
  l.findSome? fun r => match r with
    | .error t => some t
    | .ok _ => none

/-- XCOPY, XSUB and XPUB: the kind, and the operands for the first destination record, the first source record and the
barrier; FILL has no source (R226, R228, R229). -/
def transferOf (s : State) : Instr → Option (EngKind × Option (BitVec 64) × Option (BitVec 64) × BitVec 64)
  | .xcopy a b c t k => some (.xcopy k (t == 1#1), some (s.x a), if k = 1#4 then none else some (s.x b), s.x c)
  | .xsub b c n => some (.xsub n.toNat, none, some (s.x b), s.x c)
  | .xpub a c n => some (.xpub n.toNat, some (s.x a), none, s.x c)
  | _ => none

/-- Entry e is the lowest free one of core c's request ring. -/
def LowestFree (s : State) (c e : Nat) : Prop :=
  e < 16 ∧ s.op? c e = none ∧ ∀ j, j < e → s.op? c j ≠ none

/-- Core c's request ring is full. -/
def RingFull (s : State) (c : Nat) : Prop := ∀ j, j < 16 → s.op? c j ≠ none

/-- No word of memory that records or their predicates lie in holds an uncorrectable error (R301). -/
def CleanRecords (s : State) (c : Nat) (raws : List RawRec) : Prop :=
  ∀ q ∈ raws, q.1.pcmp ≠ 0 → ∀ m, resolve c q.1.paddr 4 = some m → s.eccWord m.key 4 = none
def CleanAt (s : State) (c : Nat) (a : BitVec 64) : Prop := ∀ m, resolve c a 128 = some m → s.eccWord m.key 128 = none

/-- An operation is accepted and ended by the record at a, as one that holds an uncorrectable error (R301). -/
def EntersBad (s t : State) (e : Nat) (kind : EngKind) (key : Nat) (a : BitVec 64) : Prop :=
  GoesOn s t 0#5 ∧ t.cx.x = s.cx.x ∧ (∀ j, j ≠ e → t.op? s.cur.1 j = s.op? s.cur.1 j) ∧ t.inflight = s.inflight ∧
    ∃ o, t.op? s.cur.1 e = some o ∧ o.kind = kind ∧ o.barKey = key ∧ o.bad = some ⟨a, false, .poison⟩ ∧
      o.stopped = true ∧ o.handed = false ∧ o.flying = [] ∧ o.faults = [] ∧ o.pairs = []

/-- The instruction goes on and puts an operation into entry e, none of whose pieces has been sent; the core's other
entries are as before. -/
def Enters (s t : State) (e : Nat) (o : EngOp) : Prop :=
  GoesOn s t 0#5 ∧ t.cx.x = s.cx.x ∧ t.op? s.cur.1 e = some o ∧ (∀ j, j ≠ e → t.op? s.cur.1 j = s.op? s.cur.1 j) ∧
    o.ctx = s.cur.2 ∧ o.flying = [] ∧ o.faults = [] ∧ o.resend = [] ∧ o.counted = 0 ∧ o.stopped = false ∧
    o.handed = false

end Sys2Proof.Claims

/-- The fields of a layout record (R223, Tables 8-6 and 8-7). -/
def Sys2Proof.Claims.RecordFields : Prop :=
  ∀ (bs : List (BitVec 8)) (a : BitVec 64) (r : LRec) (w : Nat), r = LRec.read bs a → w = Claims.fieldAt bs 8 8 →
    bs.length = 128 →
    r.addr = a ∧ r.base.toNat = Claims.fieldAt bs 0 8 ∧
    (r.tag.toNat = w % 16 ∧ r.rank = w / 16 % 8 ∧ r.notify = w.testBit 7 ∧ r.sat = w.testBit 8 ∧
      r.rm.toNat = w / 2 ^ 9 % 8 ∧ r.pcmp = w / 2 ^ 12 % 8 ∧ r.ring = w.testBit 15 ∧ r.ringno = w / 2 ^ 16 % 16 ∧
      r.sfp32 = w.testBit 20 ∧ r.adim = w / 2 ^ 21 % 8 ∧ r.rep = w / 2 ^ 24 % 2 ^ 16) ∧
    Claims.FiveDims r ∧
    (∀ d, d < r.rank → d < 5 → r.size.getD d 1 = Claims.fieldAt bs (0x10 + 4 * d) 4 ∧
      r.ext.getD d 1 = Claims.fieldAt bs (0x24 + 2 * d) 2 + 1 ∧
      r.org.getD d 0 = (BitVec.ofNat 32 (Claims.fieldAt bs (0x30 + 4 * d) 4)).toInt ∧
      (d ≠ 0 → r.stride.getD d 0 = (BitVec.ofNat 48 (Claims.fieldAt bs (0x48 + 6 * (d - 1)) 6)).toInt)) ∧
    (∀ d, r.rank ≤ d → d < 5 → r.size.getD d 0 = 1 ∧ r.ext.getD d 0 = 1 ∧ r.org.getD d 1 = 0 ∧ r.stride.getD d 1 = 0) ∧
    r.pval = Claims.fieldAt bs 0x44 4 ∧ r.fill.toNat = Claims.fieldAt bs 0x60 8 ∧
    r.handler.toNat = Claims.fieldAt bs 0x68 8 ∧ r.next.toNat = Claims.fieldAt bs 0x70 8 ∧
    r.paddr.toNat = Claims.fieldAt bs 0x78 8

/-- The checks of a pair's records, in order, with the record that each is blamed on (R223 to R225, R227 steps 4 and 5,
R228, R229). -/
def Sys2Proof.Claims.PairsAreChecked : Prop :=
  ∀ (s : State) (c : Nat) (raws : List RawRec) (src dst : Option LRec),
    (∀ q ∈ raws, q.2.length = 128 ∧ q.1 = LRec.read q.2 q.1.addr) → (∀ r ∈ src.toList ++ dst.toList, Claims.FiveDims r) →
    (∀ k t d, dst = some d → k.toNat ≤ 10 → (k = 1#4 ↔ src = none) →
      s.checkPair c (.xcopy k t) raws src dst = Claims.firstOf (Claims.copyTraps s c k t raws src d)) ∧
    (∀ n r, src = some r → s.checkPair c (.xsub n) raws src dst = Claims.firstOf (Claims.subTraps s c n raws r)) ∧
    (∀ n d, dst = some d → s.checkPair c (.xpub n) raws src dst = Claims.firstOf (Claims.pubTraps s c n raws d))

/-- The RACE of an issue: at the lowest granule that is IN-FLIGHT or holds a record of another core, with the engine's or
that core's access in RACEINFO (R56, R101, R227 step 6). -/
def Sys2Proof.Claims.IssueRaces : Prop :=
  ∀ (s : State) (c : Nat) (gs : List Nat),
    ((∀ g ∈ gs, ¬ Claims.Taken s c g) → s.issueRace c gs = none) ∧
    (∀ g ∈ gs, Claims.Taken s c g → (∀ h ∈ gs, Claims.Taken s c h → g ≤ h) → ∃ tr info, s.issueRace c gs = some tr ∧
      tr.cause = cRace ∧ tr.tval = word g ∧ tr.race = some info ∧
      ((∃ q, (g, q) ∈ s.inflight ∧ info = word (2 ^ 35 + 2 ^ 34 + (s.shape q).indexOf q)) ∨
        ((∀ q, (g, q) ∉ s.inflight) ∧ ∃ r ∈ s.races, r.granule = g ∧ r.core ≠ c ∧
          info = word ((if r.wrote = true then 2 ^ 34 else 0) + r.ctx * 2 ^ 30 + (s.shape r.core).indexOf r.core))))

/-- XCOPY, XSUB and XPUB check their operands, the right to read their records, the barrier, the records and the granules
in the order of R227; a full ring makes them wait; accepted, an operation holds the lowest free entry and its destination
is IN-FLIGHT up to the first LIVE granule, and no byte of memory has changed unless a predicate skips the pair (R55, R225,
R226, R227). One whose record or predicate word cannot be read for a memory error is accepted and ended by that record. -/
def Sys2Proof.Claims.TransfersIssue : Prop :=
  ∀ (s : State) (i : Instr) (kind : EngKind) (dst src : Option (BitVec 64)) (bar : BitVec 64) (c : Nat)
      (recs : List (BitVec 64)), Claims.transferOf s i = some (kind, dst, src, bar) → s.Issues i → c = s.cur.1 →
    recs = dst.toList ++ src.toList →
    (∀ tr, (recs.map fun a => Claims.opTrap c a 128).findSome? id = some tr → exec i s = s.raise s tr) ∧
    ((recs.map fun a => Claims.opTrap c a 128).findSome? id = none →
      (∀ tr, Claims.opTrap c bar 16 = some tr → exec i s = s.raise s tr) ∧
      (Claims.opTrap c bar 16 = none →
        (∀ tr, Claims.firstErr (recs.map fun a => s.check c a 128 128 [.r] false) = some tr → exec i s = s.raise s tr) ∧
        (Claims.firstErr (recs.map fun a => s.check c a 128 128 [.r] false) = none →
          (∀ tr, s.check c bar 16 16 [.r, .w] false = .error tr → exec i s = s.raise s tr) ∧
          (∀ m, s.check c bar 16 16 [.r, .w] false = .ok m →
            (s.isLive m.key = false → exec i s = s.raise s (trap cBarrierWord bar)) ∧
            (s.isLive m.key = true →
              (∀ a, recs.find? (s.recordBad c) = some a → ¬ Claims.CleanAt s c a ∧
                (Claims.RingFull s c → exec i s = .next (s.await .engineRing 0#64)) ∧
                (∀ e, Claims.LowestFree s c e → ∃ t : State, exec i s = .next t ∧ Claims.EntersBad s t e kind m.key a)) ∧
              (∀ d r, (∀ a ∈ recs, Claims.CleanAt s c a) → Claims.RecordOf s c dst d → Claims.RecordOf s c src r →
                (∀ tr a, s.checkPair c kind (d.toList ++ r.toList) (r.map Prod.fst) (d.map Prod.fst) = .error (tr, a) →
                  exec i s = s.raise s tr) ∧
                (s.checkPair c kind (d.toList ++ r.toList) (r.map Prod.fst) (d.map Prod.fst) = .ok () →
                  ∀ (o : EngOp) (gs : List Nat), o.kind = kind →
                  gs = (granuleBytes c (o.pairRanges (rawPair r d))).map Prod.fst →
                  (∀ tr, s.issueRace c gs = some tr → exec i s = s.raise s tr) ∧
                  (s.issueRace c gs = none →
                    (Claims.RingFull s c → exec i s = .next (s.await .engineRing 0#64)) ∧
                    (∀ e a, Claims.LowestFree s c e → s.predBad c (d.toList ++ r.toList) = some a →
                      (∃ q ∈ d.toList ++ r.toList, q.1.addr = a ∧ ¬ Claims.CleanRecords s c [q]) ∧
                      ∃ t : State, exec i s = .next t ∧ Claims.EntersBad s t e kind m.key a) ∧
                    (∀ e, Claims.LowestFree s c e → Claims.CleanRecords s c (d.toList ++ r.toList) →
                      ∃ t : State, exec i s = .next t ∧ t.cx.pc = s.cx.pc + 4#64 ∧
                      t.cx.wait = none ∧ t.cx.x = s.cx.x ∧
                      ((kind.dual = true ∨ ∀ q ∈ d.toList ++ r.toList, s.predHolds c q.1 = true) →
                        ∃ p, Claims.Enters s t e p ∧ p.kind = kind ∧ p.bits = i.bits.setWidth 32 ∧
                          p.dst0 = dst.getD 0#64 ∧ p.src0 = src.getD 0#64 ∧ p.bar = bar ∧ p.barKey = m.key ∧
                          p.pairs = [rawPair r d] ∧ t.live = s.live ∧
                          (∀ g ∈ gs.takeWhile fun g => !s.live.contains g, (g, c) ∈ t.inflight) ∧
                          (∀ g ∈ s.inflight, g ∈ t.inflight)))))))))))

/-- XAMO checks its block, its barrier and its device address in the order of R230, reads A and B of the block as it is
accepted and sets the block's granule IN-FLIGHT; XDISC checks its address and its length, a multiple of 64 KiB, and takes
an entry; both wait while the request ring is full (R226, R230, R237). -/
def Sys2Proof.Claims.AtomicAndDiscardIssue : Prop :=
  (∀ (s : State) (a b c : BitVec 5) (w : BitVec 1) (o : BitVec 4) (me n : Nat) (i : Instr), i = .xamo a b c w o →
    s.Issues i → me = s.cur.1 → n = (if o = 10#4 then 16 else if w = 1#1 then 8 else 4) →
    (∀ tr, Claims.opTrap me (s.x b) 64 = some tr → exec i s = s.raise s tr) ∧
    (Claims.opTrap me (s.x b) 64 = none →
      (∀ tr, Claims.opTrap me (s.x c) 16 = some tr → exec i s = s.raise s tr) ∧
      (Claims.opTrap me (s.x c) 16 = none →
        (∀ tr, s.check me (s.x b) 64 64 [.r] false = .error tr → exec i s = s.raise s tr) ∧
        (∀ m, s.check me (s.x b) 64 64 [.r] false = .ok m →
          (∀ tr, s.check me (s.x c) 16 16 [.r, .w] false = .error tr → exec i s = s.raise s tr) ∧
          (∀ q, s.check me (s.x c) 16 16 [.r, .w] false = .ok q →
            (s.isLive q.key = false → exec i s = s.raise s (trap cBarrierWord (s.x c))) ∧
            (s.isLive q.key = true →
              (bitOf (s.x a) 63 = false ∨ fld (s.x a) 54 9 ≠ 0 → exec i s = s.raise s (trap cAddr (s.x a))) ∧
              (bitOf (s.x a) 63 = true → fld (s.x a) 54 9 = 0 →
                ((s.x a).toNat % n ≠ 0 → exec i s = s.raise s (trap cAlign (s.x a))) ∧
                ((s.x a).toNat % n = 0 →
                  (∀ tr, s.check me (s.x b) 64 64 [.w] false = .error tr → exec i s = s.raise s tr) ∧
                  (∀ m', s.check me (s.x b) 64 64 [.w] false = .ok m' →
                    (∀ tr, s.issueRace me [granuleOf m.key] = some tr → exec i s = s.raise s tr) ∧
                    (s.issueRace me [granuleOf m.key] = none →
                      (Claims.RingFull s me → exec i s = .next (s.await .engineRing 0#64)) ∧
                      (∀ e, Claims.LowestFree s me e → ∃ t : State, ∃ p, exec i s = .next t ∧ Claims.Enters s t e p ∧
                        p.kind = .xamo o (w == 1#1) ∧ p.dst0 = s.x a ∧ p.src0 = s.x b ∧ p.bar = s.x c ∧
                        p.barKey = q.key ∧ p.opA.toNat = Claims.numAt s (m.key + 16) 16 ∧
                        p.opB.toNat = Claims.numAt s (m.key + 32) 16 ∧
                        (s.live.contains (granuleOf m.key) = false → (granuleOf m.key, me) ∈ t.inflight)))))))))))) ∧
  (∀ (s : State) (a b : BitVec 5), s.Issues (.xdisc a b) →
    (bitOf (s.x a) 63 = false ∨ fld (s.x a) 54 9 ≠ 0 ∨ (s.x a).toNat % 65536 ≠ 0 →
      exec (.xdisc a b) s = s.raise s (trap cAddr (s.x a))) ∧
    (bitOf (s.x a) 63 = true → fld (s.x a) 54 9 = 0 → (s.x a).toNat % 65536 = 0 →
      (s.x b = 0#64 ∨ (s.x b).toNat % 65536 ≠ 0 → exec (.xdisc a b) s = s.raise s (trap cAddr (s.x b))) ∧
      (s.x b ≠ 0#64 → (s.x b).toNat % 65536 = 0 →
        (Claims.RingFull s s.cur.1 → exec (.xdisc a b) s = .next (s.await .engineRing 0#64)) ∧
        (∀ e, Claims.LowestFree s s.cur.1 e → ∃ t : State, ∃ p, exec (.xdisc a b) s = .next t ∧ Claims.Enters s t e p ∧
          p.kind = .xdisc ∧ p.dst0 = s.x a ∧ p.len = s.x b ∧ t.inflight = s.inflight))))

/-- The instructions that issue a transfer, an atomic transfer or a discard to the engine, and what the checks of a
transfer's records are (R55, R223, R224, R225, R226, R227, R228, R229, R230, R237). The model's own choices in it are logs
60, 86 (RACE's TVAL), 95 (memory errors) and 104 (the record blamed for extents). -/
def Obligations.TransfersAreIssued : Prop :=
  Claims.TransfersIssue ∧ Claims.AtomicAndDiscardIssue ∧ Claims.RecordFields ∧ Claims.PairsAreChecked ∧
    Claims.IssueRaces

namespace Sys2Proof.Claims

/-- The operation handed back that a UIXFER value names is o, in entry e (Table 12-6, R235). -/
def Names (s : State) (v : BitVec 64) (e : Nat) (o : EngOp) : Prop :=
  fld v 52 12 = 0 ∧ e = fld v 48 4 ∧ s.op? s.cur.1 e = some o ∧ o.handed = true

/-- A status word whose barrier has been credited n bytes that it still expected, and marked ERR (R210, R213). -/
def CreditedErr (w w' : BitVec 64) (n : Nat) : Prop :=
  TbFields w' (bitOf w 63) true (bitOf w 61) (bitOf w 60 != decide (n ≠ 0 ∧ fld w 44 12 = 0 ∧ pendOf w = n))
    (fld w 56 4) (fld w 44 12) (fld w 32 12) ((pendOf w - n) % 2 ^ 32).toNat

end Sys2Proof.Claims

/-- XRESUME and XCANCEL of a value that names no handed back operation raise ADDR. XRESUME raises RACE as at issue, or
has the faulting pieces sent again in operation order; XCANCEL frees the entry, marks the barrier ERR and credits it with
what has not been delivered, or where a record was bad with all that it still expects, so that it can complete (R213,
R235). -/
def Sys2Proof.Claims.EngineControl : Prop :=
  ∀ (s : State) (a : BitVec 5) (c : Nat), c = s.cur.1 →
    (∀ i ∈ [Instr.xresume a, .xcancel a], s.Issues i → (∀ e o, ¬ Claims.Names s (s.x a) e o) →
      exec i s = s.raise s (trap cAddr (s.x a))) ∧
    (∀ e o, Claims.Names s (s.x a) e o →
      (s.Issues (.xresume a) →
        (∀ tr, s.issueRace c ((s.heldAgain c o).map Prod.fst) = some tr → exec (.xresume a) s = s.raise s tr) ∧
        (s.issueRace c ((s.heldAgain c o).map Prod.fst) = none → ∃ t : State, exec (.xresume a) s = .next t ∧
          Claims.GoesOn s t 0#5 ∧ t.cx.x = s.cx.x ∧ (∀ j, j ≠ e → t.op? c j = s.op? c j) ∧
          ((∀ k d, o.kind ≠ .xamo k d) → o.kind ≠ .xdisc → (o.phase ≠ .drained ∨ o.faults ++ o.resend ≠ []) →
            ∃ p, t.op? c e = some p ∧ p.resend.Perm (o.faults ++ o.resend) ∧
              p.resend.Pairwise (fun x y => x.before y = true) ∧ p.faults = [] ∧ p.bad = none ∧ p.stopped = false ∧
              p.handed = false ∧ p.kind = o.kind ∧ p.pairs = o.pairs ∧ p.tile = o.tile ∧ p.sent = o.sent ∧
              p.phase = o.phase ∧ p.slots = o.slots ∧ p.counted = o.counted ∧ p.barKey = o.barKey) ∧
          (((∃ k d, o.kind = .xamo k d) ∨ o.kind = .xdisc) →
            ∃ p, t.op? c e = some p ∧ p.phase = .send ∧ p.stopped = false ∧ p.handed = false ∧ p.kind = o.kind ∧
              p.dst0 = o.dst0 ∧ p.src0 = o.src0 ∧ p.opA = o.opA ∧ p.opB = o.opB ∧ p.barKey = o.barKey))) ∧
      (s.Issues (.xcancel a) →
        (o.kind = .xdisc → exec (.xcancel a) s = .next ((s.freeEntry c e).bump 4)) ∧
        (o.kind ≠ .xdisc → s.cur ∉ s.tbWaiters o.barKey → ∃ t : State, exec (.xcancel a) s = .next t ∧
          t.cx.pc = s.cx.pc + 4#64 ∧ t.cx.wait = none ∧ t.cx.x = s.cx.x ∧ t.op? c e = none ∧
          (∀ j, j ≠ e → t.op? c j = s.op? c j) ∧ SameBytesBut s t o.barKey 8 ∧
          (s.isLive o.barKey = true → ¬ Claims.doneOf (s.tbWord o.barKey) →
            (s.undelivered c o : Int) ≤ Claims.pendOf (s.tbWord o.barKey) →
            ((∀ b, o.bad = some b → b.empty = true) →
              Claims.CreditedErr (s.tbWord o.barKey) (t.tbWord o.barKey) (s.undelivered c o)) ∧
            (∀ b, o.bad = some b → b.empty = false →
              Claims.CreditedErr (s.tbWord o.barKey) (t.tbWord o.barKey) (Claims.pendOf (s.tbWord o.barKey)).toNat)) ∧
          (s.isLive o.barKey = false → t.mem = s.mem))))

namespace Sys2Proof.Claims

/-- A PTOUCH reaches a home of this module that has no mapping for its address, and no demand-allocated range (R349). -/
def TouchMisses (s : State) (c : Nat) (va : BitVec 64) : Prop :=
  (∃ h, s.homeFor (s.partOfCore c).hrt va = .ok h ∧ h < 40 ∧
    ∀ e, s.leafFor h (s.partOfCore c).fn (s.partOfCore c).pid (fld va 0 48) ≠ .ok e) ∧
  (s.fn (s.partOfCore c).fn).demandAt (fld va 0 48) = none

/-- The host driver is asked through the function's fault queue: a record of 32 bytes at its tail, with the VA, the PID, the
mode and a token; a full ring declines at once (R349, R415). -/
def AsksHost (s t : State) (c k : Nat) (va : BitVec 64) (m : BitVec 2) : Prop :=
  ∀ f n tok p, f = (s.partOfCore c).fn → n = (s.fn f).faultSlots → tok = (s.fn f).nextToken → p = (s.partOfCore c).pid →
    (n = 0 ∨ ((s.fn f).fqtail.toNat + 1) % n = (s.fn f).fqhead.toNat % n →
      (t.ctxAt c k).reply = some (.touched false) ∧ t.fn f = s.fn f) ∧
    (n ≠ 0 → ((s.fn f).fqtail.toNat + 1) % n ≠ (s.fn f).fqhead.toNat % n →
      (t.ctxAt c k).reply = some (.asked tok) ∧
      (t.fn f).faults = (s.fn f).faults ++ [FaultReq.mk tok va p m c k] ∧ (t.fn f).nextToken = tok + 1#32 ∧
      (t.fn f).fqtail = word (((s.fn f).fqtail.toNat + 1) % n) ∧
      ∃ bs, (t.fn f).records = ((s.fn f).fqbase + word (32 * ((s.fn f).fqtail.toNat % n)), bs) :: (s.fn f).records ∧
        bs.length = 32 ∧ fieldAt bs 0 8 = va.toNat ∧ fieldAt bs 8 2 = p.toNat ∧ fieldAt bs 10 1 = m.toNat ∧
        fieldAt bs 11 5 = 0 ∧ fieldAt bs 16 4 = tok.toNat ∧ fieldAt bs 20 12 = 0)

/-- A remainder of the core that came back with a cause for an address of va's page waits for its handler (R234). -/
def CameBack (s : State) (c va : Nat) (cause : HandBack) : Prop :=
  ∃ e o p v, e < 16 ∧ s.op? c e = some o ∧ o.handed = true ∧ p ∈ o.faults ∧ p.stage = .failed cause v ∧
    fld v 16 32 = va / 65536

/-- The tables that a walk of an address goes through, from one on. -/
def way (s : State) (home loc va : Nat) : List Nat → List Nat
  | [] => [loc]
  | l :: ls => loc :: (if entryKind l (s.entryAt home loc l va) = some .table
      then way s home (locatorOf (s.entryAt home loc l va)) va ls else [])

/-- The locators that each home has never given out name no entry and no block (R347). -/
def Unused (s : State) : Prop :=
  ∀ home, home < 40 → (s.base home).nextLoc + 64 ≤ 2 ^ 32 ∧ ∀ loc, (s.base home).nextLoc ≤ loc → loc < 2 ^ 32 →
    (∀ i, i < 512 → amGet 0#64 s.tables ((home * 2 ^ 32 + loc) * 512 + i) = 0#64) ∧
    (∀ i, i < 256 → amGet? s.blocks ((home * 2 ^ 32 + loc) * 256 + i) = none)

/-- A home may map an address of a function for a PID: the PID's root is the function's, the tables on the way are
different ones that the home has given out, and no piece of the page is mapped. -/
def MayMap (s : State) (home fn : Nat) (pid : BitVec 12) (va : Nat) (big : Bool) : Prop :=
  s.root fn pid = some (rootLoc fn) ∧ (way s home (rootLoc fn) va [0, 1, 2]).Nodup ∧
    (∀ l ∈ way s home (rootLoc fn) va [0, 1, 2], l < (s.base home).nextLoc) ∧ Unused s ∧ s.ownHome fn va = some home ∧
    (∀ pg, (if big = true then pg / 32 = va / 2 ^ 21 else pg = va / 2 ^ 16) → amGet? s.pages (fn * 2 ^ 32 + pg) = none)

end Sys2Proof.Claims

/-- PTOUCH raises ADDR for an address that is no device VA; else it waits, and a page that is neither present nor
demand-allocated is asked of the host through the function's fault queue, or declined at once while that ring is full.
PTOUCH_RESOLVED completes it on a page that allows its mode, maps a demand-allocated page with every block ZERO-EMPTY, or
raises PROT, also for a block that cannot be read; it asks the host where the page has gone meanwhile, and waits for a page
that the host has been asked for; in write mode on an address that came back with OUT_OF_SPACE it completes where the
gleaner leaves 4 sectors of growth, and in atomic mode on one that came back with ATOMIC_PATH it raises PROT. DISCARD_ACCEPT
marks every 64 KiB piece of an XDISC that its home serves, or keeps the failed ones as the remainder (R234, R236, R237,
R349, R357, R360, R415). -/
def Sys2Proof.Claims.PagesAndDiscard : Prop :=
  (∀ (s : State) (a : BitVec 5) (m : BitVec 2) (c k f : Nat), s.Issues (.ptouch a m) → (c, k) = s.cur →
    f = (s.partOfCore c).fn →
    (bitOf (s.x a) 63 = false ∨ fld (s.x a) 54 9 ≠ 0 → exec (.ptouch a m) s = s.raise s (trap cAddr (s.x a))) ∧
    (bitOf (s.x a) 63 = true → fld (s.x a) 54 9 = 0 → s.cx.wait = none →
    ∃ t : State, ∃ w, exec (.ptouch a m) s = .next t ∧
      t.cx.wait = some w ∧ w.kind = .ptouch m.toNat ∧ w.tval = s.x a ∧ t.cx.pc = s.cx.pc ∧ t.cx.x = s.cx.x ∧
      t.mem = s.mem ∧ t.pages = s.pages ∧
      (¬ Claims.TouchMisses s c (s.x a) → t.cx.reply = none ∧ t.fn f = s.fn f) ∧
      (Claims.TouchMisses s c (s.x a) → Claims.AsksHost s t c k (s.x a) m))) ∧
  (∀ (s : State) (c k mode o f h : Nat) (w : Wait) (pid : BitVec 12) (done stop : State → Host.Outcome State Fault Refusal)
      (walk : Option HandBack), s.runs c = true →
    (s.ctxAt c k).wait = some w → w.kind = .ptouch mode → mode < 4 → o = fld w.tval 0 48 → f = (s.partOfCore c).fn →
    pid = (s.partOfCore c).pid → walk = s.walk h f pid o (mode != 0) →
    done = (fun t => .next (t.modCtxAt c k fun y => { y with pc := y.pc + 4#64, wait := none, reply := none })) →
    stop = (fun t => .next (t.takeTrap c k (trap cProt w.tval) (s.ctxAt c k).pc [] (s.ctxAt c k).pc)) →
    ((∀ h, s.homeFor (s.partOfCore c).hrt w.tval ≠ .ok h) → exec (.ptouchResolved c k) s = stop s) ∧
    (s.homeFor (s.partOfCore c).hrt w.tval = .ok h →
      (40 ≤ h → pid.toNat < 2048 → exec (.ptouchResolved c k) s = stop s) ∧
      (h < 40 → walk = none →
        (s.blockFail h f o ≠ none ∨ (mode = 2 ∧ Claims.CameBack s c o .atomicPath) →
          exec (.ptouchResolved c k) s = stop s) ∧
        (s.blockFail h f o = none → (mode = 2 → ¬ Claims.CameBack s c o .atomicPath) →
          (¬ (mode = 1 ∧ h < 32 ∧ Claims.CameBack s c o .outOfSpace) → exec (.ptouchResolved c k) s = done s) ∧
          (mode = 1 → h < 32 → Claims.CameBack s c o .outOfSpace → ∀ t, t = (s.touchWrite (s.pidOf c) h).1 →
            (4 ≤ t.growth (s.pidOf c) h → exec (.ptouchResolved c k) s = done t) ∧
            (t.growth (s.pidOf c) h < 4 → exec (.ptouchResolved c k) s = stop t)))) ∧
      (h < 40 → walk = some .perm → exec (.ptouchResolved c k) s = stop s) ∧
      (h < 40 → walk = some .notPresent →
        ((s.fn f).demandAt o = none →
          ((s.ctxAt c k).reply = some (.touched false) → exec (.ptouchResolved c k) s = stop s) ∧
          ((s.ctxAt c k).reply = none → ∃ t : State, exec (.ptouchResolved c k) s = .next t ∧
            (t.ctxAt c k).wait = some w ∧ t.pages = s.pages ∧ t.mem = s.mem ∧
            Claims.AsksHost s t c k w.tval (BitVec.ofNat 2 mode)) ∧
          (∀ tok, (s.ctxAt c k).reply = some (.asked tok) →
            exec (.ptouchResolved c k) s = notNow "PTOUCH_RESOLVED")) ∧
        (∀ d, (s.fn f).demandAt o = some d → (if mode = 0 then d.r else d.w) = true → Claims.MayMap s h f pid o d.big →
          ∃ t : State, exec (.ptouchResolved c k) s = .next t ∧
            (∀ write, t.walk h f pid o write = if (if write = true then d.w else d.r) = true then none else some .perm) ∧
            (t.ctxAt c k).pc = (s.ctxAt c k).pc + 4#64 ∧ (t.ctxAt c k).wait = none ∧
            (∀ b, b / 256 = o / 65536 → t.blockOf h f b = BlockEntry.empty ∧
              t.blockBytes h f b = List.replicate 256 0#8))))) ∧
  (∀ (s : State) (c e : Nat) (op : EngOp), s.op? c e = some op → op.kind = .xdisc → op.handed = false →
  op.stopped = false →
    op.resend = [] → s.runs c = true →
    let va := fun i : Nat => op.dst0 + word (65536 * i)
    let key := fun i : Nat => pageKey (s.partOfCore c).fn (fld (va i) 0 48)
    let served := fun i : Nat => ∃ h, s.homeFor (s.partOfCore c).hrt (va i) = .ok h ∧
      s.walk h (s.partOfCore c).fn (s.partOfCore c).pid (fld (va i) 0 48) true = none
    (∀ i h, i < op.len.toNat / 65536 → s.homeFor (s.partOfCore c).hrt (va i) = .ok h → h < 40) →
    ∃ t : State, exec (.discardAccept c e) s = .next t ∧ t.mem = s.mem ∧ t.blocks = s.blocks ∧
      (∀ i g, i < op.len.toNat / 65536 → served i → amGet? s.pages (key i) = some g →
        amGet? t.pages (key i) = some { g with discard := true, marker := (s.partOf (clusterOf c)).getD 0 }) ∧
      ((∀ i, i < op.len.toNat / 65536 → served i) → t.op? c e = none) ∧
      ((∃ i, i < op.len.toNat / 65536 ∧ ¬ served i) → ∃ p, t.op? c e = some p ∧ p.stopped = true ∧
        ∀ i, i ∈ p.faults.map Piece.lo ↔ i < op.len.toNat / 65536 ∧ ¬ served i))

/-- XRESUME, XCANCEL, PTOUCH and what a discard does to its pages (R213, R234, R235, R236, R237, R349, R357, R360,
R415). The model's own choices in it are logs 12, 21, 22, 96 (a page that came back) and 97 (locators). -/
def Obligations.EngineInstructions : Prop :=
  Claims.EngineControl ∧ Claims.PagesAndDiscard

namespace Sys2Proof.Claims

/-- The address of the element at tensor coordinates x of a record; for E2M1 that of its byte (R224). -/
def addrOf (r : LRec) (x : Nat → Int) : BitVec 64 :=
  r.base + BitVec.ofInt 64 (x 0 * tagWidth r.tag / 8 + x 1 * r.stride.getD 1 0 + x 2 * r.stride.getD 2 0 +
    x 3 * r.stride.getD 3 0 + x 4 * r.stride.getD 4 0)

/-- Coordinates that lie in a record's tensor. -/
abbrev Inside (r : LRec) (x : Nat → Int) : Prop := ∀ d, d < 5 → 0 ≤ x d ∧ x d < r.size.getD d 1

/-- Tensor coordinates of box coordinates. -/
def boxAt (r : LRec) (c : Nat → Nat) : Nat → Int := fun d => r.org.getD d 0 + c d

/-- A record of one tile with all five dimensions. -/
def PlainBox (r : LRec) : Prop := FiveDims r ∧ r.rep = 0

/-- The row of box coordinates, over dimensions 1 and up, and the index of their block's entry (R224). -/
def rowOf (r : LRec) (c : Nat → Nat) : Nat :=
  c 1 + r.ext.getD 1 1 * (c 2 + r.ext.getD 2 1 * (c 3 + r.ext.getD 3 1 * c 4))
def entryOf (r : LRec) (c : Nat → Nat) : Nat := rowOf r c * ((r.ext.getD 0 1 + 31) / 32) + c 0 / 32

/-- Bytes of an entry of a scale array, and the entry's address. -/
def entryLen (r : LRec) : Nat := if r.tag = 12#4 then 2 else 1
def entryAt (r : LRec) (b : Nat) : BitVec 64 := r.fill + word (b * entryLen r)

/-- The code of a source element: FILL outside the tensor, or code 0 in a scaled one (R224). -/
def sourceCode (s : State) (core : Nat) (r : LRec) (x : Nat → Int) : Nat :=
  if Inside r x then
    if tagWidth r.tag = 4 then s.engNum core (addrOf r x) 1 / (if x 0 % 2 = 0 then 1 else 16) % 16
    else s.engNum core (addrOf r x) (tagWidth r.tag / 8)
  else if tagS r.tag = true then 0 else r.fill.toNat % 2 ^ tagWidth r.tag

/-- The value of a source element, with the scale and special value of the entry that box coordinates name (R70, R224). -/
def sourceNum (s : State) (core : Nat) (r : LRec) (x : Nat → Int) (c : Nat → Nat) : Machine.Num :=
  if Inside r x ∧ tagS r.tag = true then
    elemValue r.tag (s.engNum core (entryAt r (entryOf r c)) (entryLen r) % 256)
      (s.engNum core (entryAt r (entryOf r c)) (entryLen r) / 256) (sourceCode s core r x)
  else elemValue r.tag 127 0 (sourceCode s core r x)

/-- J of a source element (R76): its linear index in its tensor. -/
def sourceJ (r : LRec) (x : Nat → Int) : BitVec 64 :=
  BitVec.ofInt 64 (x 0 + x 1 * r.size.getD 0 1 + x 2 * (r.size.getD 0 1 * r.size.getD 1 1 : Nat) +
    x 3 * (r.size.getD 0 1 * r.size.getD 1 1 * r.size.getD 2 1 : Nat) +
    x 4 * (r.size.getD 0 1 * r.size.getD 1 1 * r.size.getD 2 1 * r.size.getD 3 1 : Nat))

/-- The rows that a COMPACT keeps: those whose mask byte is not 0. -/
def kept (s : State) (core : Nat) (d : LRec) : List Nat :=
  (List.range (d.ext.getD 1 1)).filter fun i => decide (s.engNum core (d.fill + word (8 + i)) 1 ≠ 0)

/-- The box and tensor coordinates of the source element that goes to destination coordinates (Table 8-8). -/
def cameFrom (k : BitVec 4) (t : Bool) (c : Nat → Nat) : Nat → Nat :=
  if Swaps k t then fun j => if j = 0 then c 1 else if j = 1 then c 0 else c j else c
def sourceAt (s : State) (core : Nat) (k : BitVec 4) (t : Bool) (r d : LRec) (c : Nat → Nat) : Nat → Int :=
  if k = 9#4 then Function.update (boxAt r c) 1 (s.engNum core (d.fill + word (4 * c 1)) 4)
  else if k = 10#4 then boxAt r (Function.update c 1 ((kept s core d).getD (c 1) 0))
  else boxAt r (cameFrom k t c)

/-- The rounding of a destination element whose J is j (R74, R76). -/
def roundingOf (s : State) (core : Nat) (d : LRec) (j : BitVec 64) : Rnd :=
  { mode := d.rm, seed := (s.core core).srseed, j := j }

/-- The scale of a QUANT_TILE; none where every element becomes NaN. -/
def tileScaleOf (s : State) (core : Nat) (d : LRec) : Option Machine.Num :=
  if d.sfp32 = true then
    let x := fp32.decode (s.engNum core d.fill 4)
    if x.isNan = true ∨ x.isZero = true ∨ x.isNeg = true then none else some x
  else if s.engNum core d.fill 1 = 255 then none else some (Machine.Num.mk' false 1 ((s.engNum core d.fill 1 : Int) - 127))

/-- Destination coordinate i of the block of a quantisation that holds c: along dimension 0, or for the second output of
a QUANT_DUAL along dimension 1. -/
def blockAt (dual : Bool) (c : Nat → Nat) (i : Nat) : Nat → Nat :=
  if dual = true then Function.update c 1 (32 * (c 1 / 32) + i) else Function.update c 0 (32 * (c 0 / 32) + i)

/-- The quantised block that holds destination coordinates (R78, R79). -/
def blockFor (s : State) (core : Nat) (t : Bool) (r d : LRec) (dual : Bool) (c : Nat → Nat) : QBlock :=
  quantBlock (tagFmt d.tag)
    (fun i => roundingOf s core d (if i < 32 then sourceJ r (boxAt r (cameFrom 6#4 t (blockAt dual c i))) else 0#64))
    ((List.range 32).map fun i =>
      sourceNum s core r (boxAt r (cameFrom 6#4 t (blockAt dual c i))) (cameFrom 6#4 t (blockAt dual c i)))

/-- The code that a transform delivers at destination coordinates (Table 8-8). -/
def codeAt (s : State) (core : Nat) (k : BitVec 4) (t : Bool) (src : Option LRec) (d : LRec) (dual : Bool)
    (c : Nat → Nat) : Nat :=
  match src with
  | none => d.fill.toNat % 2 ^ tagWidth d.tag
  | some r =>
    let x := sourceAt s core k t r d c
    let code := sourceCode s core r x
    let v := sourceNum s core r x (cameFrom k t c)
    let rn := roundingOf s core d (sourceJ r x)
    match k.toNat with
    | 3 | 4 => (convert d.tag d.sat rn r.tag v ((tagInt r.tag).value code)).code
    | 5 => match tileScaleOf s core d with
      | none => (tagFmt d.tag).nanCode
      | some y => (roundTo (tagFmt d.tag) d.sat rn (divNum v y).v).code
    | 6 | 7 => (blockFor s core t r d dual c).codes.getD (if dual = true then c 1 % 32 else c 0 % 32) 0
    | 8 => (roundTo (tagFmt d.tag) d.sat rn v).code
    | _ => code

/-- The bytes of an element, or of two E2M1 elements, that a box delivers, and whether they are the lower half of a byte
alone (R224). -/
def DataUnit (s : State) (core : Nat) (k : BitVec 4) (t : Bool) (src : Option LRec) (d : LRec) (dual : Bool)
    (a : BitVec 64) (bs : List (BitVec 8)) (low : Bool) : Prop :=
  ∃ c : Nat → Nat, (∀ j, j < 5 → c j < if j = 1 ∧ k = 10#4 then (kept s core d).length else d.ext.getD j 1) ∧
    Inside d (boxAt d c) ∧ a = addrOf d (boxAt d c) ∧
    (tagWidth d.tag ≠ 4 → bs = natBytes (tagWidth d.tag / 8) (codeAt s core k t src d dual c) ∧ low = false) ∧
    (tagWidth d.tag = 4 → c 0 % 2 = 0 ∧ ∀ c', c' = Function.update c 0 (c 0 + 1) →
      (Inside d (boxAt d c') → low = false ∧
        bs = [BitVec.ofNat 8 (codeAt s core k t src d dual c + 16 * codeAt s core k t src d dual c')]) ∧
      (¬ Inside d (boxAt d c') → low = true ∧ bs = [BitVec.ofNat 8 (codeAt s core k t src d dual c)]))

/-- An entry of the destination's scale array: copied, or of a quantised block, where a QUANT_DUAL's second output has
that of block row rb and column c at rb × (EXT0 + 1) + c (R224, Table 8-8). -/
def ScaleUnit (s : State) (core : Nat) (k : BitVec 4) (t : Bool) (src : Option LRec) (d : LRec) (dual : Bool)
    (a : BitVec 64) (bs : List (BitVec 8)) : Prop :=
  ∃ r c, src = some r ∧ (∀ j, j < 5 → c j < d.ext.getD j 1) ∧
    ((k = 0#4 ∧ tagS d.tag = true ∧ a = entryAt d (entryOf d c) ∧
        bs = natBytes (entryLen d) (s.engNum core (entryAt r (entryOf d c)) (entryLen d))) ∨
      ((k = 6#4 ∨ k = 7#4) ∧
        a = entryAt d (if dual = true then
          ((c 2 + d.ext.getD 2 1 * (c 3 + d.ext.getD 3 1 * c 4)) * (d.ext.getD 1 1 / 32) + c 1 / 32) * d.ext.getD 0 1 + c 0
          else entryOf d c) ∧
        bs = natBytes (entryLen d)
          ((blockFor s core t r d dual c).scale + 256 * (blockFor s core t r d dual c).spec)))

end Sys2Proof.Claims

/-- What a transform delivers from a box of one record to a box of another: at the address of each destination element
that lies in its tensor, the code that Table 8-8 gives it from the source element that goes there, FILL or code 0 where that
lies outside the source tensor; the scale array of a copy or quantisation; and the count of a COMPACT. E2M1 elements go by
pairs, or by the lower half of a byte at the tensor's edge (R70, R76, R78, R79, R223, R224, R228). A number that the engine
reads on the chip is that of the bytes at its address. The model's own choice in it is log 62. -/
def Obligations.CopyDeliversTheBox : Prop :=
  (∀ (s : State) (core n : Nat) (ea : BitVec 64) (m : Mesh), bitOf ea 63 = false → resolve core ea n = some m →
    s.engNum core ea n = Claims.numAt s m.key n) ∧
  ∀ (s : State) (core : Nat) (k : BitVec 4) (t dual : Bool) (src : Option LRec) (d : LRec) (a : BitVec 64)
      (bs : List (BitVec 8)) (low : Bool),
    k.toNat ≤ 10 → (k = 1#4 ↔ src = none) → (dual = true → k = 7#4) → Claims.suits k (src.map LRec.tag) d.tag →
    (∀ r ∈ d :: src.toList, Claims.PlainBox r) → (∀ r ∈ src, Claims.seenExt k t r = d.ext) →
    (k = 9#4 ∨ k = 10#4 → d.ext.drop 2 = [1, 1, 1] ∧ t = false) → (k = 6#4 ∨ k = 7#4 → d.ext.getD 0 1 % 32 = 0) →
    (k = 7#4 → d.ext.getD 1 1 % 32 = 0) → (d.tag = 12#4 → d.org.getD 0 0 % 2 = 0 ∧ d.ext.getD 0 1 % 2 = 0) →
    ((∃ u ∈ s.boxUnits core k t src d d dual 0 0, u.addr = a ∧ u.bytes = bs ∧ u.low = low) ↔
      Claims.DataUnit s core k t src d dual a bs low ∨
      (low = false ∧ Claims.ScaleUnit s core k t src d dual a bs) ∨
      (low = false ∧ k = 10#4 ∧ a = d.fill ∧ bs = natBytes 4 (Claims.kept s core d).length))

/-- LAYOUT_RECORD_READ ends the operation by a record. -/
def Sys2Proof.Claims.EndsAt (s : State) (core e : Nat) (o : EngOp) (a : BitVec 64) (cause : HandBack) : Prop :=
  exec (.layoutRecordRead core e) s =
    .next (s.setOp core e { o with bad := some ⟨a, false, cause⟩, stopped := true })

/-- A chain's next record cannot be read, or not for a memory error. -/
def Sys2Proof.Claims.Unread (s : State) (core : Nat) (a : BitVec 64) (cause : HandBack) : Prop :=
  (∃ tr, s.readRecord core a = .error tr ∧ cause = .perm) ∨
    (∃ r, s.readRecord core a = .ok r ∧ ¬ Claims.CleanAt s core a ∧ cause = .poison)

/-- After the last tile of a pair: both chains end and the operation has all been sent, both go on to their next records,
or one has a record more than the other, and the operation ends there with PERM and an empty remainder (R225). -/
def Sys2Proof.Claims.ChainsEndTogether : Prop :=
  ∀ (o : EngOp) (d r : LRec) (p : RecPair), o.pairs ≠ [] → p = o.pair o.cur → (p.dst2.orElse fun _ => p.dst) = some d →
    p.src = some r → o.tiles p ≤ o.tile + 1 →
    (d.next = 0#64 → r.next = 0#64 → o.afterTile = { o with phase := .drained }) ∧
    (d.next ≠ 0#64 → r.next ≠ 0#64 → o.afterTile = { o with phase := .record }) ∧
    (∀ a, (d.next = 0#64 ∧ r.next ≠ 0#64 ∧ a = r.addr) ∨ (d.next ≠ 0#64 ∧ r.next = 0#64 ∧ a = d.addr) →
      o.afterTile = { o with phase := .drained, bad := some ⟨a, true, .perm⟩, stopped := true })

/-- A piece is the next units of its tile: at most 512 bytes, of one 256-byte block where they go to device memory (R231,
R357). -/
def Sys2Proof.Claims.PiecesAreShort : Prop :=
  ∀ (s : State) (core take lo hi : Nat) (o : EngOp) (us : List RawUnit), us = s.units core o o.cur o.tile → 0 < take →
    s.nextPiece core o take = some (lo, hi) →
    lo = o.sent ∧ lo < hi ∧ hi ≤ us.length ∧ unitBytes ((us.take hi).drop lo) ≤ 512 ∧
      ∀ u ∈ (us.take hi).drop lo, ∀ v ∈ (us.take hi).drop lo,
        bitOf u.addr 63 = bitOf v.addr 63 ∧ (bitOf u.addr 63 = true → fld u.addr 8 46 = fld v.addr 8 46)

/-- LAYOUT_RECORD_READ reads and checks the next records of a pair's chains, or ends the operation with the bad record;
ENGINE_SLOT_CLAIM claims the slot at TAIL of a ring for a tile, and XPUB_SLOT_TAKE takes the one at HEAD; PIECE_SEND
sends the next piece of the ring whose turn it is, within its deficit (R225, R227, R229, R231, R239, R247). -/
def Sys2Proof.Claims.TheEngineWorks : Prop :=
  ∀ (s : State) (core e : Nat) (o : EngOp), s.op? core e = some o → s.runs core = true → o.stopped = false →
    o.handed = false →
    (o.resend = [] → o.phase = .record →
      (∀ a, o.nextDst = some a → 4096 ≤ o.dstRead → Claims.EndsAt s core e o a .perm) ∧
      (∀ a, (∀ b, o.nextDst = some b → o.dstRead < 4096) → o.nextSrc = some a → 4096 ≤ o.srcRead →
        Claims.EndsAt s core e o a .perm) ∧
      ((∀ a, o.nextDst = some a → o.dstRead < 4096) → (∀ a, o.nextSrc = some a → o.srcRead < 4096) →
        (∀ a cause, o.nextDst = some a → Claims.Unread s core a cause → Claims.EndsAt s core e o a cause) ∧
        (∀ a cause, (∀ b f, o.nextDst = some b → ¬ Claims.Unread s core b f) → o.nextSrc = some a →
          Claims.Unread s core a cause → Claims.EndsAt s core e o a cause) ∧
        (∀ d r chk, s.readNext core o.nextDst = .ok d → s.readNext core o.nextSrc = .ok r →
          (∀ a ∈ o.nextDst.toList ++ o.nextSrc.toList, Claims.CleanAt s core a) →
          chk = s.checkPair core o.kind (d.toList ++ r.toList) (r.map Prod.fst) (d.map Prod.fst) →
          (∀ tr a, chk = .error (tr, a) → Claims.EndsAt s core e o a .perm) ∧
          (∀ q, d = some q → chk = .ok () → s.meets o (granuleBytes core (o.pairRanges (rawPair r d))) = true →
            Claims.EndsAt s core e o q.1.addr .perm) ∧
          (∀ a, chk = .ok () → s.meets o (granuleBytes core (o.pairRanges (rawPair r d))) = false →
            s.predBad core (d.toList ++ r.toList) = some a → Claims.EndsAt s core e o a .poison)) ∧
        (∀ d r, s.readNext core o.nextDst = .ok d → s.readNext core o.nextSrc = .ok r →
          (∀ a ∈ o.nextDst.toList ++ o.nextSrc.toList, Claims.CleanAt s core a) →
          s.checkPair core o.kind (d.toList ++ r.toList) (r.map Prod.fst) (d.map Prod.fst) = .ok () →
          s.meets o (granuleBytes core (o.pairRanges (rawPair r d))) = false →
          Claims.CleanRecords s core (d.toList ++ r.toList) →
          (o.kind.dual = true ∨ ∀ q ∈ d.toList ++ r.toList, s.predHolds core q.1 = true) →
          ∃ t : State, ∃ p, exec (.layoutRecordRead core e) s = .next t ∧ t.mem = s.mem ∧ t.cores = s.cores ∧
            t.op? core e = some p ∧ p.pairs = o.pairs ++ [rawPair r d] ∧
            p.dstRead = o.dstRead + (if d = none then 0 else 1) ∧ p.srcRead = o.srcRead + (if r = none then 0 else 1) ∧
            (o.kind.dual = false → p.tile = 0 ∧ p.sent = 0 ∧ (p.phase = .slot ∨ p.phase = .send))))) ∧
    (∀ n g, o.phase = .slot → g = s.ring (clusterOf core) n → g.en = true →
      (o.ringOf (o.pair o.cur) o.tile = some (n, true) →
        g.slot g.tail ≠ .free ∨ s.meets o (s.tileGranules core (o.withSlot g.tail)) = true →
        exec (.engineSlotClaim core e) s = notNow "ENGINE_SLOT_CLAIM") ∧
      (o.ringOf (o.pair o.cur) o.tile = some (n, true) → g.slot g.tail = .free →
        s.meets o (s.tileGranules core (o.withSlot g.tail)) = false → ∃ t p,
        exec (.engineSlotClaim core e) s = .next t ∧ t.mem = s.mem ∧ t.op? core e = some p ∧ p.phase = .send ∧
        p.slots = o.slots ++ [{ recn := o.cur, tile := o.tile, slot := g.tail, done := 0 }] ∧
        t.ring (clusterOf core) n =
          { g with slots := g.slots.set g.tail .claimed, tail := (g.tail + 1) % g.count }) ∧
      (o.ringOf (o.pair o.cur) o.tile = some (n, false) →
        g.slot g.head ≠ .committed ∨ Claims.UnitTakes s (clusterOf core) n →
        exec (.xpubSlotTake core e) s = notNow "XPUB_SLOT_TAKE") ∧
      (o.ringOf (o.pair o.cur) o.tile = some (n, false) → g.slot g.head = .committed →
        ¬ Claims.UnitTakes s (clusterOf core) n → ∃ t p,
        exec (.xpubSlotTake core e) s = .next t ∧ t.mem = s.mem ∧ t.op? core e = some p ∧ p.phase = .send ∧
        p.slots = o.slots ++ [{ recn := o.cur, tile := o.tile, slot := g.head, done := 0 }] ∧
        t.ring (clusterOf core) n =
          { g with slots := g.slots.set g.head .taken, head := (g.head + 1) % g.count })) ∧
    (∀ take lo hi need, 0 < take → o.phase = .send → o.resend = [] → o.lastAlone = false → (∀ k d, o.kind ≠ .xamo k d) →
    o.kind ≠ .xdisc → unitBytes (s.units core o o.cur o.tile) ≠ 0 →
      (s.cluster (clusterOf core)).turn = inCluster core → need = s.pieceNeed core o take →
      need ≤ (s.core core).deficit → s.nextPiece core o take = some (lo, hi) →
      ∃ t : State, ∃ p q, exec (.enginePieceSend core ⟨e, take⟩) s = .next t ∧ t.mem = s.mem ∧
      t.op? core e = some p ∧
        p.flying = o.flying ++ [q] ∧ q.recn = o.cur ∧ q.tile = o.tile ∧ q.lo = lo ∧ q.hi = hi ∧
        (t.core core).deficit = (if t.ringWork core = [] then 0 else (s.core core).deficit - need) ∧
        (∀ raw, raw = s.pieceRaw core o q → (∀ x ∈ o.seen, x.recn ≠ o.cur ∨ x.tile ≠ o.tile) →
          (∀ u ∈ raw, bitOf u.addr 63 = false ∧ ∀ x ∈ u.reads, bitOf x.1 63 = false ∧
            ∀ m, resolve core x.1 x.2 = some m → m.cluster = clusterOf core) →
          s.lostPlace core raw = none → s.badSource core (raw.flatMap RawUnit.reads) = none →
          q.stage = .here ∧ q.data = outUnits core raw))

namespace Sys2Proof.Claims

/-- Byte a belongs to a unit that lies at a place of on-chip memory. -/
def InUnit (u : OutUnit) (a : Nat) : Prop := ∃ k, u.loc = .mesh k ∧ k ≤ a ∧ a < k + u.bytes.length

/-- The units of a piece write no byte twice, and none of them shares its byte with its neighbour. -/
def Disjoint (us : List OutUnit) : Prop :=
  us.Pairwise (fun u v => ∀ a, ¬ (InUnit u a ∧ InUnit v a)) ∧ ∀ u ∈ us, u.low = false

/-- Table 12-7: INT and SUB of each cause of a hand-back (R232). -/
def causes : List (HandBack × Nat × Nat) :=
  [(.notPresent, 2, 1), (.perm, 2, 2), (.outOfSpace, 3, 3), (.atomicPath, 4, 4), (.poison, 2, 5),
   (.barrierOverlap, 2, 6), (.integrity, 10, 5)]

/-- One event more is in the event queue of a core: the last, but for events of this very cycle, which stand in the order of
Table 1-6 (R27). -/
def Entered (s t : State) (c : Nat) (x : HelperEvent) : Prop :=
  (t.core c).events.Perm (x :: (s.core c).events) ∧ x.entered = s.now ∧
    ((∀ y ∈ (s.core c).events, y.entered < s.now) → (t.core c).events = (s.core c).events ++ [x])

end Sys2Proof.Claims

/-- A piece that lands, once every write of it to another cluster is there, writes its bytes and no others, and credits them
to its barrier, unless a LIVE granule stops it: then the rest fails with BARRIER_OVERLAP. The last bytes of a tile that
holds a slot commit the slot, or free it for an XPUB; in a wrong state of the slot the piece fails with PERM. A fault that reaches the engine stops its sending; when nothing is in flight
the remainder is handed back: its IN-FLIGHT bits go, and the issuing core is told the cause and the address of the first
faulting piece, or of the bad record (R55, R56, R59, R210, R229, R232, R233, R305). -/
def Sys2Proof.Claims.PiecesLandOrComeBack : Prop :=
  (∀ (s : State) (core e id n : Nat) (o : EngOp) (p : Piece), e < 16 → s.op? core e = some o →
    (o.flying.find? fun q => q.id == id) = some p → p.stage = .here → o.barKey % 16 = 0 →
    n = (p.data.map fun u => u.bytes.length).sum →
    (s.landingsHere core e id = false → exec (.pieceLand core e id) s = notNow "PIECE_LAND") ∧
    (∀ (sl : TileSlot) (r : Nat) (claims : Bool) (g : Ring) (want : SlotState), s.landingsHere core e id = true →
      (∀ u ∈ p.data, s.liveAt u = none) → 0 < n → o.lastAlone = false → o.slotOf p.recn p.tile = some sl →
      o.ringOf (o.pair p.recn) p.tile = some (r, claims) → g = s.ring (clusterOf core) r →
      want = (if claims = true then .claimed else .taken) → ∃ t : State, exec (.pieceLand core e id) s = .next t ∧
        (sl.done + n < unitBytes (s.units core o p.recn p.tile) → t.ring (clusterOf core) r = g) ∧
        (unitBytes (s.units core o p.recn p.tile) ≤ sl.done + n → g.slot sl.slot = want →
          t.ring (clusterOf core) r =
            { g with slots := g.slots.set sl.slot (if claims = true then .committed else .free) }) ∧
        (unitBytes (s.units core o p.recn p.tile) ≤ sl.done + n → g.slot sl.slot ≠ want →
          t.mem = s.mem ∧ t.ring (clusterOf core) r = g ∧ ∃ q v, t.op? core e = some q ∧
            (q.flying.find? fun x => x.id == id) = some { p with stage := .failed .perm v })) ∧
    (s.landingsHere core e id = true → o.slotOf p.recn p.tile = none → (∀ u ∈ p.data, s.liveAt u = none) → 0 < n → ∃ t : State, exec (.pieceLand core e id) s = .next t ∧
      (∀ a, (∀ u ∈ p.data, ¬ Claims.InUnit u a) → (a < o.barKey ∨ o.barKey + 8 ≤ a) → memGet t.mem a = memGet s.mem a) ∧
      (Claims.Disjoint p.data → ∀ u ∈ p.data, ∀ k j, u.loc = .mesh k → j < u.bytes.length →
        memGet t.mem (k + j) = u.bytes.getD j 0#8) ∧
      (∀ w, w = s.tbWord o.barKey → s.isLive o.barKey = true → ¬ Claims.doneOf w → (n : Int) ≤ Claims.pendOf w →
        Claims.TbFields (t.tbWord o.barKey) (bitOf w 63) (bitOf w 62) (bitOf w 61)
          (bitOf w 60 != decide (fld w 44 12 = 0 ∧ Claims.pendOf w = n)) (fld w 56 4) (fld w 44 12) (fld w 32 12)
          (Claims.pendOf w - n).toNat)) ∧
    (∀ u us g, s.landingsHere core e id = true → o.slotOf p.recn p.tile = none → p.data = u :: us →
      s.liveAt u = some g → ∃ t : State, ∃ q, exec (.pieceLand core e id) s = .next t ∧
      t.mem = s.mem ∧ t.op? core e = some q ∧
      (q.flying.find? fun x => x.id == id) =
        some { p with data := [], stage := .failed .barrierOverlap (keyWord g) })) ∧
  (∀ (s : State) (core e id : Nat) (o : EngOp) (p : Piece) (c : HandBack) (v : BitVec 64), s.op? core e = some o →
    (o.flying.find? fun q => q.id == id) = some p → p.stage = .failed c v →
    exec (.pieceFault core e id) s = .next (s.setOp core e { o with
      flying := o.flying.filter fun q => q.id != id, faults := o.faults ++ [p], stopped := true })) ∧
  (∀ (s : State) (core e int sub : Nat) (o : EngOp) (c : HandBack) (v rec : BitVec 64), s.op? core e = some o →
    s.runs core = true → o.stopped = true → o.handed = false → o.flying = [] →
    ((∃ p ∈ o.faults, p.stage = .failed c v ∧ rec = o.recordOf p.recn ∧
        ∀ q ∈ o.faults, q ≠ p → p.before q = true ∧ q.before p = false) ∨
      (o.faults = [] ∧ ∃ b, o.bad = some b ∧ c = b.cause ∧ v = b.addr ∧ rec = b.addr)) →
    (c, int, sub) ∈ Claims.causes →
    (s.core core).events.length < 16 → (∀ x ∈ (s.cluster (clusterOf core)).held, HeldAction.isFor core x = false) →
    ∃ t : State, ∃ q x, exec (.handBack core e) s = .next t ∧ t.op? core e = some q ∧ q.handed = true ∧
    q.granules = [] ∧
      Claims.Entered s t core x ∧ x.pc = (s.core core).uivec ∧
      x.uicause = word (int * 256 + sub) ∧ x.a0 = word (int * 256 + sub) ∧ x.uival = v ∧ x.a1 = v ∧
      (recordForm core rec < 2 ^ 48 → fld x.uixfer 48 4 = e % 16) ∧
      (bitOf (s.core core).xrbase 63 = false → t.mem = s.mem) ∧
      (∀ a, bitOf (s.core core).xrbase 63 = true → e < 16 →
        a = Claims.localKey core (fld (s.core core).xrbase 6 9 * 64 + 64 * e) → SameBytesBut s t a 64 ∧
        Claims.numAt t a 8 = o.bits.toNat ∧ Claims.numAt t (a + 8) 8 = o.dst0.toNat ∧
        Claims.numAt t (a + 16) 8 = o.src0.toNat ∧ Claims.numAt t (a + 24) 8 = o.bar.toNat ∧
        Claims.numAt t (a + 32) 8 = o.counted % 2 ^ 64 ∧ Claims.numAt t (a + 40) 8 = v.toNat ∧
        Claims.numAt t (a + 48) 8 = int * 256 + sub))

/-- What the engine does with its entries, and the piece that lands or comes back (R55, R56, R59, R210, R225, R227, R229,
R231, R232, R233, R239, R305). The model's own choices in it are logs 20, 63, 58 (UIVEC as it is when the event is posted),
76 (operations that would write one granule) and 95 (memory errors in records). -/
def Obligations.TheEngineMovesPieces : Prop :=
  Claims.TheEngineWorks ∧ Claims.PiecesLandOrComeBack ∧ Claims.ChainsEndTogether ∧ Claims.PiecesAreShort

-- Homes and links (14_memory_system.md).

namespace Sys2Proof.Claims

/-- Request number idx of a home is r, no earlier request and no parked write touches a block of it, and none that came
earlier to a stack has waited 2 µs (R36, R344). -/
def NextAt (s : State) (home idx : Nat) (r : HomeReq) : Prop :=
  (s.base home).requests[idx]? = some r ∧
    (∀ j q, home < 32 → j < idx → (s.base home).requests[j]? = some q → s.now < q.since + 3600) ∧
    (∀ j q, j < idx → (s.base home).requests[j]? = some q → q.fn = r.fn → ∀ b ∈ q.blocks, b ∉ r.blocks) ∧
    ∀ w ∈ (s.base home).parked, w.req.fn = r.fn → ∀ b ∈ w.req.blocks, b ∉ r.blocks

/-- The request has left the list of its home; besides it, only that home's sectors and parked writes, accounts, the
blocks' entries, counters, the discard mark and the piece or job that asked may differ. -/
def HomeOnly (s t : State) (home idx : Nat) : Prop :=
  (t.base home).requests = (s.base home).requests.eraseIdx idx ∧ (∀ h, h ≠ home → t.base h = s.base h) ∧
    t.cores = s.cores ∧ t.parts = s.parts ∧ t.races = s.races ∧ t.live = s.live

/-- A write of whole bytes to distinct places of one block. -/
def PlainWrite (r : HomeReq) (b : Nat) (bs : List (Nat × Byte × Bool)) : Prop :=
  r.blocks = [b] ∧ r.body = .write bs ∧ bs ≠ [] ∧ (bs.map Prod.fst).Nodup ∧ (∀ w ∈ bs, w.1 < 256 ∧ w.2.2 = false) ∧
  b < 2 ^ 40

/-- A block's entry is sound at a stack: as many sectors as it holds, all different, none yet to be given out; and it stands
for 256 bytes. -/
def Sound (s : State) (home fn b : Nat) : Prop :=
  (s.blockBytes home fn b).length = 256 ∧ (home < 32 → (s.blockOf home fn b).sectors.Nodup ∧
    (s.blockOf home fn b).sectors.length = (s.blockOf home fn b).h ∧
    ∀ n ∈ (s.blockOf home fn b).sectors, n < (s.base home).nextSector)

/-- The block holds the written bytes, its other bytes are as before, and no byte of memory outside its sectors has
changed (R351). -/
def Merged (s t : State) (home fn b : Nat) (bs : List (Nat × Byte × Bool)) : Prop :=
  (t.blockBytes home fn b).length = 256 ∧ (∀ i v, (i, v, false) ∈ bs → (t.blockBytes home fn b).getD i 0#8 = v) ∧
    (∀ i, i < 256 → (∀ w ∈ bs, w.1 ≠ i) → (t.blockBytes home fn b).getD i 0#8 = (s.blockBytes home fn b).getD i 0#8) ∧
    (∀ a, (∀ n ∈ (t.blockOf home fn b).sectors, a < sectorKey home n ∨ sectorKey home n + 64 ≤ a) →
      memGet t.mem a = memGet s.mem a) ∧
    ∀ k, k ≠ s.blockNo home fn b → t.block k = s.block k

end Sys2Proof.Claims

/-- A home that is a stack sends a completion of a request over its link, with the cause of a failure and UIVAL. -/
def Sys2Proof.Claims.Replies (s t : State) (home : Nat) (r : HomeReq) (fail : Option (HandBack × BitVec 64)) : Prop :=
  home < 32 → ∃ d k, (t.base home).replies = (s.base home).replies ++ [(d, k)] ∧ 0 < k ∧ d.req = r ∧ d.fail = fail

/-- HOME_REQUEST_APPLY: no request goes before an older one of its stack that has waited 2 µs; a page that the TLB does not
hold is walked, and is NOT_PRESENT, or enters the TLB; a read changes no byte and sends its blocks, or the first cause of
failure among them; a write whose page does not allow it, or whose merge meets a block that fails, changes none either; a
write that needs no more sectors, or whose growth is available while nothing is parked, is merged into its block and the
sectors move between block, holder and pool; else it parks, is refused with the buffer full, or goes back to its engine where
its partition is being pre-empted. A stack answers over its link (R36, R343, R344, R348, R353, R354, R355, R359). -/
def Sys2Proof.Claims.HomesApplyRequests : Prop :=
  (∀ (s : State) (home idx j : Nat) (q : HomeReq), home < 32 → j < idx → Claims.NextAt s home j q →
    q.since + 3600 ≤ s.now → exec (.homeRequestApply home idx) s = notNow "HOME_REQUEST_APPLY") ∧
  ∀ (s : State) (home idx : Nat) (r : HomeReq), Claims.NextAt s home idx r → (∃ c e i, r.writer = .engine c e i) →
    home < 40 → (s.base home).asleep = false →
    (s.tlbHit home r = none →
      (∀ bad, s.leafFor home r.fn (s.reqPid r) (256 * r.blocks.headD 0) = .error bad → ∃ t : State,
        exec (.homeRequestApply home idx) s = .next t ∧ t.mem = s.mem ∧ t.blocks = s.blocks ∧ t.accounts = s.accounts ∧
        Claims.HomeOnly s t home idx ∧ Claims.Replies s t home r (some (.notPresent, r.firstVa)) ∧
        (bad = true → ∃ code, (code, r.firstVa) ∈ t.modl.notices)) ∧
      (∀ leaf, s.leafFor home r.fn (s.reqPid r) (256 * r.blocks.headD 0) = .ok leaf → ∃ t : State,
        exec (.homeRequestApply home idx) s = .next t ∧ t.mem = s.mem ∧ t.tlbHit home r = some leaf ∧
        (t.base home).requests = (s.base home).requests ∧ t.blocks = s.blocks ∧ t.accounts = s.accounts)) ∧
    (∀ leaf, s.tlbHit home r = some leaf →
      (r.body = .read →
        (leafAllows leaf false = false → ∃ t : State, exec (.homeRequestApply home idx) s = .next t ∧ t.mem = s.mem ∧
          t.blocks = s.blocks ∧ t.accounts = s.accounts ∧ Claims.Replies s t home r (some (.perm, r.firstVa))) ∧
        (leafAllows leaf false = true → home < 32 → (∀ b ∈ r.blocks, s.blockFail home r.fn (256 * b) = none) →
          ∃ (t : State) (ds : List (HomeDone × Nat)), exec (.homeRequestApply home idx) s = .next t ∧ t.mem = s.mem ∧
          t.blocks = s.blocks ∧ t.accounts = s.accounts ∧ Claims.HomeOnly s t home idx ∧
          (t.base home).replies = (s.base home).replies ++ ds ∧
          (∀ d ∈ ds, d.1.req = r ∧ d.1.fail = none ∧ d.1.got.length ≤ 8 ∧ 0 < d.2) ∧
          (ds.flatMap fun d => d.1.got) = r.blocks.map fun b => (homeKey home r.fn b, s.blockBytes home r.fn b)) ∧
        (∀ n b f, leafAllows leaf false = true → r.blocks[n]? = some b → s.blockFail home r.fn (256 * b) = some f →
          (∀ c ∈ r.blocks.take n, s.blockFail home r.fn (256 * c) = none) → ∃ t : State,
          exec (.homeRequestApply home idx) s = .next t ∧ t.mem = s.mem ∧ Claims.Replies s t home r (some (f, r.blockVa b))) ∧
        (∃ t : State, exec (.homeRequestApply home idx) s = .next t ∧ t.blocks = s.blocks ∧ t.accounts = s.accounts ∧
          t.mem = s.mem)) ∧
      (∀ b bs m h e k, Claims.PlainWrite r b bs → Claims.Sound s home r.fn b → m = s.needs home r →
        e = s.blockOf home r.fn b → h = e.h → k = blockKey r.fn (256 * b) →
        (leafAllows leaf true = false → ∃ t : State, exec (.homeRequestApply home idx) s = .next t ∧ t.mem = s.mem ∧
          t.blocks = s.blocks ∧ t.accounts = s.accounts ∧ Claims.HomeOnly s t home idx ∧
          Claims.Replies s t home r (some (.perm, r.firstVa))) ∧
        (∀ f, leafAllows leaf true = true → s.mergeFails home r = some f → ∃ t : State,
          exec (.homeRequestApply home idx) s = .next t ∧ t.mem = s.mem ∧
          t.blocks = s.blocks ∧ t.accounts = s.accounts ∧ Claims.HomeOnly s t home idx ∧
          Claims.Replies s t home r (some (f, r.firstVa))) ∧
        (leafAllows leaf true = true → s.mergeFails home r = none →
          (32 ≤ home → ∃ t : State, exec (.homeRequestApply home idx) s = .next t ∧ Claims.Merged s t home r.fn b bs ∧
            t.accounts = s.accounts ∧ Claims.HomeOnly s t home idx) ∧
          (home < 32 → m ≤ h → amGet 0 s.minors k < 0xFFFF → ∃ t : State,
            exec (.homeRequestApply home idx) s = .next t ∧
            Claims.Merged s t home r.fn b bs ∧ Claims.HomeOnly s t home idx ∧ Claims.Replies s t home r none ∧
            (t.base home).poolfree = (s.base home).poolfree + (if m = 0 then 0 else h - m) ∧
            (t.blockOf home r.fn b).h = (if m = 0 then h else m) ∧ amGet 0 t.minors k = amGet 0 s.minors k + 1) ∧
          (∀ p, home < 32 → h < m → r.part = some p → (amGet? s.parts p).isSome = true →
            ((s.base home).parked = [] → m - h ≤ (s.base home).poolfree →
              (s.account p home).used + (if e.holder = .part p then m - h else m) ≤ (s.account p home).qshare →
              ∃ t : State, exec (.homeRequestApply home idx) s = .next t ∧ Claims.Merged s t home r.fn b bs ∧
                Claims.HomeOnly s t home idx ∧ Claims.Replies s t home r none ∧
                (t.base home).poolfree = (s.base home).poolfree - (m - h) ∧
                (t.blockOf home r.fn b).h = m ∧ (t.blockOf home r.fn b).holder = .part p ∧
                (t.account p home).used = (s.account p home).used + (if e.holder = .part p then m - h else m)) ∧
            (((s.base home).parked ≠ [] ∨ (s.base home).poolfree < m - h ∨
                (s.account p home).qshare < (s.account p home).used + (if e.holder = .part p then m - h else m)) →
              ((s.part p).state = .preempting → ∃ t : State, exec (.homeRequestApply home idx) s = .next t ∧
                t.mem = s.mem ∧ t.blocks = s.blocks ∧ t.accounts = s.accounts ∧ Claims.HomeOnly s t home idx ∧
                (t.base home).parked = (s.base home).parked ∧ (t.base home).replies = (s.base home).replies) ∧
              ((s.part p).state ≠ .preempting → (s.base home).parked.length < 512 → ∃ t : State,
                exec (.homeRequestApply home idx) s = .next t ∧
                t.mem = s.mem ∧ t.blocks = s.blocks ∧ Claims.HomeOnly s t home idx ∧
                (t.base home).replies = (s.base home).replies ∧
                (t.base home).parked = (s.base home).parked ++ [{ req := r, since := s.now, old := false }] ∧
                (t.account p home).parks = (s.account p home).parks + 1#16 ∧
                (t.account p home).used = (s.account p home).used) ∧
              ((s.part p).state ≠ .preempting → 512 ≤ (s.base home).parked.length → ∃ t : State,
                exec (.homeRequestApply home idx) s = .next t ∧
                t.mem = s.mem ∧ t.blocks = s.blocks ∧ (t.base home).parked = (s.base home).parked ∧
                Claims.Replies s t home r (some (.outOfSpace, r.firstVa)) ∧
                (t.account p home).parkfull = (s.account p home).parkfull + 1#16 ∧
                (t.account p home).oos = (s.account p home).oos + 1#16))))))

namespace Sys2Proof.Claims

/-- The oldest parked write of a stack meets no failing block, and finds no growth even with n sectors more in the pool. -/
def Held (s : State) (st n : Nat) (w : ParkedWrite) : Prop :=
  (s.base st).parked.head? = some w ∧ w.old = false ∧ s.mergeFails st w.req = none ∧
    (s.blockOf st w.req.fn (w.req.blocks.headD 0)).h + (s.base st).poolfree + n < s.needs st w.req

/-- A parked write lies in a 64 KiB piece. -/
def ParkedIn (s : State) (st fn pg : Nat) (w : ParkedWrite) : Prop :=
  w ∈ (s.base st).parked ∧ w.req.fn = fn ∧ ∃ b ∈ w.req.blocks, b / 256 = pg

/-- An entry is of a ZERO-HELD block of a stack for which no write is parked (R353, R356). -/
def ZeroHeld (s : State) (st : Nat) (p : Nat × BlockEntry) : Prop :=
  p.2.h ≠ 0 ∧ p.2.enc = .zero ∧ p.1 / 2 ^ 40 = st ∧
    ∀ w ∈ (s.base st).parked, w.old = false → s.blockNo st w.req.fn (w.req.blocks.headD 0) ≠ p.1

end Sys2Proof.Claims

/-- What the gleaner's first two steps free: step 1 takes every block of a discard-marked piece of the stack out of its
map, its sectors to the pool, and the mark goes, or keeps the piece and withdraws the writes parked in it; step 2 takes the
sectors of every ZERO-HELD block without a parked write. GLEANED counts them for the oldest parked write's partition (R356,
R360, R361). -/
def Sys2Proof.Claims.GleanerFrees : Prop :=
  (∀ (s : State) (st f p : Nat), p < 2 ^ 32 →
    ((f, p) ∈ s.markedPieces st ↔
      ∃ e ∈ s.pages, e.1 = f * 2 ^ 32 + p ∧ e.2.discard = true ∧ e.2.home = st)) ∧
  (∀ (s : State) (st f p m n : Nat) (g : PageEntry), st < 32 → (s.base st).asleep = false → (s.base st).asked = [] →
    (s.base st).gleaner = 1 → s.markedPieces st = [(f, p)] → amGet? s.pages (f * 2 ^ 32 + p) = some g → g.home = st →
    s.mapOf st f (65536 * p) = some m → n = ((s.blocks.filter fun e => e.1 / 256 == m).map fun e => e.2.h).sum →
    (∀ w, Claims.Held s st n w → (∀ v, ¬ Claims.ParkedIn s st f p v) →
      s.blockNo st w.req.fn (w.req.blocks.headD 0) / 256 ≠ m →
      ∃ t : State, exec (.gleanerStep st) s = .next t ∧ t.mem = s.mem ∧ (t.base st).parked = (s.base st).parked ∧
        (t.base st).gleaner = 2 ∧ (t.base st).poolfree = (s.base st).poolfree + n ∧ (∀ e ∈ t.blocks, e.1 / 256 ≠ m) ∧
        (∀ e, e.1 / 256 ≠ m → (e ∈ t.blocks ↔ e ∈ s.blocks)) ∧
        amGet? t.pages (f * 2 ^ 32 + p) = some { g with discard := false } ∧
        (∀ q, w.req.part = some q → (t.account q st).gleaned = (s.account q st).gleaned + BitVec.ofNat 32 n)) ∧
    ((s.base st).parked ≠ [] → (∀ w ∈ (s.base st).parked, Claims.ParkedIn s st f p w) →
      ∃ t : State, exec (.gleanerStep st) s = .next t ∧ t.mem = s.mem ∧ t.blocks = s.blocks ∧ (t.base st).parked = [] ∧
        (t.base st).requests = (s.base st).requests ++ (s.base st).parked.map (fun w => { w.req with since := s.now }) ∧
        amGet? t.pages (f * 2 ^ 32 + p) = some { g with discard := false })) ∧
  (∀ (s : State) (st n : Nat) (w : ParkedWrite), st < 32 → (s.base st).asleep = false → (s.base st).asked = [] →
    (s.base st).gleaner = 2 → (s.blocks.map Prod.fst).Nodup → n = ((s.zeroHeld st).map fun k => (s.block k).h).sum →
    Claims.Held s st n w → ∃ t : State, exec (.gleanerStep st) s = .next t ∧ t.mem = s.mem ∧
      (t.base st).parked = (s.base st).parked ∧ (t.base st).gleaner = 3 ∧ (t.base st).poolfree = (s.base st).poolfree + n ∧
      (∀ p ∈ s.blocks, Claims.ZeroHeld s st p → p.1 ∈ s.zeroHeld st ∧ t.block p.1 = { p.2 with h := 0, sectors := [] }) ∧
      (∀ p ∈ s.blocks, ¬ Claims.ZeroHeld s st p → p.1 ∉ s.zeroHeld st ∧ t.block p.1 = p.2) ∧
      (∀ q, w.req.part = some q → (t.account q st).gleaned = (s.account q st).gleaned + BitVec.ofNat 32 n))

/-- GLEANER_STEP goes through the steps of R356 and asks Wilzia last, for every write still parked; WILZIA_GROWTH_ANSWER
adds the sectors granted and moves share from the donor stack or grants it from the reserve pool within the function's
allowance; PARK_DEADLINE refuses the oldest write parked for 100 µs; a stack in self-refresh does none of these; HOST_ATOMIC
changes the addressed bytes at a home that carries it and completes with their old value, and with Completer Abort and no
change where it does not; FAULT_ANSWER ends the fault record of its token, and answers the PTOUCH that still waits under it
(R355, R356, R366, R403, R415, Table 14-5). -/
def Sys2Proof.Claims.GrowthAndHostAccess : Prop :=
  (∀ (s : State) (st moved donor reserve : Nat), (s.base st).asleep = true →
    exec (.gleanerStep st) s = notNow "GLEANER_STEP" ∧ exec (.parkDeadline st) s = notNow "PARK_DEADLINE" ∧
    exec (.wilziaGrowthAnswer st moved donor reserve) s = notNow "WILZIA_GROWTH_ANSWER") ∧
  (∀ (s : State) (st : Nat), (s.base st).asleep = false → (s.base st).parked ≠ [] → (s.base st).gleaner ≠ 0 →
    (s.base st).asked = [] →
    (3 ≤ (s.base st).gleaner → exec (.gleanerStep st) s = .next (s.modBase st fun x =>
      { x with asked := x.parked.map fun w => w.req.part })) ∧
    (∀ w, (s.base st).gleaner = 1 → s.markedPieces st = [] → st < 32 → Claims.Held s st 0 w →
      exec (.gleanerStep st) s = .next (s.modBase st fun x => { x with gleaner := 2 })) ∧
    ((s.base st).gleaner < 3 → st < 32 → ∃ t : State, exec (.gleanerStep st) s = .next t ∧ t.cores = s.cores ∧
      t.parts = s.parts)) ∧
  (∀ (s : State) (st moved donor reserve p : Nat) (asked : List (Option Nat)) (w : ParkedWrite),
    (s.base st).asleep = false → (s.base st).asked = some p :: asked → st < 32 → Claims.Held s st reserve w →
    (donor ≠ st → (s.account p donor).used + moved ≤ (s.account p donor).qshare →
      ∃ t : State, exec (.wilziaGrowthAnswer st moved donor reserve) s = .next t ∧ t.mem = s.mem ∧
        (t.base st).parked = (s.base st).parked ∧ (t.base st).asked = asked ∧
        (asked = [] → (t.base st).gleaner = 1) ∧
        (t.base st).poolfree = (s.base st).poolfree + reserve ∧
        (t.account p st).qshare = (s.account p st).qshare + moved ∧
        (donor < 64 → st < 64 → (t.account p donor).qshare = (s.account p donor).qshare - moved)) ∧
    (donor = st → s.allows (s.part p).fn moved = true →
      ∃ t : State, exec (.wilziaGrowthAnswer st moved donor reserve) s = .next t ∧ t.mem = s.mem ∧
        (t.base st).parked = (s.base st).parked ∧ (t.base st).asked = asked ∧
        (t.base st).poolfree = (s.base st).poolfree + reserve ∧
        (t.account p st).qshare = (s.account p st).qshare + moved ∧
        (t.account p st).extra = (s.account p st).extra + moved)) ∧
  (∀ (s : State) (st p c e i : Nat) (w : ParkedWrite), (s.base st).asleep = false → (s.base st).parked = [w] →
    w.since + 180000 ≤ s.now →
    w.req.writer = .engine c e i → w.req.part = some p → (amGet? s.parts p).isSome = true →
    ∃ t : State, exec (.parkDeadline st) s = .next t ∧ t.mem = s.mem ∧
      t.blocks = s.blocks ∧ (t.base st).parked = [] ∧ (t.base st).gleaner = 0 ∧
      Claims.Replies s t st w.req (some (.outOfSpace, w.req.firstVa)) ∧
      (t.account p st).oos = (s.account p st).oos + 1#16) ∧
  (∀ (s : State) (fn n : Nat) (va : BitVec 64) (op : HostAtomicOp) (cmp v : BitVec 128),
    ((∀ h, s.homeFor (s.fn fn).hrt va ≠ .ok h) → exec (.hostAtomic fn va op n cmp v) s = .next (s.hostCompletes none)) ∧
    (∀ h a b old new, s.homeFor (s.fn fn).hrt va = .ok h → a = fld va 0 48 → b = a / 256 → 0 < n →
      old = bytesNat (((s.blockBytes h fn b).drop (a % 256)).take n) →
      new = (match op with
        | .fetchAdd => (old + v.toNat) % 2 ^ (8 * n)
        | .swap => v.toNat % 2 ^ (8 * n)
        | .cas => if old = cmp.toNat % 2 ^ (8 * n) then v.toNat % 2 ^ (8 * n) else old) →
      (40 ≤ h ∨ (n ≠ 4 ∧ n ≠ 8 ∧ ¬ (op = .cas ∧ n = 16 ∧ h < 32)) ∨ a % n ≠ 0 →
        exec (.hostAtomic fn va op n cmp v) s = .next (s.hostCompletes none)) ∧
      ((n = 4 ∨ n = 8 ∨ (op = .cas ∧ n = 16 ∧ h < 32)) → a % n = 0 → h < 40 →
        (s.base h).requests = [] → (s.base h).parked = [] → (s.base h).asleep = false →
        (s.walk h fn 0#12 a true ≠ none → exec (.hostAtomic fn va op n cmp v) s = .next (s.hostCompletes none)) ∧
        (s.walk h fn 0#12 a true = none → s.blockFail h fn (256 * b) ≠ none → ∃ t : State,
          exec (.hostAtomic fn va op n cmp v) s = .next t ∧ t.mem = s.mem ∧
          t.modl.hostDone = none :: s.modl.hostDone) ∧
        (s.walk h fn 0#12 a true = none → s.blockFail h fn (256 * b) = none → Claims.Sound s h fn b →
          (32 ≤ h ∨ (s.blockOf h fn b).h = 4) → ∃ t : State,
          exec (.hostAtomic fn va op n cmp v) s = .next t ∧ (t.blockBytes h fn b).length = 256 ∧
          (∀ i, i < a % 256 ∨ a % 256 + n ≤ i → (t.blockBytes h fn b).getD i 0#8 = (s.blockBytes h fn b).getD i 0#8) ∧
          bytesNat (((t.blockBytes h fn b).drop (a % 256)).take n) = new ∧
          (32 ≤ h → ∃ w : BitVec 128, t.modl.hostDone = some w :: s.modl.hostDone ∧ w.toNat % 2 ^ (8 * n) = old) ∧
          (h < 32 → ∃ d k, (t.base h).replies = (s.base h).replies ++ [(d, k)] ∧ d.fail = none ∧
            bytesNat d.result % 2 ^ (8 * n) = old))))) ∧
  (∀ (s : State) (fn : Nat) (answer : BitVec 64) (r : FaultReq) (asks : Prop), fn ≤ 64 → s.responds = true →
    (asks ↔ s.pidAt (clusterOf r.core) = r.pid ∧ (s.ctxAt r.core r.ctx).reply = some (.asked r.token) ∧
      ∃ w, (s.ctxAt r.core r.ctx).wait = some w ∧ w.kind = .ptouch r.mode.toNat ∧ w.tval = r.va) →
    ((∀ q ∈ (s.fn fn).faults, q.token.toNat ≠ fld answer 0 32) → exec (.faultAnswer fn answer) s = .next s) ∧
    (((s.fn fn).faults.find? fun q => q.token.toNat == fld answer 0 32) = some r →
      (asks → exec (.faultAnswer fn answer) s = .next ((s.modFn fn fun f =>
        { f with faults := f.faults.erase r }).modCtxAt r.core r.ctx fun x =>
          { x with reply := some (.touched (!bitOf answer 63)) })) ∧
      (¬ asks → exec (.faultAnswer fn answer) s = .next (s.modFn fn fun f =>
        { f with faults := f.faults.erase r }))))

/-- The requests of transfers at their home, what the gleaner frees, the growth of a stack's accounts, and host atomics (R36,
R344, R348, R353, R354, R355, R356, R359, R360, R366, R415). The model's own choices in it are logs 64 and 97 (sectors). -/
def Obligations.HomesAndPages : Prop :=
  Claims.HomesApplyRequests ∧ Claims.GleanerFrees ∧ Claims.GrowthAndHostAccess

namespace Sys2Proof.Claims

/-- Completions that are on a stack's link, and those that have crossed it and wait to enter the torus. -/
def onWire (s : State) (n : Nat) : List (HomeDone × Nat) := (s.base n).replies.filter fun d => d.2 != 0
def crossedOver (s : State) (n : Nat) : List (HomeDone × Nat) := (s.base n).replies.filter fun d => d.2 == 0

/-- A request of an engine that a home has to fail: its completion with POISON waits to enter the torus (R345, R373). -/
def Poisoned (t : State) (home : Nat) (r : HomeReq) : Prop :=
  (∃ c e i, r.writer = .engine c e i) →
    ∃ d, (d, 0) ∈ (t.base home).replies ∧ d.req = r ∧ d.fail = some (.poison, r.firstVa)

/-- A request was sent to a home and is not completed: on the way, accepted, parked, or its completion on the link. -/
def Pending (s : State) (home : Nat) (r : HomeReq) : Prop :=
  r ∈ (s.base home).reaching ∨ r ∈ (s.base home).requests ∨ (∃ k, (r, k) ∈ (s.base home).coming) ∨
    (∃ w ∈ (s.base home).parked, w.req = r) ∨ ∃ d k, (d, k) ∈ (s.base home).replies ∧ k ≠ 0 ∧ d.req = r

/-- What a home of this module leaves of its traffic when its link goes down. -/
def Cleared (t : State) (home : Nat) : Prop :=
  (t.base home).reaching = [] ∧ (t.base home).coming = [] ∧ (t.base home).requests = [] ∧ (t.base home).parked = [] ∧
    ∀ d ∈ (t.base home).replies, d.2 = 0

end Sys2Proof.Claims

/-- Links are go-back-N in both directions: a flit in sequence with a good CRC is accepted, and the last flit of a request
accepts it, that of a completion or of a peer's message takes it off the link; any other makes the receiver discard until
LINK_REPLAY; the fourth replay in a row of a flit makes the link retrain, and the third failed LINK_RETRAIN in a row puts it
down, which fails everything sent and not completed with POISON, and for an Ikirath link what is bound for modules that no
other route reaches; LINK_RECOVERED brings a link up with nothing on it. An engine that takes a completion that failed has
its piece failed with the cause (R343, R345, R369, R384). -/
def Sys2Proof.Claims.LinksGoBackN : Prop :=
  (∀ (s : State) (n : Nat) (f : LinkFlit) (l : Link), n < 32 → l = (s.base n).link → l.down = false →
    (s.base n).asleep = false →
    (l.training = false → (f.seq - l.next).toNat < min 1024 ((s.base n).coming.map Prod.snd).sum →
      (l.nak = true → ∃ t : State, exec (.stackFlitReceive n f) s = .next t ∧
        t.base n = s.base n ∧ t.mem = s.mem) ∧
      (l.nak = false → (f.crcOk = false ∨ f.seq ≠ l.next) → ∃ t : State, exec (.stackFlitReceive n f) s = .next t ∧
        t.base n = { s.base n with link := { l with nak := true } } ∧ t.mem = s.mem) ∧
      (∀ r k rest, l.nak = false → f.crcOk = true → f.seq = l.next → (s.base n).coming = (r, k) :: rest →
        ∃ t : State, exec (.stackFlitReceive n f) s = .next t ∧ t.mem = s.mem ∧
          (t.base n).link = { l with next := l.next + 1#12, replays := 0 } ∧
          (k ≤ 1 → (t.base n).coming = rest ∧ (t.base n).requests = (s.base n).requests ++ [{ r with since := s.now }]) ∧
          (1 < k → (t.base n).coming = (r, k - 1) :: rest ∧ (t.base n).requests = (s.base n).requests))) ∧
    (∀ b : Link, b = (s.base n).back → b.training = false →
      (f.seq - b.next).toNat < min 1024 ((s.base n).replies.map Prod.snd).sum →
      (b.nak = true → ∃ t : State, exec (.stackFlitReceive (64 + n) f) s = .next t ∧
        t.base n = s.base n ∧ t.mem = s.mem) ∧
      (b.nak = false → (f.crcOk = false ∨ f.seq ≠ b.next) → ∃ t : State,
        exec (.stackFlitReceive (64 + n) f) s = .next t ∧
        t.base n = { s.base n with back := { b with nak := true } } ∧ t.mem = s.mem) ∧
      (∀ d k rest, b.nak = false → f.crcOk = true → f.seq = b.next → Claims.onWire s n = (d, k) :: rest →
        ∃ t : State, exec (.stackFlitReceive (64 + n) f) s = .next t ∧
          (t.base n).back = { b with next := b.next + 1#12, replays := 0 } ∧
          (1 < k → (t.base n).replies = Claims.crossedOver s n ++ (d, k - 1) :: rest ∧ t.mem = s.mem ∧
            t.clusters = s.clusters) ∧
          (∀ c e i, k ≤ 1 → d.req.writer = .engine c e i →
            (t.base n).replies = Claims.crossedOver s n ++ rest ++ [(d, 0)] ∧ t.mem = s.mem ∧ t.clusters = s.clusters)))) ∧
  (∀ (s : State) (p : Packet) (d : HomeDone) (c e i : Nat) (o : EngOp) (q : Piece) (cause : HandBack) (v : BitVec 64),
    p.body = .homeDone d → d.req.writer = .engine c e i → s.op? c e = some o →
    (o.flying.find? fun x => x.id == i) = some q → d.fail = some (cause, v) →
    (p.pid ≠ s.pidAt p.dst → s.takePacket p = some (s.dropPacket p.id)) ∧
    (p.pid = s.pidAt p.dst → ∃ t : State, s.takePacket p = some t ∧ t.mem = s.mem ∧
      t.net = s.net.filter (fun x => x.id != p.id) ∧ ∃ o', t.op? c e = some o' ∧
        (o'.flying.find? fun x => x.id == i) = some { q with stage := .failed cause v })) ∧
  (∀ (s : State) (p : Nat) (f : LinkFlit) (l : Link), p < 24 → l = amGet Link.up s.modl.ikirath p → l.down = false →
    l.training = false → (f.seq - l.next).toNat < min 1024 ((s.port p).coming.map Prod.snd).sum →
    ∃ t : State, exec (.ikirathFlitReceive p f) s = .next t ∧
      (l.nak = true → amGet Link.up t.modl.ikirath p = l ∧ t.port p = s.port p ∧ t.mem = s.mem) ∧
      (l.nak = false → (f.crcOk = false ∨ f.seq ≠ l.next) →
        amGet Link.up t.modl.ikirath p = { l with nak := true } ∧ t.port p = s.port p ∧ t.mem = s.mem) ∧
      (∀ m k rest, l.nak = false → f.crcOk = true → f.seq = l.next → (s.port p).coming = (m, k) :: rest →
        amGet Link.up t.modl.ikirath p = { l with next := l.next + 1#12, replays := 0 } ∧
        (1 < k → (t.port p).coming = (m, k - 1) :: rest ∧ t.mem = s.mem ∧ t.cores = s.cores ∧ t.bases = s.bases) ∧
        (k ≤ 1 →
          (∀ home d c e i, m = .answer home d → d.req.writer = .engine c e i →
            (t.port p).coming = rest ∧ (t.base home).replies = (s.base home).replies ++ [(d, 0)]) ∧
          (∀ pid md ph, m = .arrival pid md ph →
            (t.port p).coming = rest ∧ t.modl.podInbox = s.modl.podInbox ++ [(pid, md, ph)])))) ∧
  (∀ (s : State) (n : Nat) (l : Link), (n < 56 ∨ (64 ≤ n ∧ n < 96)) → l = s.link n →
    (l.nak = true → l.down = false → l.training = false → ∃ t : State, exec (.linkReplay n) s = .next t ∧
      t.link n = { l with nak := false, replays := l.replays + 1, training := decide (3 ≤ l.replays) } ∧
      t.mem = s.mem) ∧
    (l.training = true →
      (∃ t : State, exec (.linkRetrain n true) s = .next t ∧
        t.link n = { l with training := false, replays := 0, failedTrains := 0 } ∧ t.mem = s.mem) ∧
      (l.failedTrains < 2 → l.down = false → ∃ t : State, exec (.linkRetrain n false) s = .next t ∧ t.mem = s.mem ∧
        t.link n = { l with failedTrains := l.failedTrains + 1, training := true, down := false }) ∧
      (2 ≤ l.failedTrains → ∃ t : State, exec (.linkRetrain n false) s = .next t ∧ t.mem = s.mem ∧
        (t.link n).down = true ∧
        (∀ h, h = (if 32 ≤ n ∧ n < 64 then n else n % 64) → (∃ code, (code, word h) ∈ t.modl.notices) ∧
          (h < 32 → (t.base h).link.down = true ∧ Claims.Cleared t h ∧
            ∀ r, Claims.Pending s h r → Claims.Poisoned t h r)) ∧
        (∀ m r, 32 ≤ n → n < 64 → m < 64 →
          (∀ p ∈ s.portsTo m, p = n - 32 ∨ (amGet Link.up s.modl.ikirath p).down = true) →
          r ∈ (s.base (40 + m)).requests ++ (s.base (40 + m)).reaching ∨ (m, .request (40 + m) r) ∈ (s.port (n - 32)).out ∨
            (∃ d k, (.answer (40 + m) d, k) ∈ (s.port (n - 32)).coming ∧ d.req = r) →
          Claims.Poisoned t (40 + m) r)))) ∧
  (∀ (s : State) (p : Nat), p ∉ s.modl.cxlDown → ∃ t : State, exec (.cxlLinkDown p) s = .next t ∧ p ∈ t.modl.cxlDown ∧
    t.mem = s.mem ∧ Claims.Cleared t (32 + p) ∧ ∀ r, Claims.Pending s (32 + p) r → Claims.Poisoned t (32 + p) r) ∧
  (∀ (s : State) (n : Nat),
    (n < 32 → (s.base n).link.down = true → ∃ t : State, exec (.linkRecovered (.stack n)) s = .next t ∧
      t.base n = { s.base n with link := Link.up, back := Link.up } ∧ (∀ h, h ≠ n → t.base h = s.base h) ∧
      { t with bases := s.bases } = s) ∧
    (n ∈ s.modl.cxlDown → ∃ t : State, exec (.linkRecovered (.cxl n)) s = .next t ∧ n ∉ t.modl.cxlDown ∧
    t.mem = s.mem) ∧
    (n < 24 → (amGet Link.up s.modl.ikirath n).down = true →
    ∃ t : State, exec (.linkRecovered (.ikirath n)) s = .next t ∧
      amGet Link.up t.modl.ikirath n = Link.up ∧ t.mem = s.mem))

/-- UNCORRECTABLE_ERROR marks the word, the context, the mapped block or its MAC that went bad and changes no byte;
ROUTER_OUTPUT_GRANT gives a free output to its winner, which has its threshold of free slots beyond it: its head turns to
the die bridge, to its target, or to the neighbour's input over a torus link, and nothing but packets and the pointers of
the round-robin changes; an output that a packet of the class holds grants none (R301, R365, R376, R378, R383). -/
def Sys2Proof.Claims.ErrorsAndRouters : Prop :=
  (∀ (s : State) (site : ErrorSite), (∀ n, site = .corrected n → n < 32) →
    ∃ t : State, exec (.uncorrectableError site) s = .next t ∧ t.mem = s.mem ∧
    t.parts = s.parts ∧
    (∀ a, site = .sram a → a / 8 * 8 ∈ t.eccBad ∧ t.blocks = s.blocks ∧ t.cores = s.cores) ∧
    (∀ c k, site = .regs c k → t.ctxAt c k = { s.ctxAt c k with regBad := true } ∧ t.blocks = s.blocks) ∧
    (∀ fn va g, site = .dram fn va → amGet? s.pages (pageKey fn va) = some g → t.cores = s.cores ∧
      t.blockOf g.home fn (va % 2 ^ 48 / 256) = { s.blockOf g.home fn (va % 2 ^ 48 / 256) with poison := true }) ∧
    (∀ fn va g, site = .mac fn va → amGet? s.pages (pageKey fn va) = some g → t.cores = s.cores ∧
      t.blockOf g.home fn (va % 2 ^ 48 / 256) = { s.blockOf g.home fn (va % 2 ^ 48 / 256) with macBad := true })) ∧
  (∀ (s : State) (r : Nat) (out : RouterPort) (cls : MsgClass),
    (s.outputHeld r out cls = true → exec (.routerOutputGrant r out cls) s = notNow "ROUTER_OUTPUT_GRANT") ∧
    (∀ (src : Nat) (p : Packet), s.outputHeld r out cls = false → s.winner r out cls = some (src, p) →
      p.cls = cls ∧ (s.route p r).1.out = out ∧ p ∈ s.net ∧
      (p.place = .inject r ∨ ∃ input ch, p.place = .channel r input ch) ∧
      ∃ (t : State) (q : Packet) (h : Hop), exec (.routerOutputGrant r out cls) s = .next t ∧
      { t with net := s.net, grants := s.grants } = s ∧
        t.net = (s.net.filter fun x => x.id != p.id) ++ [q] ∧
        { q with path := p.path, wx := p.wx, wy := p.wy, escape := p.escape, ready := p.ready } = p ∧
        q.path = h :: p.path ∧ h.via = out ∧ h.got = 0 ∧
        (out = .eject → h.place = .eject r ∧ r / 256 = p.dst / 256) ∧
        (out = .bridge → r / 256 ≠ p.dst / 256 ∧ q.ready = s.now + 6 ∧ q.wx = false ∧ q.wy = false ∧
          h.place = .channel (nextDie (r / 256) (p.dst / 256) * 256 + r % 256) 4 .pool) ∧
        (∀ y x, out ≠ .eject → out ≠ .bridge → y = r / 16 % 16 → x = r % 16 →
        ∃ ch input n, h.place = .channel n input ch ∧ min p.nflit ch.slots ≤ s.freeSlots n input ch cls ∧
          q.ready = p.ready ∧
          (n, input) = (match out with
            | .east => (r / 256 * 256 + y * 16 + (x + 1) % 16, 0)
            | .west => (r / 256 * 256 + y * 16 + (x + 15) % 16, 2)
            | .south => (r / 256 * 256 + (y + 1) % 16 * 16 + x, 1)
            | _ => (r / 256 * 256 + (y + 15) % 16 * 16 + x, 3)))))

/-- Links, routers and the errors they report (R301, R343, R345, R365, R369, R376, R378, R383, R384).
The model's own choices in it are logs 12, 19 and 26. -/
def Obligations.LinksAndRouters : Prop :=
  Claims.LinksGoBackN ∧ Claims.ErrorsAndRouters

-- Matrix units (09_isa_matrix_fold.md).

namespace Sys2Proof.Claims

/-- A matrix instruction past its checks (R243): it waits while 16 commands of the core are under way or the quad's FIFO is
full, and while its injection queue is; else its command sets out for the quad and the instruction completes. -/
def Commanded (s : State) (i : Instr) (a : BitVec 5) (q : Nat) (acc : BitVec 2) (kind : MatKind) (own : List Nat) : Prop :=
  (16 ≤ s.me.matrixOut ∨ 16 ≤ (s.unit q).fifo.length → exec i s = .next (s.await (.matrixQueue q) (s.x a))) ∧
    (s.me.matrixOut < 16 → (s.unit q).fifo.length < 16 →
      (s.canInject (s.cur.1 / 16) (q / 4) (s.cur.1 % 16) .request = false → exec i s = .next s) ∧
      (s.canInject (s.cur.1 / 16) (q / 4) (s.cur.1 % 16) .request = true → ∃ t : State, ∃ p cmd, exec i s = .next t ∧
      GoesOn s t 0#5 ∧
        t.cx.x = s.cx.x ∧ t.me.matrixOut = s.me.matrixOut + 1 ∧ t.net = s.net ++ [p] ∧ p.body = .matrix q cmd ∧
        p.cls = .request ∧ p.src = s.cur.1 / 16 ∧ p.dst = q / 4 ∧ p.pid = s.pidAt (s.cur.1 / 16) ∧ cmd.kind = kind ∧
        cmd.acc = acc.toNat ∧ cmd.core = s.cur.1 ∧ cmd.key = s.me.capkey.extractLsb' 0 32 ∧
        cmd.bits = i.bits.setWidth 32 ∧ t.inflight = own.map (fun g => (g, s.cur.1)) ++ s.inflight))

/-- What is wrong with a range of data of n bytes that an instruction names (R45, R51). -/
def dataTrap (s : State) (ea : BitVec 64) (n al : Nat) (right : Right) : Option Trap :=
  firstErr [s.check s.cur.1 ea n al [right] false]

/-- What is wrong with a route block: its place or alignment, then the right to it (R260). -/
def routeTrap (s : State) (ea : BitVec 64) (n al : Nat) (right : Right) : Option Trap :=
  match resolve s.cur.1 ea n with
  | none => some (trap cAddr ea)
  | some m =>
    if m.unit = 18 then some (trap cAddr ea) else if ea.toNat % al ≠ 0 then some (trap cAlign ea)
    else firstErr [s.check s.cur.1 ea n al [right] false]

end Sys2Proof.Claims

/-- The matrix instructions: CAPABILITY without a key, ADDR for a quad or an operand that is none, ALIGN for an odd
handler, the checks of an image and of a barrier; past them a command sets out, and for MSTORE its granules are IN-FLIGHT up
to the first LIVE one. MFENCE waits for the core's commands at the quad and ends the region (R243, R246, R249, R250,
R252). The model's own choice in it is log 66. -/
def Obligations.MatrixInstructions : Prop :=
  ∀ (s : State) (a b c : BitVec 5) (n : BitVec 2) (z : BitVec 1),
    (∀ i ∈ [Instr.mma a b c n, .mzero a n, .mload a b n, .mstore a b c n, .mdrain a b c z n, .mfence a], s.Issues i →
      (bitOf s.me.capkey 63 = false → exec i s = s.raise s (trap cCapability 0#64)) ∧
      (bitOf s.me.capkey 63 = true → (s.shape s.cur.1).coreOf (4 * (s.x a).toNat) = none →
        exec i s = s.raise s (trap cAddr (s.x a)))) ∧
    (∀ d q, bitOf s.me.capkey 63 = true → (s.shape s.cur.1).coreOf (4 * (s.x a).toNat) = some d → q = d / 4 →
      (s.Issues (.mma a b c n) →
        ((s.x b).toNat = 0 ∨ 1048576 < (s.x b).toNat → exec (.mma a b c n) s = s.raise s (trap cAddr (s.x b))) ∧
        (0 < (s.x b).toNat → (s.x b).toNat ≤ 1048576 →
          (256 ≤ (s.x c).toNat → exec (.mma a b c n) s = s.raise s (trap cAddr (s.x c))) ∧
          ((s.x c).toNat < 256 → Claims.Commanded s (.mma a b c n) a q n
            (.mma (s.x b).toNat ((s.x c).toNat % 16) ((s.x c).toNat / 16)) []))) ∧
      (s.Issues (.mzero a n) → Claims.Commanded s (.mzero a n) a q n .mzero []) ∧
      (s.Issues (.mload a b n) →
        (∀ tr, Claims.dataTrap s (s.x b) 4096 64 .r = some tr → exec (.mload a b n) s = s.raise s tr) ∧
        (∀ m, Claims.dataTrap s (s.x b) 4096 64 .r = none → resolve s.cur.1 (s.x b) 4096 = some m →
          Claims.Commanded s (.mload a b n) a q n (.mload m.key) [])) ∧
      (s.Issues (.mstore a b c n) →
        (∀ tr, Claims.dataTrap s (s.x b) 4096 64 .w = some tr → exec (.mstore a b c n) s = s.raise s tr) ∧
        (∀ m, Claims.dataTrap s (s.x b) 4096 64 .w = none → resolve s.cur.1 (s.x b) 4096 = some m →
          (∀ tr, Claims.opTrap s.cur.1 (s.x c) 16 = some tr → exec (.mstore a b c n) s = s.raise s tr) ∧
          (Claims.opTrap s.cur.1 (s.x c) 16 = none →
            (∀ tr, s.barOperand s.cur.1 (s.x c) = .error tr → exec (.mstore a b c n) s = s.raise s tr) ∧
            (∀ bar, s.barOperand s.cur.1 (s.x c) = .ok bar → ∀ gs, gs = granulesOf m.key 4096 →
              (∀ tr, s.issueRace s.cur.1 gs = some tr → exec (.mstore a b c n) s = s.raise s tr) ∧
              (s.issueRace s.cur.1 gs = none → Claims.Commanded s (.mstore a b c n) a q n (.mstore m.key bar)
                (gs.takeWhile fun g => !s.live.contains g)))))) ∧
      (s.Issues (.mdrain a b c z n) →
        ((s.x b).toNat % 2 = 1 → exec (.mdrain a b c z n) s = s.raise s (trap cAlign (s.x b))) ∧
        ((s.x b).toNat % 2 = 0 → (s.shape s.cur.1).coreOf ((s.x c).toNat % 2 ^ 32) = none →
          exec (.mdrain a b c z n) s = s.raise s (trap cAddr (s.x c))) ∧
        (∀ e, (s.x b).toNat % 2 = 0 → (s.shape s.cur.1).coreOf ((s.x c).toNat % 2 ^ 32) = some e →
          Claims.Commanded s (.mdrain a b c z n) a q n
            (.mdrain (s.x b) e (BitVec.ofNat 32 ((s.x c).toNat / 2 ^ 32)) (z == 1#1)) [])) ∧
      (s.Issues (.mfence a) →
        (s.quadCommands s.cur.1 q = 0 → ∃ t : State, exec (.mfence a) s = .next t ∧ Claims.GoesOn s t 0#5 ∧
        t.cx.x = s.cx.x ∧
          Claims.Ended s t) ∧
        (s.quadCommands s.cur.1 q ≠ 0 → exec (.mfence a) s = .next (s.await (.mfence q) (s.x a)))))

namespace Sys2Proof.Claims

/-- Word e of accumulator n of a unit. -/
def accWord (s : State) (q n e : Nat) : BitVec 32 := amGet 0#32 ((s.unit q).acc n).words e

/-- A command at the head of a unit ends refused: its core is told steps, quad and reason, and the next command comes to
the head (R244, Tables 9-4 and 12-7). -/
def Rejected (s t : State) (q : Nat) (cmd : MatCmd) (reason steps : Nat) : Prop :=
  (t.unit q).fifo = (s.unit q).fifo.tail ∧ (t.unit q).started = false ∧ t.mem = s.mem ∧
    (t.core cmd.core).matrixOut = (s.core cmd.core).matrixOut - 1 ∧
    ((s.core cmd.core).events.length < 16 →
    (∀ x ∈ (s.cluster (clusterOf cmd.core)).held, HeldAction.isFor cmd.core x = false) →
      ∃ x, Entered s t cmd.core x ∧ x.uicause = word (8 * 256) ∧
        x.uival = word (steps * 2 ^ 32 + (s.shape cmd.core).indexOf (4 * q) / 4 * 2 ^ 8 + reason) ∧
        x.uixfer = cmd.bits.setWidth 64)

/-- Element k of row i of an image of INT8, 32 to a row, at a place. -/
def int8At (s : State) (key i k : Nat) : Int := signedOf 1 (memGet s.mem (key + 32 * i + k)).toNat

/-- Table 9-5: the tags of rings A and B, the accumulator's kind and the bytes of a slot image. -/
def formatPairs : List (Nat × Nat × ATag × Nat) :=
  [(11, 11, .fp32, 1056), (10, 11, .fp32, 1056), (11, 10, .fp32, 1056), (10, 10, .fp32, 1056), (12, 12, .fp32, 576),
   (8, 8, .fp32, 2048), (9, 9, .fp32, 2048), (1, 1, .i32, 1024)]

/-- Element k of row i of a slot image of 32 rows of 32 elements, with the row's entry of the scale array behind the data
(R70, R245). -/
def slotAt (s : State) (key : Nat) (fmt : BitVec 4) (i k : Nat) : Machine.Num :=
  let w := tagWidth fmt
  let e := key + 128 * w + i * (if fmt = 12#4 then 2 else 1)
  elemValue fmt (memGet s.mem e).toNat (memGet s.mem (e + 1)).toNat (numAt s (key + 4 * w * i) (4 * w) / 2 ^ (w * k) % 2 ^ w)

/-- An element of an accumulator after a k-step on floating-point operands (R84). -/
def kstepFp (s : State) (keyA keyB : Nat) (fa fb : BitVec 4) (i j : Nat) (old : BitVec 32) : Nat :=
  let sum := exactSum false ((List.range 32).map fun k => (mulNum (slotAt s keyA fa i k) (slotAt s keyB fb j k)).v)
  let step := (roundTo fp32 false Rnd.rne sum.v).code
  (roundTo fp32 false Rnd.rne (addNum false (fp32.decode old.toNat) (fp32.decode step)).v).code

end Sys2Proof.Claims

/-- A matrix unit's own steps: a command that arrives enters the FIFO in program order; it starts, or is refused for its
key, its rings, a pair of formats that Table 9-5 does not have, slots too small, or the accumulator's tag; a k-step takes
both head slots, and its retirement adds the products of the images row by row, modulo 2^32 for INT8 and with the two
roundings to FP32 for the others, frees the slots and ends the MMA with its last group; a k-step that
waits for WAITTO is refused; MZERO clears, MSTORE copies, MLOAD fills its accumulator, and MDRAIN offers row after row to
the target core (R84, R244, R245, R246, R247, R249, R250, R253). The model's own choices in it are logs 23 and 24. -/
def Obligations.MatrixUnitSteps : Prop :=
  (∀ (s : State) (id q : Nat) (p : Packet) (cmd : MatCmd), Claims.AtTarget s id p → p.body = .matrix q cmd →
    (p.pid ≠ s.pidAt p.dst → exec (.matrixCommandArrive id) s = .next (s.dropPacket id)) ∧
    (p.pid = s.pidAt p.dst → (s.unit q).fifo.length < 16 →
      (∀ x ∈ s.net, ∀ m, x.body = .matrix q m → m.core = cmd.core → id ≤ x.id) →
      ∃ t : State, exec (.matrixCommandArrive id) s = .next t ∧ (t.unit q).fifo = (s.unit q).fifo ++ [cmd] ∧
        t.net = s.net.filter (fun x => x.id != id) ∧ t.mem = s.mem ∧ t.cores = s.cores)) ∧
  (∀ (s : State) (q : Nat) (cmd : MatCmd) (rest : List MatCmd), (s.unit q).fifo = cmd :: rest → s.unitRuns q = true →
    ((s.unit q).started = false → ((s.unit q).acc cmd.acc).rows = 0#32 → (s.unit q).loading = [] →
      (cmd.key ≠ (s.unit q).key → ∃ t : State, exec (.matrixCommandStart q) s = .next t ∧
      Claims.Rejected s t q cmd 1 0) ∧
      (cmd.key = (s.unit q).key →
        (∀ g a b x y, cmd.kind = .mma g a b → x = s.ring (q / 4) a → y = s.ring (q / 4) b →
          (x.en = false ∨ y.en = false → ∃ t : State, exec (.matrixCommandStart q) s = .next t ∧
          Claims.Rejected s t q cmd 2 0) ∧
          (x.en = true → y.en = true → a = b → ∃ t : State, exec (.matrixCommandStart q) s = .next t ∧
            Claims.Rejected s t q cmd 3 0) ∧
          (x.en = true → y.en = true → a ≠ b →
            (∀ e ∈ Claims.formatPairs, ¬ (e.1 = x.fmt.toNat ∧ e.2.1 = y.fmt.toNat)) → ∃ t : State,
            exec (.matrixCommandStart q) s = .next t ∧ Claims.Rejected s t q cmd 4 0) ∧
          (∀ kind n, x.en = true → y.en = true → a ≠ b → (x.fmt.toNat, y.fmt.toNat, kind, n) ∈ Claims.formatPairs →
            (x.slotsz * 64 < n ∨ y.slotsz * 64 < n → ∃ t : State, exec (.matrixCommandStart q) s = .next t ∧
              Claims.Rejected s t q cmd 5 0) ∧
            (n ≤ x.slotsz * 64 → n ≤ y.slotsz * 64 →
              (((s.unit q).acc cmd.acc).atag ≠ .none → ((s.unit q).acc cmd.acc).atag ≠ kind → ∃ t : State,
                exec (.matrixCommandStart q) s = .next t ∧ Claims.Rejected s t q cmd 6 0) ∧
              (((s.unit q).acc cmd.acc).atag = .none ∨ ((s.unit q).acc cmd.acc).atag = kind → ∃ t : State,
                exec (.matrixCommandStart q) s = .next t ∧ t.mem = s.mem ∧
                (t.unit q).started = true ∧ (t.unit q).progress = 0 ∧ ((t.unit q).acc cmd.acc).atag = kind ∧
                (t.unit q).fifo = (s.unit q).fifo ∧ ∀ n e, Claims.accWord t q n e = Claims.accWord s q n e)))) ∧
        (∀ k, cmd.kind = .mload k → ∃ t : State, exec (.matrixCommandStart q) s = .next t ∧ (t.unit q).fifo = rest ∧
          (t.unit q).loading = [cmd] ∧ t.mem = s.mem) ∧
        (∀ h e arg z, cmd.kind = .mdrain h e arg z → ∃ t : State, exec (.matrixCommandStart q) s = .next t ∧
          (t.unit q).started = true ∧ (t.unit q).progress = 0 ∧ ((t.unit q).acc cmd.acc).rows = BitVec.allOnes 32 ∧
          t.mem = s.mem) ∧
        ((cmd.kind = .mzero ∨ ∃ k b, cmd.kind = .mstore k b) → ∃ t : State, exec (.matrixCommandStart q) s = .next t ∧
          (t.unit q).started = true ∧ (t.unit q).fifo = (s.unit q).fifo ∧ t.mem = s.mem))) ∧
    ((s.unit q).started = true →
      (cmd.kind = .mzero → ∃ t : State, exec (.matrixCommandDone q) s = .next t ∧ (t.unit q).fifo = rest ∧
        (t.unit q).acc cmd.acc = { words := [], atag := .none, rows := 0#32 } ∧ t.mem = s.mem) ∧
      (∀ k b, cmd.kind = .mstore k b → ∃ t : State, exec (.matrixCommandDone q) s = .next t ∧ (t.unit q).fifo = rest ∧
        t.mem = s.mem ∧ ∃ m, (t.unit q).loading = (s.unit q).loading ++ [m] ∧ m.kind = .mstore k b ∧
        m.image.length = 4096 ∧
          ∀ e, e < 1024 → bytesNat ((m.image.drop (4 * e)).take 4) = (Claims.accWord s q cmd.acc e).toNat) ∧
      (∀ h e arg z, cmd.kind = .mdrain h e arg z → (s.core e).events.length < 16 → ∃ t x r,
        exec (.drainRowOffer q) s = .next t ∧ t.mem = s.mem ∧ Claims.Entered s t e x ∧ x.pc = h ∧
        x.a0 = word (s.unit q).progress ∧ x.a1 = arg.setWidth 64 ∧ x.row = some r ∧ r.1.quad = q ∧ r.1.acc = cmd.acc ∧
        r.1.row = (s.unit q).progress ∧ r.1.zero = z ∧
        (∀ j, j < 16 → r.2.1.extractLsb' (32 * j) 32 = Claims.accWord s q cmd.acc (32 * (s.unit q).progress + j) ∧
          r.2.2.extractLsb' (32 * j) 32 = Claims.accWord s q cmd.acc (32 * (s.unit q).progress + 16 + j)) ∧
        ((s.unit q).progress < 31 → (t.unit q).progress = (s.unit q).progress + 1 ∧ (t.unit q).fifo = (s.unit q).fifo) ∧
        (31 ≤ (s.unit q).progress → (t.unit q).fifo = rest)) ∧
      (∀ g a b x y, cmd.kind = .mma g a b → x = s.ring (q / 4) a → y = s.ring (q / 4) b → a ≠ b →
        ((s.unit q).step = none → x.slot x.head = .committed → y.slot y.head = .committed → ∃ t : State,
          exec (.kstepTake q) s = .next t ∧ t.mem = s.mem ∧ (t.unit q).step = some (x.head, y.head) ∧
          t.ring (q / 4) a = { x with slots := x.slots.set x.head .taken, head := (x.head + 1) % x.count } ∧
          t.ring (q / 4) b = { y with slots := y.slots.set y.head .taken, head := (y.head + 1) % y.count }) ∧
        (∀ t0, (s.unit q).step = none → (x.slot x.head ≠ .committed ∨ y.slot y.head ≠ .committed) →
          (s.unit q).waitSince = some t0 → (s.core cmd.core).waitto.toNat * 1800 ≤ s.clockOf (4 * q) - t0 →
          ∃ t : State, exec (.kstepWaitTimeout q) s = .next t ∧ Claims.Rejected s t q cmd 7 (s.unit q).progress) ∧
        (∀ i j kind n, (s.unit q).step = some (i, j) → (x.fmt.toNat, y.fmt.toNat, kind, n) ∈ Claims.formatPairs →
          x.slot i = .taken → y.slot j = .taken →
          s.eccBad = [] → ∃ t : State, exec (.kstepRetire q) s = .next t ∧ t.mem = s.mem ∧
            (∀ e, e < 1024 → kind = .i32 → Claims.accWord t q cmd.acc e = Claims.accWord s q cmd.acc e + BitVec.ofInt 32
              (((List.range 32).map fun k => Claims.int8At s (s.slotKey (q / 4) a i) (e / 32) k *
                Claims.int8At s (s.slotKey (q / 4) b j) (e % 32) k).sum)) ∧
            (∀ e, e < 1024 → kind = .fp32 → (Claims.accWord t q cmd.acc e).toNat =
              Claims.kstepFp s (s.slotKey (q / 4) a i) (s.slotKey (q / 4) b j) x.fmt y.fmt (e / 32) (e % 32)
                (Claims.accWord s q cmd.acc e)) ∧
            (t.ring (q / 4) a).slot i = .free ∧ (t.ring (q / 4) b).slot j = .free ∧ (t.unit q).step = none ∧
            ((s.unit q).progress + 1 < g → (t.unit q).fifo = (s.unit q).fifo ∧
              (t.unit q).progress = (s.unit q).progress + 1) ∧
            (g ≤ (s.unit q).progress + 1 → (t.unit q).fifo = rest ∧
              (t.core cmd.core).matrixOut = (s.core cmd.core).matrixOut - 1))))) ∧
  (∀ (s : State) (q n k : Nat) (cmd : MatCmd), s.unitRuns q = true →
    ((s.unit q).loading.find? fun m => m.acc == n && m.kind.loadKey.isSome) = some cmd → cmd.kind = .mload k →
    s.eccBad = [] → ∃ t : State, exec (.mloadDone q n) s = .next t ∧ t.mem = s.mem ∧ ((t.unit q).acc n).atag = .none ∧
      (t.core cmd.core).matrixOut = (s.core cmd.core).matrixOut - 1 ∧
      ∀ e, e < 1024 → (Claims.accWord t q n e).toNat = Claims.numAt s (k + 4 * e) 4) ∧
  (∀ (s : State) (core q id k bar : Nat) (cmd : MatCmd), ((s.unit q).loading.find? fun m => m.id == id) = some cmd →
    cmd.kind = .mstore k bar → cmd.cut = none → cmd.image.length = 4096 → s.isLive bar = true → bar % 16 = 0 →
    (bar + 16 ≤ k ∨ k + 4096 ≤ bar) → ∃ t : State, exec (.pieceLand core (16 + q) id) s = .next t ∧
      (∀ j, j < 4096 → memGet t.mem (k + j) = cmd.image.getD j 0#8) ∧
      (∀ x, (x < k ∨ k + 4096 ≤ x) → (x < bar ∨ bar + 8 ≤ x) → memGet t.mem x = memGet s.mem x) ∧
      (t.core cmd.core).matrixOut = (s.core cmd.core).matrixOut - 1)

-- Folds (09_isa_matrix_fold.md).

namespace Sys2Proof.Claims

/-- H(k) of R256, on numbers. -/
def hash (k : Nat) : Nat :=
  let mix := fun z m : Nat => (z ^^^ z / 2 ^ 33) * m % 2 ^ 64
  let z := mix (mix k 0xFF51AFD7ED558CCD) 0xC4CEB9FE1A85EC53
  z ^^^ z / 2 ^ 33

/-- The context waits for the fold of a cluster, and its request or operand has set out. -/
def Asks (s t : State) (cl : Nat) (body : PktBody) : Prop :=
  Sent s t (s.cur.1 / 16) cl (s.cur.1 % 16) .fold body ∧ t.mem = s.mem ∧ t.cx.pc = s.cx.pc ∧ t.cx.x = s.cx.x ∧
    ∃ w, t.cx.wait = some w ∧ w.kind = .foldAnswer cl

/-- The fold's part of its cluster's injection queue has room for a packet to the cluster of a core, and none of its packets
is held for want of it (R380). -/
def FoldRoom (s : State) (cl core : Nat) : Prop :=
  s.canInject cl (core / 16) 17 .fold = true ∧
    ∀ d o pid b from', HeldAction.packet d 17 .fold o pid b from' ∉ (s.cluster cl).held

/-- The fold of a cluster answers a context: its packet sets out, or is held while there is no room for it. -/
def Answers (s t : State) (cl core ctx : Nat) (cause : Option (BitVec 8 × BitVec 64))
    (full : Option (BitVec 64 × BitVec 64)) : Prop :=
  (∃ p ∈ t.net, p ∉ s.net ∧ p.body = .answer core ctx cause full ∧ p.src = cl ∧ p.dst = core / 16 ∧ p.agent = 17) ∨
    (¬ FoldRoom s cl core ∧ (t.cluster cl).held =
      (s.cluster cl).held ++ [.packet (core / 16) 17 .fold false (s.foldAt cl).pid (.answer core ctx cause full) none])

/-- Ids of packets are below the next one. -/
def FreshIds (s : State) : Prop := ∀ p ∈ s.net, p.id < s.nextId

/-- Bytes of an element of a fold operation (R261). -/
def foldWidth (op : BitVec 4) : Nat := if op = 1#4 then 2 else if op.toNat ≤ 4 then 4 else 1

/-- What a fold operation makes of two codes of an element: ADD.F32, ADD.BF16, MAX.F32, MIN.F32, ADD.I32, AND, OR, XOR
(R85). -/
def foldCode (op : BitVec 4) (x y : Nat) : Nat :=
  let fp := fun v : Val => (roundTo fp32 false Rnd.rne v.v).code
  match op.toNat with
  | 0 => fp (addNum false (fp32.decode x) (fp32.decode y))
  | 1 => (roundTo bf16 false Rnd.rne (fp32.decode (fp (addNum false (bf16.decode x) (bf16.decode y))))).code
  | 2 => fp (maxNum (fp32.decode x) (fp32.decode y))
  | 3 => fp (minNum (fp32.decode x) (fp32.decode y))
  | 4 => (x + y) % 2 ^ 32
  | 5 => x &&& y
  | 6 => x ||| y
  | _ => x ^^^ y

/-- Each whole element of some bytes is what the operation makes of those of two operands. -/
def Combined (op : BitVec 4) (a b r : List (BitVec 8)) : Prop :=
  ∀ w j, w = foldWidth op → w * j + w ≤ a.length → bytesNat ((r.drop (w * j)).take w) =
    foldCode op (bytesNat ((a.drop (w * j)).take w)) (bytesNat ((b.drop (w * j)).take w)) % 2 ^ (8 * w)

/-- An operand has become a delivery alone at its fold, with a reason: its own data, for the entry that delivers (R263). -/
def Alone (j : FoldJob) (o : FoldOperand) (reason : Nat) : Prop :=
  j.reason = reason ∧ j.operand.data = o.data ∧ j.operand.key = o.key ∧
    ∀ tg bar, finalEntry o.route = some (tg, bar) → j.operand.route = [.deliver tg bar]

/-- An operand that arrives is taken: its sender's FOLD is answered if a FOLD sent it. -/
def Accepted (s t : State) (cl : Nat) (o : FoldOperand) : Prop :=
  o.chained = false → Answers s t cl o.sender o.ctx none none

/-- The operand is refused for a reason: discarded with FOLD_FULL for its sender, or alone with reason 4 if it came from a
fold (R262, R263). -/
def Refuses (s t : State) (cl : Nat) (o : FoldOperand) (reason : Nat) : Prop :=
  t.mem = s.mem ∧ (t.foldAt cl).entries = (s.foldAt cl).entries ∧
    (o.chained = false → o.size < 8 → (t.foldAt cl).refused = (s.foldAt cl).refused + 1#64 ∧
      (t.foldAt cl).jobs = (s.foldAt cl).jobs ∧ ∃ v, fld v 60 4 = reason ∧ fld v 55 5 = 0 ∧ fld v 52 3 = o.size ∧
        fld v 48 4 = o.op.toNat ∧ fld v 0 48 = fld o.block 0 48 ∧
        Answers s t cl o.sender o.ctx none (some (o.key.setWidth 64, v))) ∧
    (o.chained = true → ∃ x, (t.foldAt cl).jobs = (s.foldAt cl).jobs ++ [x] ∧ Alone x o 4)

/-- Bytes for a target can land whole at it, and count at a live barrier that has not flipped. -/
def CanLand (s : State) (tg bar n : Nat) : Prop :=
  n % 32 = 0 ∧ tg % 32 = 0 ∧ bar % 16 = 0 ∧ 0 < n ∧ (∀ x, tg ≤ x → x < tg + n → granuleOf x ∉ s.live) ∧
    s.isLive bar = true ∧ ¬ doneOf (s.tbWord bar) ∧ (n : Int) ≤ pendOf (s.tbWord bar)

/-- They have landed, and the barrier has counted them. -/
def Landed (s t : State) (tg bar : Nat) (data : List (BitVec 8)) : Prop :=
  let n := data.length
  let w := s.tbWord bar
  (∀ x, x < n → memGet t.mem (tg + x) = data.getD x 0#8) ∧
    (∀ x, (x < tg ∨ tg + n ≤ x) → (x < bar ∨ bar + 8 ≤ x) → memGet t.mem x = memGet s.mem x) ∧
    TbFields (t.tbWord bar) (bitOf w 63) (bitOf w 62) (bitOf w 61)
      (bitOf w 60 != decide (fld w 44 12 = 0 ∧ pendOf w = n)) (fld w 56 4) (fld w 44 12) (fld w 32 12) (pendOf w - n).toNat

end Sys2Proof.Claims

/-- FKEY gives the index of the fold that holds a key. FOLD checks its key, its operand, its route block, the route and the
target in order, and sends the operand to the fold of its key; FRES and FREL send theirs; each waits for the answer, and for
room in the injection queue (R256, R257, R258, R259, R260). The model's own choice in it is log 68. -/
def Obligations.FoldInstructions : Prop :=
  ∀ (s : State) (d a b c : BitVec 5) (z : BitVec 3) (op : BitVec 4),
    (∀ i ∈ [Instr.fkey d a, .fold a b c z op, .fres a z, .frel a], s.Issues i → s.waitsFold = false →
      2 ^ 48 ≤ (s.x a).toNat → exec i s = s.raise s (trap cAddr (s.x a))) ∧
    ((s.x a).toNat < 2 ^ 48 →
      (s.Issues (.fkey d a) → exec (.fkey d a) s =
        .next ((s.setX d (word (Claims.hash (s.x a).toNat % ((s.shape s.cur.1).cores / 16)))).bump 4)) ∧
      (∀ cl ix, ix = Claims.hash (s.x a).toNat % ((s.shape s.cur.1).cores / 16) →
        (s.shape s.cur.1).clusters[ix]? = some cl → s.cx.wait = none →
        (∀ i body, (i, body) ∈ [(Instr.fres a z, PktBody.request cl s.cur.1 s.cur.2 ((s.x a).setWidth 48) (some z.toNat)),
            (.frel a, .request cl s.cur.1 s.cur.2 ((s.x a).setWidth 48) none)] → s.Issues i →
          (s.canInject (s.cur.1 / 16) cl (s.cur.1 % 16) .fold = false → exec i s = .next s) ∧
          (s.canInject (s.cur.1 / 16) cl (s.cur.1 % 16) .fold = true → ∃ t : State, exec i s = .next t ∧
          Claims.Asks s t cl body)) ∧
        (s.Issues (.fold a b c z op) → ∀ i n, i = Instr.fold a b c z op → n = 64 * 2 ^ z.toNat →
          (∀ tr, Claims.dataTrap s (s.x b) n 64 .r = some tr → exec i s = s.raise s tr) ∧
          (∀ m, Claims.dataTrap s (s.x b) n 64 .r = none → resolve s.cur.1 (s.x b) n = some m →
            (∀ tr, Claims.routeTrap s (s.x c) 128 128 .r = some tr → exec i s = s.raise s tr) ∧
            (∀ blk ws, Claims.routeTrap s (s.x c) 128 128 .r = none → resolve s.cur.1 (s.x c) 128 = some blk →
              ws = (List.range 8).map (fun e => (word (Claims.numAt s (blk.key + 16 * e) 8),
                word (Claims.numAt s (blk.key + 16 * e + 8) 8))) →
              (routeOf ws = none ∨ (∃ r, routeOf ws = some r ∧ finalEntry r = none) →
                exec i s = s.raise s (trap cAddr (s.x c))) ∧
              (∀ r tg bar, routeOf ws = some r → finalEntry r = some (tg, bar) →
                (∀ tr, s.foldTarget n tg bar = .error tr → exec i s = s.raise s tr) ∧
                (∀ e, s.foldTarget n tg bar = .ok e →
                  (s.canInject (s.cur.1 / 16) cl (s.cur.1 % 16) .fold = false → exec i s = .next s) ∧
                  (s.canInject (s.cur.1 / 16) cl (s.cur.1 % 16) .fold = true → s.eccBad = [] → ∃ t o,
                    exec i s = .next t ∧ Claims.Asks s t cl (.operand cl o) ∧ o.key = (s.x a).setWidth 48 ∧ o.op = op ∧
                    o.size = z.toNat ∧ o.data.length = n ∧ (∀ j, j < n → o.data.getD j 0#8 = memGet s.mem (m.key + j)) ∧
                    o.route = r.dropLast ++ [e] ∧ o.sender = s.cur.1 ∧ o.ctx = s.cur.2 ∧ o.chained = false))))))))

/-- FRES and FREL at the fold: an FRES counts on at a reservation of its size, reserves the entry that holds its key's
operand or a FREE one, or waits behind those that wait; another size, a 256th count, and an FREL without a reservation get
ADDR; an FREL counts down, and the last frees its entry or leaves the held operand (R258, Table 9-8). -/
def Sys2Proof.Claims.FoldRequests : Prop :=
  ∀ (s : State) (id cl core ctx : Nat) (k : BitVec 48) (p : Packet) (f : Fold), Claims.AtTarget s id p →
    f = s.foldAt cl → Claims.FreshIds s → p.pid = f.pid →
    (∀ z, p.body = .request cl core ctx k (some z) →
      (∀ i, f.find k = none → f.fres = [] → f.freeEntry = some i → ∃ t : State, exec (.foldRequestArrive id) s = .next t ∧
        (t.foldAt cl).find k = some (i, { key := k, res := some (1, z), held := none }) ∧
        Claims.Answers s t cl core ctx none none) ∧
      (f.find k = none → (f.fres ≠ [] ∨ f.freeEntry = none) → ∃ t : State, exec (.foldRequestArrive id) s = .next t ∧
        (t.foldAt cl).fres = f.fres ++ [{ core := core, ctx := ctx, key := k, size := z }] ∧
        (t.foldAt cl).entries = f.entries) ∧
      (∀ i e, f.find k = some (i, e) → e.res = none → ∃ t : State, exec (.foldRequestArrive id) s = .next t ∧
        (t.foldAt cl).find k = some (i, { e with res := some (1, z) }) ∧ Claims.Answers s t cl core ctx none none) ∧
      (∀ i e n y, f.find k = some (i, e) → e.res = some (n, y) →
        (y = z → n < 255 → ∃ t : State, exec (.foldRequestArrive id) s = .next t ∧
          (t.foldAt cl).find k = some (i, { e with res := some (n + 1, z) }) ∧
          Claims.Answers s t cl core ctx none none) ∧
        (y ≠ z ∨ 255 ≤ n → ∃ t : State, exec (.foldRequestArrive id) s = .next t ∧ t.foldAt cl = f ∧
          Claims.Answers s t cl core ctx (some (cAddr, k.setWidth 64)) none))) ∧
    (p.body = .request cl core ctx k none →
      (∀ i e n y, f.find k = some (i, e) → e.res = some (n, y) → ∃ t : State, exec (.foldRequestArrive id) s = .next t ∧
        Claims.Answers s t cl core ctx none none ∧
        (1 < n → (t.foldAt cl).find k = some (i, { e with res := some (n - 1, y) })) ∧
        (n = 1 → (t.foldAt cl).entry i = if e.held = none then FoldEntry.free else { e with res := none })) ∧
      ((f.find k = none ∨ ∃ i e, f.find k = some (i, e) ∧ e.res = none) →
        ∃ t : State, exec (.foldRequestArrive id) s = .next t ∧
        t.foldAt cl = f ∧ Claims.Answers s t cl core ctx (some (cAddr, k.setWidth 64)) none))

/-- An operand at the fold: it is held in a FREE entry or in its key's reserved one, or refused for want of an entry or for
its size; it meets the held one, reserved or not: of one operation and size they combine by R85, or exchange, and leave along
their routes, one along a route that both share; otherwise both leave alone. The reservation stays (R85, R258, R261 to R263,
Tables 9-8 and 9-10). The model's own choices in it are logs 65 and 106. -/
def Sys2Proof.Claims.FoldOperands : Prop :=
  ∀ (s : State) (id cl : Nat) (p : Packet) (f : Fold) (o : FoldOperand), Claims.AtTarget s id p → f = s.foldAt cl →
    Claims.FreshIds s → p.body = .operand cl o → p.pid = f.pid →
    (∀ i, f.find o.key = none → f.fres = [] → f.freeEntry = some i →
      ∃ t : State, exec (.foldOperandArrive id) s = .next t ∧ t.mem = s.mem ∧
        (t.foldAt cl).find o.key = some (i, { key := o.key, res := none, held := some (o, s.clusterClock cl, f.oto) }) ∧
        Claims.Accepted s t cl o) ∧
    (f.find o.key = none → (f.fres ≠ [] ∨ f.freeEntry = none) → ∃ t : State, exec (.foldOperandArrive id) s = .next t ∧
      Claims.Refuses s t cl o 1) ∧
    (∀ i e, f.find o.key = some (i, e) →
      (∀ n z, e.res = some (n, z) → z < o.size → ∃ t : State, exec (.foldOperandArrive id) s = .next t ∧
        Claims.Refuses s t cl o 2) ∧
      ((∀ n z, e.res = some (n, z) → o.size ≤ z) →
        (e.held = none → ∃ t : State, exec (.foldOperandArrive id) s = .next t ∧ t.mem = s.mem ∧
          (t.foldAt cl).find o.key = some (i, { e with held := some (o, s.clusterClock cl, f.oto) }) ∧
          Claims.Accepted s t cl o) ∧
        (∀ h t0 oto, e.held = some (h, t0, oto) → ∃ t : State, exec (.foldOperandArrive id) s = .next t ∧ t.mem = s.mem ∧
          Claims.Accepted s t cl o ∧
          (t.foldAt cl).entry i = (if e.res = none then FoldEntry.free else { e with held := none }) ∧
          (h.op = o.op → h.size = o.size → h.data.length = o.data.length →
            (t.foldAt cl).combines = f.combines + 1#64 ∧
            (o.op = 8#4 → ∃ x y, (t.foldAt cl).jobs = f.jobs ++ [x, y] ∧ x.operand = { o with data := h.data } ∧
              y.operand = { h with data := o.data } ∧ x.reason = 0 ∧ y.reason = 0) ∧
            (o.op.toNat < 8 → ∃ x, x.operand.route = h.route ∧ x.operand.op = o.op ∧ x.operand.size = o.size ∧ x.reason = 0 ∧
              Claims.Combined o.op h.data o.data x.operand.data ∧
              (h.route = o.route → (t.foldAt cl).jobs = f.jobs ++ [x]) ∧
              (h.route ≠ o.route → ∃ y, (t.foldAt cl).jobs = f.jobs ++ [x, y] ∧ y.operand.route = o.route ∧
                y.operand.data = x.operand.data ∧ y.operand.op = o.op ∧ y.operand.size = o.size ∧ y.reason = 0))) ∧
          ((h.op ≠ o.op ∨ h.size ≠ o.size) → ∃ x y, (t.foldAt cl).jobs = f.jobs ++ [x, y] ∧
            (t.foldAt cl).orphans = f.orphans + 2#64 ∧ Claims.Alone x h 2 ∧ Claims.Alone y o 2))))

/-- A fold's own steps: requests and operands by Table 9-8; messages of another partition are dropped and counted; FRES_GRANT
serves the FRES that waits when an entry is FREE; the answer completes the waiting instruction or traps it; a result goes on
to its next key, or to its target, as a packet to another cluster, where it lands and is credited; an operand held past the
timeout leaves alone, due 1.024 us later (R85, R258, R261, R262, R263, R265, Tables 9-8, 9-10 and 9-11). The model's own
choices in it are logs 25, 65, 67 and 106. -/
def Obligations.FoldSteps : Prop :=
  Claims.FoldRequests ∧ Claims.FoldOperands ∧
  (∀ (s : State) (id cl core ctx : Nat) (k : BitVec 48) (p : Packet) (f : Fold), Claims.AtTarget s id p →
    f = s.foldAt cl →
    (p.pid ≠ f.pid →
      (∀ o, p.body = .operand cl o → ∃ t : State, exec (.foldOperandArrive id) s = .next t ∧
        t.foldAt cl = { f with piddrop := f.piddrop + 1#64 } ∧ t.mem = s.mem) ∧
      (∀ z, p.body = .request cl core ctx k z → ∃ t : State, exec (.foldRequestArrive id) s = .next t ∧
        t.foldAt cl = { f with piddrop := f.piddrop + 1#64 } ∧ t.mem = s.mem)) ∧
    (∀ cause w, p.body = .answer core ctx cause none → p.pid = s.pidAt p.dst → (s.ctxAt core ctx).wait = some w →
      w.kind = .foldAnswer cl →
      (cause = none → exec (.foldAnswer id) s = .next ((s.dropPacket id).modCtxAt core ctx fun y =>
        { y with pc := y.pc + 4#64, wait := none })) ∧
      (∀ e v, cause = some (e, v) → exec (.foldAnswer id) s = .next ((s.dropPacket id).takeTrap core ctx (trap e v)
        (s.ctxAt core ctx).pc [] (s.ctxAt core ctx).pc)))) ∧
  (∀ (s : State) (cl i : Nat) (w : FresWait) (rest : List FresWait), (s.foldAt cl).fres = w :: rest →
    (s.foldAt cl).find w.key = none → (s.foldAt cl).freeEntry = some i → ∃ t : State, exec (.fresGrant cl) s = .next t ∧
      (t.foldAt cl).fres = rest ∧
      (t.foldAt cl).find w.key = some (i, { key := w.key, res := some (1, w.size), held := none }) ∧
      t.mem = s.mem) ∧
  (∀ (s : State) (cl id : Nat) (j : FoldJob), ((s.foldAt cl).jobs.find? fun x => x.id == id) = some j →
    (∀ k rest dest, j.operand.route = .chain k :: rest → dest = s.foldOf j.operand.sender k →
    s.canInject cl dest 17 .fold = true →
      ∃ t : State, exec (.foldResultDeliver cl id) s = .next t ∧ t.mem = s.mem ∧
        (t.foldAt cl).jobs = (s.foldAt cl).jobs.filter (fun x => x.id != id) ∧
        ∃ p, t.net = s.net ++ [p] ∧ p.dst = dest ∧
          p.body = .operand dest { j.operand with key := k, route := rest, chained := true }) ∧
    (∀ tg bar rest dest, j.operand.route = .deliver tg bar :: rest → dest = (meshOfKey tg).cluster →
      (dest ≠ cl → s.canInject cl dest 17 .fold = true → ∃ t : State, exec (.foldResultDeliver cl id) s = .next t ∧
        t.mem = s.mem ∧ (t.foldAt cl).jobs = (s.foldAt cl).jobs.filter (fun x => x.id != id) ∧
        ∃ p, t.net = s.net ++ [p] ∧ p.dst = dest ∧ p.pid = (s.foldAt cl).pid ∧
          p.body = .result j.operand tg bar j.reason) ∧
      (dest = cl → j.reason = 0 → Claims.CanLand s tg bar j.operand.data.length →
        ∃ t : State, exec (.foldResultDeliver cl id) s = .next t ∧ Claims.Landed s t tg bar j.operand.data))) ∧
  (∀ (s : State) (p : Packet) (o : FoldOperand) (tg bar : Nat), p.body = .result o tg bar 0 → p.pid = s.pidAt p.dst →
    Claims.CanLand s tg bar o.data.length → ∃ t : State, s.takePacket p = some t ∧ p ∉ t.net ∧
      Claims.Landed s t tg bar o.data) ∧
  (∀ (s : State) (cl i t0 oto : Nat) (o : FoldOperand), ((s.foldAt cl).entry i).held = some (o, t0, oto) →
    (if 14 ≤ oto then 1800000 else 18432 * 2 ^ oto) ≤ 10 * (s.clusterClock cl - t0) →
    ∃ t : State, exec (.foldOrphanTimeout cl i) s = .next t ∧ t.mem = s.mem ∧ ((t.foldAt cl).entry i).held = none ∧
      ((t.foldAt cl).entry i).res = ((s.foldAt cl).entry i).res ∧ (t.foldAt cl).orphans = (s.foldAt cl).orphans + 1#64 ∧
      ∃ x, (t.foldAt cl).jobs = (s.foldAt cl).jobs ++ [x] ∧ Claims.Alone x o 1 ∧
        x.due = some (t0 + ((if 14 ≤ oto then 1800000 else 18432 * 2 ^ oto) + 18432) / 10))

-- Host queues (13_scheduling.md, 17_host_bringup.md).

namespace Sys2Proof.Claims

/-- A queue of a function parses a packet of n slots at HEAD: the windows respond, the queue is enabled, not stopped, no
FENCE waits, every slot of the packet lies before TAIL, its header is the one that the parser has read, if it has read one,
and it is the queue's turn at the parser (R315, R316, R317, R342). -/
def CanParse (s : State) (fn q n : Nat) (packet : List (BitVec 64)) : Prop :=
  fn ≤ 64 ∧ q < 64 ∧ s.modl.stage = 3 ∧ bitOf (s.queue fn q).qcfg 7 = true ∧ (s.queue fn q).err = false ∧
    (s.queue fn q).fence = none ∧ packet.length = 8 * n ∧ n = fld (pk packet 0) 8 2 + 1 ∧ n ≤ (s.queue fn q).held ∧
    (∀ w, (s.queue fn q).peeked = some w → w = pk packet 0) ∧ s.parserTurn fn q = true

/-- It parses one that no COND skips, of a type, with reserved header bits 0, which a queue of this function may carry. -/
def Parses (s : State) (fn q n type : Nat) (packet : List (BitVec 64)) : Prop :=
  CanParse s fn q n packet ∧ (s.queue fn q).skip = 0 ∧ fld (pk packet 0) 0 8 = type ∧ fld (pk packet 0) 11 5 = 0 ∧
    (6 ≤ type → fn = 0 ∧ q = 0)

/-- The queue stops at HEAD with a code and interrupts the host (R324). -/
def stopped (s : State) (fn q : Nat) (code : BitVec 4) : State :=
  (s.tookTurn fn q).modQueue fn q fun h =>
    { h with err := true, ecode := code, eslot := h.head, irqs := h.irqs + 1, fence := none, peeked := none }

/-- HEAD has passed n slots, and the queue has not stopped. -/
def Passed (s t : State) (fn q n : Nat) : Prop :=
  (t.queue fn q).head = BitVec.ofNat 16 (((s.queue fn q).head.toNat + n) % 2 ^ fld (s.queue fn q).qcfg 0 5) ∧
    (t.queue fn q).err = false ∧ (t.queue fn q).tail = (s.queue fn q).tail

/-- A packet of a function reads a device VA now: a home has it, nothing accepted earlier holds its block, and its contents
have failed with this cause, if any (R320, R344, R364). -/
def HostReads (s : State) (fn : Nat) (va : BitVec 64) (h : Nat) (fail : Option HandBack) : Prop :=
  s.homeFor (s.fn fn).hrt va = .ok h ∧ h < 40 ∧ s.hostBad fn va false = false ∧ s.blockFail h fn (fld va 0 48) = fail ∧
    (s.base h).requests = [] ∧ (s.base h).parked = [] ∧ (s.base h).asleep = false

/-- The n bytes of a function's memory from an address on, within one block of a home. -/
def field (s : State) (h fn a n : Nat) : Nat := bytesNat (((s.blockBytes h fn (a / 256)).drop (a % 256)).take n)

/-- The 8-byte word that it reads is v. -/
def HostWord (s : State) (fn : Nat) (va v : BitVec 64) : Prop :=
  ∃ h, HostReads s fn va h none ∧ v = word (field s h fn (fld va 0 48) 8)

/-- An address that a packet cannot read: no home serves it, or its block's contents fail. -/
def HostFails (s : State) (fn : Nat) (va : BitVec 64) : Prop :=
  s.hostBad fn va false = true ∨ ∃ h e, HostReads s fn va h (some e)

/-- Comparison codes of R320. -/
def compares (code : Nat) (m v : BitVec 64) : Bool :=
  (code == 1 && m == v) || (code == 2 && m != v) || (code == 3 && decide (v.toNat ≤ m.toNat)) ||
    (code == 4 && decide (m.toNat < v.toNat)) || (code == 5 && decide (v.toInt ≤ m.toInt)) ||
    (code == 6 && decide (m.toInt < v.toInt))

/-- What the I/O die demands of a LAUNCH (R319, Table 13-4). -/
def LaunchValid (w : Nat → BitVec 64) : Prop :=
  fld (w 0) 18 4 ≠ 0 ∧ fld (w 0) 22 10 = 0 ∧ fld (w 1) 1 3 = 0 ∧ fld (w 1) 16 48 = 0 ∧ fld (w 12) 11 53 = 0 ∧
    w 13 = 0#64 ∧ w 14 = 0#64 ∧ w 15 = 0#64 ∧ 2 ≤ (w 4).toNat ∧ (w 4).toNat ≤ 2 ^ 32 ∧ (w 2).toNat % 2 = 0 ∧
    (w 3).toNat ≤ (w 2).toNat ∧ (w 2).toNat < (w 3).toNat + (w 4).toNat ∧ (w 6).toNat % 64 = 0 ∧ (w 8).toNat % 64 = 0 ∧
    fld (w 7) 32 32 ≤ 0x100000 ∧ fld (w 7) 32 32 % 64 = 0 ∧ fld (w 7) 0 32 ≤ 0x6000 ∧ fld (w 7) 0 32 % 64 = 0 ∧
    (w 9).toNat % 32 = 0 ∧ (w 10).toNat % 8 = 0

end Sys2Proof.Claims

/-- A doorbell sets TAIL, QCFG with EN sets the queue up with HEAD and TAIL 0 unless LOG2 is out of range, clearing ERR lets
a stopped queue go on, and other host writes reach the register they name; a 0 written to a bit that a 1 clears or sets
changes nothing; before READY nothing changes. A packet that COND skips is passed over; an unassigned type, a reserved bit
or a privileged packet elsewhere stops the queue (R8, R315, R316, R321, R324, R410, R411, Table 13-1). -/
def Sys2Proof.Claims.HostQueues : Prop :=
  (∀ (s : State) (fn q : Nat) (tail : BitVec 16) (cfg : BitVec 64), fn ≤ 64 → q < 64 → bitOf cfg 7 = true →
    (s.modl.stage ≠ 3 → ∀ i ∈ [Instr.queueDoorbell fn q tail, .queueEnable fn q cfg, .queueErrorClear fn q],
      exec i s = .next s) ∧
    (s.modl.stage = 3 →
      exec (.queueDoorbell fn q tail) s = .next (s.modQueue fn q fun h => { h with tail := tail }) ∧
      exec (.queueErrorClear fn q) s = .next (s.modQueue fn q fun h => { h with err := false }) ∧
      (6 ≤ fld cfg 0 5 → fld cfg 0 5 ≤ 16 → exec (.queueEnable fn q cfg) s = .next (s.modQueue fn q fun h =>
        { h with qcfg := word (128 + fld cfg 0 5), head := 0#16, tail := 0#16, fence := none, peeked := none })) ∧
      (fld cfg 0 5 < 6 ∨ 16 < fld cfg 0 5 → exec (.queueEnable fn q cfg) s = .next (s.modQueue fn q fun h =>
        { h with qcfg := 0#64 })))) ∧
  (∀ (s : State) (fn q : Nat) (v : BitVec 64), fn ≤ 64 → q < 64 →
    (s.modl.stage ≠ 3 → exec (.hostRegisterWrite fn (0x1000 + 64 * q) v) s = .next s) ∧
    (s.modl.stage = 3 →
      (∃ t : State, exec (.hostRegisterWrite fn (0x1000 + 64 * q) v) s = .next t ∧ t.mem = s.mem ∧ t.modl = s.modl ∧
        (t.queue fn q).qbase = word (fld v 12 52 * 4096) ∧ (t.queue fn q).head = (s.queue fn q).head) ∧
      (∃ t : State, exec (.hostRegisterWrite fn (0x1020 + 64 * q) v) s = .next t ∧ t.mem = s.mem ∧
        t.queue fn q = { s.queue fn q with err := (s.queue fn q).err && !bitOf v 1 }) ∧
      (∃ w, s.barRead fn (0x1020 + 64 * q) = some w ∧ bitOf w 1 = (s.queue fn q).err ∧
        (bitOf w 0 = true ↔ (s.queue fn q).head = (s.queue fn q).tail ∧ (s.queue fn q).fence = none)) ∧
      (bitOf v 0 = false → ∀ off ∈ [0xC030, 0xD030, 0xE018], exec (.hostRegisterWrite 0 off v) s = .next s) ∧
      (∃ t : State, exec (.hostRegisterWrite fn 0x2018 v) s = .next t ∧ (t.fn fn).fqhead = word (fld v 0 16) ∧
      t.mem = s.mem) ∧
      (s.modl.mailbox.busy = false →
      ∀ i : Fin 5, ∃ t : State, exec (.hostRegisterWrite 0 (0xD008 + 8 * i.val) v) s = .next t ∧
        t.modl.mailbox.args = s.modl.mailbox.args.set i.val v ∧ t.modl.mailbox.req = s.modl.mailbox.req ∧
        t.functions = s.functions) ∧
      (s.modl.mailbox.busy = true → ∀ i : Fin 5, exec (.hostRegisterWrite 0 (0xD008 + 8 * i.val) v) s = .next s))) ∧
  (∀ (s : State) (fn q n ty : Nat) (packet : List (BitVec 64)) (i : Instr), Claims.CanParse s fn q n packet →
    ty = fld (pk packet 0) 0 8 →
    i ∈ [Instr.launch fn q packet, .fencePacket fn q packet, .cond fn q packet, .signal fn q packet,
      .copyPacket fn q packet [], .killPacket fn q packet] →
    ((s.queue fn q).skip ≠ 0 → exec i s = .next ((s.tookTurn fn q).modQueue fn q fun h =>
      { h with head := BitVec.ofNat 16 ((h.head.toNat + n) % 2 ^ fld h.qcfg 0 5), skip := h.skip - 1, peeked := none })) ∧
    ((s.queue fn q).skip = 0 →
      (ty = 0 ∨ 7 < ty → exec i s = .next (Claims.stopped s fn q 1#4)) ∧
      ((i, ty) ∈ [(Instr.launch fn q packet, 1), (.fencePacket fn q packet, 2), (.cond fn q packet, 3),
          (.signal fn q packet, 4), (.copyPacket fn q packet [], 5), (.killPacket fn q packet, 7)] →
        (fld (pk packet 0) 11 5 ≠ 0 → exec i s = .next (Claims.stopped s fn q 2#4)) ∧
        (n = 1 → fld (pk packet 0) 11 5 = 0 → ty = 7 → ¬ (fn = 0 ∧ q = 0) →
        exec i s = .next (Claims.stopped s fn q 4#4))))) ∧
  (∀ (s : State) (fn q : Nat) (packet : List (BitVec 64)), Claims.CanParse s fn q 1 packet → (s.queue fn q).skip = 0 →
    fld (pk packet 0) 0 8 = 6 → fld (pk packet 0) 11 5 = 0 → ¬ (fn = 0 ∧ q = 0) →
    exec (if bitOf (pk packet 0) 16 then .preemptRelease fn q packet else .preemptHold fn q packet) s =
      .next (Claims.stopped s fn q 4#4))

/-- A LAUNCH enters the pending list or stops the queue (R318, R319). -/
def Sys2Proof.Claims.LaunchPackets : Prop :=
  ∀ (s : State) (fn q : Nat) (packet : List (BitVec 64)), Claims.Parses s fn q 2 1 packet →
   (Claims.LaunchValid (pk packet) → ∃ t : State, ∃ p, exec (.launch fn q packet) s = .next t ∧
   Claims.Passed s t fn q 2 ∧
     t.mem = s.mem ∧ amGet? t.parts s.nextId = some p ∧ p.fn = fn ∧ p.queue = q ∧ p.pending = true ∧
     p.accepted = s.now ∧
     p.launch.entry = pk packet 2 ∧ p.launch.codebase = pk packet 3 ∧ p.launch.codelen = (pk packet 4).toNat ∧
     p.launch.argva = pk packet 5 ∧ p.launch.weight = fld (pk packet 0) 18 4 ∧ t.nextId = s.nextId + 1) ∧
   (¬ Claims.LaunchValid (pk packet) → exec (.launch fn q packet) s = .next (Claims.stopped s fn q 3#4))

/-- A FENCE stands at HEAD and waits, or stops the queue (R320). -/
def Sys2Proof.Claims.FencePackets : Prop :=
  ∀ (s : State) (fn q n k : Nat) (packet : List (BitVec 64)), Claims.Parses s fn q n 2 packet →
  k = fld (pk packet 0) 16 4 →
   1 ≤ k → k ≤ 12 → n = (24 + 16 * k + 63) / 64 →
   ((fld (pk packet 2) 32 32 = 0 ∧ ∀ i, i < k → 1 ≤ fld (pk packet 1) (4 * i) 4 ∧ fld (pk packet 1) (4 * i) 4 ≤ 6 ∧
       (pk packet (3 + 2 * i)).toNat % 8 = 0) → ∃ t : State, ∃ f, exec (.fencePacket fn q packet) s = .next t ∧
     (t.queue fn q).fence = some f ∧ f.slots = n ∧ f.tuples.length = k ∧ f.tmo = fld (pk packet 2) 0 32 ∧
     f.since = s.now ∧
     (t.queue fn q).head = (s.queue fn q).head ∧ t.mem = s.mem) ∧
   ((fld (pk packet 2) 32 32 ≠ 0 ∨ ∃ i, i < k ∧ (pk packet (3 + 2 * i)).toNat % 8 ≠ 0) →
     exec (.fencePacket fn q packet) s = .next (Claims.stopped s fn q 3#4))

/-- A poll of a FENCE finds one tuple to hold, or one that it cannot read, until its limit, which ends it (R320, R324). -/
def Sys2Proof.Claims.FencePolls : Prop :=
  ∀ (s : State) (fn q i l : Nat) (f : FenceWait) (u : FenceTuple), (s.queue fn q).fence = some f → f.tuples[i]? = some u →
   l = f.since + 1800000 * (if f.tmo = 0 then 10000 else f.tmo) →
   (u.held = false → s.now < l → ∀ v, Claims.HostWord s fn u.addr v → 1 ≤ u.cmp.toNat → u.cmp.toNat ≤ 6 →
     (Claims.compares u.cmp.toNat v u.value = false → exec (.fencePoll fn q i) s = .next s) ∧
     (Claims.compares u.cmp.toNat v u.value = true →
       ((∃ j x, j ≠ i ∧ f.tuples[j]? = some x ∧ x.held = false) → ∃ t : State, exec (.fencePoll fn q i) s = .next t ∧
         (t.queue fn q).fence = some { f with tuples := f.tuples.set i { u with held := true } } ∧
         (t.queue fn q).head = (s.queue fn q).head) ∧
       ((∀ j x, j ≠ i → f.tuples[j]? = some x → x.held = true) → (s.queue fn q).err = false →
         ∃ t : State, exec (.fencePoll fn q i) s = .next t ∧ (t.queue fn q).fence = none ∧
         Claims.Passed s t fn q f.slots))) ∧
   (u.held = false → s.now < l → Claims.HostFails s fn u.addr → ∃ t : State, exec (.fencePoll fn q i) s = .next t ∧
     (t.queue fn q).fence = none ∧ (t.queue fn q).err = true ∧ (t.queue fn q).ecode = 5#4) ∧
   (l ≤ s.now → exec (.fencePoll fn q i) s = notNow "FENCE_POLL" ∧ ∃ t : State, exec (.fenceTimeout fn q) s = .next t ∧
     (t.queue fn q).fence = none ∧ (t.queue fn q).err = true ∧ (t.queue fn q).ecode = 6#4 ∧
     (t.queue fn q).eslot = (s.queue fn q).head)

/-- A COND skips packets on a comparison that fails (R321). -/
def Sys2Proof.Claims.CondPackets : Prop :=
  ∀ (s : State) (fn q c k : Nat) (packet : List (BitVec 64)), Claims.Parses s fn q 1 3 packet →
  c = fld (pk packet 0) 16 4 →
   k = fld (pk packet 0) 20 8 →
   (c = 0 ∨ 6 < c ∨ k = 0 ∨ (pk packet 1).toNat % 8 ≠ 0 →
     exec (.cond fn q packet) s = .next (Claims.stopped s fn q 3#4)) ∧
   (1 ≤ c → c ≤ 6 → k ≠ 0 → (pk packet 1).toNat % 8 = 0 → Claims.HostFails s fn (pk packet 1) →
     ∃ t : State, exec (.cond fn q packet) s = .next t ∧ t.mem = s.mem ∧ (t.queue fn q).err = true ∧
       (t.queue fn q).ecode = 5#4 ∧ (t.queue fn q).head = (s.queue fn q).head) ∧
   (∀ v, 1 ≤ c → c ≤ 6 → k ≠ 0 → (pk packet 1).toNat % 8 = 0 → Claims.HostWord s fn (pk packet 1) v →
     ∃ t : State, exec (.cond fn q packet) s = .next t ∧ Claims.Passed s t fn q 1 ∧ t.mem = s.mem ∧
       (t.queue fn q).skip = (if Claims.compares c v (pk packet 2) then 0 else k))

/-- A SIGNAL is a write of 8 bytes, or an atomic add, sent to the home of its word once everything earlier has ended (R322). -/
def Sys2Proof.Claims.SignalPackets : Prop :=
  ∀ (s : State) (fn q h : Nat) (packet : List (BitVec 64)), Claims.Parses s fn q 1 4 packet →
   ((pk packet 1).toNat % 8 ≠ 0 → exec (.signal fn q packet) s = .next (Claims.stopped s fn q 3#4)) ∧
   ((pk packet 1).toNat % 8 = 0 → (∀ e ∈ s.parts, ¬ (e.2.fn = fn ∧ e.2.queue = q)) → (s.queue fn q).copies = [] →
     s.hostBad fn (pk packet 1) true = false → s.homeFor (s.fn fn).hrt (pk packet 1) = .ok h →
     bitOf (pk packet 0) 16 = false →
     ∃ (t : State) (r : HomeReq), exec (.signal fn q packet) s = .next t ∧ Claims.Passed s t fn q 1 ∧ t.mem = s.mem ∧
       r.writer = .host fn q s.nextId ∧ r.fn = fn ∧ r.blocks = [fld (pk packet 1) 0 48 / 256] ∧
       (∃ bs, r.body = .write bs ∧ bs.map (fun x => x.2.1) = natBytes 8 (pk packet 2).toNat ∧
         bs.map Prod.fst = (List.range 8).map fun i => fld (pk packet 1) 0 8 + i) ∧
       (t.base h).reaching = (s.base h).reaching ++ [r]) ∧
   ((pk packet 1).toNat % 8 = 0 → (∀ e ∈ s.parts, ¬ (e.2.fn = fn ∧ e.2.queue = q)) → (s.queue fn q).copies = [] →
     s.hostBad fn (pk packet 1) true = false → s.homeFor (s.fn fn).hrt (pk packet 1) = .ok h →
     bitOf (pk packet 0) 16 = true →
     ∃ (t : State) (r : HomeReq), exec (.signal fn q packet) s = .next t ∧ Claims.Passed s t fn q 1 ∧ t.mem = s.mem ∧
       r.fn = fn ∧ r.body = .atomic 1 8 (fld (pk packet 1) 0 48) ((pk packet 2).setWidth 128) 0#128 ∧
       (t.base h).reaching = (s.base h).reaching ++ [r])

/-- A COPY of one block sends its bytes to the home of the block (R322). -/
def Sys2Proof.Claims.CopyPackets : Prop :=
  ∀ (s : State) (fn q : Nat) (packet : List (BitVec 64)) (data : List Byte), Claims.Parses s fn q 1 5 packet →
   (pk packet 3 = 0#64 ∨ 2 ^ 40 < (pk packet 3).toNat ∨ (pk packet 4).toNat % 8 ≠ 0 →
     exec (.copyPacket fn q packet data) s = .next (Claims.stopped s fn q 3#4)) ∧
   (∀ len a, len = (pk packet 3).toNat → a = fld (pk packet 2) 0 48 → 0 < len → (pk packet 4).toNat % 8 = 0 →
     bitOf (pk packet 0) 16 = false → data.length = len → a % 256 + len ≤ 256 →
     s.hostBad fn (pk packet 2) true = false →
     ∀ h, s.homeFor (s.fn fn).hrt (pk packet 2) = .ok h → s.homeFor (s.fn fn).hrt (devVa s (256 * (a / 256))) = .ok h →
     ∃ (t : State) (j : CopyJob) (r : HomeReq), exec (.copyPacket fn q packet data) s = .next t ∧
     Claims.Passed s t fn q 1 ∧ t.mem = s.mem ∧
       (t.queue fn q).copies = (s.queue fn q).copies ++ [j] ∧ j.id = s.nextId ∧ j.left = 1 ∧ j.len = len ∧
       j.slot = (s.queue fn q).head ∧ r.blocks = [a / 256] ∧ r.writer = .host fn q s.nextId ∧
       (∃ bs, r.body = .write bs ∧ bs.map (fun x => x.2.1) = data ∧
         bs.map Prod.fst = (List.range len).map fun i => a % 256 + i) ∧
       (t.base h).reaching = (s.base h).reaching ++ [r])

/-- A copy whose last block has been answered writes its counter, or stops the queue (R322, R324). -/
def Sys2Proof.Claims.CopiesEnd : Prop :=
  ∀ (s : State) (fn q id h n : Nat) (j : CopyJob), ((s.queue fn q).copies.find? fun x => x.id == id) = some j →
   j.signal = false → j.counting = false → j.left = 0 → n = 2 ^ fld (s.queue fn q).qcfg 0 5 →
   (j.refused = true → ∃ t : State, exec (.copyDone fn q id) s = .next t ∧ (t.queue fn q).err = true ∧
     (t.queue fn q).ecode = 5#4 ∧ (t.queue fn q).eslot = j.slot ∧ (t.queue fn q).fence = none ∧ t.mem = s.mem ∧
     ((s.queue fn q).held ≤ (j.slot.toNat + n - (s.queue fn q).head.toNat % n) % n →
       (t.queue fn q).head = j.slot ∧ (t.queue fn q).skip = 0) ∧
     ((j.slot.toNat + n - (s.queue fn q).head.toNat % n) % n < (s.queue fn q).held →
       (t.queue fn q).head = (s.queue fn q).head)) ∧
   (j.refused = false → s.hostBad fn j.cntva true = false → s.homeFor (s.fn fn).hrt j.cntva = .ok h →
     ∃ (t : State) (r : HomeReq), exec (.copyDone fn q id) s = .next t ∧ t.mem = s.mem ∧
     r.blocks = [fld j.cntva 0 48 / 256] ∧
       (∃ bs, r.body = .write bs ∧ bs.map (fun x => x.2.1) = natBytes 8 j.cntval.toNat) ∧
       (t.base h).reaching = (s.base h).reaching ++ [r])

/-- PREEMPT holds and releases a partition, KILL ends it (R323). -/
def Sys2Proof.Claims.PreemptAndKillPackets : Prop :=
  ∀ (s : State) (packet : List (BitVec 64)) (id : Nat) (p : Part), s.parts = [(id, p)] →
  p.fn = fld (pk packet 1) 32 16 →
   (bitOf (pk packet 0) 17 = true ∨ p.launch.tag.toNat = fld (pk packet 1) 0 32) →
   (Claims.Parses s 0 0 1 6 packet →
     (bitOf (pk packet 0) 16 = false → p.pending = true ∨ p.state = .running →
     ∃ t : State, exec (.preemptHold 0 0 packet) s = .next t ∧
       amGet? t.parts id = some { p with held := true } ∧ Claims.Passed s t 0 0 1 ∧ t.mem = s.mem) ∧
     (bitOf (pk packet 0) 16 = true → ∃ t : State, exec (.preemptRelease 0 0 packet) s = .next t ∧
       amGet? t.parts id = some { p with held := false } ∧ Claims.Passed s t 0 0 1 ∧ t.mem = s.mem)) ∧
   (Claims.Parses s 0 0 1 7 packet → p.pending = false → p.state = .running →
     ∃ (t : State) (r : Part), exec (.killPacket 0 0 packet) s = .next t ∧ amGet? t.parts id = some r ∧
     r.state = .killed ∧ r.status = 1 ∧
       Claims.Passed s t 0 0 1 ∧ t.mem = s.mem)

/-- The packets: LAUNCH enters the pending list or stops the queue with code 3; a FENCE waits until each of its tuples has
held, or stops the queue at its limit; COND skips packets on a comparison that fails; SIGNAL writes its word once everything
earlier has ended; COPY asks the homes of its blocks, and its counter's write follows the last; PREEMPT holds or releases the
launches it names, and KILL ends them (R317, R318, R319, R320, R321, R322, R323, R324). -/
def Sys2Proof.Claims.HostPackets : Prop :=
  Claims.LaunchPackets ∧ Claims.FencePackets ∧ Claims.FencePolls ∧ Claims.CondPackets ∧
  Claims.SignalPackets ∧ Claims.CopyPackets ∧ Claims.CopiesEnd ∧ Claims.PreemptAndKillPackets

/-- The host queues: what a parser accepts, in what order, and what each packet does (R315, R316, R317, R318, R319,
R320, R321, R322, R323, R324, R410, R411). The model's own choices in it are logs 42, 43, 44, 45 and 46. -/
def Obligations.HostQueuesAndPackets : Prop :=
  Claims.HostQueues ∧ Claims.HostPackets

-- Launches and partitions (13_scheduling.md), and Wilzia's services (12_privileged.md).

namespace Sys2Proof.Claims

/-- The logic of a shape holds nothing: its cores are as at power-on, none of its granules is LIVE or IN-FLIGHT, no region
is open in it. -/
def Emptied (t : State) (p : Shape) : Prop :=
  (∀ c, p.hasCluster (c / 16) = true → t.core c = Core.reset) ∧
    (∀ g, g < 2 ^ 64 → p.hasCluster (meshOfKey g).cluster = true → g ∉ t.live ∧ (∀ e ∈ t.inflight, e.1 ≠ g) ∧
      ∀ r ∈ t.races, r.granule ≠ g)

/-- Every core of a partition is quiescent (R35). -/
def Quiescent (s : State) (p : Shape) : Prop :=
  ∀ c ∈ p.coreList, (s.ctxAt c 0).finished = true ∧ (∀ e ∈ (s.core c).ctxs, e.1 = 0 ∨ e.2.live = false) ∧
    (s.core c).events = [] ∧ ∀ e o, e < 16 → s.op? c e = some o → o.handed = true

/-- Nothing of a partition is on its way or held back: no packet, no action and no drain row for a full queue, no operand
in a fold (R35). -/
def NothingHeld (s : State) (p : Part) : Prop :=
  (∀ k ∈ s.net, k.pid ≠ p.pid) ∧ ∀ cl ∈ p.shape.clusters, (s.cluster cl).held = [] ∧ (s.cluster cl).fold.jobs = [] ∧
    (∀ e ∈ (s.cluster cl).fold.entries, e.2.held = none) ∧ ∀ i, i < 4 → (s.unit (4 * cl + i)).holdsRow = false

/-- The compute-die rails are present (Table 16-2). -/
def Rails (s : State) : Prop := s.modl.emergency ≠ .tripped ∧ s.modl.emergency ≠ .refresh

/-- The device writes bytes of a launch at a VA: the home h serves them, in a block that is sound and does not fail (R326,
R364). -/
def Writes (s : State) (p : Part) (va : BitVec 64) (h a : Nat) : Prop :=
  a = fld va 0 48 ∧ s.homeFor (s.fn p.fn).hrt va = .ok h ∧ h < 40 ∧ s.walk h p.fn 0#12 a true = none ∧
    s.blockFail h p.fn a = none ∧ Sound s h p.fn (a / 256) ∧ (s.base h).nextSector + 8 ≤ 2 ^ 48 ∧
    ∀ n ∈ (s.blockOf h p.fn (a / 256)).sectors, n < 2 ^ 48

/-- Two blocks have entries and sectors of their own (R351, R368). -/
def Apart (s : State) (fn h b h' b' : Nat) : Prop :=
  s.blockNo h fn b ≠ s.blockNo h' fn b' ∧ (h = h' →
    (32 ≤ h → s.blockNo h fn b % 2 ^ 40 ≠ s.blockNo h' fn b' % 2 ^ 40) ∧ ∀ n ∈ (s.blockOf h' fn b').sectors,
      n ∉ (if 32 ≤ h then cxlSectors (s.blockNo h fn b) else (s.blockOf h fn b).sectors))

/-- No write is parked, and no earlier request waits, where the record and the counter of a launch lie (R344, R353). -/
def RecordsFree (s : State) (p : Part) : Prop :=
  ∀ va ∈ [p.launch.recva, p.launch.cntva], ∀ h, s.homeFor (s.fn p.fn).hrt va = .ok h → h < 40 →
    (s.base h).requests = [] ∧ (s.base h).parked = [] ∧ (s.base h).asleep = false

/-- The completion record of a launch is written at RECVA and CNTVAL at CNTVA; no byte outside the sectors of their two
blocks has changed (R326). -/
def RecordWritten (s t : State) (p : Part) (exit status : Nat) : Prop :=
  ∀ h h' rec cnt, Writes s p p.launch.recva h rec → Writes s p p.launch.cntva h' cnt → rec % 32 = 0 → cnt % 8 = 0 →
    Apart s p.fn h (rec / 256) h' (cnt / 256) →
    field t h p.fn rec 8 = exit ∧ field t h p.fn (rec + 8) 4 = p.parked % 2 ^ 32 ∧ field t h p.fn (rec + 12) 4 = status ∧
      field t h p.fn (rec + 16) 8 = (p.clock - p.startClock) / 1800 % 2 ^ 64 ∧ field t h p.fn (rec + 24) 8 = 0 ∧
      field t h' p.fn cnt 8 = p.launch.cntval.toNat ∧
      ∀ x, (∀ n ∈ (t.blockOf h p.fn (rec / 256)).sectors, x < sectorKey h n ∨ sectorKey h n + 64 ≤ x) →
        (∀ n ∈ (t.blockOf h' p.fn (cnt / 256)).sectors, x < sectorKey h' n ∨ sectorKey h' n + 64 ≤ x) →
        memGet t.mem x = memGet s.mem x

/-- The largest exit value of a partition's cores is m (R326). -/
def LargestExit (s : State) (p : Shape) (m : Nat) : Prop :=
  let exits := fun e : Nat × Core => (amGet (Ctx.reset 0) e.2.ctxs 0).exitValue.toNat
  (∀ e ∈ s.cores, p.hasCluster (e.1 / 16) = true → exits e ≤ m) ∧
    (m = 0 ∨ ∃ e ∈ s.cores, p.hasCluster (e.1 / 16) = true ∧ exits e = m)

/-- A home of this module has a block of a function, whose entry stands for 256 bytes (R351). -/
def HeldAt (s : State) (fn b h : Nat) : Prop :=
  ∃ ho, homeOf (s.fn fn).hrt (256 * b) = some ho ∧ (∀ m, ho ≠ .peer m) ∧ h = ho.index ∧ (s.blockBytes h fn b).length = 256

/-- Bytes of memory from k on are those of an image of a function, and 0 behind it up to n: its blocks lie at homes of this
module, and one that fails its check stands for zeros (R125, R331; log 99). -/
def Loaded (s t : State) (fn : Nat) (va : BitVec 64) (len k n : Nat) : Prop :=
  (∀ b, fld va 0 48 / 256 ≤ b → 256 * b < fld va 0 48 + len → ∃ h, HeldAt s fn b h) →
    ∀ j, j < n → (len ≤ j → memGet t.mem (k + j) = 0#8) ∧
      (j < len → ∀ h a, a = fld va 0 48 + j → HeldAt s fn (a / 256) h → memGet t.mem (k + j) =
        if s.blockFail h fn (256 * (a / 256)) = none then (s.blockBytes h fn (a / 256)).getD (a % 256) 0#8 else 0#8)

/-- Every piece of a function's trap-kernel image that has a home here is mapped (R418). -/
def TrapResident (s : State) (fn : Nat) : Prop :=
  ∀ pg h, fld (s.fn fn).trapVa 0 48 / 65536 ≤ pg → 65536 * pg < fld (s.fn fn).trapVa 0 48 + (s.fn fn).trapLen →
    s.ownHome fn (65536 * pg) = some h → s.mappedAt h fn (65536 * pg) = true

end Sys2Proof.Claims

/-- BIND places a pending launch, or ends a refused one with status 5 in its record; every core gets the images, PSHAPE, key,
seed and TVEC, everything else of its clusters is 0, and each stack its share; BIND_COMPLETE makes every control context ready
to start as Table 1-3 says, and each starts in a move of its own; BIND_WAIT_CAP marks one that has waited 10 ms; LAUNCH_END
writes the completion record and the counter, frees the partition and empties its clusters (R25, R35, R125, R319, R326, R331,
R334). The model's own choices in it are logs 1 (moves), 2 (registers of free clusters), 27, 29 (the even split), 69 and 99. -/
def Obligations.LaunchesBindAndEnd : Prop :=
  (∀ (s : State) (id : Nat) (p : Part) (ch : BindChoice), amGet? s.parts id = some p → p.pending = true →
  p.held = false →
    s.modl.emergency = .normal → s.modl.stage = 3 →
    (s.refused p = true → Claims.RecordsFree s p → ∃ t : State, exec (.bind id ch) s = .next t ∧ amGet? t.parts id = none ∧
      t.cores = s.cores ∧ Claims.RecordWritten s t p 0 5) ∧
    (∀ sh l, s.refused p = false → sh = shapeOf ch.dieMask ch.rect → l = p.launch → placed l ch = true →
      s.shapeFree sh = true → s.pidOk p ch.pid = true → (s.boundOf p.fn).length < 16 → s.recordsFree sh = true →
      s.mayServe id = true → (∀ b ∈ s.bases, b.2.parked = [] ∧ b.2.requests = []) → Claims.TrapResident s p.fn →
      (∀ cl ∈ sh.clusters, (s.cluster cl).retained = false) → l.llen ≤ 0x6000 → l.slen ≤ 0x100000 →
      ∃ t : State, exec (.bind id ch) s = .next t ∧ (t.part id).state = .binding ∧ (t.part id).pending = false ∧
        (t.part id).pid = ch.pid ∧ (t.part id).hrt = (s.fn p.fn).hrt ∧
        (∀ c ∈ sh.coreList, (t.core c).capkey = word (2 ^ 63 + ch.key.toNat) ∧ (t.core c).srseed = ch.seed ∧
          (t.core c).tvec = (s.fn p.fn).tvec ∧ (t.core c).ctxs = [] ∧
          (t.core c).pshape = word (ch.pid.toNat * 2 ^ 32 + ch.dieMask.toNat * 2 ^ 16 + ch.rect.toNat)) ∧
        (∀ cl ∈ sh.clusters, (∀ i, i < 16 → Claims.Loaded s t p.fn l.limg l.llen (2 ^ 47 + cl * 2 ^ 34 + (1 + i) * 2 ^ 29)
            (2 ^ 29)) ∧
          Claims.Loaded s t p.fn l.simg l.slen (2 ^ 47 + cl * 2 ^ 34 + 17 * 2 ^ 29) (2 ^ 29)) ∧
        (∀ h, h < 32 → (t.account id h).used = 0 ∧
          (t.account id h).qshare = (s.fn p.fn).quota / 32 + (if h < (s.fn p.fn).quota % 32 then 1 else 0)))) ∧
  (∀ (s : State) (id : Nat) (p : Part), p = s.part id → p.state = .binding → Claims.Rails s → p.preemptHeld = false →
    ∃ t : State, exec (.bindComplete id) s = .next t ∧ (t.part id).state = .running ∧ t.mem = s.mem ∧
      ∀ c ∈ p.shape.coreList, ∃ x, (t.core c).ctxs = [(0, x)] ∧ x.starting = true ∧ x.live = false ∧
        x.fetchPrgn = (s.core c).prgn ∧ x.pc = p.launch.entry ∧ x.level = .u ∧
        x.xr 2#5 = 0x6000#64 ∧ x.xr 10#5 = p.launch.argva ∧ x.xr 11#5 = word (p.shape.indexOf c) ∧
        ∀ r : BitVec 5, r ≠ 2#5 → r ≠ 10#5 → r ≠ 11#5 → x.xr r = 0#64) ∧
  (∀ (s : State) (c : Nat) (rest : List Move), s.agenda = .start c :: rest → (s.runs c = true ∨ s.stopping c = true) →
    (s.ctxAt c 0).starting = true → ∃ t : State, step s = .next t ∧ (t.ctxAt c 0).starting = false ∧
      (t.ctxAt c 0).live = true ∧ (s.heldStores c = [] → t.agenda = rest ∧ t.mem = s.mem ∧
        t.ctxAt c 0 = { s.ctxAt c 0 with starting := false, live := true })) ∧
  (∀ (s : State) (id : Nat) (p : Part), amGet? s.parts id = some p → (p.pending = true ∨ p.state = .savedShadow) →
    p.held = false → p.capped = false → p.accepted + 18000000 ≤ s.now →
    exec (.bindWaitCap id) s = .next (s.setPart id { p with capped := true })) ∧
  (∀ (s : State) (id m : Nat) (p : Part), p = s.part id →
    (p.state = .running ∨ p.state = .preempting) → p.halted = false →
    Claims.Quiescent s p.shape → Claims.NothingHeld s p → Claims.Rails s → Claims.RecordsFree s p →
    Claims.LargestExit s p.shape m →
    ∃ t : State, exec (.launchEnd id) s = .next t ∧ amGet? t.parts id = none ∧ Claims.Emptied t p.shape ∧
      Claims.RecordWritten s t p m 0)

namespace Sys2Proof.Claims

/-- A write is parked for an engine of a partition. -/
def ParkedBy (id : Nat) (w : ParkedWrite) : Prop := w.req.part = some id ∧ ∃ c e i, w.req.writer = .engine c e i

/-- Every write parked for the engines of a partition has gone back to its engine, which has it still to send, but for an
atomic's, which is sent anew; the others stay (R359). -/
def Withdrawn (s t : State) (id : Nat) : Prop :=
  (∀ st w, w ∈ (t.base st).parked ↔ w ∈ (s.base st).parked ∧ ¬ ParkedBy id w) ∧
    ∀ st w c e i o, (st, (s.base st)) ∈ s.bases → w ∈ (s.base st).parked → w.req.part = some id → w.req.writer = .engine c e i →
      s.op? c e = some o → ∃ o', t.op? c e = some o' ∧ (∀ q ∈ o'.flying, q.id ≠ i) ∧
        ((∃ q ∈ o.flying, q.id = i) → (∃ q ∈ o'.resend, q.id = i) ∨ ∃ k b, o.kind = .xamo k b)

/-- No operand or result of a partition is on its way (R266). -/
def FoldsSettled (s : State) (p : Part) : Prop :=
  (∀ k ∈ s.net, k.pid ≠ p.pid) ∧ ∀ cl ∈ p.shape.clusters, (s.cluster cl).fold.jobs = []

/-- Partition id stands saved in memory: a valid directory entry, an area of its context records and whole image in Wilzia's
reserve, under the key that the partition's entry of the key table holds (R314, R338, R362). -/
def SavedInMemory (s t : State) (id : Nat) (i : SaveImage) : Prop :=
  (t.part id).state = .savedMemory ∧ (t.part id).saveValid = true ∧ (t.part id).image = none ∧
    ∃ a, (t.part id).area = some a ∧ a.image = i ∧ a.records = i.records ∧ a.key = amGet 0#256 s.modl.keys (s.part id).keyEntry ∧
      (i.records.map fun r => (r.2.2.length + 63) / 64).sum ≤ a.sectors ∧ t.modl.reserved = s.modl.reserved + a.sectors

/-- What a restore reads: the shadow, or an area whose key the key table still holds (R339, R362). -/
def Restores (s : State) (p : Part) (i : SaveImage) : Prop :=
  (p.area = none ∧ p.image = some i) ∨
    ∃ a, p.area = some a ∧ a.image = i ∧ amGet 0#256 s.modl.keys p.keyEntry = a.key

/-- The partition is killed with a status, and its image is gone. -/
def KilledWith (t : State) (id status : Nat) : Prop :=
  (t.part id).state = .killed ∧ (t.part id).status = status ∧ (t.part id).image = none ∧ (t.part id).area = none

end Sys2Proof.Claims

/-- PREEMPT_REQUEST stops a running partition and withdraws its parked writes, or is held while it is bound or restored;
HALT_COMPLETE halts it once nothing of it moves, and its clock stands; SWAP_COMPLETE takes its clusters' cores, metadata and
memory into their shadows, and SAVE_COMPLETE into an area in DRAM where a shadow is taken, at the critical temperature or as
asked, and both empty them; EVICT sends a shadow image on to memory (R312, R314, R335 to R338, R359, R362). -/
def Sys2Proof.Claims.PreemptionSaves : Prop :=
  ∀ (s : State) (id : Nat) (p : Part), amGet? s.parts id = some p → p.pending = false →
    (∀ ca, p.state = .running → s.mayPreempt p ca = true → ∃ t : State, exec (.preemptRequest id ca) s = .next t ∧
      t.part id = { p with state := .preempting, halted := false, preemptHeld := false,
                           toMemory := p.toMemory || ca == .thermal } ∧ t.mem = s.mem ∧ t.cores = s.cores ∧
      Claims.Withdrawn s t id) ∧
    (∀ ca, p.state = .binding ∨ p.state = .restoring → s.mayPreempt p ca = true →
      exec (.preemptRequest id ca) s = .next (s.setPart id { p with preemptHeld := true })) ∧
    (∀ ca, p.state = .preempting ∨ p.state = .savedShadow ∨ p.state = .savedMemory ∨ p.state = .killed →
      s.mayPreempt p ca = true → exec (.preemptRequest id ca) s = .next s) ∧
    (p.state ≠ .savedShadow → Claims.Rails s → exec (.evict id) s = .next s) ∧
    (p.state = .preempting → p.halted = false → Claims.Rails s →
      (∀ c ∈ p.shape.coreList, ∀ e ∈ (s.core c).ctxs, e.2.pending = [] ∧ e.2.queue = [] ∧
        (e.2.wait.map Wait.kind) ≠ some .wilzia) →
      (∀ k ∈ s.net, k.pid ≠ p.pid) →
      (∀ cl ∈ p.shape.clusters, (∀ e ∈ (s.cluster cl).ops, e.2.flying = []) ∧ ∀ i, i < 4 →
      (s.unit (4 * cl + i)).step = none) →
      ∃ t : State, exec (.haltComplete id) s = .next t ∧ (t.part id).halted = true ∧ (t.part id).state = .preempting ∧
      t.mem = s.mem ∧ (∀ n, ((t.elapse n).part id).clock = (t.part id).clock) ∧
        ∀ c, p.shape.hasCluster (c / 16) = true → ∀ e ∈ (t.core c).ctxs, ∀ n : Fin 4, (e.2.ports.get n).fifo = []) ∧
    (p.state = .preempting → p.halted = true → Claims.Rails s → Claims.FoldsSettled s p →
      (p.toMemory = false → s.modl.emergency ≠ .saving → s.shadowTaken p.shape = false → ∃ t : State,
        exec (.swapComplete id) s = .next t ∧ (t.part id).state = .savedShadow ∧
        (t.part id).image = some (s.imageOf p.shape) ∧ Claims.Emptied t p.shape) ∧
      (p.toMemory = true ∨ s.modl.emergency = .saving ∨ s.shadowTaken p.shape = true →
        (s.modl.emergency = .saving → ∀ e ∈ s.parts, e.1 ≠ id → (e.2.state.bound = true ∨ e.2.state = .savedShadow) →
          ¬ (e.2.launch.cls.toNat < p.launch.cls.toNat ∨ (e.2.launch.cls = p.launch.cls ∧ e.1 < id))) →
        exec (.swapComplete id) s = notNow "SWAP_COMPLETE" ∧ ∃ t : State, exec (.saveComplete id) s = .next t ∧
          Claims.SavedInMemory s t id (s.imageOf p.shape) ∧ Claims.Emptied t p.shape)) ∧
    (p.state = .savedShadow → p.toMemory = false → Claims.Rails s →
      exec (.evict id) s = .next (s.setPart id { p with toMemory := true })) ∧
    (∀ i, p.state = .savedShadow → p.toMemory = true → p.image = some i → Claims.Rails s → s.modl.emergency ≠ .saving →
      (∀ cl ∈ p.shape.clusters, (s.cluster cl).retained = false) → ∃ t : State, exec (.saveComplete id) s = .next t ∧
        Claims.SavedInMemory s t id i ∧ t.cores = s.cores ∧ t.mem = s.mem)

/-- RESTORE_REQUEST and RESTORE_DONE put a saved partition back onto its clusters byte for byte, with its contexts, or kill
it with status 2 where its image is lost or its key is gone; a partition that is not saved, is being evicted or whose clusters
are taken is left as it is (R312, R335, R339, R362). -/
def Sys2Proof.Claims.RestoresBringBack : Prop :=
  ∀ (s : State) (id : Nat) (p : Part), amGet? s.parts id = some p → p.pending = false →
    ((p.state ≠ .savedShadow ∧ p.state ≠ .savedMemory) ∨ (p.state = .savedShadow ∧ p.toMemory = true) ∨
      s.shapeFree p.shape = false → exec (.restoreRequest id) s = .next s) ∧
    ((p.state = .savedShadow ∧ p.toMemory = false) ∨ (p.state = .savedMemory ∧ p.saveValid = true) → p.held = false →
      s.modl.emergency = .normal → s.shapeFree p.shape = true → s.mayServe id = true →
      (∀ cl ∈ p.shape.clusters, (s.cluster cl).retained = false) →
      exec (.restoreRequest id) s = .next (s.setPart id { p with state := .restoring, capped := false })) ∧
    (p.state = .restoring → Claims.Rails s →
      (∀ i, Claims.Restores s p i → Memory.wf i.mem = true → p.preemptHeld = false →
        (∀ c ∈ i.mem, c.1 < 2 ^ 64 ∧ p.shape.hasCluster (meshOfKey c.1).cluster = true) →
        (i.cores.map Prod.fst).Nodup → (∀ c ∈ i.cores, p.shape.hasCluster (c.1 / 16) = true) →
        ∃ t : State, exec (.restoreDone id true) s = .next t ∧ (t.part id).state = .running ∧
          (∀ a, a < 2 ^ 64 → p.shape.hasCluster (meshOfKey a).cluster = true → memGet t.mem a = memGet i.mem a) ∧
          (∀ a, (2 ^ 64 ≤ a ∨ p.shape.hasCluster (meshOfKey a).cluster = false) → memGet t.mem a = memGet s.mem a) ∧
          ∀ c k, (c, k) ∈ i.cores → t.core c = { k with work := 0, ctxs := k.ctxs.map fun x => (x.1, x.2.restored) }) ∧
      ((∀ i, ¬ Claims.Restores s p i) → ∃ t : State, exec (.restoreDone id true) s = .next t ∧ Claims.KilledWith t id 2) ∧
      (∃ t : State, exec (.restoreDone id false) s = .next t ∧ Claims.KilledWith t id 2 ∧ t.mem = s.mem))

/-- A kill frees the clusters of a bound partition at once, whether it is binding, running, pre-empting or restoring, and
drops a saved one's image; its sweeps discard the partition's packets, and KILL_CONFIRM ends it with a record of its status;
retention keeps a free cluster, and a parity failure kills the partition whose image it holds, or is counted (R326, R335, R340,
R406, R407). -/
def Sys2Proof.Claims.KillsAndRetention : Prop :=
  ∀ (s : State) (id : Nat) (p : Part), amGet? s.parts id = some p → p.pending = false →
    (p.state = .killed → exec (.killRequest id) s = .next s) ∧
    (p.state = .binding ∨ p.state = .running ∨ p.state = .preempting ∨ p.state = .restoring → ∃ t : State,
      exec (.killRequest id) s = .next t ∧ Claims.KilledWith t id 1 ∧ t.mem = s.mem ∧ Claims.Emptied t p.shape ∧
      (∀ k ∈ t.net, k.pid = p.pid → ∀ h ∈ k.path, p.dieMask.toNat.testBit (clusterDie h.place.router) = false) ∧
      ∀ d ∈ p.shape.dies, ∀ k, k < 256 → d * 256 + k ∈ (t.part id).sweeping) ∧
    (p.state = .savedShadow ∨ p.state = .savedMemory → ∃ t : State, exec (.killRequest id) s = .next t ∧
      Claims.KilledWith t id 1 ∧ (t.part id).sweeping = [] ∧ t.cores = s.cores ∧ t.mem = s.mem) ∧
    (p.state = .killed →
      (∀ r ∈ p.sweeping, p.killedAt + 2048 ≤ s.now → ∃ t : State, exec (.killSweepEnd id r) s = .next t ∧ t.mem = s.mem ∧
        t.net = s.net.filter (fun k =>
          !(k.pid == p.pid && k.path.any fun h => p.dieMask.toNat.testBit (clusterDie h.place.router))) ∧
        (t.part id).sweeping = p.sweeping.filter fun x => x != r) ∧
      (p.sweeping = [] → Claims.Rails s → Claims.RecordsFree s p → ∃ t : State, exec (.killConfirm id) s = .next t ∧
        amGet? t.parts id = none ∧ t.cores = s.cores ∧ (p.status ≠ 0 → p.status < 2 ^ 32 →
          Claims.RecordWritten s t p 0 p.status))) ∧
    (∀ cl, s.heldCluster cl = false → (s.cluster cl).retained = false → Claims.Rails s →
      exec (.retentionEntry cl) s = .next (s.modCluster cl fun u => { u with retained := true })) ∧
    (∀ cl, (s.cluster cl).retained = true →
      exec (.retentionExit cl true) s = .next (s.modCluster cl fun u => { u with retained := false }) ∧
      (s.parts = [(id, p)] → p.state = .savedShadow → p.shape.hasCluster cl = true → ∃ t : State,
        exec (.retentionExit cl false) s = .next t ∧ Claims.KilledWith t id 3 ∧ t.mem = s.mem) ∧
      (s.parts = [(id, p)] → p.state ≠ .savedShadow ∨ p.shape.hasCluster cl = false → ∃ t : State,
        exec (.retentionExit cl false) s = .next t ∧ t.modl.parityErrors = s.modl.parityErrors + 1 ∧ t.part id = p ∧
        (t.cluster cl).retained = false))

/-- What Table 13-10 lists moves a partition between its states, and nothing else does: pre-emption, halt, swap, save and
evict; restore; kill and its confirmation; retention (R312, R314, R326, R335, R336, R337, R338, R339, R340, R359, R406, R407).
The model's own choices in it are logs 2 (registers of free clusters), 28, 41 and 74 (a kill reaches every router in its own
step). -/
def Obligations.PartitionsMoveAndDie : Prop :=
  Claims.PreemptionSaves ∧ Claims.RestoresBringBack ∧ Claims.KillsAndRetention

/-- ECALL-exit stops the control context with a0 as its exit value and ends its region; Wilzia's PARK parks, SETOTO of a code
up to 15 sets OTO on every fold and SETSEED the seed on every core of the partition, and the answer completes the ECALL with
a0 0, or all ones where the request is not served; a wait that lasts WAITTO raises BAR_TIMEOUT, one for a presence bit PRSTO
PRESENCE_TIMEOUT; WFE_RELEASE ends a WFE (R35, R37, R165, R167, R203, R304, R308, Table 12-10).
The model's own choices in it are logs 53 and 59. -/
def Obligations.WilziaAndTimeouts : Prop :=
  ∀ (s : State) (c k : Nat) (x : Ctx), x = s.ctxAt c k →
    (k = 0 → x.live = true → x.level = .u → x.xr 17#5 = 0#64 → x.present.toNat.testBit 17 = true →
      x.present.toNat.testBit 10 = true → x.holds false .ecall = false → s.slotOpen c = true →
      ∀ u, s.fetch c 0 x.pc = .ok (u, .ecall) →
      ∃ t : State, exec (.ecallExit c) s = .next t ∧ (t.ctxAt c 0).finished = true ∧ (t.ctxAt c 0).live = false ∧
        (t.ctxAt c 0).exitValue = (u.ctxAt c 0).xr 10#5 ∧ t.mem = u.mem ∧ ∀ r ∈ t.races, ¬ (r.core = c ∧ r.ctx = 0)) ∧
    (s.asks c k = true →
      (x.request k = 0#64 → x.row = none → ∃ t : State, exec (.park c k) s = .next t ∧ (t.ctxAt c k).parked = true ∧
        (t.ctxAt c k).live = false ∧ (t.ctxAt c k).wait = none ∧ (∃ code, (code, x.xr 10#5) ∈ t.modl.notices) ∧ t.mem = s.mem ∧
        t.races = s.races ∧ t.modl.reports = { core := c, ctx := k, reason := x.xr 10#5, record :=
          ({ x with parked := true, finished := decide (k = 0) } : Ctx).record k } :: s.modl.reports) ∧
      (x.request k = 1#64 → (x.xr 10#5).toNat ≤ 15 → x.reply = none → ∃ t : State, exec (.setoto c k) s = .next t ∧
        (∀ cl ∈ (s.shape c).clusters, (t.cluster cl).fold.oto = (if (x.xr 10#5).toNat = 14 then 15 else (x.xr 10#5).toNat)) ∧
        (t.ctxAt c k).reply = some (.wilzia 0#64) ∧ t.mem = s.mem) ∧
      (x.request k = 1#64 → 15 < (x.xr 10#5).toNat → exec (.setoto c k) s = notNow "SETOTO") ∧
      (x.request k = 2#64 → x.reply = none → ∃ t : State, exec (.setseed c k) s = .next t ∧
        (∀ e ∈ (s.shape c).coreList, (t.core e).srseed = x.xr 10#5) ∧ (t.ctxAt c k).reply = some (.wilzia 0#64) ∧
        t.mem = s.mem) ∧
      (∀ v, x.reply = some (.wilzia v) ∨ (x.reply = none ∧ v = BitVec.allOnes 64 ∧
          ((3 ≤ (x.request k).toNat ∧ (x.request k).toNat ≤ 255) ∨ (x.request k = 1#64 ∧ 15 < (x.xr 10#5).toNat))) →
        exec (.wilziaAnswer c k) s = .next (s.modCtxAt c k fun y =>
          { y.setX 10#5 v with pc := y.pc + 4#64, wait := none, reply := none }))) ∧
    (∀ w, x.wait = some w →
      (w.kind = .wfe → exec (.wfeRelease c k) s = .next (s.modCtxAt c k fun y =>
        { y with wake := false, wait := none, pc := y.pc + 4#64 })) ∧
      ((∃ n ph, w.kind = .barrier n ph) ∨ (∃ g d, w.kind = .transfer g d) ∨ (∃ n b, w.kind = .ring n b) ∨
          (∃ h, w.kind = .helper h) ∨ w.kind = .engineRing ∨ (∃ q, w.kind = .matrixQueue q) ∨
          (∃ q, w.kind = .mfence q) ∨
          (∃ m, w.kind = .ptouch m) → (s.core c).waitto.toNat * 1800 ≤ s.clockOf c - w.since →
        s.waitMet c k w = false →
        exec (.barTimeout c k) s = .next (s.takeTrap c k (trap cBarTimeout w.tval) x.pc [] x.pc)) ∧
      (∀ cl, w.kind = .foldAnswer cl → (∃ f ∈ (s.foldAt cl).fres, f.core = c ∧ f.ctx = k) →
        (s.core c).waitto.toNat * 1800 ≤ s.clockOf c - w.since → exec (.barTimeout c k) s = .next
          ((s.modCluster cl fun u => { u with fold := { u.fold with
            fres := u.fold.fres.filter fun f => !(f.core == c && f.ctx == k) } }).takeTrap
              c k (trap cBarTimeout w.tval) x.pc [] x.pc)) ∧
      (∀ n, w.kind = .presence n → (s.core c).prsto.toNat * 1800 ≤ s.clockOf c - w.since →
      x.present.toNat.testBit n = false →
        x.pending = [] → (k = 0 → x.queue = [] ∧ x.latheActive = false ∧ x.resume = [] ∧ x.refetch = false ∧
          x.qwait = none) →
        exec (.presenceTimeout c k) s = .next (s.takeTrap c k (trap cPresenceTimeout (word n)) x.pc [] x.pc))) ∧
    (∀ w n pc rest, k = 0 → x.qwait = some w → w.kind = .presence n →
      (s.core c).prsto.toNat * 1800 ≤ s.clockOf c - w.since → x.present.toNat.testBit n = false → x.pending = [] →
      x.queue = [] → x.resume = pc :: rest →
      exec (.presenceTimeout c k) s = .next (s.takeTrap c 0 (trap cPresenceTimeout (word n)) pc (pc :: rest) x.pc))

-- Power and heat (16_power.md).

/-- A controller's grants: in a shortfall every child gets its floor; else every grant lies between floor and maximum, the
grants sum to the budget, or to all maxima if that is less, and what lies above the floors is shared in proportion to the
weighted demands: no child below its maximum gets less than its part; where every child below its maximum has weighted
demand 0, they share in proportion to maximum less floor (R393, R394). -/
def Obligations.BudgetsAreDivided : Prop :=
  ∀ (b : ℚ) (cs : List Figures), (∀ c ∈ cs, 0 ≤ c.f ∧ c.f ≤ c.m ∧ 0 ≤ c.w) →
    (b < (cs.map Figures.f).sum → divide b cs = cs.map Figures.f) ∧
    ((cs.map Figures.f).sum ≤ b → (divide b cs).length = cs.length ∧
    (divide b cs).sum = min b ((cs.map Figures.m).sum) ∧
      ∀ (i : Nat) (c : Figures) (g : ℚ), cs[i]? = some c → (divide b cs)[i]? = some g → c.f ≤ g ∧ g ≤ c.m ∧
        ∀ (j : Nat) (d : Figures) (h : ℚ), cs[j]? = some d → (divide b cs)[j]? = some h → h < d.m →
          (g - c.f) * d.w ≤ (h - d.f) * c.w ∧
          (g < c.m → (∀ (k : Nat) (e : Figures) (l : ℚ), cs[k]? = some e → (divide b cs)[k]? = some l → l < e.m → e.w = 0) →
            (g - c.f) * (d.m - d.f) = (h - d.f) * (c.m - c.f)))

namespace Sys2Proof.Claims

/-- A quad may run at a point in the period that begins: it is no higher than the largest point that a core asks for and than
the caps of the controllers above, and the floors at it fit the quad's grant (R391). -/
def PointFits (s : State) (r : BudgetReport) (q n : Nat) : Prop :=
  n ≤ s.opAsked q ∧ n ≤ s.capOver r q ∧ s.floorsAt q n ≤ s.quadGrant r q

/-- The point a quad chose: the highest that fits, OP0 if none does (R391). -/
def Chosen (s t : State) (r : BudgetReport) (q o : Nat) : Prop :=
  o = ((t.quad q).opNext).getD (s.quad q).op ∧ (t.quad q).opNext ≠ some (s.quad q).op ∧
    (o = 0 ∨ (o ≤ 7 ∧ PointFits s r q o)) ∧ ∀ n, o < n → n ≤ 7 → ¬ PointFits s r q n

/-- What SAVING does to a partition (R335, R404): one that runs is pre-empted to memory, one being bound or restored is once
that is over. -/
def SavingStops (s t : State) : Prop :=
  ∀ id p, amGet? s.parts id = some p → p.pending = false →
    (p.state = .running → (t.part id).state = .preempting ∧ (t.part id).toMemory = true) ∧
    (p.state = .binding ∨ p.state = .restoring → t.part id = { p with preemptHeld := true }) ∧
    (p.state = .killed ∨ p.state = .savedMemory → t.part id = p)

/-- The scan of the save directory after a trip, for one partition (R405): dead with status 4 unless its save area is valid
and lies in stacks that kept their contents. -/
def Scanned (s t : State) (id : Nat) (p : Part) : Prop :=
  (p.saveValid = true → (∀ n ∈ s.modl.lostStacks, Config.areaOn id n = false) →
    (t.part id).state = .savedMemory ∧ (t.part id).image = p.image ∧ (t.part id).area = p.area ∧
      (t.part id).preemptHeld = false) ∧
  (p.saveValid = false ∨ (∃ n ∈ s.modl.lostStacks, Config.areaOn id n = true) →
    (t.part id).state = .killed ∧ (t.part id).status = 4 ∧ (t.part id).image = none ∧ (t.part id).area = none)

end Sys2Proof.Claims

/-- A TEMPERATURE_SAMPLE, once in a period: each die's throttle steps; SAVING at 108 °C, which pre-empts every partition to
memory; TRIPPED at 115 °C: the chips lose everything, and each stack that is as hot, its contents (R401, R402, R403, R404,
R405). -/
def Sys2Proof.Claims.TemperatureIsTaken : Prop :=
  ∀ (s : State) (temps : List Nat) (top : Nat), temps.length = 50 → top ∈ temps → (∀ x ∈ temps, x ≤ top) →
    (s.now < s.modl.sampledAt + 18000 → exec (.temperatureSample temps) s = notNow "TEMPERATURE_SAMPLE") ∧
    (s.modl.sampledAt + 18000 ≤ s.now →
    ∃ t : State, exec (.temperatureSample temps) s = .next t ∧ t.modl.temp = top ∧ t.modl.sampledAt = s.now ∧
      (∀ d, d < 16 → (t.die d).temp = temps.getD d 0 ∧
        (100 ≤ top → 100 < temps.getD d 0 → (t.die d).thcut.toNat = min 255 ((s.die d).thcut.toNat + 1)) ∧
        (temps.getD d 0 < 97 → (t.die d).thcut.toNat = (s.die d).thcut.toNat - 1) ∧
        (97 ≤ temps.getD d 0 → (top < 100 ∨ temps.getD d 0 ≤ 100) → (t.die d).thcut = (s.die d).thcut)) ∧
      (top < 108 → t.modl.emergency = s.modl.emergency ∧ t.mem = s.mem ∧ t.cores = s.cores ∧ t.parts = s.parts) ∧
      (108 ≤ top → top < 115 → s.modl.emergency = .normal → t.modl.emergency = .saving ∧ t.mem = s.mem ∧
        t.modl.lifetime = t.modl.lifetimeLive ∧ Claims.SavingStops s t) ∧
      (115 ≤ top → s.modl.emergency = .normal ∨ s.modl.emergency = .saving ∨ s.modl.emergency = .refresh →
        t.modl.emergency = .tripped ∧ t.cores = [] ∧ t.clusters = [] ∧ t.net = [] ∧ (∀ n, n < 32 → (t.base n).asleep = true) ∧
        (∀ a, a < 2 ^ 64 → memGet t.mem a = 0#8) ∧ (∀ a, 2 ^ 64 ≤ a → memGet t.mem a = memGet s.mem a) ∧
        (∀ n, n ∈ t.modl.lostStacks ↔ n ∈ s.modl.lostStacks ∨ (n < 32 ∧ 115 ≤ temps.getD (16 + n) 0)) ∧
        (∀ k e, amGet? s.pages k = some e → e.home < 32 → 115 ≤ temps.getD (16 + e.home) 0 →
          ∀ i, i < 256 → t.blockFail e.home (k / 2 ^ 32) (65536 * (k % 2 ^ 32) + 256 * i) = some .integrity)))

/-- SAVES_DONE puts the stacks into self-refresh once nothing is left to save; THERMAL_REENABLE below 95 °C wakes them, and
after a trip scans the save directory; RECOVERY_DONE leads back to NORMAL (R403, R404, R405). -/
def Sys2Proof.Claims.EmergenciesEnd : Prop :=
  ∀ (s : State),
    (s.modl.emergency = .saving → (∀ e ∈ s.parts, e.2.pending = true ∨ e.2.state = .killed ∨ e.2.state = .unbound ∨
        (e.2.state = .savedMemory ∧ e.2.saveValid = true)) → ∃ t : State, exec .savesDone s = .next t ∧
      t.modl.emergency = .refresh ∧ t.cores = [] ∧ t.parts = s.parts ∧ (∀ n, n < 32 → (t.base n).asleep = true) ∧
      ∀ a, 2 ^ 64 ≤ a → memGet t.mem a = memGet s.mem a) ∧
    (s.modl.temp < 95 →
      (s.modl.emergency = .refresh → ∃ t : State, exec .thermalReenable s = .next t ∧
        t.modl = { s.modl with emergency := .recovery } ∧ t.mem = s.mem ∧ t.parts = s.parts ∧ t.cores = s.cores ∧
        ∀ n, n < 32 → t.base n = { s.base n with asleep := false }) ∧
      (s.modl.emergency = .tripped → ∃ t : State, exec .thermalReenable s = .next t ∧ t.modl.emergency = .recovery ∧
        t.mem = s.mem ∧ t.modl.lostStacks = [] ∧
        ∀ id p, amGet? s.parts id = some p → (p.pending = true → t.part id = p) ∧
          (p.pending = false → p.state ≠ .killed → p.state ≠ .unbound → Claims.Scanned s t id p))) ∧
    (s.modl.emergency = .recovery → exec .recoveryDone s =
      .next { s with modl := { s.modl with emergency := .normal } })

/-- BUDGET_PERIOD sets each core's duty from its grant, between its floor and 16, and each quad chooses the highest point that
is asked for, allowed and fits its grant, which OP_CHANGE_DONE reaches; CURRENT_LIMIT and LIMIT_RELEASE; temperature samples,
SAVING, TRIPPED with its scan, and the way back to NORMAL (R391, R392, R394, R399, R401, R402, R403, R404, R405).
The model's own choices in it are logs 2 (reset budgets), 3 (on-chip memory reads 0 after a trip), 30 (THCUT stops at 255),
34, 35, 37 (demand and the reports), 38, 39, 40 and 41. -/
def Obligations.PowerAndHeat : Prop :=
  (∀ (s : State) (r : BudgetReport), s.modl.periodAt + 18000 ≤ s.now → ∃ t : State,
    exec (.budgetPeriod r) s = .next t ∧ t.mem = s.mem ∧ t.parts = s.parts ∧ t.modl.periodAt = s.now ∧
    (∀ c, amGet? s.cores c ≠ none → (t.core c).ctxs = (s.core c).ctxs ∧ (t.core c).work = 0 ∧
      (t.core c).fduty = min 16 (max (s.coreFloor c) (Rat.floor (16 * (s.leafGrants r (c / 4)).getD (c % 4) 0 /
        coreMw (s.quad (c / 4)).op)).toNat)) ∧
    (∀ q, amGet? s.quads q ≠ none → (t.quad q).op = (s.quad q).op ∧
      (t.quad q).unit.mduty = min 16 (max (s.unitFloor q) (Rat.floor (16 * (s.leafGrants r q).getD 4 0 /
        unitMw (s.quad q).op)).toNat) ∧
      ∃ o, Claims.Chosen s t r q o)) ∧
  (∀ (s : State) (q o : Nat), (s.quad q).opNext = some o → ∃ t : State, exec (.opChangeDone q) s = .next t ∧
    (t.quad q).op = o ∧ (t.quad q).opNext = none ∧ t.mem = s.mem) ∧
  (∀ (s : State) (d : Nat), d < 16 →
    ((s.die d).limited = false → (s.die d).ilim < (s.die d).current → ∃ t : State, exec (.currentLimit d) s = .next t ∧
      (t.die d).limited = true ∧
      (t.die d).limitedAt = s.now ∧ (t.die d).limcnt = (s.die d).limcnt + 1#16 ∧ t.mem = s.mem ∧
      ∀ e, e < 16 → e ≠ d → t.die e = s.die e) ∧
    (∀ t0, (s.die d).limited = true → (s.die d).limitedAt + 3600 ≤ s.now → (s.die d).lowSince = some t0 →
      t0 + 1800 ≤ s.now → ∃ t : State, exec (.limitRelease d) s = .next t ∧ (t.die d).limited = false ∧
      (t.die d).released = some s.now ∧ t.mem = s.mem)) ∧
  Claims.TemperatureIsTaken ∧ Claims.EmergenciesEnd

-- Bring-up (17_host_bringup.md).

namespace Sys2Proof.Claims

/-- A device VA of this module (R47). -/
def OwnVa (s : State) (va : BitVec 64) : Prop :=
  bitOf va 63 = true ∧ fld va 54 9 = 0 ∧ fld va 48 6 = s.modl.podNumber.toNat

/-- The mailbox takes up request number `code` of a function with its operands: the windows respond and it is not busy. -/
def Takes (s : State) (code : Nat) : Prop :=
  s.modl.stage = 3 ∧ s.modl.mailbox.busy = false ∧ s.modl.mailbox.req.toNat = code

/-- It is busy with a STATUS in hand, which FUNCTION_REQUEST_DONE shows. -/
def Status (t : State) (st : Nat) : Prop :=
  t.modl.mailbox.busy = true ∧ t.modl.mailbox.pendingRes = some (BitVec.ofNat 8 st)

/-- An operand of the mailbox. -/
def Operand (s : State) (n : Fin 5) : BitVec 64 := s.modl.mailbox.args.get n

/-- A VA of this module and a length that is a nonzero number of pages, the range aligned to them (Table 17-8). -/
def InRange (s : State) (page : Nat) : Prop :=
  OwnVa s (Operand s 1) ∧ fld (Operand s 1) 0 48 % page = 0 ∧ (Operand s 2).toNat % page = 0 ∧ (Operand s 2).toNat ≠ 0 ∧
    fld (Operand s 1) 0 48 + (Operand s 2).toNat ≤ 2 ^ 48

/-- The 64 KiB pieces of the range of a MAP or UNMAP. -/
def InPieces (s : State) (pg : Nat) : Prop :=
  fld (Operand s 1) 0 48 ≤ 65536 * pg ∧ 65536 * pg < fld (Operand s 1) 0 48 + (Operand s 2).toNat

/-- An entry that names a table. -/
def NamesTable (e : BitVec 64) : Prop := bitOf e 63 = true ∧ fld e 61 2 = 0

/-- The tables of every home are sound, with n locators left: a table that an entry names has been given out, is no root and
is named by no other entry; what has not been given out is unused (R347; log 97). -/
def TablesSound (s : State) (n : Nat) : Prop :=
  ∀ h, h < 40 → 128 ≤ (s.base h).nextLoc ∧ (s.base h).nextLoc + n ≤ 2 ^ 32 ∧
    (∀ loc, (s.base h).nextLoc ≤ loc → loc < 2 ^ 32 →
      (∀ i, i < 512 → amGet 0#64 s.tables ((h * 2 ^ 32 + loc) * 512 + i) = 0#64) ∧
      ∀ i, i < 256 → amGet? s.blocks ((h * 2 ^ 32 + loc) * 256 + i) = none) ∧
    ∀ k, k / 512 / 2 ^ 32 = h → NamesTable (amGet 0#64 s.tables k) →
      128 ≤ locatorOf (amGet 0#64 s.tables k) ∧ locatorOf (amGet 0#64 s.tables k) < (s.base h).nextLoc ∧
      ∀ j, j / 512 / 2 ^ 32 = h → NamesTable (amGet 0#64 s.tables j) →
        locatorOf (amGet 0#64 s.tables j) = locatorOf (amGet 0#64 s.tables k) → j = k

/-- A piece is mapped at its home with some rights, every block of it ZERO-EMPTY (R347, R361). -/
def MappedZero (t : State) (fn pg h : Nat) (r w : Bool) : Prop :=
  (∀ write a, a / 65536 = pg → t.walk h fn 0#12 a write = if (if write = true then w else r) = true then none else some .perm) ∧
    amGet? t.pages (fn * 2 ^ 32 + pg) = some { home := h, discard := false, marker := 0 } ∧
    ∀ b, b / 256 = pg → t.blockOf h fn b = BlockEntry.empty ∧ t.blockBytes h fn b = List.replicate 256 0#8

/-- An address lies in a demand-allocated range with some rights and page size. -/
def Declared (s : State) (fn x : Nat) (r w big : Bool) : Prop :=
  ∃ d ∈ (s.fn fn).demand, d.va ≤ x ∧ x < d.va + d.len ∧ d.r = r ∧ d.w = w ∧ d.big = big

/-- The requests of Table 17-8 by their codes. -/
def Request (i : Instr) (code : Nat) : Prop :=
  (i = .funcon ∧ code = 1) ∨ (i = .funcoff ∧ code = 2) ∨ (i = .trapk ∧ code = 3) ∨ (i = .homerng ∧ code = 4) ∨
    (i = .map true ∧ code = 5) ∨ (i = .unmap ∧ code = 6) ∨ (i = .quota true ∧ code = 7)

end Sys2Proof.Claims

/-- The set-up mailbox: nothing before READY or while busy; STATUS 2 for a function that does not exist, 5 for one that is
not enabled, 4 where Wilzia lacks the resources; FUNCTION_REQUEST_DONE shows the result (R417, R418). -/
def Sys2Proof.Claims.TheMailbox : Prop :=
  ∀ (s : State) (fn : Nat), fn = (Claims.Operand s 0).toNat →
    (∀ i code, Claims.Request i code →
      (s.modl.stage ≠ 3 → exec i s = .next s) ∧
      (s.modl.mailbox.busy = true → exec i s = .next s) ∧
      (Claims.Takes s code → 64 < fn → ∃ t : State, exec i s = .next t ∧ Claims.Status t 2 ∧
        t.functions = s.functions ∧ t.mem = s.mem) ∧
      (Claims.Takes s code → fn ≤ 64 → 2 ≤ code → (s.fn fn).enabled = false →
        ∃ t : State, exec i s = .next t ∧ Claims.Status t 5 ∧ t.functions = s.functions ∧ t.mem = s.mem)) ∧
    (fn ≤ 64 → (s.fn fn).enabled = true →
      (Claims.Takes s 5 → Claims.InRange s (if bitOf (Claims.Operand s 3) 2 = true then 2 ^ 21 else 65536) →
        (Claims.Operand s 3).toNat < 16 → (∀ pg, Claims.InPieces s pg → homeOf (s.fn fn).hrt (65536 * pg) ≠ none) →
        ∃ t : State, exec (.map false) s = .next t ∧ Claims.Status t 4 ∧ t.functions = s.functions ∧ t.pages = s.pages ∧
          t.tables = s.tables) ∧
      (Claims.Takes s 7 →
        (∃ t : State, exec (.quota true) s = .next t ∧ Claims.Status t 0 ∧
          (t.fn fn).quota = (Claims.Operand s 1).toNat ∧ (t.fn fn).nextAllowance = (Claims.Operand s 2).toNat) ∧
        ∃ t : State, exec (.quota false) s = .next t ∧ Claims.Status t 4 ∧ t.functions = s.functions)) ∧
    (∀ r, s.modl.mailbox.busy = true → s.modl.mailbox.pendingRes = some r →
      ∃ t : State, exec .functionRequestDone s = .next t ∧
        t.modl.mailbox.busy = false ∧ t.modl.mailbox.res = r.setWidth 64 ∧ t.functions = s.functions ∧ t.mem = s.mem)

/-- FUNCON gives a function an empty address space at every home, a new key, quota and allowance 0; FUNCOFF releases its pages
and its tables and destroys its key, or answers STATUS 3 while a launch of it is pending, bound or saved; TRAPK records TVEC
and makes the image resident; HOMERNG sets an entry of the home range table, its reserved bits 0 (R361, R418). -/
def Sys2Proof.Claims.FunctionsComeAndGo : Prop :=
  ∀ (s : State) (fn : Nat), fn = (Claims.Operand s 0).toNat → fn ≤ 64 →
    (Claims.Takes s 1 → ∃ t : State, exec .funcon s = .next t ∧ Claims.Status t 0 ∧ (t.fn fn).enabled = true ∧
      (t.fn fn).keyGen = (s.fn fn).keyGen + 1 ∧ (t.fn fn).quota = 0 ∧ (t.fn fn).allowance = 0 ∧ (t.fn fn).demand = [] ∧
      (∀ h va w, h < 40 → t.walk h fn 0#12 va w = some .notPresent) ∧
      ∀ pg, pg < 2 ^ 32 → amGet? t.pages (fn * 2 ^ 32 + pg) = none) ∧
    ((s.fn fn).enabled = true →
      (Claims.Takes s 2 →
        ((∃ e ∈ s.parts, e.2.fn = fn ∧ (e.2.pending = true ∨ (e.2.state ≠ .killed ∧ e.2.state ≠ .unbound))) →
          ∃ t : State, exec .funcoff s = .next t ∧ Claims.Status t 3 ∧ t.functions = s.functions ∧ t.pages = s.pages ∧
            t.tables = s.tables) ∧
        ((∀ e ∈ s.parts, e.2.fn ≠ fn) → ∃ t : State, exec .funcoff s = .next t ∧ Claims.Status t 0 ∧
          (t.fn fn).enabled = false ∧ (t.fn fn).keyGen = (s.fn fn).keyGen + 1 ∧
          (∀ h va w, h < 40 → t.walk h fn 0#12 va w = some .notPresent) ∧
          ∀ pg, pg < 2 ^ 32 → amGet? t.pages (fn * 2 ^ 32 + pg) = none)) ∧
      (Claims.Takes s 3 → ∀ va len tv, va = Claims.Operand s 1 → len = (Claims.Operand s 2).toNat → tv = Claims.Operand s 3 →
        (¬ Claims.OwnVa s va ∨ 2 ^ 48 < fld va 0 48 + len ∨ len < 2 ∨ 2 ^ 24 < len ∨ tv.toNat % 2 = 1 ∨ tv.toNat < va.toNat ∨
            va.toNat + len ≤ tv.toNat →
          ∃ t : State, exec .trapk s = .next t ∧ Claims.Status t 2 ∧ t.functions = s.functions) ∧
        (Claims.OwnVa s va → fld va 0 48 + len ≤ 2 ^ 48 → 2 ≤ len → len ≤ 2 ^ 24 → tv.toNat % 2 = 0 → va.toNat ≤ tv.toNat →
            tv.toNat < va.toNat + len →
          ∃ t : State, exec .trapk s = .next t ∧ Claims.Status t 0 ∧ (t.fn fn).tvec = tv ∧ (t.fn fn).trapVa = va ∧
            (t.fn fn).trapLen = len ∧ t.mem = s.mem ∧
            (Claims.TablesSound s 2048 → (∀ pg h, pg < 2 ^ 32 → s.ownHome fn (65536 * pg) = some h → h < 40 ∧
                (s.mappedAt h fn (65536 * pg) = true ↔ ∃ g, amGet? s.pages (fn * 2 ^ 32 + pg) = some g ∧ g.home = h) ∧
                ∀ g, amGet? s.pages (fn * 2 ^ 32 + pg) = some g → g.home = h) →
              Claims.TrapResident t fn))) ∧
      (Claims.Takes s 4 → ∀ n a b, n = (Claims.Operand s 1).toNat → a = Claims.Operand s 2 → b = Claims.Operand s 3 →
        (15 < n ∨ (fld a 61 2 = 1 ∧ 7 < fld a 48 6) → ∃ t : State, exec .homerng s = .next t ∧ Claims.Status t 2 ∧
          t.functions = s.functions) ∧
        (n ≤ 15 → (fld a 61 2 = 1 → fld a 48 6 ≤ 7) → ∃ t : State, exec .homerng s = .next t ∧ Claims.Status t 0 ∧
          (∀ m, m ≠ n → amGet? (t.fn fn).hrt m = amGet? (s.fn fn).hrt m) ∧ t.mem = s.mem ∧
          ∃ x y, amGet? (t.fn fn).hrt n = some (x, y) ∧ bitOf x 63 = bitOf a 63 ∧ fld x 61 2 = fld a 61 2 ∧
            fld x 21 27 = fld a 21 27 ∧ (fld a 61 2 = 1 ∨ fld a 61 2 = 2 → fld x 48 6 = fld a 48 6) ∧
            (fld a 61 2 = 0 → fld x 48 6 = 0) ∧ fld x 54 7 = 0 ∧ fld x 0 21 = 0 ∧ y = word (fld b 21 27 * 2 ^ 21))))

/-- MAP maps every piece of its range at its home with every block ZERO-EMPTY, or declares the range demand-allocated, and
answers STATUS 2 for a range that is not aligned, not homed or has reserved flags; UNMAP takes the mappings and the demand
declarations of its range away; both leave every other piece mapped as it was (R347, R349, R350, R361, R418). -/
def Sys2Proof.Claims.RangesAreMapped : Prop :=
  ∀ (s : State) (fn a len : Nat) (fl : BitVec 64), fn = (Claims.Operand s 0).toNat → fn ≤ 64 → (s.fn fn).enabled = true →
    a = fld (Claims.Operand s 1) 0 48 → len = (Claims.Operand s 2).toNat → fl = Claims.Operand s 3 →
    (Claims.Takes s 5 →
      (¬ Claims.InRange s (if bitOf fl 2 = true then 2 ^ 21 else 65536) ∨ 16 ≤ fl.toNat ∨
          (∃ pg, Claims.InPieces s pg ∧ homeOf (s.fn fn).hrt (65536 * pg) = none) →
        ∀ res, ∃ t : State, exec (.map res) s = .next t ∧ Claims.Status t 2 ∧ t.functions = s.functions ∧ t.pages = s.pages ∧
          t.tables = s.tables) ∧
      (Claims.InRange s (if bitOf fl 2 = true then 2 ^ 21 else 65536) →
        (∀ pg, Claims.InPieces s pg → homeOf (s.fn fn).hrt (65536 * pg) ≠ none) →
        (fl.toNat < 8 → Claims.TablesSound s (6 * (len / 65536)) → ∃ t : State, exec (.map true) s = .next t ∧
          Claims.Status t 0 ∧ t.mem = s.mem ∧
          (∀ pg h, Claims.InPieces s pg → s.ownHome fn (65536 * pg) = some h → h < 40 →
            Claims.MappedZero t fn pg h (bitOf fl 0) (bitOf fl 1)) ∧
          ∀ k, (∀ pg, Claims.InPieces s pg → k ≠ fn * 2 ^ 32 + pg) → amGet? t.pages k = amGet? s.pages k) ∧
        (fl.toNat < 16 → bitOf fl 3 = true → ∃ t : State, exec (.map true) s = .next t ∧
          Claims.Status t 0 ∧ t.pages = s.pages ∧ t.tables = s.tables ∧ t.mem = s.mem ∧
          (t.fn fn).demand = { va := a, len := len, r := bitOf fl 0, w := bitOf fl 1, big := bitOf fl 2 } ::
            (s.fn fn).demand))) ∧
    (Claims.Takes s 6 →
      (¬ Claims.InRange s 65536 → ∃ t : State, exec .unmap s = .next t ∧ Claims.Status t 2 ∧ t.functions = s.functions ∧
        t.pages = s.pages ∧ t.tables = s.tables) ∧
      (Claims.InRange s 65536 → ∃ t : State, exec .unmap s = .next t ∧ Claims.Status t 0 ∧ t.mem = s.mem ∧
        (∀ pg, Claims.InPieces s pg → amGet? t.pages (fn * 2 ^ 32 + pg) = none ∧
          ∀ g, Claims.TablesSound s (len / 65536) → amGet? s.pages (fn * 2 ^ 32 + pg) = some g → g.home < 40 →
            ∀ x w, x / 65536 = pg → t.walk g.home fn 0#12 x w = some .notPresent) ∧
        (∀ k, (∀ pg, Claims.InPieces s pg → k ≠ fn * 2 ^ 32 + pg) → amGet? t.pages k = amGet? s.pages k) ∧
        ∀ x r w big, Claims.Declared t fn x r w big ↔ Claims.Declared s fn x r w big ∧ ¬ (a ≤ x ∧ x < a + len)))

/-- The set-up mailbox and its seven requests: the order of their checks, what each changes and what it leaves (R347, R349,
R350, R361, R417, R418, Tables 17-7 and 17-8). The model's own choices in it are logs 31 (the order of the checks), 45
(reserved bits of a home range), 47, 97 (locators) and 98 (residency). -/
def Obligations.FunctionsAreSetUp : Prop :=
  Claims.TheMailbox ∧ Claims.FunctionsComeAndGo ∧ Claims.RangesAreMapped

/-- The boot ROM reads the image in flash at POWER_ON, as it found it before or unreadable now, and then starts it or stops at
RECOVERY with ERR; BOOT_READY opens the windows; in RECOVERY a good image of 1 byte to 64 MiB goes to flash and boot starts
anew at step 1, any other leaves ERR and the flash as it is; an update through Wilzia and a loss of power (R413). -/
def Sys2Proof.Claims.TheModuleBoots : Prop :=
  ∀ (s : State),
    (s.modl.stage = 0 → ∀ im, im ≠ ImageCheck.badLength →
      (im = .unreadable ∨ s.modl.flash.check = none ∨ s.modl.flash.check = some im → exec (.powerOn im) s =
        .next { s with modl := { s.modl with stage := 1, flash := { s.modl.flash with check := some im } } }) ∧
      (∀ c, im ≠ .unreadable → s.modl.flash.check = some c → c ≠ im → exec (.powerOn im) s = notNow "POWER_ON")) ∧
    (∀ rest, s.agenda = .verified :: rest → s.modl.stage = 1 →
      (s.modl.flash.check = some .good → step s =
        .next { s with agenda := rest, modl := { s.modl with stage := 2, bootErr := 0, running := s.modl.flash.id } }) ∧
      ∀ im e after, (im, e, after) ∈ [(ImageCheck.badSignature, 1, some ImageCheck.badSignature), (.badSvn, 2, some .badSvn),
          (.unreadable, 3, none)] → s.modl.flash.check = some im → step s =
        .next { s with agenda := rest, modl := { s.modl with
          stage := 4, bootErr := e, flash := { s.modl.flash with check := after } } }) ∧
    (s.modl.stage = 2 → exec .bootReady s = .next { s with modl := { s.modl with stage := 3 } }) ∧
    (s.modl.stage ≠ 4 → ∀ im, exec (.recoveryGo im) s = .next s) ∧
    (s.modl.stage = 4 →
      (1 ≤ s.modl.rcvlen.toNat ∧ s.modl.rcvlen.toNat ≤ 64 * 2 ^ 20 →
        exec (.recoveryGo .good) s = .next { s with nextId := s.nextId + 1, modl := { s.modl with
          stage := 1, bootErr := 0, rcvgo := false, flash := { id := s.nextId, check := some .good } } } ∧
        exec (.recoveryGo .badLength) s = notNow "RECOVERY_GO" ∧
        ∀ im e, (im, e) ∈ [(ImageCheck.badSignature, 1), (.badSvn, 2), (.unreadable, 3)] →
          exec (.recoveryGo im) s = .next { s with modl := { s.modl with bootErr := e, rcvgo := false } }) ∧
      (s.modl.rcvlen.toNat = 0 ∨ 64 * 2 ^ 20 < s.modl.rcvlen.toNat →
        exec (.recoveryGo .badLength) s = .next { s with modl := { s.modl with bootErr := 4, rcvgo := false } } ∧
        ∀ im, im ≠ .badLength → exec (.recoveryGo im) s = notNow "RECOVERY_GO")) ∧
    (∀ rest c, s.agenda = .update c :: rest → s.modl.stage = 2 ∨ s.modl.stage = 3 →
      c = .good ∨ c = .badSignature ∨ c = .badSvn → step s = .next { s with
        agenda := rest, nextId := s.nextId + 1, modl := { s.modl with flash := { id := s.nextId, check := some c } } }) ∧
    (∀ rest, s.agenda = .powerCycle :: rest → ∃ t : State, step s = .next t ∧ t.modl.stage = 0 ∧
      t.modl.flash = s.modl.flash ∧ t.modl.lifetime = s.modl.lifetime ∧ t.cores = State.reset.cores ∧
      t.mem = State.reset.mem ∧ t.parts = State.reset.parts ∧ t.functions = State.reset.functions)

/-- GO asks for a report, which ATTESTATION_DONE brings: nonce, the running image's digest and SVN, the fused minimum, serial
number, pod number, and a signature over those 128 bytes; LIFETIME_UPDATE writes the counters; the capability list begins with
the module's entry and that of the atomic paths (R412, R414, R416). -/
def Sys2Proof.Claims.TheModuleReports : Prop :=
  ∀ (s : State),
    (s.modl.stage = 3 → s.modl.attBusy = false → exec .attestationGo s =
      .next { s with modl := { s.modl with attBusy := true } }) ∧
    (s.modl.stage ≠ 3 ∨ s.modl.attBusy = true → exec .attestationGo s = .next s) ∧
    (s.modl.attBusy = true → s.modl.nonce.length = 48 → ∃ t : State, ∃ r, exec .attestationDone s = .next t ∧
      r = t.modl.report ∧ t.modl.attBusy = false ∧ t.mem = s.mem ∧ r.length = 224 ∧ r.take 48 = s.modl.nonce ∧
      (∀ i, i < 48 → r.getD (0x30 + i) 0#8 = Config.imageDigest s.modl.running i) ∧
      fieldAt r 0x60 4 = (Config.imageSvn s.modl.running).toNat ∧ fieldAt r 0x64 4 = Config.fusedSvn.toNat ∧
      (∀ i, i < 16 → r.getD (0x68 + i) 0#8 = Config.serialNumber i) ∧
      fieldAt r 0x78 8 = (if s.modl.podFormed then s.modl.podNumber.toNat else 0) ∧
      ∀ i, i < 96 → r.getD (0x80 + i) 0#8 = Config.signature (r.take 128) s.fresh i) ∧
    (∀ fn, fn ≤ 32 → ∃ w v m, s.barRead fn 0 = some w ∧ fld w 0 8 = 1 ∧ fld w 8 8 = 1 ∧
      s.barRead fn (fld w 16 16) = some v ∧ fld v 0 8 = 2 ∧ fld v 32 32 = 8 ∧
      s.barRead fn (fld w 16 16 + 8) = some m ∧ fld m 0 32 = 0x0BFF0FFF ∧ fld m 32 32 = 0x03FF03FF) ∧
    (s.modl.stage = 2 ∨ s.modl.stage = 3 → exec .lifetimeUpdate s =
      .next { s with modl := { s.modl with lifetime := s.modl.lifetimeLive } })

namespace Sys2Proof.Claims

/-- An arrival of a module for the open phase of POD, at this module: sent here as its own, or come over Ikirath (R386). -/
def PodArrives (s : State) (pid m ph : Nat) : Prop :=
  s.modl.podFormed = true ∧ s.podOthers pid ≠ [] ∧ ph = s.podPhase pid ∧
    (m = s.modl.podNumber.toNat ∧ s.ownArrival pid = true ∧ pid ∉ s.modl.podSent ∨
      m ≠ s.modl.podNumber.toNat ∧ m ∈ s.podOthers pid ∧ (pid, m, ph) ∈ s.modl.podInbox)

/-- This module is the root: the lowest-numbered one that holds the PID (R386). -/
def IsRoot (s : State) (pid : Nat) : Prop :=
  (s.podEntry pid).isSome = true ∧ ∀ m ∈ s.podOthers pid, s.modl.podNumber.toNat ≤ m

/-- The phase has completed on this module: the next one is open, with the next participants, and each core of the partition,
in its image if it is saved, has gone on to its next phase (R209, R386). -/
def PodPassed (s t : State) (pid ph : Nat) : Prop :=
  t.podPhase pid = ph + 1 ∧ (∀ e ∈ t.modl.podArrivals, e.1 ≠ pid) ∧ pid ∉ t.modl.podSent ∧
    amGet? t.modl.podPeers pid =
      some ((amGet ([], []) s.modl.podPeers pid).2, (amGet ([], []) s.modl.podPeers pid).2) ∧
    ∀ id q, s.podEntry pid = some (id, q) → q.area = none →
      (q.image = none → q.shape.coreList.Nodup → ∀ c ∈ q.shape.coreList,
        (inPhase s c 6 = true → phaseOf t c 6 = phaseOf s c 6 + 1 ∧ arrived t c 6 = false) ∧
        (inPhase s c 6 = false → phaseOf t c 6 = phaseOf s c 6) ∧ inPhase t c 6 = partBit s c 6) ∧
      ∀ i, q.image = some i → t.cores = s.cores ∧
        ∃ j, (t.part id).image = some j ∧ j.cores = i.cores.map fun e => (e.1, e.2.completePhase 6)

end Sys2Proof.Claims

/-- POD_FORMATION numbers the module and sets its routes; POD_PID_ALLOT allots a PID once; POD_ARRIVAL sends this module's
arrival to the root, which counts those of all participating modules and with the last one sends each the release, which
completes the phase there (R330, R385, R386). -/
def Sys2Proof.Claims.PodsMeet : Prop :=
  (∀ (s : State) n routes, n < 64 → s.modl.stage = 3 → (∀ r ∈ routes, r.1 < 64 ∧ r.2 < 24 ∧ r.1 ≠ n) →
    (routes.map fun r => 64 * (r.2 / 12) + r.1).Nodup →
      ∃ t : State, exec (.podFormation n routes) s = .next t ∧ t.modl.podFormed = true ∧
      t.modl.podNumber = BitVec.ofNat 6 n ∧
        (∀ r ∈ routes, amGet? t.modl.routes (64 * (r.2 / 12) + r.1) = some r.2) ∧ t.mem = s.mem) ∧
  (∀ (s : State) fn g pid, 2048 ≤ pid.toNat → 0 < g → g < 2048 → fn ≤ 64 →
      (∀ e ∈ s.modl.podPids, e.1 ≠ pid ∧ ¬ (e.2.1 = fn ∧ e.2.2 = BitVec.ofNat 11 g)) →
      exec (.podPidAllot fn g pid) s = .next { s with modl := { s.modl with
        podPids := (pid, fn, BitVec.ofNat 11 g) :: s.modl.podPids } }) ∧
  (∀ (s : State) pid m ph own, own = s.modl.podNumber.toNat → Claims.PodArrives s pid m ph →
    (m = own → ¬ Claims.IsRoot s pid → (s.podEntry pid).isSome = true → ∃ t : State, ∃ r,
      exec (.podArrival pid m ph) s = .next t ∧ r ∈ s.podOthers pid ∧ (∀ k ∈ s.podOthers pid, r ≤ k) ∧ r < own ∧
      t.modl.podSent = pid :: s.modl.podSent ∧ t.modl.podArrivals = s.modl.podArrivals ∧ t.cores = s.cores ∧
      t.mem = s.mem ∧ ∀ p, s.portTo r = some p → (t.port p).out = (s.port p).out ++ [(r, .arrival pid m ph)]) ∧
    (Claims.IsRoot s pid → ∃ t : State, exec (.podArrival pid m ph) s = .next t ∧ t.mem = s.mem ∧
      t.modl.podInbox = (if m = own then s.modl.podInbox else s.modl.podInbox.erase (pid, m, ph)) ∧
      ((∃ k, (k = own ∨ k ∈ s.podOthers pid) ∧ k ≠ m ∧ (pid, k, ph) ∉ s.modl.podArrivals) →
        t.modl.podArrivals = (pid, m, ph) :: s.modl.podArrivals ∧ t.cores = s.cores ∧ t.parts = s.parts ∧
        t.modl.ikPorts = s.modl.ikPorts ∧ t.podPhase pid = ph ∧
        t.modl.podSent = (if m = own then pid :: s.modl.podSent else s.modl.podSent)) ∧
      ((∀ k, (k = own ∨ k ∈ s.podOthers pid) → k = m ∨ (pid, k, ph) ∈ s.modl.podArrivals) →
        Claims.PodPassed s t pid ph ∧ ∀ k ∈ s.podOthers pid, ∀ p, s.portTo k = some p →
          (k, .release pid ph) ∈ (t.port p).out))) ∧
  ∀ (s : State) pid ph, (ph = s.podPhase pid → pid ∈ s.modl.podSent → Claims.PodPassed s (s.podRelease pid ph) pid ph) ∧
    (ph ≠ s.podPhase pid ∨ pid ∉ s.modl.podSent → s.podRelease pid ph = s)

/-- Boot and recovery, attestation, lifetime counters and the capability list, and pods: formation, PIDs and the barrier network
POD (R330, R385, R386, R412, R413, R414, R416). The model's own choices in it are logs 18 (which modules take part), 48 (an
image in host memory that cannot be read), 49, 89 and 100. -/
def Obligations.BootAttestationAndPods : Prop :=
  Claims.TheModuleBoots ∧ Claims.TheModuleReports ∧ Claims.PodsMeet
end

