-- ==== Sys2Proof/Laws/Maps.lean ====
section
/-! SUPPORT. Reading a finite map after an update of it. -/

namespace Sys2Proof.Machine

@[simp] theorem amGet_amSet_self {β : Type} (d : β) (m : AMap β) (j : Nat) (w : β) : amGet d (amSet m j w) j = w := by
  induction m with
  | nil => simp [amSet, amGet]
  | cons e m ih =>
    obtain ⟨k, v⟩ := e
    by_cases h : k = j
    · simp [amSet, amGet, h]
    · by_cases h2 : j < k <;> simp [amSet, amGet, h, h2, ih]

theorem amGet_amSet_ne {β : Type} (d : β) (m : AMap β) {i j : Nat} (w : β) (h : i ≠ j) :
    amGet d (amSet m j w) i = amGet d m i := by
  induction m with
  | nil => simp [amSet, amGet, h.symm]
  | cons e m ih =>
    obtain ⟨k, v⟩ := e
    by_cases hk : k = j
    · subst hk; simp [amSet, amGet, h.symm]
    · by_cases h2 : j < k
      · simp [amSet, amGet, hk, h2, h.symm]
      · by_cases h3 : k = i
        · subst h3; simp [amSet, amGet, hk, h2]
        · simp [amSet, amGet, hk, h2, h3, ih]

theorem amGet_amSet {β : Type} (d : β) (m : AMap β) (i j : Nat) (w : β) :
    amGet d (amSet m j w) i = if i = j then w else amGet d m i := by
  by_cases h : i = j
  · subst h; simp
  · simp [h, amGet_amSet_ne d m w h]

theorem amGet?_eq_amGet {β : Type} (d : β) (m : AMap β) (j : Nat) : amGet d m j = (amGet? m j).getD d := by
  induction m with
  | nil => simp [amGet, amGet?]
  | cons e m ih =>
    obtain ⟨k, v⟩ := e
    by_cases hk : k = j <;> simp [amGet, amGet?, hk, ih]

theorem amGet?_mem {β : Type} {m : AMap β} {j : Nat} {w : β} (h : amGet? m j = some w) : (j, w) ∈ m := by
  induction m with
  | nil => simp [amGet?] at h
  | cons e m ih =>
    obtain ⟨k, v⟩ := e
    by_cases hk : k = j
    · simp_all [amGet?]
    · simp only [amGet?, if_neg hk] at h
      exact List.mem_cons_of_mem _ (ih h)

theorem amGet?_none {β : Type} {m : AMap β} {j : Nat} (h : ∀ e ∈ m, e.1 ≠ j) : amGet? m j = none := by
  cases hw : amGet? m j with
  | none => rfl
  | some w => exact absurd rfl (h (j, w) (amGet?_mem hw))

@[simp] theorem amGet_amDel_self {β : Type} (d : β) (m : AMap β) (j : Nat) : amGet d (amDel m j) j = d := by
  induction m with
  | nil => simp [amDel, amGet]
  | cons e m ih =>
    obtain ⟨k, v⟩ := e
    by_cases hk : k = j <;> simp [amDel, amGet, hk, ih]

theorem amGet_amDel_ne {β : Type} (d : β) (m : AMap β) {i j : Nat} (h : i ≠ j) :
    amGet d (amDel m j) i = amGet d m i := by
  induction m with
  | nil => simp [amDel]
  | cons e m ih =>
    obtain ⟨k, v⟩ := e
    by_cases hk : k = j
    · subst hk; simp [amDel, amGet, h.symm, ih]
    · by_cases h3 : k = i
      · subst h3; simp [amDel, amGet, hk]
      · simp [amDel, amGet, hk, h3, ih]

end Sys2Proof.Machine
end

