-- ==== Sys2Proof/Laws/State.lean ====
section
/-! SUPPORT. The fields of the state that each update leaves alone, one lemma a field. -/

namespace Sys2Proof.Machine

@[simp] theorem State.setCore_quads (s : State) (c : Nat) (v : Core) : (s.setCore c v).quads = s.quads := rfl
@[simp] theorem State.setCore_clusters (s : State) (c : Nat) (v : Core) : (s.setCore c v).clusters = s.clusters := rfl
@[simp] theorem State.setCore_mem (s : State) (c : Nat) (v : Core) : (s.setCore c v).mem = s.mem := rfl
@[simp] theorem State.setCore_races (s : State) (c : Nat) (v : Core) : (s.setCore c v).races = s.races := rfl
@[simp] theorem State.setCore_live (s : State) (c : Nat) (v : Core) : (s.setCore c v).live = s.live := rfl
@[simp] theorem State.setCore_inflight (s : State) (c : Nat) (v : Core) : (s.setCore c v).inflight = s.inflight := rfl
@[simp] theorem State.setCore_eccBad (s : State) (c : Nat) (v : Core) : (s.setCore c v).eccBad = s.eccBad := rfl
@[simp] theorem State.setCore_pages (s : State) (c : Nat) (v : Core) : (s.setCore c v).pages = s.pages := rfl
@[simp] theorem State.setCore_tables (s : State) (c : Nat) (v : Core) : (s.setCore c v).tables = s.tables := rfl
@[simp] theorem State.setCore_contexts (s : State) (c : Nat) (v : Core) : (s.setCore c v).contexts = s.contexts := rfl
@[simp] theorem State.setCore_nodes (s : State) (c : Nat) (v : Core) : (s.setCore c v).nodes = s.nodes := rfl
@[simp] theorem State.setCore_nodeMajors (s : State) (c : Nat) (v : Core) : (s.setCore c v).nodeMajors = s.nodeMajors := rfl
@[simp] theorem State.setCore_olds (s : State) (c : Nat) (v : Core) : (s.setCore c v).olds = s.olds := rfl
@[simp] theorem State.setCore_freed (s : State) (c : Nat) (v : Core) : (s.setCore c v).freed = s.freed := rfl
@[simp] theorem State.setCore_blocks (s : State) (c : Nat) (v : Core) : (s.setCore c v).blocks = s.blocks := rfl
@[simp] theorem State.setCore_minors (s : State) (c : Nat) (v : Core) : (s.setCore c v).minors = s.minors := rfl
@[simp] theorem State.setCore_majors (s : State) (c : Nat) (v : Core) : (s.setCore c v).majors = s.majors := rfl
@[simp] theorem State.setCore_bases (s : State) (c : Nat) (v : Core) : (s.setCore c v).bases = s.bases := rfl
@[simp] theorem State.setCore_accounts (s : State) (c : Nat) (v : Core) : (s.setCore c v).accounts = s.accounts := rfl
@[simp] theorem State.setCore_functions (s : State) (c : Nat) (v : Core) : (s.setCore c v).functions = s.functions := rfl
@[simp] theorem State.setCore_parts (s : State) (c : Nat) (v : Core) : (s.setCore c v).parts = s.parts := rfl
@[simp] theorem State.setCore_net (s : State) (c : Nat) (v : Core) : (s.setCore c v).net = s.net := rfl
@[simp] theorem State.setCore_grants (s : State) (c : Nat) (v : Core) : (s.setCore c v).grants = s.grants := rfl
@[simp] theorem State.setCore_modl (s : State) (c : Nat) (v : Core) : (s.setCore c v).modl = s.modl := rfl
@[simp] theorem State.setCore_cur (s : State) (c : Nat) (v : Core) : (s.setCore c v).cur = s.cur := rfl
@[simp] theorem State.setCore_agenda (s : State) (c : Nat) (v : Core) : (s.setCore c v).agenda = s.agenda := rfl
@[simp] theorem State.setCore_now (s : State) (c : Nat) (v : Core) : (s.setCore c v).now = s.now := rfl
@[simp] theorem State.setCore_fresh (s : State) (c : Nat) (v : Core) : (s.setCore c v).fresh = s.fresh := rfl
@[simp] theorem State.setCore_nextId (s : State) (c : Nat) (v : Core) : (s.setCore c v).nextId = s.nextId := rfl

@[simp] theorem State.modCore_quads (s : State) (c : Nat) (f : Core → Core) : (s.modCore c f).quads = s.quads := rfl
@[simp] theorem State.modCore_clusters (s : State) (c : Nat) (f : Core → Core) : (s.modCore c f).clusters = s.clusters := rfl
@[simp] theorem State.modCore_mem (s : State) (c : Nat) (f : Core → Core) : (s.modCore c f).mem = s.mem := rfl
@[simp] theorem State.modCore_races (s : State) (c : Nat) (f : Core → Core) : (s.modCore c f).races = s.races := rfl
@[simp] theorem State.modCore_live (s : State) (c : Nat) (f : Core → Core) : (s.modCore c f).live = s.live := rfl
@[simp] theorem State.modCore_inflight (s : State) (c : Nat) (f : Core → Core) : (s.modCore c f).inflight = s.inflight := rfl
@[simp] theorem State.modCore_eccBad (s : State) (c : Nat) (f : Core → Core) : (s.modCore c f).eccBad = s.eccBad := rfl
@[simp] theorem State.modCore_pages (s : State) (c : Nat) (f : Core → Core) : (s.modCore c f).pages = s.pages := rfl
@[simp] theorem State.modCore_tables (s : State) (c : Nat) (f : Core → Core) : (s.modCore c f).tables = s.tables := rfl
@[simp] theorem State.modCore_contexts (s : State) (c : Nat) (f : Core → Core) : (s.modCore c f).contexts = s.contexts := rfl
@[simp] theorem State.modCore_nodes (s : State) (c : Nat) (f : Core → Core) : (s.modCore c f).nodes = s.nodes := rfl
@[simp] theorem State.modCore_nodeMajors (s : State) (c : Nat) (f : Core → Core) : (s.modCore c f).nodeMajors = s.nodeMajors := rfl
@[simp] theorem State.modCore_olds (s : State) (c : Nat) (f : Core → Core) : (s.modCore c f).olds = s.olds := rfl
@[simp] theorem State.modCore_freed (s : State) (c : Nat) (f : Core → Core) : (s.modCore c f).freed = s.freed := rfl
@[simp] theorem State.modCore_blocks (s : State) (c : Nat) (f : Core → Core) : (s.modCore c f).blocks = s.blocks := rfl
@[simp] theorem State.modCore_minors (s : State) (c : Nat) (f : Core → Core) : (s.modCore c f).minors = s.minors := rfl
@[simp] theorem State.modCore_majors (s : State) (c : Nat) (f : Core → Core) : (s.modCore c f).majors = s.majors := rfl
@[simp] theorem State.modCore_bases (s : State) (c : Nat) (f : Core → Core) : (s.modCore c f).bases = s.bases := rfl
@[simp] theorem State.modCore_accounts (s : State) (c : Nat) (f : Core → Core) : (s.modCore c f).accounts = s.accounts := rfl
@[simp] theorem State.modCore_functions (s : State) (c : Nat) (f : Core → Core) : (s.modCore c f).functions = s.functions := rfl
@[simp] theorem State.modCore_parts (s : State) (c : Nat) (f : Core → Core) : (s.modCore c f).parts = s.parts := rfl
@[simp] theorem State.modCore_net (s : State) (c : Nat) (f : Core → Core) : (s.modCore c f).net = s.net := rfl
@[simp] theorem State.modCore_grants (s : State) (c : Nat) (f : Core → Core) : (s.modCore c f).grants = s.grants := rfl
@[simp] theorem State.modCore_modl (s : State) (c : Nat) (f : Core → Core) : (s.modCore c f).modl = s.modl := rfl
@[simp] theorem State.modCore_cur (s : State) (c : Nat) (f : Core → Core) : (s.modCore c f).cur = s.cur := rfl
@[simp] theorem State.modCore_agenda (s : State) (c : Nat) (f : Core → Core) : (s.modCore c f).agenda = s.agenda := rfl
@[simp] theorem State.modCore_now (s : State) (c : Nat) (f : Core → Core) : (s.modCore c f).now = s.now := rfl
@[simp] theorem State.modCore_fresh (s : State) (c : Nat) (f : Core → Core) : (s.modCore c f).fresh = s.fresh := rfl
@[simp] theorem State.modCore_nextId (s : State) (c : Nat) (f : Core → Core) : (s.modCore c f).nextId = s.nextId := rfl

@[simp] theorem State.setCtxAt_quads (s : State) (c k : Nat) (v : Ctx) : (s.setCtxAt c k v).quads = s.quads := rfl
@[simp] theorem State.setCtxAt_clusters (s : State) (c k : Nat) (v : Ctx) : (s.setCtxAt c k v).clusters = s.clusters := rfl
@[simp] theorem State.setCtxAt_mem (s : State) (c k : Nat) (v : Ctx) : (s.setCtxAt c k v).mem = s.mem := rfl
@[simp] theorem State.setCtxAt_races (s : State) (c k : Nat) (v : Ctx) : (s.setCtxAt c k v).races = s.races := rfl
@[simp] theorem State.setCtxAt_live (s : State) (c k : Nat) (v : Ctx) : (s.setCtxAt c k v).live = s.live := rfl
@[simp] theorem State.setCtxAt_inflight (s : State) (c k : Nat) (v : Ctx) : (s.setCtxAt c k v).inflight = s.inflight := rfl
@[simp] theorem State.setCtxAt_eccBad (s : State) (c k : Nat) (v : Ctx) : (s.setCtxAt c k v).eccBad = s.eccBad := rfl
@[simp] theorem State.setCtxAt_pages (s : State) (c k : Nat) (v : Ctx) : (s.setCtxAt c k v).pages = s.pages := rfl
@[simp] theorem State.setCtxAt_tables (s : State) (c k : Nat) (v : Ctx) : (s.setCtxAt c k v).tables = s.tables := rfl
@[simp] theorem State.setCtxAt_contexts (s : State) (c k : Nat) (v : Ctx) : (s.setCtxAt c k v).contexts = s.contexts := rfl
@[simp] theorem State.setCtxAt_nodes (s : State) (c k : Nat) (v : Ctx) : (s.setCtxAt c k v).nodes = s.nodes := rfl
@[simp] theorem State.setCtxAt_nodeMajors (s : State) (c k : Nat) (v : Ctx) : (s.setCtxAt c k v).nodeMajors = s.nodeMajors := rfl
@[simp] theorem State.setCtxAt_olds (s : State) (c k : Nat) (v : Ctx) : (s.setCtxAt c k v).olds = s.olds := rfl
@[simp] theorem State.setCtxAt_freed (s : State) (c k : Nat) (v : Ctx) : (s.setCtxAt c k v).freed = s.freed := rfl
@[simp] theorem State.setCtxAt_blocks (s : State) (c k : Nat) (v : Ctx) : (s.setCtxAt c k v).blocks = s.blocks := rfl
@[simp] theorem State.setCtxAt_minors (s : State) (c k : Nat) (v : Ctx) : (s.setCtxAt c k v).minors = s.minors := rfl
@[simp] theorem State.setCtxAt_majors (s : State) (c k : Nat) (v : Ctx) : (s.setCtxAt c k v).majors = s.majors := rfl
@[simp] theorem State.setCtxAt_bases (s : State) (c k : Nat) (v : Ctx) : (s.setCtxAt c k v).bases = s.bases := rfl
@[simp] theorem State.setCtxAt_accounts (s : State) (c k : Nat) (v : Ctx) : (s.setCtxAt c k v).accounts = s.accounts := rfl
@[simp] theorem State.setCtxAt_functions (s : State) (c k : Nat) (v : Ctx) : (s.setCtxAt c k v).functions = s.functions := rfl
@[simp] theorem State.setCtxAt_parts (s : State) (c k : Nat) (v : Ctx) : (s.setCtxAt c k v).parts = s.parts := rfl
@[simp] theorem State.setCtxAt_net (s : State) (c k : Nat) (v : Ctx) : (s.setCtxAt c k v).net = s.net := rfl
@[simp] theorem State.setCtxAt_grants (s : State) (c k : Nat) (v : Ctx) : (s.setCtxAt c k v).grants = s.grants := rfl
@[simp] theorem State.setCtxAt_modl (s : State) (c k : Nat) (v : Ctx) : (s.setCtxAt c k v).modl = s.modl := rfl
@[simp] theorem State.setCtxAt_cur (s : State) (c k : Nat) (v : Ctx) : (s.setCtxAt c k v).cur = s.cur := rfl
@[simp] theorem State.setCtxAt_agenda (s : State) (c k : Nat) (v : Ctx) : (s.setCtxAt c k v).agenda = s.agenda := rfl
@[simp] theorem State.setCtxAt_now (s : State) (c k : Nat) (v : Ctx) : (s.setCtxAt c k v).now = s.now := rfl
@[simp] theorem State.setCtxAt_fresh (s : State) (c k : Nat) (v : Ctx) : (s.setCtxAt c k v).fresh = s.fresh := rfl
@[simp] theorem State.setCtxAt_nextId (s : State) (c k : Nat) (v : Ctx) : (s.setCtxAt c k v).nextId = s.nextId := rfl

@[simp] theorem State.modCtxAt_quads (s : State) (c k : Nat) (f : Ctx → Ctx) : (s.modCtxAt c k f).quads = s.quads := rfl
@[simp] theorem State.modCtxAt_clusters (s : State) (c k : Nat) (f : Ctx → Ctx) : (s.modCtxAt c k f).clusters = s.clusters := rfl
@[simp] theorem State.modCtxAt_mem (s : State) (c k : Nat) (f : Ctx → Ctx) : (s.modCtxAt c k f).mem = s.mem := rfl
@[simp] theorem State.modCtxAt_races (s : State) (c k : Nat) (f : Ctx → Ctx) : (s.modCtxAt c k f).races = s.races := rfl
@[simp] theorem State.modCtxAt_live (s : State) (c k : Nat) (f : Ctx → Ctx) : (s.modCtxAt c k f).live = s.live := rfl
@[simp] theorem State.modCtxAt_inflight (s : State) (c k : Nat) (f : Ctx → Ctx) : (s.modCtxAt c k f).inflight = s.inflight := rfl
@[simp] theorem State.modCtxAt_eccBad (s : State) (c k : Nat) (f : Ctx → Ctx) : (s.modCtxAt c k f).eccBad = s.eccBad := rfl
@[simp] theorem State.modCtxAt_pages (s : State) (c k : Nat) (f : Ctx → Ctx) : (s.modCtxAt c k f).pages = s.pages := rfl
@[simp] theorem State.modCtxAt_tables (s : State) (c k : Nat) (f : Ctx → Ctx) : (s.modCtxAt c k f).tables = s.tables := rfl
@[simp] theorem State.modCtxAt_contexts (s : State) (c k : Nat) (f : Ctx → Ctx) : (s.modCtxAt c k f).contexts = s.contexts := rfl
@[simp] theorem State.modCtxAt_nodes (s : State) (c k : Nat) (f : Ctx → Ctx) : (s.modCtxAt c k f).nodes = s.nodes := rfl
@[simp] theorem State.modCtxAt_nodeMajors (s : State) (c k : Nat) (f : Ctx → Ctx) : (s.modCtxAt c k f).nodeMajors = s.nodeMajors := rfl
@[simp] theorem State.modCtxAt_olds (s : State) (c k : Nat) (f : Ctx → Ctx) : (s.modCtxAt c k f).olds = s.olds := rfl
@[simp] theorem State.modCtxAt_freed (s : State) (c k : Nat) (f : Ctx → Ctx) : (s.modCtxAt c k f).freed = s.freed := rfl
@[simp] theorem State.modCtxAt_blocks (s : State) (c k : Nat) (f : Ctx → Ctx) : (s.modCtxAt c k f).blocks = s.blocks := rfl
@[simp] theorem State.modCtxAt_minors (s : State) (c k : Nat) (f : Ctx → Ctx) : (s.modCtxAt c k f).minors = s.minors := rfl
@[simp] theorem State.modCtxAt_majors (s : State) (c k : Nat) (f : Ctx → Ctx) : (s.modCtxAt c k f).majors = s.majors := rfl
@[simp] theorem State.modCtxAt_bases (s : State) (c k : Nat) (f : Ctx → Ctx) : (s.modCtxAt c k f).bases = s.bases := rfl
@[simp] theorem State.modCtxAt_accounts (s : State) (c k : Nat) (f : Ctx → Ctx) : (s.modCtxAt c k f).accounts = s.accounts := rfl
@[simp] theorem State.modCtxAt_functions (s : State) (c k : Nat) (f : Ctx → Ctx) : (s.modCtxAt c k f).functions = s.functions := rfl
@[simp] theorem State.modCtxAt_parts (s : State) (c k : Nat) (f : Ctx → Ctx) : (s.modCtxAt c k f).parts = s.parts := rfl
@[simp] theorem State.modCtxAt_net (s : State) (c k : Nat) (f : Ctx → Ctx) : (s.modCtxAt c k f).net = s.net := rfl
@[simp] theorem State.modCtxAt_grants (s : State) (c k : Nat) (f : Ctx → Ctx) : (s.modCtxAt c k f).grants = s.grants := rfl
@[simp] theorem State.modCtxAt_modl (s : State) (c k : Nat) (f : Ctx → Ctx) : (s.modCtxAt c k f).modl = s.modl := rfl
@[simp] theorem State.modCtxAt_cur (s : State) (c k : Nat) (f : Ctx → Ctx) : (s.modCtxAt c k f).cur = s.cur := rfl
@[simp] theorem State.modCtxAt_agenda (s : State) (c k : Nat) (f : Ctx → Ctx) : (s.modCtxAt c k f).agenda = s.agenda := rfl
@[simp] theorem State.modCtxAt_now (s : State) (c k : Nat) (f : Ctx → Ctx) : (s.modCtxAt c k f).now = s.now := rfl
@[simp] theorem State.modCtxAt_fresh (s : State) (c k : Nat) (f : Ctx → Ctx) : (s.modCtxAt c k f).fresh = s.fresh := rfl
@[simp] theorem State.modCtxAt_nextId (s : State) (c k : Nat) (f : Ctx → Ctx) : (s.modCtxAt c k f).nextId = s.nextId := rfl

@[simp] theorem State.setCx_quads (s : State) (v : Ctx) : (s.setCx v).quads = s.quads := rfl
@[simp] theorem State.setCx_clusters (s : State) (v : Ctx) : (s.setCx v).clusters = s.clusters := rfl
@[simp] theorem State.setCx_mem (s : State) (v : Ctx) : (s.setCx v).mem = s.mem := rfl
@[simp] theorem State.setCx_races (s : State) (v : Ctx) : (s.setCx v).races = s.races := rfl
@[simp] theorem State.setCx_live (s : State) (v : Ctx) : (s.setCx v).live = s.live := rfl
@[simp] theorem State.setCx_inflight (s : State) (v : Ctx) : (s.setCx v).inflight = s.inflight := rfl
@[simp] theorem State.setCx_eccBad (s : State) (v : Ctx) : (s.setCx v).eccBad = s.eccBad := rfl
@[simp] theorem State.setCx_pages (s : State) (v : Ctx) : (s.setCx v).pages = s.pages := rfl
@[simp] theorem State.setCx_tables (s : State) (v : Ctx) : (s.setCx v).tables = s.tables := rfl
@[simp] theorem State.setCx_contexts (s : State) (v : Ctx) : (s.setCx v).contexts = s.contexts := rfl
@[simp] theorem State.setCx_nodes (s : State) (v : Ctx) : (s.setCx v).nodes = s.nodes := rfl
@[simp] theorem State.setCx_nodeMajors (s : State) (v : Ctx) : (s.setCx v).nodeMajors = s.nodeMajors := rfl
@[simp] theorem State.setCx_olds (s : State) (v : Ctx) : (s.setCx v).olds = s.olds := rfl
@[simp] theorem State.setCx_freed (s : State) (v : Ctx) : (s.setCx v).freed = s.freed := rfl
@[simp] theorem State.setCx_blocks (s : State) (v : Ctx) : (s.setCx v).blocks = s.blocks := rfl
@[simp] theorem State.setCx_minors (s : State) (v : Ctx) : (s.setCx v).minors = s.minors := rfl
@[simp] theorem State.setCx_majors (s : State) (v : Ctx) : (s.setCx v).majors = s.majors := rfl
@[simp] theorem State.setCx_bases (s : State) (v : Ctx) : (s.setCx v).bases = s.bases := rfl
@[simp] theorem State.setCx_accounts (s : State) (v : Ctx) : (s.setCx v).accounts = s.accounts := rfl
@[simp] theorem State.setCx_functions (s : State) (v : Ctx) : (s.setCx v).functions = s.functions := rfl
@[simp] theorem State.setCx_parts (s : State) (v : Ctx) : (s.setCx v).parts = s.parts := rfl
@[simp] theorem State.setCx_net (s : State) (v : Ctx) : (s.setCx v).net = s.net := rfl
@[simp] theorem State.setCx_grants (s : State) (v : Ctx) : (s.setCx v).grants = s.grants := rfl
@[simp] theorem State.setCx_modl (s : State) (v : Ctx) : (s.setCx v).modl = s.modl := rfl
@[simp] theorem State.setCx_cur (s : State) (v : Ctx) : (s.setCx v).cur = s.cur := rfl
@[simp] theorem State.setCx_agenda (s : State) (v : Ctx) : (s.setCx v).agenda = s.agenda := rfl
@[simp] theorem State.setCx_now (s : State) (v : Ctx) : (s.setCx v).now = s.now := rfl
@[simp] theorem State.setCx_fresh (s : State) (v : Ctx) : (s.setCx v).fresh = s.fresh := rfl
@[simp] theorem State.setCx_nextId (s : State) (v : Ctx) : (s.setCx v).nextId = s.nextId := rfl

@[simp] theorem State.modCx_quads (s : State) (f : Ctx → Ctx) : (s.modCx f).quads = s.quads := rfl
@[simp] theorem State.modCx_clusters (s : State) (f : Ctx → Ctx) : (s.modCx f).clusters = s.clusters := rfl
@[simp] theorem State.modCx_mem (s : State) (f : Ctx → Ctx) : (s.modCx f).mem = s.mem := rfl
@[simp] theorem State.modCx_races (s : State) (f : Ctx → Ctx) : (s.modCx f).races = s.races := rfl
@[simp] theorem State.modCx_live (s : State) (f : Ctx → Ctx) : (s.modCx f).live = s.live := rfl
@[simp] theorem State.modCx_inflight (s : State) (f : Ctx → Ctx) : (s.modCx f).inflight = s.inflight := rfl
@[simp] theorem State.modCx_eccBad (s : State) (f : Ctx → Ctx) : (s.modCx f).eccBad = s.eccBad := rfl
@[simp] theorem State.modCx_pages (s : State) (f : Ctx → Ctx) : (s.modCx f).pages = s.pages := rfl
@[simp] theorem State.modCx_tables (s : State) (f : Ctx → Ctx) : (s.modCx f).tables = s.tables := rfl
@[simp] theorem State.modCx_contexts (s : State) (f : Ctx → Ctx) : (s.modCx f).contexts = s.contexts := rfl
@[simp] theorem State.modCx_nodes (s : State) (f : Ctx → Ctx) : (s.modCx f).nodes = s.nodes := rfl
@[simp] theorem State.modCx_nodeMajors (s : State) (f : Ctx → Ctx) : (s.modCx f).nodeMajors = s.nodeMajors := rfl
@[simp] theorem State.modCx_olds (s : State) (f : Ctx → Ctx) : (s.modCx f).olds = s.olds := rfl
@[simp] theorem State.modCx_freed (s : State) (f : Ctx → Ctx) : (s.modCx f).freed = s.freed := rfl
@[simp] theorem State.modCx_blocks (s : State) (f : Ctx → Ctx) : (s.modCx f).blocks = s.blocks := rfl
@[simp] theorem State.modCx_minors (s : State) (f : Ctx → Ctx) : (s.modCx f).minors = s.minors := rfl
@[simp] theorem State.modCx_majors (s : State) (f : Ctx → Ctx) : (s.modCx f).majors = s.majors := rfl
@[simp] theorem State.modCx_bases (s : State) (f : Ctx → Ctx) : (s.modCx f).bases = s.bases := rfl
@[simp] theorem State.modCx_accounts (s : State) (f : Ctx → Ctx) : (s.modCx f).accounts = s.accounts := rfl
@[simp] theorem State.modCx_functions (s : State) (f : Ctx → Ctx) : (s.modCx f).functions = s.functions := rfl
@[simp] theorem State.modCx_parts (s : State) (f : Ctx → Ctx) : (s.modCx f).parts = s.parts := rfl
@[simp] theorem State.modCx_net (s : State) (f : Ctx → Ctx) : (s.modCx f).net = s.net := rfl
@[simp] theorem State.modCx_grants (s : State) (f : Ctx → Ctx) : (s.modCx f).grants = s.grants := rfl
@[simp] theorem State.modCx_modl (s : State) (f : Ctx → Ctx) : (s.modCx f).modl = s.modl := rfl
@[simp] theorem State.modCx_cur (s : State) (f : Ctx → Ctx) : (s.modCx f).cur = s.cur := rfl
@[simp] theorem State.modCx_agenda (s : State) (f : Ctx → Ctx) : (s.modCx f).agenda = s.agenda := rfl
@[simp] theorem State.modCx_now (s : State) (f : Ctx → Ctx) : (s.modCx f).now = s.now := rfl
@[simp] theorem State.modCx_fresh (s : State) (f : Ctx → Ctx) : (s.modCx f).fresh = s.fresh := rfl
@[simp] theorem State.modCx_nextId (s : State) (f : Ctx → Ctx) : (s.modCx f).nextId = s.nextId := rfl

@[simp] theorem State.modMe_quads (s : State) (f : Core → Core) : (s.modMe f).quads = s.quads := rfl
@[simp] theorem State.modMe_clusters (s : State) (f : Core → Core) : (s.modMe f).clusters = s.clusters := rfl
@[simp] theorem State.modMe_mem (s : State) (f : Core → Core) : (s.modMe f).mem = s.mem := rfl
@[simp] theorem State.modMe_races (s : State) (f : Core → Core) : (s.modMe f).races = s.races := rfl
@[simp] theorem State.modMe_live (s : State) (f : Core → Core) : (s.modMe f).live = s.live := rfl
@[simp] theorem State.modMe_inflight (s : State) (f : Core → Core) : (s.modMe f).inflight = s.inflight := rfl
@[simp] theorem State.modMe_eccBad (s : State) (f : Core → Core) : (s.modMe f).eccBad = s.eccBad := rfl
@[simp] theorem State.modMe_pages (s : State) (f : Core → Core) : (s.modMe f).pages = s.pages := rfl
@[simp] theorem State.modMe_tables (s : State) (f : Core → Core) : (s.modMe f).tables = s.tables := rfl
@[simp] theorem State.modMe_contexts (s : State) (f : Core → Core) : (s.modMe f).contexts = s.contexts := rfl
@[simp] theorem State.modMe_nodes (s : State) (f : Core → Core) : (s.modMe f).nodes = s.nodes := rfl
@[simp] theorem State.modMe_nodeMajors (s : State) (f : Core → Core) : (s.modMe f).nodeMajors = s.nodeMajors := rfl
@[simp] theorem State.modMe_olds (s : State) (f : Core → Core) : (s.modMe f).olds = s.olds := rfl
@[simp] theorem State.modMe_freed (s : State) (f : Core → Core) : (s.modMe f).freed = s.freed := rfl
@[simp] theorem State.modMe_blocks (s : State) (f : Core → Core) : (s.modMe f).blocks = s.blocks := rfl
@[simp] theorem State.modMe_minors (s : State) (f : Core → Core) : (s.modMe f).minors = s.minors := rfl
@[simp] theorem State.modMe_majors (s : State) (f : Core → Core) : (s.modMe f).majors = s.majors := rfl
@[simp] theorem State.modMe_bases (s : State) (f : Core → Core) : (s.modMe f).bases = s.bases := rfl
@[simp] theorem State.modMe_accounts (s : State) (f : Core → Core) : (s.modMe f).accounts = s.accounts := rfl
@[simp] theorem State.modMe_functions (s : State) (f : Core → Core) : (s.modMe f).functions = s.functions := rfl
@[simp] theorem State.modMe_parts (s : State) (f : Core → Core) : (s.modMe f).parts = s.parts := rfl
@[simp] theorem State.modMe_net (s : State) (f : Core → Core) : (s.modMe f).net = s.net := rfl
@[simp] theorem State.modMe_grants (s : State) (f : Core → Core) : (s.modMe f).grants = s.grants := rfl
@[simp] theorem State.modMe_modl (s : State) (f : Core → Core) : (s.modMe f).modl = s.modl := rfl
@[simp] theorem State.modMe_cur (s : State) (f : Core → Core) : (s.modMe f).cur = s.cur := rfl
@[simp] theorem State.modMe_agenda (s : State) (f : Core → Core) : (s.modMe f).agenda = s.agenda := rfl
@[simp] theorem State.modMe_now (s : State) (f : Core → Core) : (s.modMe f).now = s.now := rfl
@[simp] theorem State.modMe_fresh (s : State) (f : Core → Core) : (s.modMe f).fresh = s.fresh := rfl
@[simp] theorem State.modMe_nextId (s : State) (f : Core → Core) : (s.modMe f).nextId = s.nextId := rfl

@[simp] theorem State.setX_quads (s : State) (d : BitVec 5) (v : BitVec 64) : (s.setX d v).quads = s.quads := rfl
@[simp] theorem State.setX_clusters (s : State) (d : BitVec 5) (v : BitVec 64) : (s.setX d v).clusters = s.clusters := rfl
@[simp] theorem State.setX_mem (s : State) (d : BitVec 5) (v : BitVec 64) : (s.setX d v).mem = s.mem := rfl
@[simp] theorem State.setX_races (s : State) (d : BitVec 5) (v : BitVec 64) : (s.setX d v).races = s.races := rfl
@[simp] theorem State.setX_live (s : State) (d : BitVec 5) (v : BitVec 64) : (s.setX d v).live = s.live := rfl
@[simp] theorem State.setX_inflight (s : State) (d : BitVec 5) (v : BitVec 64) : (s.setX d v).inflight = s.inflight := rfl
@[simp] theorem State.setX_eccBad (s : State) (d : BitVec 5) (v : BitVec 64) : (s.setX d v).eccBad = s.eccBad := rfl
@[simp] theorem State.setX_pages (s : State) (d : BitVec 5) (v : BitVec 64) : (s.setX d v).pages = s.pages := rfl
@[simp] theorem State.setX_tables (s : State) (d : BitVec 5) (v : BitVec 64) : (s.setX d v).tables = s.tables := rfl
@[simp] theorem State.setX_contexts (s : State) (d : BitVec 5) (v : BitVec 64) : (s.setX d v).contexts = s.contexts := rfl
@[simp] theorem State.setX_nodes (s : State) (d : BitVec 5) (v : BitVec 64) : (s.setX d v).nodes = s.nodes := rfl
@[simp] theorem State.setX_nodeMajors (s : State) (d : BitVec 5) (v : BitVec 64) : (s.setX d v).nodeMajors = s.nodeMajors := rfl
@[simp] theorem State.setX_olds (s : State) (d : BitVec 5) (v : BitVec 64) : (s.setX d v).olds = s.olds := rfl
@[simp] theorem State.setX_freed (s : State) (d : BitVec 5) (v : BitVec 64) : (s.setX d v).freed = s.freed := rfl
@[simp] theorem State.setX_blocks (s : State) (d : BitVec 5) (v : BitVec 64) : (s.setX d v).blocks = s.blocks := rfl
@[simp] theorem State.setX_minors (s : State) (d : BitVec 5) (v : BitVec 64) : (s.setX d v).minors = s.minors := rfl
@[simp] theorem State.setX_majors (s : State) (d : BitVec 5) (v : BitVec 64) : (s.setX d v).majors = s.majors := rfl
@[simp] theorem State.setX_bases (s : State) (d : BitVec 5) (v : BitVec 64) : (s.setX d v).bases = s.bases := rfl
@[simp] theorem State.setX_accounts (s : State) (d : BitVec 5) (v : BitVec 64) : (s.setX d v).accounts = s.accounts := rfl
@[simp] theorem State.setX_functions (s : State) (d : BitVec 5) (v : BitVec 64) : (s.setX d v).functions = s.functions := rfl
@[simp] theorem State.setX_parts (s : State) (d : BitVec 5) (v : BitVec 64) : (s.setX d v).parts = s.parts := rfl
@[simp] theorem State.setX_net (s : State) (d : BitVec 5) (v : BitVec 64) : (s.setX d v).net = s.net := rfl
@[simp] theorem State.setX_grants (s : State) (d : BitVec 5) (v : BitVec 64) : (s.setX d v).grants = s.grants := rfl
@[simp] theorem State.setX_modl (s : State) (d : BitVec 5) (v : BitVec 64) : (s.setX d v).modl = s.modl := rfl
@[simp] theorem State.setX_cur (s : State) (d : BitVec 5) (v : BitVec 64) : (s.setX d v).cur = s.cur := rfl
@[simp] theorem State.setX_agenda (s : State) (d : BitVec 5) (v : BitVec 64) : (s.setX d v).agenda = s.agenda := rfl
@[simp] theorem State.setX_now (s : State) (d : BitVec 5) (v : BitVec 64) : (s.setX d v).now = s.now := rfl
@[simp] theorem State.setX_fresh (s : State) (d : BitVec 5) (v : BitVec 64) : (s.setX d v).fresh = s.fresh := rfl
@[simp] theorem State.setX_nextId (s : State) (d : BitVec 5) (v : BitVec 64) : (s.setX d v).nextId = s.nextId := rfl

@[simp] theorem State.bump_quads (s : State) (n : Nat) : (s.bump n).quads = s.quads := rfl
@[simp] theorem State.bump_clusters (s : State) (n : Nat) : (s.bump n).clusters = s.clusters := rfl
@[simp] theorem State.bump_mem (s : State) (n : Nat) : (s.bump n).mem = s.mem := rfl
@[simp] theorem State.bump_races (s : State) (n : Nat) : (s.bump n).races = s.races := rfl
@[simp] theorem State.bump_live (s : State) (n : Nat) : (s.bump n).live = s.live := rfl
@[simp] theorem State.bump_inflight (s : State) (n : Nat) : (s.bump n).inflight = s.inflight := rfl
@[simp] theorem State.bump_eccBad (s : State) (n : Nat) : (s.bump n).eccBad = s.eccBad := rfl
@[simp] theorem State.bump_pages (s : State) (n : Nat) : (s.bump n).pages = s.pages := rfl
@[simp] theorem State.bump_tables (s : State) (n : Nat) : (s.bump n).tables = s.tables := rfl
@[simp] theorem State.bump_contexts (s : State) (n : Nat) : (s.bump n).contexts = s.contexts := rfl
@[simp] theorem State.bump_nodes (s : State) (n : Nat) : (s.bump n).nodes = s.nodes := rfl
@[simp] theorem State.bump_nodeMajors (s : State) (n : Nat) : (s.bump n).nodeMajors = s.nodeMajors := rfl
@[simp] theorem State.bump_olds (s : State) (n : Nat) : (s.bump n).olds = s.olds := rfl
@[simp] theorem State.bump_freed (s : State) (n : Nat) : (s.bump n).freed = s.freed := rfl
@[simp] theorem State.bump_blocks (s : State) (n : Nat) : (s.bump n).blocks = s.blocks := rfl
@[simp] theorem State.bump_minors (s : State) (n : Nat) : (s.bump n).minors = s.minors := rfl
@[simp] theorem State.bump_majors (s : State) (n : Nat) : (s.bump n).majors = s.majors := rfl
@[simp] theorem State.bump_bases (s : State) (n : Nat) : (s.bump n).bases = s.bases := rfl
@[simp] theorem State.bump_accounts (s : State) (n : Nat) : (s.bump n).accounts = s.accounts := rfl
@[simp] theorem State.bump_functions (s : State) (n : Nat) : (s.bump n).functions = s.functions := rfl
@[simp] theorem State.bump_parts (s : State) (n : Nat) : (s.bump n).parts = s.parts := rfl
@[simp] theorem State.bump_net (s : State) (n : Nat) : (s.bump n).net = s.net := rfl
@[simp] theorem State.bump_grants (s : State) (n : Nat) : (s.bump n).grants = s.grants := rfl
@[simp] theorem State.bump_modl (s : State) (n : Nat) : (s.bump n).modl = s.modl := rfl
@[simp] theorem State.bump_cur (s : State) (n : Nat) : (s.bump n).cur = s.cur := rfl
@[simp] theorem State.bump_agenda (s : State) (n : Nat) : (s.bump n).agenda = s.agenda := rfl
@[simp] theorem State.bump_now (s : State) (n : Nat) : (s.bump n).now = s.now := rfl
@[simp] theorem State.bump_fresh (s : State) (n : Nat) : (s.bump n).fresh = s.fresh := rfl
@[simp] theorem State.bump_nextId (s : State) (n : Nat) : (s.bump n).nextId = s.nextId := rfl

@[simp] theorem State.jump_quads (s : State) (pc : BitVec 64) : (s.jump pc).quads = s.quads := rfl
@[simp] theorem State.jump_clusters (s : State) (pc : BitVec 64) : (s.jump pc).clusters = s.clusters := rfl
@[simp] theorem State.jump_mem (s : State) (pc : BitVec 64) : (s.jump pc).mem = s.mem := rfl
@[simp] theorem State.jump_races (s : State) (pc : BitVec 64) : (s.jump pc).races = s.races := rfl
@[simp] theorem State.jump_live (s : State) (pc : BitVec 64) : (s.jump pc).live = s.live := rfl
@[simp] theorem State.jump_inflight (s : State) (pc : BitVec 64) : (s.jump pc).inflight = s.inflight := rfl
@[simp] theorem State.jump_eccBad (s : State) (pc : BitVec 64) : (s.jump pc).eccBad = s.eccBad := rfl
@[simp] theorem State.jump_pages (s : State) (pc : BitVec 64) : (s.jump pc).pages = s.pages := rfl
@[simp] theorem State.jump_tables (s : State) (pc : BitVec 64) : (s.jump pc).tables = s.tables := rfl
@[simp] theorem State.jump_contexts (s : State) (pc : BitVec 64) : (s.jump pc).contexts = s.contexts := rfl
@[simp] theorem State.jump_nodes (s : State) (pc : BitVec 64) : (s.jump pc).nodes = s.nodes := rfl
@[simp] theorem State.jump_nodeMajors (s : State) (pc : BitVec 64) : (s.jump pc).nodeMajors = s.nodeMajors := rfl
@[simp] theorem State.jump_olds (s : State) (pc : BitVec 64) : (s.jump pc).olds = s.olds := rfl
@[simp] theorem State.jump_freed (s : State) (pc : BitVec 64) : (s.jump pc).freed = s.freed := rfl
@[simp] theorem State.jump_blocks (s : State) (pc : BitVec 64) : (s.jump pc).blocks = s.blocks := rfl
@[simp] theorem State.jump_minors (s : State) (pc : BitVec 64) : (s.jump pc).minors = s.minors := rfl
@[simp] theorem State.jump_majors (s : State) (pc : BitVec 64) : (s.jump pc).majors = s.majors := rfl
@[simp] theorem State.jump_bases (s : State) (pc : BitVec 64) : (s.jump pc).bases = s.bases := rfl
@[simp] theorem State.jump_accounts (s : State) (pc : BitVec 64) : (s.jump pc).accounts = s.accounts := rfl
@[simp] theorem State.jump_functions (s : State) (pc : BitVec 64) : (s.jump pc).functions = s.functions := rfl
@[simp] theorem State.jump_parts (s : State) (pc : BitVec 64) : (s.jump pc).parts = s.parts := rfl
@[simp] theorem State.jump_net (s : State) (pc : BitVec 64) : (s.jump pc).net = s.net := rfl
@[simp] theorem State.jump_grants (s : State) (pc : BitVec 64) : (s.jump pc).grants = s.grants := rfl
@[simp] theorem State.jump_modl (s : State) (pc : BitVec 64) : (s.jump pc).modl = s.modl := rfl
@[simp] theorem State.jump_cur (s : State) (pc : BitVec 64) : (s.jump pc).cur = s.cur := rfl
@[simp] theorem State.jump_agenda (s : State) (pc : BitVec 64) : (s.jump pc).agenda = s.agenda := rfl
@[simp] theorem State.jump_now (s : State) (pc : BitVec 64) : (s.jump pc).now = s.now := rfl
@[simp] theorem State.jump_fresh (s : State) (pc : BitVec 64) : (s.jump pc).fresh = s.fresh := rfl
@[simp] theorem State.jump_nextId (s : State) (pc : BitVec 64) : (s.jump pc).nextId = s.nextId := rfl

@[simp] theorem State.setQuad_cores (s : State) (q : Nat) (v : Quad) : (s.setQuad q v).cores = s.cores := rfl
@[simp] theorem State.setQuad_clusters (s : State) (q : Nat) (v : Quad) : (s.setQuad q v).clusters = s.clusters := rfl
@[simp] theorem State.setQuad_mem (s : State) (q : Nat) (v : Quad) : (s.setQuad q v).mem = s.mem := rfl
@[simp] theorem State.setQuad_races (s : State) (q : Nat) (v : Quad) : (s.setQuad q v).races = s.races := rfl
@[simp] theorem State.setQuad_live (s : State) (q : Nat) (v : Quad) : (s.setQuad q v).live = s.live := rfl
@[simp] theorem State.setQuad_inflight (s : State) (q : Nat) (v : Quad) : (s.setQuad q v).inflight = s.inflight := rfl
@[simp] theorem State.setQuad_eccBad (s : State) (q : Nat) (v : Quad) : (s.setQuad q v).eccBad = s.eccBad := rfl
@[simp] theorem State.setQuad_pages (s : State) (q : Nat) (v : Quad) : (s.setQuad q v).pages = s.pages := rfl
@[simp] theorem State.setQuad_tables (s : State) (q : Nat) (v : Quad) : (s.setQuad q v).tables = s.tables := rfl
@[simp] theorem State.setQuad_contexts (s : State) (q : Nat) (v : Quad) : (s.setQuad q v).contexts = s.contexts := rfl
@[simp] theorem State.setQuad_nodes (s : State) (q : Nat) (v : Quad) : (s.setQuad q v).nodes = s.nodes := rfl
@[simp] theorem State.setQuad_nodeMajors (s : State) (q : Nat) (v : Quad) : (s.setQuad q v).nodeMajors = s.nodeMajors := rfl
@[simp] theorem State.setQuad_olds (s : State) (q : Nat) (v : Quad) : (s.setQuad q v).olds = s.olds := rfl
@[simp] theorem State.setQuad_freed (s : State) (q : Nat) (v : Quad) : (s.setQuad q v).freed = s.freed := rfl
@[simp] theorem State.setQuad_blocks (s : State) (q : Nat) (v : Quad) : (s.setQuad q v).blocks = s.blocks := rfl
@[simp] theorem State.setQuad_minors (s : State) (q : Nat) (v : Quad) : (s.setQuad q v).minors = s.minors := rfl
@[simp] theorem State.setQuad_majors (s : State) (q : Nat) (v : Quad) : (s.setQuad q v).majors = s.majors := rfl
@[simp] theorem State.setQuad_bases (s : State) (q : Nat) (v : Quad) : (s.setQuad q v).bases = s.bases := rfl
@[simp] theorem State.setQuad_accounts (s : State) (q : Nat) (v : Quad) : (s.setQuad q v).accounts = s.accounts := rfl
@[simp] theorem State.setQuad_functions (s : State) (q : Nat) (v : Quad) : (s.setQuad q v).functions = s.functions := rfl
@[simp] theorem State.setQuad_parts (s : State) (q : Nat) (v : Quad) : (s.setQuad q v).parts = s.parts := rfl
@[simp] theorem State.setQuad_net (s : State) (q : Nat) (v : Quad) : (s.setQuad q v).net = s.net := rfl
@[simp] theorem State.setQuad_grants (s : State) (q : Nat) (v : Quad) : (s.setQuad q v).grants = s.grants := rfl
@[simp] theorem State.setQuad_modl (s : State) (q : Nat) (v : Quad) : (s.setQuad q v).modl = s.modl := rfl
@[simp] theorem State.setQuad_cur (s : State) (q : Nat) (v : Quad) : (s.setQuad q v).cur = s.cur := rfl
@[simp] theorem State.setQuad_agenda (s : State) (q : Nat) (v : Quad) : (s.setQuad q v).agenda = s.agenda := rfl
@[simp] theorem State.setQuad_now (s : State) (q : Nat) (v : Quad) : (s.setQuad q v).now = s.now := rfl
@[simp] theorem State.setQuad_fresh (s : State) (q : Nat) (v : Quad) : (s.setQuad q v).fresh = s.fresh := rfl
@[simp] theorem State.setQuad_nextId (s : State) (q : Nat) (v : Quad) : (s.setQuad q v).nextId = s.nextId := rfl

@[simp] theorem State.modQuad_cores (s : State) (q : Nat) (f : Quad → Quad) : (s.modQuad q f).cores = s.cores := rfl
@[simp] theorem State.modQuad_clusters (s : State) (q : Nat) (f : Quad → Quad) : (s.modQuad q f).clusters = s.clusters := rfl
@[simp] theorem State.modQuad_mem (s : State) (q : Nat) (f : Quad → Quad) : (s.modQuad q f).mem = s.mem := rfl
@[simp] theorem State.modQuad_races (s : State) (q : Nat) (f : Quad → Quad) : (s.modQuad q f).races = s.races := rfl
@[simp] theorem State.modQuad_live (s : State) (q : Nat) (f : Quad → Quad) : (s.modQuad q f).live = s.live := rfl
@[simp] theorem State.modQuad_inflight (s : State) (q : Nat) (f : Quad → Quad) : (s.modQuad q f).inflight = s.inflight := rfl
@[simp] theorem State.modQuad_eccBad (s : State) (q : Nat) (f : Quad → Quad) : (s.modQuad q f).eccBad = s.eccBad := rfl
@[simp] theorem State.modQuad_pages (s : State) (q : Nat) (f : Quad → Quad) : (s.modQuad q f).pages = s.pages := rfl
@[simp] theorem State.modQuad_tables (s : State) (q : Nat) (f : Quad → Quad) : (s.modQuad q f).tables = s.tables := rfl
@[simp] theorem State.modQuad_contexts (s : State) (q : Nat) (f : Quad → Quad) : (s.modQuad q f).contexts = s.contexts := rfl
@[simp] theorem State.modQuad_nodes (s : State) (q : Nat) (f : Quad → Quad) : (s.modQuad q f).nodes = s.nodes := rfl
@[simp] theorem State.modQuad_nodeMajors (s : State) (q : Nat) (f : Quad → Quad) : (s.modQuad q f).nodeMajors = s.nodeMajors := rfl
@[simp] theorem State.modQuad_olds (s : State) (q : Nat) (f : Quad → Quad) : (s.modQuad q f).olds = s.olds := rfl
@[simp] theorem State.modQuad_freed (s : State) (q : Nat) (f : Quad → Quad) : (s.modQuad q f).freed = s.freed := rfl
@[simp] theorem State.modQuad_blocks (s : State) (q : Nat) (f : Quad → Quad) : (s.modQuad q f).blocks = s.blocks := rfl
@[simp] theorem State.modQuad_minors (s : State) (q : Nat) (f : Quad → Quad) : (s.modQuad q f).minors = s.minors := rfl
@[simp] theorem State.modQuad_majors (s : State) (q : Nat) (f : Quad → Quad) : (s.modQuad q f).majors = s.majors := rfl
@[simp] theorem State.modQuad_bases (s : State) (q : Nat) (f : Quad → Quad) : (s.modQuad q f).bases = s.bases := rfl
@[simp] theorem State.modQuad_accounts (s : State) (q : Nat) (f : Quad → Quad) : (s.modQuad q f).accounts = s.accounts := rfl
@[simp] theorem State.modQuad_functions (s : State) (q : Nat) (f : Quad → Quad) : (s.modQuad q f).functions = s.functions := rfl
@[simp] theorem State.modQuad_parts (s : State) (q : Nat) (f : Quad → Quad) : (s.modQuad q f).parts = s.parts := rfl
@[simp] theorem State.modQuad_net (s : State) (q : Nat) (f : Quad → Quad) : (s.modQuad q f).net = s.net := rfl
@[simp] theorem State.modQuad_grants (s : State) (q : Nat) (f : Quad → Quad) : (s.modQuad q f).grants = s.grants := rfl
@[simp] theorem State.modQuad_modl (s : State) (q : Nat) (f : Quad → Quad) : (s.modQuad q f).modl = s.modl := rfl
@[simp] theorem State.modQuad_cur (s : State) (q : Nat) (f : Quad → Quad) : (s.modQuad q f).cur = s.cur := rfl
@[simp] theorem State.modQuad_agenda (s : State) (q : Nat) (f : Quad → Quad) : (s.modQuad q f).agenda = s.agenda := rfl
@[simp] theorem State.modQuad_now (s : State) (q : Nat) (f : Quad → Quad) : (s.modQuad q f).now = s.now := rfl
@[simp] theorem State.modQuad_fresh (s : State) (q : Nat) (f : Quad → Quad) : (s.modQuad q f).fresh = s.fresh := rfl
@[simp] theorem State.modQuad_nextId (s : State) (q : Nat) (f : Quad → Quad) : (s.modQuad q f).nextId = s.nextId := rfl

@[simp] theorem State.setCluster_cores (s : State) (c : Nat) (v : Cluster) : (s.setCluster c v).cores = s.cores := rfl
@[simp] theorem State.setCluster_quads (s : State) (c : Nat) (v : Cluster) : (s.setCluster c v).quads = s.quads := rfl
@[simp] theorem State.setCluster_mem (s : State) (c : Nat) (v : Cluster) : (s.setCluster c v).mem = s.mem := rfl
@[simp] theorem State.setCluster_races (s : State) (c : Nat) (v : Cluster) : (s.setCluster c v).races = s.races := rfl
@[simp] theorem State.setCluster_live (s : State) (c : Nat) (v : Cluster) : (s.setCluster c v).live = s.live := rfl
@[simp] theorem State.setCluster_inflight (s : State) (c : Nat) (v : Cluster) : (s.setCluster c v).inflight = s.inflight := rfl
@[simp] theorem State.setCluster_eccBad (s : State) (c : Nat) (v : Cluster) : (s.setCluster c v).eccBad = s.eccBad := rfl
@[simp] theorem State.setCluster_pages (s : State) (c : Nat) (v : Cluster) : (s.setCluster c v).pages = s.pages := rfl
@[simp] theorem State.setCluster_tables (s : State) (c : Nat) (v : Cluster) : (s.setCluster c v).tables = s.tables := rfl
@[simp] theorem State.setCluster_contexts (s : State) (c : Nat) (v : Cluster) : (s.setCluster c v).contexts = s.contexts := rfl
@[simp] theorem State.setCluster_nodes (s : State) (c : Nat) (v : Cluster) : (s.setCluster c v).nodes = s.nodes := rfl
@[simp] theorem State.setCluster_nodeMajors (s : State) (c : Nat) (v : Cluster) : (s.setCluster c v).nodeMajors = s.nodeMajors := rfl
@[simp] theorem State.setCluster_olds (s : State) (c : Nat) (v : Cluster) : (s.setCluster c v).olds = s.olds := rfl
@[simp] theorem State.setCluster_freed (s : State) (c : Nat) (v : Cluster) : (s.setCluster c v).freed = s.freed := rfl
@[simp] theorem State.setCluster_blocks (s : State) (c : Nat) (v : Cluster) : (s.setCluster c v).blocks = s.blocks := rfl
@[simp] theorem State.setCluster_minors (s : State) (c : Nat) (v : Cluster) : (s.setCluster c v).minors = s.minors := rfl
@[simp] theorem State.setCluster_majors (s : State) (c : Nat) (v : Cluster) : (s.setCluster c v).majors = s.majors := rfl
@[simp] theorem State.setCluster_bases (s : State) (c : Nat) (v : Cluster) : (s.setCluster c v).bases = s.bases := rfl
@[simp] theorem State.setCluster_accounts (s : State) (c : Nat) (v : Cluster) : (s.setCluster c v).accounts = s.accounts := rfl
@[simp] theorem State.setCluster_functions (s : State) (c : Nat) (v : Cluster) : (s.setCluster c v).functions = s.functions := rfl
@[simp] theorem State.setCluster_parts (s : State) (c : Nat) (v : Cluster) : (s.setCluster c v).parts = s.parts := rfl
@[simp] theorem State.setCluster_net (s : State) (c : Nat) (v : Cluster) : (s.setCluster c v).net = s.net := rfl
@[simp] theorem State.setCluster_grants (s : State) (c : Nat) (v : Cluster) : (s.setCluster c v).grants = s.grants := rfl
@[simp] theorem State.setCluster_modl (s : State) (c : Nat) (v : Cluster) : (s.setCluster c v).modl = s.modl := rfl
@[simp] theorem State.setCluster_cur (s : State) (c : Nat) (v : Cluster) : (s.setCluster c v).cur = s.cur := rfl
@[simp] theorem State.setCluster_agenda (s : State) (c : Nat) (v : Cluster) : (s.setCluster c v).agenda = s.agenda := rfl
@[simp] theorem State.setCluster_now (s : State) (c : Nat) (v : Cluster) : (s.setCluster c v).now = s.now := rfl
@[simp] theorem State.setCluster_fresh (s : State) (c : Nat) (v : Cluster) : (s.setCluster c v).fresh = s.fresh := rfl
@[simp] theorem State.setCluster_nextId (s : State) (c : Nat) (v : Cluster) : (s.setCluster c v).nextId = s.nextId := rfl

@[simp] theorem State.modCluster_cores (s : State) (c : Nat) (f : Cluster → Cluster) : (s.modCluster c f).cores = s.cores := rfl
@[simp] theorem State.modCluster_quads (s : State) (c : Nat) (f : Cluster → Cluster) : (s.modCluster c f).quads = s.quads := rfl
@[simp] theorem State.modCluster_mem (s : State) (c : Nat) (f : Cluster → Cluster) : (s.modCluster c f).mem = s.mem := rfl
@[simp] theorem State.modCluster_races (s : State) (c : Nat) (f : Cluster → Cluster) : (s.modCluster c f).races = s.races := rfl
@[simp] theorem State.modCluster_live (s : State) (c : Nat) (f : Cluster → Cluster) : (s.modCluster c f).live = s.live := rfl
@[simp] theorem State.modCluster_inflight (s : State) (c : Nat) (f : Cluster → Cluster) : (s.modCluster c f).inflight = s.inflight := rfl
@[simp] theorem State.modCluster_eccBad (s : State) (c : Nat) (f : Cluster → Cluster) : (s.modCluster c f).eccBad = s.eccBad := rfl
@[simp] theorem State.modCluster_pages (s : State) (c : Nat) (f : Cluster → Cluster) : (s.modCluster c f).pages = s.pages := rfl
@[simp] theorem State.modCluster_tables (s : State) (c : Nat) (f : Cluster → Cluster) : (s.modCluster c f).tables = s.tables := rfl
@[simp] theorem State.modCluster_contexts (s : State) (c : Nat) (f : Cluster → Cluster) : (s.modCluster c f).contexts = s.contexts := rfl
@[simp] theorem State.modCluster_nodes (s : State) (c : Nat) (f : Cluster → Cluster) : (s.modCluster c f).nodes = s.nodes := rfl
@[simp] theorem State.modCluster_nodeMajors (s : State) (c : Nat) (f : Cluster → Cluster) : (s.modCluster c f).nodeMajors = s.nodeMajors := rfl
@[simp] theorem State.modCluster_olds (s : State) (c : Nat) (f : Cluster → Cluster) : (s.modCluster c f).olds = s.olds := rfl
@[simp] theorem State.modCluster_freed (s : State) (c : Nat) (f : Cluster → Cluster) : (s.modCluster c f).freed = s.freed := rfl
@[simp] theorem State.modCluster_blocks (s : State) (c : Nat) (f : Cluster → Cluster) : (s.modCluster c f).blocks = s.blocks := rfl
@[simp] theorem State.modCluster_minors (s : State) (c : Nat) (f : Cluster → Cluster) : (s.modCluster c f).minors = s.minors := rfl
@[simp] theorem State.modCluster_majors (s : State) (c : Nat) (f : Cluster → Cluster) : (s.modCluster c f).majors = s.majors := rfl
@[simp] theorem State.modCluster_bases (s : State) (c : Nat) (f : Cluster → Cluster) : (s.modCluster c f).bases = s.bases := rfl
@[simp] theorem State.modCluster_accounts (s : State) (c : Nat) (f : Cluster → Cluster) : (s.modCluster c f).accounts = s.accounts := rfl
@[simp] theorem State.modCluster_functions (s : State) (c : Nat) (f : Cluster → Cluster) : (s.modCluster c f).functions = s.functions := rfl
@[simp] theorem State.modCluster_parts (s : State) (c : Nat) (f : Cluster → Cluster) : (s.modCluster c f).parts = s.parts := rfl
@[simp] theorem State.modCluster_net (s : State) (c : Nat) (f : Cluster → Cluster) : (s.modCluster c f).net = s.net := rfl
@[simp] theorem State.modCluster_grants (s : State) (c : Nat) (f : Cluster → Cluster) : (s.modCluster c f).grants = s.grants := rfl
@[simp] theorem State.modCluster_modl (s : State) (c : Nat) (f : Cluster → Cluster) : (s.modCluster c f).modl = s.modl := rfl
@[simp] theorem State.modCluster_cur (s : State) (c : Nat) (f : Cluster → Cluster) : (s.modCluster c f).cur = s.cur := rfl
@[simp] theorem State.modCluster_agenda (s : State) (c : Nat) (f : Cluster → Cluster) : (s.modCluster c f).agenda = s.agenda := rfl
@[simp] theorem State.modCluster_now (s : State) (c : Nat) (f : Cluster → Cluster) : (s.modCluster c f).now = s.now := rfl
@[simp] theorem State.modCluster_fresh (s : State) (c : Nat) (f : Cluster → Cluster) : (s.modCluster c f).fresh = s.fresh := rfl
@[simp] theorem State.modCluster_nextId (s : State) (c : Nat) (f : Cluster → Cluster) : (s.modCluster c f).nextId = s.nextId := rfl

@[simp] theorem State.setRing_cores (s : State) (c n : Nat) (r : Ring) : (s.setRing c n r).cores = s.cores := rfl
@[simp] theorem State.setRing_quads (s : State) (c n : Nat) (r : Ring) : (s.setRing c n r).quads = s.quads := rfl
@[simp] theorem State.setRing_mem (s : State) (c n : Nat) (r : Ring) : (s.setRing c n r).mem = s.mem := rfl
@[simp] theorem State.setRing_races (s : State) (c n : Nat) (r : Ring) : (s.setRing c n r).races = s.races := rfl
@[simp] theorem State.setRing_live (s : State) (c n : Nat) (r : Ring) : (s.setRing c n r).live = s.live := rfl
@[simp] theorem State.setRing_inflight (s : State) (c n : Nat) (r : Ring) : (s.setRing c n r).inflight = s.inflight := rfl
@[simp] theorem State.setRing_eccBad (s : State) (c n : Nat) (r : Ring) : (s.setRing c n r).eccBad = s.eccBad := rfl
@[simp] theorem State.setRing_pages (s : State) (c n : Nat) (r : Ring) : (s.setRing c n r).pages = s.pages := rfl
@[simp] theorem State.setRing_tables (s : State) (c n : Nat) (r : Ring) : (s.setRing c n r).tables = s.tables := rfl
@[simp] theorem State.setRing_contexts (s : State) (c n : Nat) (r : Ring) : (s.setRing c n r).contexts = s.contexts := rfl
@[simp] theorem State.setRing_nodes (s : State) (c n : Nat) (r : Ring) : (s.setRing c n r).nodes = s.nodes := rfl
@[simp] theorem State.setRing_nodeMajors (s : State) (c n : Nat) (r : Ring) : (s.setRing c n r).nodeMajors = s.nodeMajors := rfl
@[simp] theorem State.setRing_olds (s : State) (c n : Nat) (r : Ring) : (s.setRing c n r).olds = s.olds := rfl
@[simp] theorem State.setRing_freed (s : State) (c n : Nat) (r : Ring) : (s.setRing c n r).freed = s.freed := rfl
@[simp] theorem State.setRing_blocks (s : State) (c n : Nat) (r : Ring) : (s.setRing c n r).blocks = s.blocks := rfl
@[simp] theorem State.setRing_minors (s : State) (c n : Nat) (r : Ring) : (s.setRing c n r).minors = s.minors := rfl
@[simp] theorem State.setRing_majors (s : State) (c n : Nat) (r : Ring) : (s.setRing c n r).majors = s.majors := rfl
@[simp] theorem State.setRing_bases (s : State) (c n : Nat) (r : Ring) : (s.setRing c n r).bases = s.bases := rfl
@[simp] theorem State.setRing_accounts (s : State) (c n : Nat) (r : Ring) : (s.setRing c n r).accounts = s.accounts := rfl
@[simp] theorem State.setRing_functions (s : State) (c n : Nat) (r : Ring) : (s.setRing c n r).functions = s.functions := rfl
@[simp] theorem State.setRing_parts (s : State) (c n : Nat) (r : Ring) : (s.setRing c n r).parts = s.parts := rfl
@[simp] theorem State.setRing_net (s : State) (c n : Nat) (r : Ring) : (s.setRing c n r).net = s.net := rfl
@[simp] theorem State.setRing_grants (s : State) (c n : Nat) (r : Ring) : (s.setRing c n r).grants = s.grants := rfl
@[simp] theorem State.setRing_modl (s : State) (c n : Nat) (r : Ring) : (s.setRing c n r).modl = s.modl := rfl
@[simp] theorem State.setRing_cur (s : State) (c n : Nat) (r : Ring) : (s.setRing c n r).cur = s.cur := rfl
@[simp] theorem State.setRing_agenda (s : State) (c n : Nat) (r : Ring) : (s.setRing c n r).agenda = s.agenda := rfl
@[simp] theorem State.setRing_now (s : State) (c n : Nat) (r : Ring) : (s.setRing c n r).now = s.now := rfl
@[simp] theorem State.setRing_fresh (s : State) (c n : Nat) (r : Ring) : (s.setRing c n r).fresh = s.fresh := rfl
@[simp] theorem State.setRing_nextId (s : State) (c n : Nat) (r : Ring) : (s.setRing c n r).nextId = s.nextId := rfl

@[simp] theorem State.setPart_cores (s : State) (p : Nat) (v : Part) : (s.setPart p v).cores = s.cores := rfl
@[simp] theorem State.setPart_quads (s : State) (p : Nat) (v : Part) : (s.setPart p v).quads = s.quads := rfl
@[simp] theorem State.setPart_clusters (s : State) (p : Nat) (v : Part) : (s.setPart p v).clusters = s.clusters := rfl
@[simp] theorem State.setPart_mem (s : State) (p : Nat) (v : Part) : (s.setPart p v).mem = s.mem := rfl
@[simp] theorem State.setPart_races (s : State) (p : Nat) (v : Part) : (s.setPart p v).races = s.races := rfl
@[simp] theorem State.setPart_live (s : State) (p : Nat) (v : Part) : (s.setPart p v).live = s.live := rfl
@[simp] theorem State.setPart_inflight (s : State) (p : Nat) (v : Part) : (s.setPart p v).inflight = s.inflight := rfl
@[simp] theorem State.setPart_eccBad (s : State) (p : Nat) (v : Part) : (s.setPart p v).eccBad = s.eccBad := rfl
@[simp] theorem State.setPart_pages (s : State) (p : Nat) (v : Part) : (s.setPart p v).pages = s.pages := rfl
@[simp] theorem State.setPart_tables (s : State) (p : Nat) (v : Part) : (s.setPart p v).tables = s.tables := rfl
@[simp] theorem State.setPart_contexts (s : State) (p : Nat) (v : Part) : (s.setPart p v).contexts = s.contexts := rfl
@[simp] theorem State.setPart_nodes (s : State) (p : Nat) (v : Part) : (s.setPart p v).nodes = s.nodes := rfl
@[simp] theorem State.setPart_nodeMajors (s : State) (p : Nat) (v : Part) : (s.setPart p v).nodeMajors = s.nodeMajors := rfl
@[simp] theorem State.setPart_olds (s : State) (p : Nat) (v : Part) : (s.setPart p v).olds = s.olds := rfl
@[simp] theorem State.setPart_freed (s : State) (p : Nat) (v : Part) : (s.setPart p v).freed = s.freed := rfl
@[simp] theorem State.setPart_blocks (s : State) (p : Nat) (v : Part) : (s.setPart p v).blocks = s.blocks := rfl
@[simp] theorem State.setPart_minors (s : State) (p : Nat) (v : Part) : (s.setPart p v).minors = s.minors := rfl
@[simp] theorem State.setPart_majors (s : State) (p : Nat) (v : Part) : (s.setPart p v).majors = s.majors := rfl
@[simp] theorem State.setPart_bases (s : State) (p : Nat) (v : Part) : (s.setPart p v).bases = s.bases := rfl
@[simp] theorem State.setPart_accounts (s : State) (p : Nat) (v : Part) : (s.setPart p v).accounts = s.accounts := rfl
@[simp] theorem State.setPart_functions (s : State) (p : Nat) (v : Part) : (s.setPart p v).functions = s.functions := rfl
@[simp] theorem State.setPart_net (s : State) (p : Nat) (v : Part) : (s.setPart p v).net = s.net := rfl
@[simp] theorem State.setPart_grants (s : State) (p : Nat) (v : Part) : (s.setPart p v).grants = s.grants := rfl
@[simp] theorem State.setPart_modl (s : State) (p : Nat) (v : Part) : (s.setPart p v).modl = s.modl := rfl
@[simp] theorem State.setPart_cur (s : State) (p : Nat) (v : Part) : (s.setPart p v).cur = s.cur := rfl
@[simp] theorem State.setPart_agenda (s : State) (p : Nat) (v : Part) : (s.setPart p v).agenda = s.agenda := rfl
@[simp] theorem State.setPart_now (s : State) (p : Nat) (v : Part) : (s.setPart p v).now = s.now := rfl
@[simp] theorem State.setPart_fresh (s : State) (p : Nat) (v : Part) : (s.setPart p v).fresh = s.fresh := rfl
@[simp] theorem State.setPart_nextId (s : State) (p : Nat) (v : Part) : (s.setPart p v).nextId = s.nextId := rfl

@[simp] theorem State.modPart_cores (s : State) (p : Nat) (f : Part → Part) : (s.modPart p f).cores = s.cores := rfl
@[simp] theorem State.modPart_quads (s : State) (p : Nat) (f : Part → Part) : (s.modPart p f).quads = s.quads := rfl
@[simp] theorem State.modPart_clusters (s : State) (p : Nat) (f : Part → Part) : (s.modPart p f).clusters = s.clusters := rfl
@[simp] theorem State.modPart_mem (s : State) (p : Nat) (f : Part → Part) : (s.modPart p f).mem = s.mem := rfl
@[simp] theorem State.modPart_races (s : State) (p : Nat) (f : Part → Part) : (s.modPart p f).races = s.races := rfl
@[simp] theorem State.modPart_live (s : State) (p : Nat) (f : Part → Part) : (s.modPart p f).live = s.live := rfl
@[simp] theorem State.modPart_inflight (s : State) (p : Nat) (f : Part → Part) : (s.modPart p f).inflight = s.inflight := rfl
@[simp] theorem State.modPart_eccBad (s : State) (p : Nat) (f : Part → Part) : (s.modPart p f).eccBad = s.eccBad := rfl
@[simp] theorem State.modPart_pages (s : State) (p : Nat) (f : Part → Part) : (s.modPart p f).pages = s.pages := rfl
@[simp] theorem State.modPart_tables (s : State) (p : Nat) (f : Part → Part) : (s.modPart p f).tables = s.tables := rfl
@[simp] theorem State.modPart_contexts (s : State) (p : Nat) (f : Part → Part) : (s.modPart p f).contexts = s.contexts := rfl
@[simp] theorem State.modPart_nodes (s : State) (p : Nat) (f : Part → Part) : (s.modPart p f).nodes = s.nodes := rfl
@[simp] theorem State.modPart_nodeMajors (s : State) (p : Nat) (f : Part → Part) : (s.modPart p f).nodeMajors = s.nodeMajors := rfl
@[simp] theorem State.modPart_olds (s : State) (p : Nat) (f : Part → Part) : (s.modPart p f).olds = s.olds := rfl
@[simp] theorem State.modPart_freed (s : State) (p : Nat) (f : Part → Part) : (s.modPart p f).freed = s.freed := rfl
@[simp] theorem State.modPart_blocks (s : State) (p : Nat) (f : Part → Part) : (s.modPart p f).blocks = s.blocks := rfl
@[simp] theorem State.modPart_minors (s : State) (p : Nat) (f : Part → Part) : (s.modPart p f).minors = s.minors := rfl
@[simp] theorem State.modPart_majors (s : State) (p : Nat) (f : Part → Part) : (s.modPart p f).majors = s.majors := rfl
@[simp] theorem State.modPart_bases (s : State) (p : Nat) (f : Part → Part) : (s.modPart p f).bases = s.bases := rfl
@[simp] theorem State.modPart_accounts (s : State) (p : Nat) (f : Part → Part) : (s.modPart p f).accounts = s.accounts := rfl
@[simp] theorem State.modPart_functions (s : State) (p : Nat) (f : Part → Part) : (s.modPart p f).functions = s.functions := rfl
@[simp] theorem State.modPart_net (s : State) (p : Nat) (f : Part → Part) : (s.modPart p f).net = s.net := rfl
@[simp] theorem State.modPart_grants (s : State) (p : Nat) (f : Part → Part) : (s.modPart p f).grants = s.grants := rfl
@[simp] theorem State.modPart_modl (s : State) (p : Nat) (f : Part → Part) : (s.modPart p f).modl = s.modl := rfl
@[simp] theorem State.modPart_cur (s : State) (p : Nat) (f : Part → Part) : (s.modPart p f).cur = s.cur := rfl
@[simp] theorem State.modPart_agenda (s : State) (p : Nat) (f : Part → Part) : (s.modPart p f).agenda = s.agenda := rfl
@[simp] theorem State.modPart_now (s : State) (p : Nat) (f : Part → Part) : (s.modPart p f).now = s.now := rfl
@[simp] theorem State.modPart_fresh (s : State) (p : Nat) (f : Part → Part) : (s.modPart p f).fresh = s.fresh := rfl
@[simp] theorem State.modPart_nextId (s : State) (p : Nat) (f : Part → Part) : (s.modPart p f).nextId = s.nextId := rfl

@[simp] theorem State.modFn_cores (s : State) (n : Nat) (f : Function → Function) : (s.modFn n f).cores = s.cores := rfl
@[simp] theorem State.modFn_quads (s : State) (n : Nat) (f : Function → Function) : (s.modFn n f).quads = s.quads := rfl
@[simp] theorem State.modFn_clusters (s : State) (n : Nat) (f : Function → Function) : (s.modFn n f).clusters = s.clusters := rfl
@[simp] theorem State.modFn_mem (s : State) (n : Nat) (f : Function → Function) : (s.modFn n f).mem = s.mem := rfl
@[simp] theorem State.modFn_races (s : State) (n : Nat) (f : Function → Function) : (s.modFn n f).races = s.races := rfl
@[simp] theorem State.modFn_live (s : State) (n : Nat) (f : Function → Function) : (s.modFn n f).live = s.live := rfl
@[simp] theorem State.modFn_inflight (s : State) (n : Nat) (f : Function → Function) : (s.modFn n f).inflight = s.inflight := rfl
@[simp] theorem State.modFn_eccBad (s : State) (n : Nat) (f : Function → Function) : (s.modFn n f).eccBad = s.eccBad := rfl
@[simp] theorem State.modFn_pages (s : State) (n : Nat) (f : Function → Function) : (s.modFn n f).pages = s.pages := rfl
@[simp] theorem State.modFn_tables (s : State) (n : Nat) (f : Function → Function) : (s.modFn n f).tables = s.tables := rfl
@[simp] theorem State.modFn_contexts (s : State) (n : Nat) (f : Function → Function) : (s.modFn n f).contexts = s.contexts := rfl
@[simp] theorem State.modFn_nodes (s : State) (n : Nat) (f : Function → Function) : (s.modFn n f).nodes = s.nodes := rfl
@[simp] theorem State.modFn_nodeMajors (s : State) (n : Nat) (f : Function → Function) : (s.modFn n f).nodeMajors = s.nodeMajors := rfl
@[simp] theorem State.modFn_olds (s : State) (n : Nat) (f : Function → Function) : (s.modFn n f).olds = s.olds := rfl
@[simp] theorem State.modFn_freed (s : State) (n : Nat) (f : Function → Function) : (s.modFn n f).freed = s.freed := rfl
@[simp] theorem State.modFn_blocks (s : State) (n : Nat) (f : Function → Function) : (s.modFn n f).blocks = s.blocks := rfl
@[simp] theorem State.modFn_minors (s : State) (n : Nat) (f : Function → Function) : (s.modFn n f).minors = s.minors := rfl
@[simp] theorem State.modFn_majors (s : State) (n : Nat) (f : Function → Function) : (s.modFn n f).majors = s.majors := rfl
@[simp] theorem State.modFn_bases (s : State) (n : Nat) (f : Function → Function) : (s.modFn n f).bases = s.bases := rfl
@[simp] theorem State.modFn_accounts (s : State) (n : Nat) (f : Function → Function) : (s.modFn n f).accounts = s.accounts := rfl
@[simp] theorem State.modFn_parts (s : State) (n : Nat) (f : Function → Function) : (s.modFn n f).parts = s.parts := rfl
@[simp] theorem State.modFn_net (s : State) (n : Nat) (f : Function → Function) : (s.modFn n f).net = s.net := rfl
@[simp] theorem State.modFn_grants (s : State) (n : Nat) (f : Function → Function) : (s.modFn n f).grants = s.grants := rfl
@[simp] theorem State.modFn_modl (s : State) (n : Nat) (f : Function → Function) : (s.modFn n f).modl = s.modl := rfl
@[simp] theorem State.modFn_cur (s : State) (n : Nat) (f : Function → Function) : (s.modFn n f).cur = s.cur := rfl
@[simp] theorem State.modFn_agenda (s : State) (n : Nat) (f : Function → Function) : (s.modFn n f).agenda = s.agenda := rfl
@[simp] theorem State.modFn_now (s : State) (n : Nat) (f : Function → Function) : (s.modFn n f).now = s.now := rfl
@[simp] theorem State.modFn_fresh (s : State) (n : Nat) (f : Function → Function) : (s.modFn n f).fresh = s.fresh := rfl
@[simp] theorem State.modFn_nextId (s : State) (n : Nat) (f : Function → Function) : (s.modFn n f).nextId = s.nextId := rfl

@[simp] theorem State.modBase_cores (s : State) (n : Nat) (f : Stack → Stack) : (s.modBase n f).cores = s.cores := rfl
@[simp] theorem State.modBase_quads (s : State) (n : Nat) (f : Stack → Stack) : (s.modBase n f).quads = s.quads := rfl
@[simp] theorem State.modBase_clusters (s : State) (n : Nat) (f : Stack → Stack) : (s.modBase n f).clusters = s.clusters := rfl
@[simp] theorem State.modBase_mem (s : State) (n : Nat) (f : Stack → Stack) : (s.modBase n f).mem = s.mem := rfl
@[simp] theorem State.modBase_races (s : State) (n : Nat) (f : Stack → Stack) : (s.modBase n f).races = s.races := rfl
@[simp] theorem State.modBase_live (s : State) (n : Nat) (f : Stack → Stack) : (s.modBase n f).live = s.live := rfl
@[simp] theorem State.modBase_inflight (s : State) (n : Nat) (f : Stack → Stack) : (s.modBase n f).inflight = s.inflight := rfl
@[simp] theorem State.modBase_eccBad (s : State) (n : Nat) (f : Stack → Stack) : (s.modBase n f).eccBad = s.eccBad := rfl
@[simp] theorem State.modBase_pages (s : State) (n : Nat) (f : Stack → Stack) : (s.modBase n f).pages = s.pages := rfl
@[simp] theorem State.modBase_tables (s : State) (n : Nat) (f : Stack → Stack) : (s.modBase n f).tables = s.tables := rfl
@[simp] theorem State.modBase_contexts (s : State) (n : Nat) (f : Stack → Stack) : (s.modBase n f).contexts = s.contexts := rfl
@[simp] theorem State.modBase_nodes (s : State) (n : Nat) (f : Stack → Stack) : (s.modBase n f).nodes = s.nodes := rfl
@[simp] theorem State.modBase_nodeMajors (s : State) (n : Nat) (f : Stack → Stack) : (s.modBase n f).nodeMajors = s.nodeMajors := rfl
@[simp] theorem State.modBase_olds (s : State) (n : Nat) (f : Stack → Stack) : (s.modBase n f).olds = s.olds := rfl
@[simp] theorem State.modBase_freed (s : State) (n : Nat) (f : Stack → Stack) : (s.modBase n f).freed = s.freed := rfl
@[simp] theorem State.modBase_blocks (s : State) (n : Nat) (f : Stack → Stack) : (s.modBase n f).blocks = s.blocks := rfl
@[simp] theorem State.modBase_minors (s : State) (n : Nat) (f : Stack → Stack) : (s.modBase n f).minors = s.minors := rfl
@[simp] theorem State.modBase_majors (s : State) (n : Nat) (f : Stack → Stack) : (s.modBase n f).majors = s.majors := rfl
@[simp] theorem State.modBase_accounts (s : State) (n : Nat) (f : Stack → Stack) : (s.modBase n f).accounts = s.accounts := rfl
@[simp] theorem State.modBase_functions (s : State) (n : Nat) (f : Stack → Stack) : (s.modBase n f).functions = s.functions := rfl
@[simp] theorem State.modBase_parts (s : State) (n : Nat) (f : Stack → Stack) : (s.modBase n f).parts = s.parts := rfl
@[simp] theorem State.modBase_net (s : State) (n : Nat) (f : Stack → Stack) : (s.modBase n f).net = s.net := rfl
@[simp] theorem State.modBase_grants (s : State) (n : Nat) (f : Stack → Stack) : (s.modBase n f).grants = s.grants := rfl
@[simp] theorem State.modBase_modl (s : State) (n : Nat) (f : Stack → Stack) : (s.modBase n f).modl = s.modl := rfl
@[simp] theorem State.modBase_cur (s : State) (n : Nat) (f : Stack → Stack) : (s.modBase n f).cur = s.cur := rfl
@[simp] theorem State.modBase_agenda (s : State) (n : Nat) (f : Stack → Stack) : (s.modBase n f).agenda = s.agenda := rfl
@[simp] theorem State.modBase_now (s : State) (n : Nat) (f : Stack → Stack) : (s.modBase n f).now = s.now := rfl
@[simp] theorem State.modBase_fresh (s : State) (n : Nat) (f : Stack → Stack) : (s.modBase n f).fresh = s.fresh := rfl
@[simp] theorem State.modBase_nextId (s : State) (n : Nat) (f : Stack → Stack) : (s.modBase n f).nextId = s.nextId := rfl

@[simp] theorem State.setBlock_cores (s : State) (b : Nat) (v : BlockEntry) : (s.setBlock b v).cores = s.cores := rfl
@[simp] theorem State.setBlock_quads (s : State) (b : Nat) (v : BlockEntry) : (s.setBlock b v).quads = s.quads := rfl
@[simp] theorem State.setBlock_clusters (s : State) (b : Nat) (v : BlockEntry) : (s.setBlock b v).clusters = s.clusters := rfl
@[simp] theorem State.setBlock_mem (s : State) (b : Nat) (v : BlockEntry) : (s.setBlock b v).mem = s.mem := rfl
@[simp] theorem State.setBlock_races (s : State) (b : Nat) (v : BlockEntry) : (s.setBlock b v).races = s.races := rfl
@[simp] theorem State.setBlock_live (s : State) (b : Nat) (v : BlockEntry) : (s.setBlock b v).live = s.live := rfl
@[simp] theorem State.setBlock_inflight (s : State) (b : Nat) (v : BlockEntry) : (s.setBlock b v).inflight = s.inflight := rfl
@[simp] theorem State.setBlock_eccBad (s : State) (b : Nat) (v : BlockEntry) : (s.setBlock b v).eccBad = s.eccBad := rfl
@[simp] theorem State.setBlock_pages (s : State) (b : Nat) (v : BlockEntry) : (s.setBlock b v).pages = s.pages := rfl
@[simp] theorem State.setBlock_tables (s : State) (b : Nat) (v : BlockEntry) : (s.setBlock b v).tables = s.tables := rfl
@[simp] theorem State.setBlock_contexts (s : State) (b : Nat) (v : BlockEntry) : (s.setBlock b v).contexts = s.contexts := rfl
@[simp] theorem State.setBlock_nodes (s : State) (b : Nat) (v : BlockEntry) : (s.setBlock b v).nodes = s.nodes := rfl
@[simp] theorem State.setBlock_nodeMajors (s : State) (b : Nat) (v : BlockEntry) : (s.setBlock b v).nodeMajors = s.nodeMajors := rfl
@[simp] theorem State.setBlock_olds (s : State) (b : Nat) (v : BlockEntry) : (s.setBlock b v).olds = s.olds := rfl
@[simp] theorem State.setBlock_freed (s : State) (b : Nat) (v : BlockEntry) : (s.setBlock b v).freed = s.freed := rfl
@[simp] theorem State.setBlock_majors (s : State) (b : Nat) (v : BlockEntry) : (s.setBlock b v).majors = s.majors := rfl
@[simp] theorem State.setBlock_bases (s : State) (b : Nat) (v : BlockEntry) : (s.setBlock b v).bases = s.bases := rfl
@[simp] theorem State.setBlock_accounts (s : State) (b : Nat) (v : BlockEntry) : (s.setBlock b v).accounts = s.accounts := rfl
@[simp] theorem State.setBlock_functions (s : State) (b : Nat) (v : BlockEntry) : (s.setBlock b v).functions = s.functions := rfl
@[simp] theorem State.setBlock_parts (s : State) (b : Nat) (v : BlockEntry) : (s.setBlock b v).parts = s.parts := rfl
@[simp] theorem State.setBlock_net (s : State) (b : Nat) (v : BlockEntry) : (s.setBlock b v).net = s.net := rfl
@[simp] theorem State.setBlock_grants (s : State) (b : Nat) (v : BlockEntry) : (s.setBlock b v).grants = s.grants := rfl
@[simp] theorem State.setBlock_modl (s : State) (b : Nat) (v : BlockEntry) : (s.setBlock b v).modl = s.modl := rfl
@[simp] theorem State.setBlock_cur (s : State) (b : Nat) (v : BlockEntry) : (s.setBlock b v).cur = s.cur := rfl
@[simp] theorem State.setBlock_agenda (s : State) (b : Nat) (v : BlockEntry) : (s.setBlock b v).agenda = s.agenda := rfl
@[simp] theorem State.setBlock_now (s : State) (b : Nat) (v : BlockEntry) : (s.setBlock b v).now = s.now := rfl
@[simp] theorem State.setBlock_fresh (s : State) (b : Nat) (v : BlockEntry) : (s.setBlock b v).fresh = s.fresh := rfl
@[simp] theorem State.setBlock_nextId (s : State) (b : Nat) (v : BlockEntry) : (s.setBlock b v).nextId = s.nextId := rfl

@[simp] theorem State.endRegion_cores (s : State) (c k : Nat) : (s.endRegion c k).cores = s.cores := rfl
@[simp] theorem State.endRegion_quads (s : State) (c k : Nat) : (s.endRegion c k).quads = s.quads := rfl
@[simp] theorem State.endRegion_clusters (s : State) (c k : Nat) : (s.endRegion c k).clusters = s.clusters := rfl
@[simp] theorem State.endRegion_mem (s : State) (c k : Nat) : (s.endRegion c k).mem = s.mem := rfl
@[simp] theorem State.endRegion_live (s : State) (c k : Nat) : (s.endRegion c k).live = s.live := rfl
@[simp] theorem State.endRegion_inflight (s : State) (c k : Nat) : (s.endRegion c k).inflight = s.inflight := rfl
@[simp] theorem State.endRegion_eccBad (s : State) (c k : Nat) : (s.endRegion c k).eccBad = s.eccBad := rfl
@[simp] theorem State.endRegion_pages (s : State) (c k : Nat) : (s.endRegion c k).pages = s.pages := rfl
@[simp] theorem State.endRegion_tables (s : State) (c k : Nat) : (s.endRegion c k).tables = s.tables := rfl
@[simp] theorem State.endRegion_contexts (s : State) (c k : Nat) : (s.endRegion c k).contexts = s.contexts := rfl
@[simp] theorem State.endRegion_nodes (s : State) (c k : Nat) : (s.endRegion c k).nodes = s.nodes := rfl
@[simp] theorem State.endRegion_nodeMajors (s : State) (c k : Nat) : (s.endRegion c k).nodeMajors = s.nodeMajors := rfl
@[simp] theorem State.endRegion_olds (s : State) (c k : Nat) : (s.endRegion c k).olds = s.olds := rfl
@[simp] theorem State.endRegion_freed (s : State) (c k : Nat) : (s.endRegion c k).freed = s.freed := rfl
@[simp] theorem State.endRegion_blocks (s : State) (c k : Nat) : (s.endRegion c k).blocks = s.blocks := rfl
@[simp] theorem State.endRegion_minors (s : State) (c k : Nat) : (s.endRegion c k).minors = s.minors := rfl
@[simp] theorem State.endRegion_majors (s : State) (c k : Nat) : (s.endRegion c k).majors = s.majors := rfl
@[simp] theorem State.endRegion_bases (s : State) (c k : Nat) : (s.endRegion c k).bases = s.bases := rfl
@[simp] theorem State.endRegion_accounts (s : State) (c k : Nat) : (s.endRegion c k).accounts = s.accounts := rfl
@[simp] theorem State.endRegion_functions (s : State) (c k : Nat) : (s.endRegion c k).functions = s.functions := rfl
@[simp] theorem State.endRegion_parts (s : State) (c k : Nat) : (s.endRegion c k).parts = s.parts := rfl
@[simp] theorem State.endRegion_net (s : State) (c k : Nat) : (s.endRegion c k).net = s.net := rfl
@[simp] theorem State.endRegion_grants (s : State) (c k : Nat) : (s.endRegion c k).grants = s.grants := rfl
@[simp] theorem State.endRegion_modl (s : State) (c k : Nat) : (s.endRegion c k).modl = s.modl := rfl
@[simp] theorem State.endRegion_cur (s : State) (c k : Nat) : (s.endRegion c k).cur = s.cur := rfl
@[simp] theorem State.endRegion_agenda (s : State) (c k : Nat) : (s.endRegion c k).agenda = s.agenda := rfl
@[simp] theorem State.endRegion_now (s : State) (c k : Nat) : (s.endRegion c k).now = s.now := rfl
@[simp] theorem State.endRegion_fresh (s : State) (c k : Nat) : (s.endRegion c k).fresh = s.fresh := rfl
@[simp] theorem State.endRegion_nextId (s : State) (c k : Nat) : (s.endRegion c k).nextId = s.nextId := rfl

@[simp] theorem State.poke_cores (s : State) (k : Nat) (bs : List (BitVec 8)) : (s.poke k bs).cores = s.cores := rfl
@[simp] theorem State.poke_quads (s : State) (k : Nat) (bs : List (BitVec 8)) : (s.poke k bs).quads = s.quads := rfl
@[simp] theorem State.poke_clusters (s : State) (k : Nat) (bs : List (BitVec 8)) : (s.poke k bs).clusters = s.clusters := rfl
@[simp] theorem State.poke_races (s : State) (k : Nat) (bs : List (BitVec 8)) : (s.poke k bs).races = s.races := rfl
@[simp] theorem State.poke_live (s : State) (k : Nat) (bs : List (BitVec 8)) : (s.poke k bs).live = s.live := rfl
@[simp] theorem State.poke_inflight (s : State) (k : Nat) (bs : List (BitVec 8)) : (s.poke k bs).inflight = s.inflight := rfl
@[simp] theorem State.poke_pages (s : State) (k : Nat) (bs : List (BitVec 8)) : (s.poke k bs).pages = s.pages := rfl
@[simp] theorem State.poke_tables (s : State) (k : Nat) (bs : List (BitVec 8)) : (s.poke k bs).tables = s.tables := rfl
@[simp] theorem State.poke_contexts (s : State) (k : Nat) (bs : List (BitVec 8)) : (s.poke k bs).contexts = s.contexts := rfl
@[simp] theorem State.poke_nodes (s : State) (k : Nat) (bs : List (BitVec 8)) : (s.poke k bs).nodes = s.nodes := rfl
@[simp] theorem State.poke_nodeMajors (s : State) (k : Nat) (bs : List (BitVec 8)) : (s.poke k bs).nodeMajors = s.nodeMajors := rfl
@[simp] theorem State.poke_olds (s : State) (k : Nat) (bs : List (BitVec 8)) : (s.poke k bs).olds = s.olds := rfl
@[simp] theorem State.poke_freed (s : State) (k : Nat) (bs : List (BitVec 8)) : (s.poke k bs).freed = s.freed := rfl
@[simp] theorem State.poke_blocks (s : State) (k : Nat) (bs : List (BitVec 8)) : (s.poke k bs).blocks = s.blocks := rfl
@[simp] theorem State.poke_minors (s : State) (k : Nat) (bs : List (BitVec 8)) : (s.poke k bs).minors = s.minors := rfl
@[simp] theorem State.poke_majors (s : State) (k : Nat) (bs : List (BitVec 8)) : (s.poke k bs).majors = s.majors := rfl
@[simp] theorem State.poke_bases (s : State) (k : Nat) (bs : List (BitVec 8)) : (s.poke k bs).bases = s.bases := rfl
@[simp] theorem State.poke_accounts (s : State) (k : Nat) (bs : List (BitVec 8)) : (s.poke k bs).accounts = s.accounts := rfl
@[simp] theorem State.poke_functions (s : State) (k : Nat) (bs : List (BitVec 8)) : (s.poke k bs).functions = s.functions := rfl
@[simp] theorem State.poke_parts (s : State) (k : Nat) (bs : List (BitVec 8)) : (s.poke k bs).parts = s.parts := rfl
@[simp] theorem State.poke_net (s : State) (k : Nat) (bs : List (BitVec 8)) : (s.poke k bs).net = s.net := rfl
@[simp] theorem State.poke_grants (s : State) (k : Nat) (bs : List (BitVec 8)) : (s.poke k bs).grants = s.grants := rfl
@[simp] theorem State.poke_modl (s : State) (k : Nat) (bs : List (BitVec 8)) : (s.poke k bs).modl = s.modl := rfl
@[simp] theorem State.poke_cur (s : State) (k : Nat) (bs : List (BitVec 8)) : (s.poke k bs).cur = s.cur := rfl
@[simp] theorem State.poke_agenda (s : State) (k : Nat) (bs : List (BitVec 8)) : (s.poke k bs).agenda = s.agenda := rfl
@[simp] theorem State.poke_now (s : State) (k : Nat) (bs : List (BitVec 8)) : (s.poke k bs).now = s.now := rfl
@[simp] theorem State.poke_fresh (s : State) (k : Nat) (bs : List (BitVec 8)) : (s.poke k bs).fresh = s.fresh := rfl
@[simp] theorem State.poke_nextId (s : State) (k : Nat) (bs : List (BitVec 8)) : (s.poke k bs).nextId = s.nextId := rfl

@[simp] theorem State.elapse_cores (s : State) (n : Nat) : (s.elapse n).cores = s.cores := rfl
@[simp] theorem State.elapse_quads (s : State) (n : Nat) : (s.elapse n).quads = s.quads := rfl
@[simp] theorem State.elapse_clusters (s : State) (n : Nat) : (s.elapse n).clusters = s.clusters := rfl
@[simp] theorem State.elapse_mem (s : State) (n : Nat) : (s.elapse n).mem = s.mem := rfl
@[simp] theorem State.elapse_races (s : State) (n : Nat) : (s.elapse n).races = s.races := rfl
@[simp] theorem State.elapse_live (s : State) (n : Nat) : (s.elapse n).live = s.live := rfl
@[simp] theorem State.elapse_inflight (s : State) (n : Nat) : (s.elapse n).inflight = s.inflight := rfl
@[simp] theorem State.elapse_eccBad (s : State) (n : Nat) : (s.elapse n).eccBad = s.eccBad := rfl
@[simp] theorem State.elapse_pages (s : State) (n : Nat) : (s.elapse n).pages = s.pages := rfl
@[simp] theorem State.elapse_tables (s : State) (n : Nat) : (s.elapse n).tables = s.tables := rfl
@[simp] theorem State.elapse_contexts (s : State) (n : Nat) : (s.elapse n).contexts = s.contexts := rfl
@[simp] theorem State.elapse_nodes (s : State) (n : Nat) : (s.elapse n).nodes = s.nodes := rfl
@[simp] theorem State.elapse_nodeMajors (s : State) (n : Nat) : (s.elapse n).nodeMajors = s.nodeMajors := rfl
@[simp] theorem State.elapse_olds (s : State) (n : Nat) : (s.elapse n).olds = s.olds := rfl
@[simp] theorem State.elapse_freed (s : State) (n : Nat) : (s.elapse n).freed = s.freed := rfl
@[simp] theorem State.elapse_blocks (s : State) (n : Nat) : (s.elapse n).blocks = s.blocks := rfl
@[simp] theorem State.elapse_minors (s : State) (n : Nat) : (s.elapse n).minors = s.minors := rfl
@[simp] theorem State.elapse_majors (s : State) (n : Nat) : (s.elapse n).majors = s.majors := rfl
@[simp] theorem State.elapse_bases (s : State) (n : Nat) : (s.elapse n).bases = s.bases := rfl
@[simp] theorem State.elapse_accounts (s : State) (n : Nat) : (s.elapse n).accounts = s.accounts := rfl
@[simp] theorem State.elapse_functions (s : State) (n : Nat) : (s.elapse n).functions = s.functions := rfl
@[simp] theorem State.elapse_net (s : State) (n : Nat) : (s.elapse n).net = s.net := rfl
@[simp] theorem State.elapse_grants (s : State) (n : Nat) : (s.elapse n).grants = s.grants := rfl
@[simp] theorem State.elapse_modl (s : State) (n : Nat) : (s.elapse n).modl = s.modl := rfl
@[simp] theorem State.elapse_cur (s : State) (n : Nat) : (s.elapse n).cur = s.cur := rfl
@[simp] theorem State.elapse_agenda (s : State) (n : Nat) : (s.elapse n).agenda = s.agenda := rfl
@[simp] theorem State.elapse_fresh (s : State) (n : Nat) : (s.elapse n).fresh = s.fresh := rfl
@[simp] theorem State.elapse_nextId (s : State) (n : Nat) : (s.elapse n).nextId = s.nextId := rfl

@[simp] theorem State.at_cores (s : State) (c k : Nat) : (s.at c k).cores = s.cores := rfl
@[simp] theorem State.at_quads (s : State) (c k : Nat) : (s.at c k).quads = s.quads := rfl
@[simp] theorem State.at_clusters (s : State) (c k : Nat) : (s.at c k).clusters = s.clusters := rfl
@[simp] theorem State.at_mem (s : State) (c k : Nat) : (s.at c k).mem = s.mem := rfl
@[simp] theorem State.at_races (s : State) (c k : Nat) : (s.at c k).races = s.races := rfl
@[simp] theorem State.at_live (s : State) (c k : Nat) : (s.at c k).live = s.live := rfl
@[simp] theorem State.at_inflight (s : State) (c k : Nat) : (s.at c k).inflight = s.inflight := rfl
@[simp] theorem State.at_eccBad (s : State) (c k : Nat) : (s.at c k).eccBad = s.eccBad := rfl
@[simp] theorem State.at_pages (s : State) (c k : Nat) : (s.at c k).pages = s.pages := rfl
@[simp] theorem State.at_tables (s : State) (c k : Nat) : (s.at c k).tables = s.tables := rfl
@[simp] theorem State.at_contexts (s : State) (c k : Nat) : (s.at c k).contexts = s.contexts := rfl
@[simp] theorem State.at_nodes (s : State) (c k : Nat) : (s.at c k).nodes = s.nodes := rfl
@[simp] theorem State.at_nodeMajors (s : State) (c k : Nat) : (s.at c k).nodeMajors = s.nodeMajors := rfl
@[simp] theorem State.at_olds (s : State) (c k : Nat) : (s.at c k).olds = s.olds := rfl
@[simp] theorem State.at_freed (s : State) (c k : Nat) : (s.at c k).freed = s.freed := rfl
@[simp] theorem State.at_blocks (s : State) (c k : Nat) : (s.at c k).blocks = s.blocks := rfl
@[simp] theorem State.at_minors (s : State) (c k : Nat) : (s.at c k).minors = s.minors := rfl
@[simp] theorem State.at_majors (s : State) (c k : Nat) : (s.at c k).majors = s.majors := rfl
@[simp] theorem State.at_bases (s : State) (c k : Nat) : (s.at c k).bases = s.bases := rfl
@[simp] theorem State.at_accounts (s : State) (c k : Nat) : (s.at c k).accounts = s.accounts := rfl
@[simp] theorem State.at_functions (s : State) (c k : Nat) : (s.at c k).functions = s.functions := rfl
@[simp] theorem State.at_parts (s : State) (c k : Nat) : (s.at c k).parts = s.parts := rfl
@[simp] theorem State.at_net (s : State) (c k : Nat) : (s.at c k).net = s.net := rfl
@[simp] theorem State.at_grants (s : State) (c k : Nat) : (s.at c k).grants = s.grants := rfl
@[simp] theorem State.at_modl (s : State) (c k : Nat) : (s.at c k).modl = s.modl := rfl
@[simp] theorem State.at_agenda (s : State) (c k : Nat) : (s.at c k).agenda = s.agenda := rfl
@[simp] theorem State.at_now (s : State) (c k : Nat) : (s.at c k).now = s.now := rfl
@[simp] theorem State.at_fresh (s : State) (c k : Nat) : (s.at c k).fresh = s.fresh := rfl
@[simp] theorem State.at_nextId (s : State) (c k : Nat) : (s.at c k).nextId = s.nextId := rfl

@[simp] theorem State.takeId_cores (s : State) : s.takeId.1.cores = s.cores := rfl
@[simp] theorem State.takeId_quads (s : State) : s.takeId.1.quads = s.quads := rfl
@[simp] theorem State.takeId_clusters (s : State) : s.takeId.1.clusters = s.clusters := rfl
@[simp] theorem State.takeId_mem (s : State) : s.takeId.1.mem = s.mem := rfl
@[simp] theorem State.takeId_races (s : State) : s.takeId.1.races = s.races := rfl
@[simp] theorem State.takeId_live (s : State) : s.takeId.1.live = s.live := rfl
@[simp] theorem State.takeId_inflight (s : State) : s.takeId.1.inflight = s.inflight := rfl
@[simp] theorem State.takeId_eccBad (s : State) : s.takeId.1.eccBad = s.eccBad := rfl
@[simp] theorem State.takeId_pages (s : State) : s.takeId.1.pages = s.pages := rfl
@[simp] theorem State.takeId_tables (s : State) : s.takeId.1.tables = s.tables := rfl
@[simp] theorem State.takeId_contexts (s : State) : s.takeId.1.contexts = s.contexts := rfl
@[simp] theorem State.takeId_nodes (s : State) : s.takeId.1.nodes = s.nodes := rfl
@[simp] theorem State.takeId_nodeMajors (s : State) : s.takeId.1.nodeMajors = s.nodeMajors := rfl
@[simp] theorem State.takeId_olds (s : State) : s.takeId.1.olds = s.olds := rfl
@[simp] theorem State.takeId_freed (s : State) : s.takeId.1.freed = s.freed := rfl
@[simp] theorem State.takeId_blocks (s : State) : s.takeId.1.blocks = s.blocks := rfl
@[simp] theorem State.takeId_minors (s : State) : s.takeId.1.minors = s.minors := rfl
@[simp] theorem State.takeId_majors (s : State) : s.takeId.1.majors = s.majors := rfl
@[simp] theorem State.takeId_bases (s : State) : s.takeId.1.bases = s.bases := rfl
@[simp] theorem State.takeId_accounts (s : State) : s.takeId.1.accounts = s.accounts := rfl
@[simp] theorem State.takeId_functions (s : State) : s.takeId.1.functions = s.functions := rfl
@[simp] theorem State.takeId_parts (s : State) : s.takeId.1.parts = s.parts := rfl
@[simp] theorem State.takeId_net (s : State) : s.takeId.1.net = s.net := rfl
@[simp] theorem State.takeId_grants (s : State) : s.takeId.1.grants = s.grants := rfl
@[simp] theorem State.takeId_modl (s : State) : s.takeId.1.modl = s.modl := rfl
@[simp] theorem State.takeId_cur (s : State) : s.takeId.1.cur = s.cur := rfl
@[simp] theorem State.takeId_agenda (s : State) : s.takeId.1.agenda = s.agenda := rfl
@[simp] theorem State.takeId_now (s : State) : s.takeId.1.now = s.now := rfl
@[simp] theorem State.takeId_fresh (s : State) : s.takeId.1.fresh = s.fresh := rfl

@[simp] theorem State.takeFresh_cores (s : State) : s.takeFresh.1.cores = s.cores := rfl
@[simp] theorem State.takeFresh_quads (s : State) : s.takeFresh.1.quads = s.quads := rfl
@[simp] theorem State.takeFresh_clusters (s : State) : s.takeFresh.1.clusters = s.clusters := rfl
@[simp] theorem State.takeFresh_mem (s : State) : s.takeFresh.1.mem = s.mem := rfl
@[simp] theorem State.takeFresh_races (s : State) : s.takeFresh.1.races = s.races := rfl
@[simp] theorem State.takeFresh_live (s : State) : s.takeFresh.1.live = s.live := rfl
@[simp] theorem State.takeFresh_inflight (s : State) : s.takeFresh.1.inflight = s.inflight := rfl
@[simp] theorem State.takeFresh_eccBad (s : State) : s.takeFresh.1.eccBad = s.eccBad := rfl
@[simp] theorem State.takeFresh_pages (s : State) : s.takeFresh.1.pages = s.pages := rfl
@[simp] theorem State.takeFresh_tables (s : State) : s.takeFresh.1.tables = s.tables := rfl
@[simp] theorem State.takeFresh_contexts (s : State) : s.takeFresh.1.contexts = s.contexts := rfl
@[simp] theorem State.takeFresh_nodes (s : State) : s.takeFresh.1.nodes = s.nodes := rfl
@[simp] theorem State.takeFresh_nodeMajors (s : State) : s.takeFresh.1.nodeMajors = s.nodeMajors := rfl
@[simp] theorem State.takeFresh_olds (s : State) : s.takeFresh.1.olds = s.olds := rfl
@[simp] theorem State.takeFresh_freed (s : State) : s.takeFresh.1.freed = s.freed := rfl
@[simp] theorem State.takeFresh_blocks (s : State) : s.takeFresh.1.blocks = s.blocks := rfl
@[simp] theorem State.takeFresh_minors (s : State) : s.takeFresh.1.minors = s.minors := rfl
@[simp] theorem State.takeFresh_majors (s : State) : s.takeFresh.1.majors = s.majors := rfl
@[simp] theorem State.takeFresh_bases (s : State) : s.takeFresh.1.bases = s.bases := rfl
@[simp] theorem State.takeFresh_accounts (s : State) : s.takeFresh.1.accounts = s.accounts := rfl
@[simp] theorem State.takeFresh_functions (s : State) : s.takeFresh.1.functions = s.functions := rfl
@[simp] theorem State.takeFresh_parts (s : State) : s.takeFresh.1.parts = s.parts := rfl
@[simp] theorem State.takeFresh_net (s : State) : s.takeFresh.1.net = s.net := rfl
@[simp] theorem State.takeFresh_grants (s : State) : s.takeFresh.1.grants = s.grants := rfl
@[simp] theorem State.takeFresh_modl (s : State) : s.takeFresh.1.modl = s.modl := rfl
@[simp] theorem State.takeFresh_cur (s : State) : s.takeFresh.1.cur = s.cur := rfl
@[simp] theorem State.takeFresh_agenda (s : State) : s.takeFresh.1.agenda = s.agenda := rfl
@[simp] theorem State.takeFresh_now (s : State) : s.takeFresh.1.now = s.now := rfl
@[simp] theorem State.takeFresh_nextId (s : State) : s.takeFresh.1.nextId = s.nextId := rfl

@[simp] theorem State.handOn_cores (s : State) (g : Knows → Bool) (t : Knows) : (s.handOn g t).cores = s.cores := rfl
@[simp] theorem State.handOn_quads (s : State) (g : Knows → Bool) (t : Knows) : (s.handOn g t).quads = s.quads := rfl
@[simp] theorem State.handOn_clusters (s : State) (g : Knows → Bool) (t : Knows) : (s.handOn g t).clusters = s.clusters := rfl
@[simp] theorem State.handOn_mem (s : State) (g : Knows → Bool) (t : Knows) : (s.handOn g t).mem = s.mem := rfl
@[simp] theorem State.handOn_races (s : State) (g : Knows → Bool) (t : Knows) : (s.handOn g t).races = s.races := rfl
@[simp] theorem State.handOn_live (s : State) (g : Knows → Bool) (t : Knows) : (s.handOn g t).live = s.live := rfl
@[simp] theorem State.handOn_inflight (s : State) (g : Knows → Bool) (t : Knows) : (s.handOn g t).inflight = s.inflight := rfl
@[simp] theorem State.handOn_eccBad (s : State) (g : Knows → Bool) (t : Knows) : (s.handOn g t).eccBad = s.eccBad := rfl
@[simp] theorem State.handOn_tables (s : State) (g : Knows → Bool) (t : Knows) : (s.handOn g t).tables = s.tables := rfl
@[simp] theorem State.handOn_pages (s : State) (g : Knows → Bool) (t : Knows) : (s.handOn g t).pages = s.pages := rfl
@[simp] theorem State.handOn_blocks (s : State) (g : Knows → Bool) (t : Knows) : (s.handOn g t).blocks = s.blocks := rfl
@[simp] theorem State.handOn_majors (s : State) (g : Knows → Bool) (t : Knows) : (s.handOn g t).majors = s.majors := rfl
@[simp] theorem State.handOn_nodes (s : State) (g : Knows → Bool) (t : Knows) : (s.handOn g t).nodes = s.nodes := rfl
@[simp] theorem State.handOn_nodeMajors (s : State) (g : Knows → Bool) (t : Knows) : (s.handOn g t).nodeMajors = s.nodeMajors := rfl
@[simp] theorem State.handOn_bases (s : State) (g : Knows → Bool) (t : Knows) : (s.handOn g t).bases = s.bases := rfl
@[simp] theorem State.handOn_accounts (s : State) (g : Knows → Bool) (t : Knows) : (s.handOn g t).accounts = s.accounts := rfl
@[simp] theorem State.handOn_functions (s : State) (g : Knows → Bool) (t : Knows) : (s.handOn g t).functions = s.functions := rfl
@[simp] theorem State.handOn_parts (s : State) (g : Knows → Bool) (t : Knows) : (s.handOn g t).parts = s.parts := rfl
@[simp] theorem State.handOn_net (s : State) (g : Knows → Bool) (t : Knows) : (s.handOn g t).net = s.net := rfl
@[simp] theorem State.handOn_grants (s : State) (g : Knows → Bool) (t : Knows) : (s.handOn g t).grants = s.grants := rfl
@[simp] theorem State.handOn_freed (s : State) (g : Knows → Bool) (t : Knows) : (s.handOn g t).freed = s.freed := rfl
@[simp] theorem State.handOn_modl (s : State) (g : Knows → Bool) (t : Knows) : (s.handOn g t).modl = s.modl := rfl
@[simp] theorem State.handOn_cur (s : State) (g : Knows → Bool) (t : Knows) : (s.handOn g t).cur = s.cur := rfl
@[simp] theorem State.handOn_agenda (s : State) (g : Knows → Bool) (t : Knows) : (s.handOn g t).agenda = s.agenda := rfl
@[simp] theorem State.handOn_now (s : State) (g : Knows → Bool) (t : Knows) : (s.handOn g t).now = s.now := rfl
@[simp] theorem State.handOn_fresh (s : State) (g : Knows → Bool) (t : Knows) : (s.handOn g t).fresh = s.fresh := rfl
@[simp] theorem State.handOn_nextId (s : State) (g : Knows → Bool) (t : Knows) : (s.handOn g t).nextId = s.nextId := rfl
@[simp] theorem State.handOn_contexts (s : State) (g : Knows → Bool) (t : Knows) : (s.handOn g t).contexts = s.contexts := rfl
@[simp] theorem State.handOn_minors (s : State) (g : Knows → Bool) (t : Knows) : (s.handOn g t).minors = s.minors := rfl

@[simp] theorem State.unlearn_cores (s : State) (g : Knows → Bool) : (s.unlearn g).cores = s.cores := rfl
@[simp] theorem State.unlearn_quads (s : State) (g : Knows → Bool) : (s.unlearn g).quads = s.quads := rfl
@[simp] theorem State.unlearn_clusters (s : State) (g : Knows → Bool) : (s.unlearn g).clusters = s.clusters := rfl
@[simp] theorem State.unlearn_mem (s : State) (g : Knows → Bool) : (s.unlearn g).mem = s.mem := rfl
@[simp] theorem State.unlearn_races (s : State) (g : Knows → Bool) : (s.unlearn g).races = s.races := rfl
@[simp] theorem State.unlearn_live (s : State) (g : Knows → Bool) : (s.unlearn g).live = s.live := rfl
@[simp] theorem State.unlearn_inflight (s : State) (g : Knows → Bool) : (s.unlearn g).inflight = s.inflight := rfl
@[simp] theorem State.unlearn_eccBad (s : State) (g : Knows → Bool) : (s.unlearn g).eccBad = s.eccBad := rfl
@[simp] theorem State.unlearn_tables (s : State) (g : Knows → Bool) : (s.unlearn g).tables = s.tables := rfl
@[simp] theorem State.unlearn_pages (s : State) (g : Knows → Bool) : (s.unlearn g).pages = s.pages := rfl
@[simp] theorem State.unlearn_blocks (s : State) (g : Knows → Bool) : (s.unlearn g).blocks = s.blocks := rfl
@[simp] theorem State.unlearn_majors (s : State) (g : Knows → Bool) : (s.unlearn g).majors = s.majors := rfl
@[simp] theorem State.unlearn_nodes (s : State) (g : Knows → Bool) : (s.unlearn g).nodes = s.nodes := rfl
@[simp] theorem State.unlearn_nodeMajors (s : State) (g : Knows → Bool) : (s.unlearn g).nodeMajors = s.nodeMajors := rfl
@[simp] theorem State.unlearn_bases (s : State) (g : Knows → Bool) : (s.unlearn g).bases = s.bases := rfl
@[simp] theorem State.unlearn_accounts (s : State) (g : Knows → Bool) : (s.unlearn g).accounts = s.accounts := rfl
@[simp] theorem State.unlearn_functions (s : State) (g : Knows → Bool) : (s.unlearn g).functions = s.functions := rfl
@[simp] theorem State.unlearn_parts (s : State) (g : Knows → Bool) : (s.unlearn g).parts = s.parts := rfl
@[simp] theorem State.unlearn_net (s : State) (g : Knows → Bool) : (s.unlearn g).net = s.net := rfl
@[simp] theorem State.unlearn_grants (s : State) (g : Knows → Bool) : (s.unlearn g).grants = s.grants := rfl
@[simp] theorem State.unlearn_freed (s : State) (g : Knows → Bool) : (s.unlearn g).freed = s.freed := rfl
@[simp] theorem State.unlearn_modl (s : State) (g : Knows → Bool) : (s.unlearn g).modl = s.modl := rfl
@[simp] theorem State.unlearn_cur (s : State) (g : Knows → Bool) : (s.unlearn g).cur = s.cur := rfl
@[simp] theorem State.unlearn_agenda (s : State) (g : Knows → Bool) : (s.unlearn g).agenda = s.agenda := rfl
@[simp] theorem State.unlearn_now (s : State) (g : Knows → Bool) : (s.unlearn g).now = s.now := rfl
@[simp] theorem State.unlearn_fresh (s : State) (g : Knows → Bool) : (s.unlearn g).fresh = s.fresh := rfl
@[simp] theorem State.unlearn_nextId (s : State) (g : Knows → Bool) : (s.unlearn g).nextId = s.nextId := rfl
@[simp] theorem State.unlearn_contexts (s : State) (g : Knows → Bool) : (s.unlearn g).contexts = s.contexts := rfl
@[simp] theorem State.unlearn_minors (s : State) (g : Knows → Bool) : (s.unlearn g).minors = s.minors := rfl

@[simp] theorem State.tell_cores (s : State) (c k : Nat) (m : BitVec 8) (o : Knows) : (s.tell c k m o).cores = s.cores := rfl
@[simp] theorem State.tell_quads (s : State) (c k : Nat) (m : BitVec 8) (o : Knows) : (s.tell c k m o).quads = s.quads := rfl
@[simp] theorem State.tell_clusters (s : State) (c k : Nat) (m : BitVec 8) (o : Knows) : (s.tell c k m o).clusters = s.clusters := rfl
@[simp] theorem State.tell_mem (s : State) (c k : Nat) (m : BitVec 8) (o : Knows) : (s.tell c k m o).mem = s.mem := rfl
@[simp] theorem State.tell_races (s : State) (c k : Nat) (m : BitVec 8) (o : Knows) : (s.tell c k m o).races = s.races := rfl
@[simp] theorem State.tell_live (s : State) (c k : Nat) (m : BitVec 8) (o : Knows) : (s.tell c k m o).live = s.live := rfl
@[simp] theorem State.tell_inflight (s : State) (c k : Nat) (m : BitVec 8) (o : Knows) : (s.tell c k m o).inflight = s.inflight := rfl
@[simp] theorem State.tell_eccBad (s : State) (c k : Nat) (m : BitVec 8) (o : Knows) : (s.tell c k m o).eccBad = s.eccBad := rfl
@[simp] theorem State.tell_tables (s : State) (c k : Nat) (m : BitVec 8) (o : Knows) : (s.tell c k m o).tables = s.tables := rfl
@[simp] theorem State.tell_contexts (s : State) (c k : Nat) (m : BitVec 8) (o : Knows) : (s.tell c k m o).contexts = s.contexts := rfl
@[simp] theorem State.tell_pages (s : State) (c k : Nat) (m : BitVec 8) (o : Knows) : (s.tell c k m o).pages = s.pages := rfl
@[simp] theorem State.tell_blocks (s : State) (c k : Nat) (m : BitVec 8) (o : Knows) : (s.tell c k m o).blocks = s.blocks := rfl
@[simp] theorem State.tell_minors (s : State) (c k : Nat) (m : BitVec 8) (o : Knows) : (s.tell c k m o).minors = s.minors := rfl
@[simp] theorem State.tell_majors (s : State) (c k : Nat) (m : BitVec 8) (o : Knows) : (s.tell c k m o).majors = s.majors := rfl
@[simp] theorem State.tell_nodes (s : State) (c k : Nat) (m : BitVec 8) (o : Knows) : (s.tell c k m o).nodes = s.nodes := rfl
@[simp] theorem State.tell_nodeMajors (s : State) (c k : Nat) (m : BitVec 8) (o : Knows) : (s.tell c k m o).nodeMajors = s.nodeMajors := rfl
@[simp] theorem State.tell_bases (s : State) (c k : Nat) (m : BitVec 8) (o : Knows) : (s.tell c k m o).bases = s.bases := rfl
@[simp] theorem State.tell_accounts (s : State) (c k : Nat) (m : BitVec 8) (o : Knows) : (s.tell c k m o).accounts = s.accounts := rfl
@[simp] theorem State.tell_functions (s : State) (c k : Nat) (m : BitVec 8) (o : Knows) : (s.tell c k m o).functions = s.functions := rfl
@[simp] theorem State.tell_parts (s : State) (c k : Nat) (m : BitVec 8) (o : Knows) : (s.tell c k m o).parts = s.parts := rfl
@[simp] theorem State.tell_net (s : State) (c k : Nat) (m : BitVec 8) (o : Knows) : (s.tell c k m o).net = s.net := rfl
@[simp] theorem State.tell_grants (s : State) (c k : Nat) (m : BitVec 8) (o : Knows) : (s.tell c k m o).grants = s.grants := rfl
@[simp] theorem State.tell_freed (s : State) (c k : Nat) (m : BitVec 8) (o : Knows) : (s.tell c k m o).freed = s.freed := rfl
@[simp] theorem State.tell_modl (s : State) (c k : Nat) (m : BitVec 8) (o : Knows) : (s.tell c k m o).modl = s.modl := rfl
@[simp] theorem State.tell_cur (s : State) (c k : Nat) (m : BitVec 8) (o : Knows) : (s.tell c k m o).cur = s.cur := rfl
@[simp] theorem State.tell_agenda (s : State) (c k : Nat) (m : BitVec 8) (o : Knows) : (s.tell c k m o).agenda = s.agenda := rfl
@[simp] theorem State.tell_now (s : State) (c k : Nat) (m : BitVec 8) (o : Knows) : (s.tell c k m o).now = s.now := rfl
@[simp] theorem State.tell_fresh (s : State) (c k : Nat) (m : BitVec 8) (o : Knows) : (s.tell c k m o).fresh = s.fresh := rfl
@[simp] theorem State.tell_nextId (s : State) (c k : Nat) (m : BitVec 8) (o : Knows) : (s.tell c k m o).nextId = s.nextId := rfl

@[simp] theorem State.replaced_cores (s : State) (c k a n : Nat) : (s.replaced c k a n).cores = s.cores := rfl
@[simp] theorem State.replaced_quads (s : State) (c k a n : Nat) : (s.replaced c k a n).quads = s.quads := rfl
@[simp] theorem State.replaced_clusters (s : State) (c k a n : Nat) : (s.replaced c k a n).clusters = s.clusters := rfl
@[simp] theorem State.replaced_mem (s : State) (c k a n : Nat) : (s.replaced c k a n).mem = s.mem := rfl
@[simp] theorem State.replaced_races (s : State) (c k a n : Nat) : (s.replaced c k a n).races = s.races := rfl
@[simp] theorem State.replaced_live (s : State) (c k a n : Nat) : (s.replaced c k a n).live = s.live := rfl
@[simp] theorem State.replaced_inflight (s : State) (c k a n : Nat) : (s.replaced c k a n).inflight = s.inflight := rfl
@[simp] theorem State.replaced_eccBad (s : State) (c k a n : Nat) : (s.replaced c k a n).eccBad = s.eccBad := rfl
@[simp] theorem State.replaced_tables (s : State) (c k a n : Nat) : (s.replaced c k a n).tables = s.tables := rfl
@[simp] theorem State.replaced_contexts (s : State) (c k a n : Nat) : (s.replaced c k a n).contexts = s.contexts := rfl
@[simp] theorem State.replaced_pages (s : State) (c k a n : Nat) : (s.replaced c k a n).pages = s.pages := rfl
@[simp] theorem State.replaced_blocks (s : State) (c k a n : Nat) : (s.replaced c k a n).blocks = s.blocks := rfl
@[simp] theorem State.replaced_minors (s : State) (c k a n : Nat) : (s.replaced c k a n).minors = s.minors := rfl
@[simp] theorem State.replaced_majors (s : State) (c k a n : Nat) : (s.replaced c k a n).majors = s.majors := rfl
@[simp] theorem State.replaced_nodes (s : State) (c k a n : Nat) : (s.replaced c k a n).nodes = s.nodes := rfl
@[simp] theorem State.replaced_nodeMajors (s : State) (c k a n : Nat) : (s.replaced c k a n).nodeMajors = s.nodeMajors := rfl
@[simp] theorem State.replaced_bases (s : State) (c k a n : Nat) : (s.replaced c k a n).bases = s.bases := rfl
@[simp] theorem State.replaced_accounts (s : State) (c k a n : Nat) : (s.replaced c k a n).accounts = s.accounts := rfl
@[simp] theorem State.replaced_functions (s : State) (c k a n : Nat) : (s.replaced c k a n).functions = s.functions := rfl
@[simp] theorem State.replaced_parts (s : State) (c k a n : Nat) : (s.replaced c k a n).parts = s.parts := rfl
@[simp] theorem State.replaced_net (s : State) (c k a n : Nat) : (s.replaced c k a n).net = s.net := rfl
@[simp] theorem State.replaced_grants (s : State) (c k a n : Nat) : (s.replaced c k a n).grants = s.grants := rfl
@[simp] theorem State.replaced_freed (s : State) (c k a n : Nat) : (s.replaced c k a n).freed = s.freed := rfl
@[simp] theorem State.replaced_modl (s : State) (c k a n : Nat) : (s.replaced c k a n).modl = s.modl := rfl
@[simp] theorem State.replaced_cur (s : State) (c k a n : Nat) : (s.replaced c k a n).cur = s.cur := rfl
@[simp] theorem State.replaced_agenda (s : State) (c k a n : Nat) : (s.replaced c k a n).agenda = s.agenda := rfl
@[simp] theorem State.replaced_now (s : State) (c k a n : Nat) : (s.replaced c k a n).now = s.now := rfl
@[simp] theorem State.replaced_fresh (s : State) (c k a n : Nat) : (s.replaced c k a n).fresh = s.fresh := rfl
@[simp] theorem State.replaced_nextId (s : State) (c k a n : Nat) : (s.replaced c k a n).nextId = s.nextId := rfl

@[simp] theorem State.breakChain_cores (s : State) (a n : Nat) : (s.breakChain a n).cores = s.cores := rfl
@[simp] theorem State.breakChain_quads (s : State) (a n : Nat) : (s.breakChain a n).quads = s.quads := rfl
@[simp] theorem State.breakChain_clusters (s : State) (a n : Nat) : (s.breakChain a n).clusters = s.clusters := rfl
@[simp] theorem State.breakChain_mem (s : State) (a n : Nat) : (s.breakChain a n).mem = s.mem := rfl
@[simp] theorem State.breakChain_races (s : State) (a n : Nat) : (s.breakChain a n).races = s.races := rfl
@[simp] theorem State.breakChain_live (s : State) (a n : Nat) : (s.breakChain a n).live = s.live := rfl
@[simp] theorem State.breakChain_inflight (s : State) (a n : Nat) : (s.breakChain a n).inflight = s.inflight := rfl
@[simp] theorem State.breakChain_eccBad (s : State) (a n : Nat) : (s.breakChain a n).eccBad = s.eccBad := rfl
@[simp] theorem State.breakChain_tables (s : State) (a n : Nat) : (s.breakChain a n).tables = s.tables := rfl
@[simp] theorem State.breakChain_contexts (s : State) (a n : Nat) : (s.breakChain a n).contexts = s.contexts := rfl
@[simp] theorem State.breakChain_pages (s : State) (a n : Nat) : (s.breakChain a n).pages = s.pages := rfl
@[simp] theorem State.breakChain_blocks (s : State) (a n : Nat) : (s.breakChain a n).blocks = s.blocks := rfl
@[simp] theorem State.breakChain_minors (s : State) (a n : Nat) : (s.breakChain a n).minors = s.minors := rfl
@[simp] theorem State.breakChain_majors (s : State) (a n : Nat) : (s.breakChain a n).majors = s.majors := rfl
@[simp] theorem State.breakChain_nodes (s : State) (a n : Nat) : (s.breakChain a n).nodes = s.nodes := rfl
@[simp] theorem State.breakChain_nodeMajors (s : State) (a n : Nat) : (s.breakChain a n).nodeMajors = s.nodeMajors := rfl
@[simp] theorem State.breakChain_bases (s : State) (a n : Nat) : (s.breakChain a n).bases = s.bases := rfl
@[simp] theorem State.breakChain_accounts (s : State) (a n : Nat) : (s.breakChain a n).accounts = s.accounts := rfl
@[simp] theorem State.breakChain_functions (s : State) (a n : Nat) : (s.breakChain a n).functions = s.functions := rfl
@[simp] theorem State.breakChain_parts (s : State) (a n : Nat) : (s.breakChain a n).parts = s.parts := rfl
@[simp] theorem State.breakChain_net (s : State) (a n : Nat) : (s.breakChain a n).net = s.net := rfl
@[simp] theorem State.breakChain_grants (s : State) (a n : Nat) : (s.breakChain a n).grants = s.grants := rfl
@[simp] theorem State.breakChain_freed (s : State) (a n : Nat) : (s.breakChain a n).freed = s.freed := rfl
@[simp] theorem State.breakChain_modl (s : State) (a n : Nat) : (s.breakChain a n).modl = s.modl := rfl
@[simp] theorem State.breakChain_cur (s : State) (a n : Nat) : (s.breakChain a n).cur = s.cur := rfl
@[simp] theorem State.breakChain_agenda (s : State) (a n : Nat) : (s.breakChain a n).agenda = s.agenda := rfl
@[simp] theorem State.breakChain_now (s : State) (a n : Nat) : (s.breakChain a n).now = s.now := rfl
@[simp] theorem State.breakChain_fresh (s : State) (a n : Nat) : (s.breakChain a n).fresh = s.fresh := rfl
@[simp] theorem State.breakChain_nextId (s : State) (a n : Nat) : (s.breakChain a n).nextId = s.nextId := rfl

@[simp] theorem State.inject_cores (s : State) (a b g : Nat) (m : MsgClass) (o : Bool) (p : BitVec 12) (y : PktBody) : (s.inject a b g m o p y).cores = s.cores := rfl
@[simp] theorem State.inject_quads (s : State) (a b g : Nat) (m : MsgClass) (o : Bool) (p : BitVec 12) (y : PktBody) : (s.inject a b g m o p y).quads = s.quads := rfl
@[simp] theorem State.inject_clusters (s : State) (a b g : Nat) (m : MsgClass) (o : Bool) (p : BitVec 12) (y : PktBody) : (s.inject a b g m o p y).clusters = s.clusters := rfl
@[simp] theorem State.inject_mem (s : State) (a b g : Nat) (m : MsgClass) (o : Bool) (p : BitVec 12) (y : PktBody) : (s.inject a b g m o p y).mem = s.mem := rfl
@[simp] theorem State.inject_races (s : State) (a b g : Nat) (m : MsgClass) (o : Bool) (p : BitVec 12) (y : PktBody) : (s.inject a b g m o p y).races = s.races := rfl
@[simp] theorem State.inject_olds (s : State) (a b g : Nat) (m : MsgClass) (o : Bool) (p : BitVec 12) (y : PktBody) : (s.inject a b g m o p y).olds = s.olds := rfl
@[simp] theorem State.inject_live (s : State) (a b g : Nat) (m : MsgClass) (o : Bool) (p : BitVec 12) (y : PktBody) : (s.inject a b g m o p y).live = s.live := rfl
@[simp] theorem State.inject_inflight (s : State) (a b g : Nat) (m : MsgClass) (o : Bool) (p : BitVec 12) (y : PktBody) : (s.inject a b g m o p y).inflight = s.inflight := rfl
@[simp] theorem State.inject_eccBad (s : State) (a b g : Nat) (m : MsgClass) (o : Bool) (p : BitVec 12) (y : PktBody) : (s.inject a b g m o p y).eccBad = s.eccBad := rfl
@[simp] theorem State.inject_tables (s : State) (a b g : Nat) (m : MsgClass) (o : Bool) (p : BitVec 12) (y : PktBody) : (s.inject a b g m o p y).tables = s.tables := rfl
@[simp] theorem State.inject_contexts (s : State) (a b g : Nat) (m : MsgClass) (o : Bool) (p : BitVec 12) (y : PktBody) : (s.inject a b g m o p y).contexts = s.contexts := rfl
@[simp] theorem State.inject_pages (s : State) (a b g : Nat) (m : MsgClass) (o : Bool) (p : BitVec 12) (y : PktBody) : (s.inject a b g m o p y).pages = s.pages := rfl
@[simp] theorem State.inject_blocks (s : State) (a b g : Nat) (m : MsgClass) (o : Bool) (p : BitVec 12) (y : PktBody) : (s.inject a b g m o p y).blocks = s.blocks := rfl
@[simp] theorem State.inject_minors (s : State) (a b g : Nat) (m : MsgClass) (o : Bool) (p : BitVec 12) (y : PktBody) : (s.inject a b g m o p y).minors = s.minors := rfl
@[simp] theorem State.inject_majors (s : State) (a b g : Nat) (m : MsgClass) (o : Bool) (p : BitVec 12) (y : PktBody) : (s.inject a b g m o p y).majors = s.majors := rfl
@[simp] theorem State.inject_nodes (s : State) (a b g : Nat) (m : MsgClass) (o : Bool) (p : BitVec 12) (y : PktBody) : (s.inject a b g m o p y).nodes = s.nodes := rfl
@[simp] theorem State.inject_nodeMajors (s : State) (a b g : Nat) (m : MsgClass) (o : Bool) (p : BitVec 12) (y : PktBody) : (s.inject a b g m o p y).nodeMajors = s.nodeMajors := rfl
@[simp] theorem State.inject_bases (s : State) (a b g : Nat) (m : MsgClass) (o : Bool) (p : BitVec 12) (y : PktBody) : (s.inject a b g m o p y).bases = s.bases := rfl
@[simp] theorem State.inject_accounts (s : State) (a b g : Nat) (m : MsgClass) (o : Bool) (p : BitVec 12) (y : PktBody) : (s.inject a b g m o p y).accounts = s.accounts := rfl
@[simp] theorem State.inject_functions (s : State) (a b g : Nat) (m : MsgClass) (o : Bool) (p : BitVec 12) (y : PktBody) : (s.inject a b g m o p y).functions = s.functions := rfl
@[simp] theorem State.inject_parts (s : State) (a b g : Nat) (m : MsgClass) (o : Bool) (p : BitVec 12) (y : PktBody) : (s.inject a b g m o p y).parts = s.parts := rfl
@[simp] theorem State.inject_grants (s : State) (a b g : Nat) (m : MsgClass) (o : Bool) (p : BitVec 12) (y : PktBody) : (s.inject a b g m o p y).grants = s.grants := rfl
@[simp] theorem State.inject_freed (s : State) (a b g : Nat) (m : MsgClass) (o : Bool) (p : BitVec 12) (y : PktBody) : (s.inject a b g m o p y).freed = s.freed := rfl
@[simp] theorem State.inject_modl (s : State) (a b g : Nat) (m : MsgClass) (o : Bool) (p : BitVec 12) (y : PktBody) : (s.inject a b g m o p y).modl = s.modl := rfl
@[simp] theorem State.inject_cur (s : State) (a b g : Nat) (m : MsgClass) (o : Bool) (p : BitVec 12) (y : PktBody) : (s.inject a b g m o p y).cur = s.cur := rfl
@[simp] theorem State.inject_agenda (s : State) (a b g : Nat) (m : MsgClass) (o : Bool) (p : BitVec 12) (y : PktBody) : (s.inject a b g m o p y).agenda = s.agenda := rfl
@[simp] theorem State.inject_now (s : State) (a b g : Nat) (m : MsgClass) (o : Bool) (p : BitVec 12) (y : PktBody) : (s.inject a b g m o p y).now = s.now := rfl
@[simp] theorem State.inject_fresh (s : State) (a b g : Nat) (m : MsgClass) (o : Bool) (p : BitVec 12) (y : PktBody) : (s.inject a b g m o p y).fresh = s.fresh := rfl

@[simp] theorem State.dropPacket_cores (s : State) (i : Nat) : (s.dropPacket i).cores = s.cores := rfl
@[simp] theorem State.dropPacket_quads (s : State) (i : Nat) : (s.dropPacket i).quads = s.quads := rfl
@[simp] theorem State.dropPacket_clusters (s : State) (i : Nat) : (s.dropPacket i).clusters = s.clusters := rfl
@[simp] theorem State.dropPacket_mem (s : State) (i : Nat) : (s.dropPacket i).mem = s.mem := rfl
@[simp] theorem State.dropPacket_races (s : State) (i : Nat) : (s.dropPacket i).races = s.races := rfl
@[simp] theorem State.dropPacket_olds (s : State) (i : Nat) : (s.dropPacket i).olds = s.olds := rfl
@[simp] theorem State.dropPacket_live (s : State) (i : Nat) : (s.dropPacket i).live = s.live := rfl
@[simp] theorem State.dropPacket_inflight (s : State) (i : Nat) : (s.dropPacket i).inflight = s.inflight := rfl
@[simp] theorem State.dropPacket_eccBad (s : State) (i : Nat) : (s.dropPacket i).eccBad = s.eccBad := rfl
@[simp] theorem State.dropPacket_tables (s : State) (i : Nat) : (s.dropPacket i).tables = s.tables := rfl
@[simp] theorem State.dropPacket_contexts (s : State) (i : Nat) : (s.dropPacket i).contexts = s.contexts := rfl
@[simp] theorem State.dropPacket_pages (s : State) (i : Nat) : (s.dropPacket i).pages = s.pages := rfl
@[simp] theorem State.dropPacket_blocks (s : State) (i : Nat) : (s.dropPacket i).blocks = s.blocks := rfl
@[simp] theorem State.dropPacket_minors (s : State) (i : Nat) : (s.dropPacket i).minors = s.minors := rfl
@[simp] theorem State.dropPacket_majors (s : State) (i : Nat) : (s.dropPacket i).majors = s.majors := rfl
@[simp] theorem State.dropPacket_nodes (s : State) (i : Nat) : (s.dropPacket i).nodes = s.nodes := rfl
@[simp] theorem State.dropPacket_nodeMajors (s : State) (i : Nat) : (s.dropPacket i).nodeMajors = s.nodeMajors := rfl
@[simp] theorem State.dropPacket_bases (s : State) (i : Nat) : (s.dropPacket i).bases = s.bases := rfl
@[simp] theorem State.dropPacket_accounts (s : State) (i : Nat) : (s.dropPacket i).accounts = s.accounts := rfl
@[simp] theorem State.dropPacket_functions (s : State) (i : Nat) : (s.dropPacket i).functions = s.functions := rfl
@[simp] theorem State.dropPacket_parts (s : State) (i : Nat) : (s.dropPacket i).parts = s.parts := rfl
@[simp] theorem State.dropPacket_grants (s : State) (i : Nat) : (s.dropPacket i).grants = s.grants := rfl
@[simp] theorem State.dropPacket_freed (s : State) (i : Nat) : (s.dropPacket i).freed = s.freed := rfl
@[simp] theorem State.dropPacket_modl (s : State) (i : Nat) : (s.dropPacket i).modl = s.modl := rfl
@[simp] theorem State.dropPacket_cur (s : State) (i : Nat) : (s.dropPacket i).cur = s.cur := rfl
@[simp] theorem State.dropPacket_agenda (s : State) (i : Nat) : (s.dropPacket i).agenda = s.agenda := rfl
@[simp] theorem State.dropPacket_now (s : State) (i : Nat) : (s.dropPacket i).now = s.now := rfl
@[simp] theorem State.dropPacket_fresh (s : State) (i : Nat) : (s.dropPacket i).fresh = s.fresh := rfl
@[simp] theorem State.dropPacket_nextId (s : State) (i : Nat) : (s.dropPacket i).nextId = s.nextId := rfl

end Sys2Proof.Machine
end

