-- ==== Sys2Proof/Laws/Context.lean ====
section
/-! SUPPORT. Cores, contexts and registers after an update. -/

namespace Sys2Proof.Machine

@[simp] theorem State.core_setCore_self (s : State) (c : Nat) (v : Core) : (s.setCore c v).core c = v := by
  simp [State.core, State.setCore]

theorem State.core_setCore_ne (s : State) {c d : Nat} (v : Core) (h : c ≠ d) : (s.setCore d v).core c = s.core c := by
  simp [State.core, State.setCore, amGet_amSet_ne _ _ _ h]

@[simp] theorem State.ctxAt_setCtxAt_self (s : State) (c k : Nat) (v : Ctx) : (s.setCtxAt c k v).ctxAt c k = v := by
  simp [State.ctxAt, State.setCtxAt]

theorem State.ctxAt_setCtxAt_ctx_ne (s : State) {c k j : Nat} (v : Ctx) (h : j ≠ k) :
    (s.setCtxAt c k v).ctxAt c j = s.ctxAt c j := by
  simp [State.ctxAt, State.setCtxAt, amGet_amSet_ne _ _ _ h]

theorem State.core_setCtxAt_ne (s : State) {c d k : Nat} (v : Ctx) (h : c ≠ d) :
    (s.setCtxAt d k v).core c = s.core c := by
  simp [State.setCtxAt, State.core_setCore_ne _ _ h]

theorem State.ctxAt_setCtxAt_core_ne (s : State) {c d k j : Nat} (v : Ctx) (h : c ≠ d) :
    (s.setCtxAt d k v).ctxAt c j = s.ctxAt c j := by
  simp [State.ctxAt, State.core_setCtxAt_ne _ _ h]

@[simp] theorem State.cx_setCx (s : State) (v : Ctx) : (s.setCx v).cx = v := by
  simp [State.cx, State.setCx]

@[simp] theorem State.cx_modCx (s : State) (f : Ctx → Ctx) : (s.modCx f).cx = f s.cx := by
  simp [State.modCx]

@[simp] theorem State.inHelper_setCx (s : State) (v : Ctx) : (s.setCx v).inHelper = s.inHelper := rfl
@[simp] theorem State.inHelper_modCx (s : State) (f : Ctx → Ctx) : (s.modCx f).inHelper = s.inHelper := rfl

@[simp] theorem State.cx_setX (s : State) (d : BitVec 5) (v : BitVec 64) : (s.setX d v).cx = s.cx.setX d v := by
  simp [State.setX]

@[simp] theorem State.cx_bump (s : State) (n : Nat) :
    (s.bump n).cx = { s.cx with pc := s.cx.pc + word n, wait := none } := by
  simp [State.bump]

@[simp] theorem State.cx_jump (s : State) (p : BitVec 64) : (s.jump p).cx = { s.cx with pc := p, wait := none } := by
  simp [State.jump]

/-- Writing the context in hand changes nothing else. -/
theorem State.onlyContext_setCx (s : State) (v : Ctx) (r : Ctx → Ctx → Prop) (h : r s.cx v) :
    s.OnlyContext (s.setCx v) r := by
  refine ⟨rfl, fun c hc => ?_, ?_, fun k hk => ?_, by simpa using h⟩
  · exact State.core_setCtxAt_ne _ _ hc
  · simp [State.me, State.setCx, State.setCtxAt]
  · exact State.ctxAt_setCtxAt_ctx_ne _ _ hk

@[simp] theorem Ctx.xr_zero (x : Ctx) : x.xr 0#5 = 0#64 := rfl

@[simp] theorem Ctx.setX_zero (x : Ctx) (v : BitVec 64) : x.setX 0#5 v = x := rfl

theorem Ctx.xr_eq (x : Ctx) {r : BitVec 5} (h : r ≠ 0#5) : x.xr r = x.x.toArray[r.toNat]'(by simp [r.isLt]) := by
  simp only [Ctx.xr, h, if_false]; rfl

@[simp] theorem Ctx.xr_setX_self (x : Ctx) {d : BitVec 5} (v : BitVec 64) (h : d ≠ 0#5) : (x.setX d v).xr d = v := by
  simp [Ctx.xr_eq _ h, Ctx.setX, h]

theorem Ctx.xr_setX_ne (x : Ctx) {d r : BitVec 5} (v : BitVec 64) (h : r ≠ d) : (x.setX d v).xr r = x.xr r := by
  have hn : d.toNat ≠ r.toNat := fun e => h (BitVec.eq_of_toNat_eq e.symm)
  by_cases h0 : r = 0#5
  · subst h0; rfl
  · unfold Ctx.setX
    split
    · rfl
    · simp [Ctx.xr_eq _ h0, Array.getElem_set, hn]

end Sys2Proof.Machine
end

