-- ==== Sys2Proof/Laws/Dispatch.lean ====
section
/-! SUPPORT. What the dispatch calls for each constructor. -/

namespace Sys2Proof.Machine

@[simp] theorem exec_illegalEncoding (short : Bool) (bits : BitVec 32) (s : State) : exec (.illegalEncoding short bits) s = execIllegalEncoding short bits s := rfl
@[simp] theorem exec_add (d : BitVec 5) (a : BitVec 5) (b : BitVec 5) (s : State) : exec (.add d a b) s = execAdd d a b s := rfl
@[simp] theorem exec_sll (d : BitVec 5) (a : BitVec 5) (b : BitVec 5) (s : State) : exec (.sll d a b) s = execSll d a b s := rfl
@[simp] theorem exec_slt (d : BitVec 5) (a : BitVec 5) (b : BitVec 5) (s : State) : exec (.slt d a b) s = execSlt d a b s := rfl
@[simp] theorem exec_sltu (d : BitVec 5) (a : BitVec 5) (b : BitVec 5) (s : State) : exec (.sltu d a b) s = execSltu d a b s := rfl
@[simp] theorem exec_xor (d : BitVec 5) (a : BitVec 5) (b : BitVec 5) (s : State) : exec (.xor d a b) s = execXor d a b s := rfl
@[simp] theorem exec_srl (d : BitVec 5) (a : BitVec 5) (b : BitVec 5) (s : State) : exec (.srl d a b) s = execSrl d a b s := rfl
@[simp] theorem exec_or (d : BitVec 5) (a : BitVec 5) (b : BitVec 5) (s : State) : exec (.or d a b) s = execOr d a b s := rfl
@[simp] theorem exec_and (d : BitVec 5) (a : BitVec 5) (b : BitVec 5) (s : State) : exec (.and d a b) s = execAnd d a b s := rfl
@[simp] theorem exec_sub (d : BitVec 5) (a : BitVec 5) (b : BitVec 5) (s : State) : exec (.sub d a b) s = execSub d a b s := rfl
@[simp] theorem exec_sra (d : BitVec 5) (a : BitVec 5) (b : BitVec 5) (s : State) : exec (.sra d a b) s = execSra d a b s := rfl
@[simp] theorem exec_mul (d : BitVec 5) (a : BitVec 5) (b : BitVec 5) (s : State) : exec (.mul d a b) s = execMul d a b s := rfl
@[simp] theorem exec_mulh (d : BitVec 5) (a : BitVec 5) (b : BitVec 5) (s : State) : exec (.mulh d a b) s = execMulh d a b s := rfl
@[simp] theorem exec_mulhsu (d : BitVec 5) (a : BitVec 5) (b : BitVec 5) (s : State) : exec (.mulhsu d a b) s = execMulhsu d a b s := rfl
@[simp] theorem exec_mulhu (d : BitVec 5) (a : BitVec 5) (b : BitVec 5) (s : State) : exec (.mulhu d a b) s = execMulhu d a b s := rfl
@[simp] theorem exec_div (d : BitVec 5) (a : BitVec 5) (b : BitVec 5) (s : State) : exec (.div d a b) s = execDiv d a b s := rfl
@[simp] theorem exec_divu (d : BitVec 5) (a : BitVec 5) (b : BitVec 5) (s : State) : exec (.divu d a b) s = execDivu d a b s := rfl
@[simp] theorem exec_rem (d : BitVec 5) (a : BitVec 5) (b : BitVec 5) (s : State) : exec (.rem d a b) s = execRem d a b s := rfl
@[simp] theorem exec_remu (d : BitVec 5) (a : BitVec 5) (b : BitVec 5) (s : State) : exec (.remu d a b) s = execRemu d a b s := rfl
@[simp] theorem exec_min (d : BitVec 5) (a : BitVec 5) (b : BitVec 5) (s : State) : exec (.min d a b) s = execMin d a b s := rfl
@[simp] theorem exec_max (d : BitVec 5) (a : BitVec 5) (b : BitVec 5) (s : State) : exec (.max d a b) s = execMax d a b s := rfl
@[simp] theorem exec_minu (d : BitVec 5) (a : BitVec 5) (b : BitVec 5) (s : State) : exec (.minu d a b) s = execMinu d a b s := rfl
@[simp] theorem exec_maxu (d : BitVec 5) (a : BitVec 5) (b : BitVec 5) (s : State) : exec (.maxu d a b) s = execMaxu d a b s := rfl
@[simp] theorem exec_clz (d : BitVec 5) (a : BitVec 5) (s : State) : exec (.clz d a) s = execClz d a s := rfl
@[simp] theorem exec_ctz (d : BitVec 5) (a : BitVec 5) (s : State) : exec (.ctz d a) s = execCtz d a s := rfl
@[simp] theorem exec_popc (d : BitVec 5) (a : BitVec 5) (s : State) : exec (.popc d a) s = execPopc d a s := rfl
@[simp] theorem exec_brev (d : BitVec 5) (a : BitVec 5) (s : State) : exec (.brev d a) s = execBrev d a s := rfl
@[simp] theorem exec_sextb (d : BitVec 5) (a : BitVec 5) (s : State) : exec (.sextb d a) s = execSextb d a s := rfl
@[simp] theorem exec_sexth (d : BitVec 5) (a : BitVec 5) (s : State) : exec (.sexth d a) s = execSexth d a s := rfl
@[simp] theorem exec_sextw (d : BitVec 5) (a : BitVec 5) (s : State) : exec (.sextw d a) s = execSextw d a s := rfl
@[simp] theorem exec_addi (d : BitVec 5) (a : BitVec 5) (i : BitVec 12) (s : State) : exec (.addi d a i) s = execAddi d a i s := rfl
@[simp] theorem exec_slti (d : BitVec 5) (a : BitVec 5) (i : BitVec 12) (s : State) : exec (.slti d a i) s = execSlti d a i s := rfl
@[simp] theorem exec_sltiu (d : BitVec 5) (a : BitVec 5) (i : BitVec 12) (s : State) : exec (.sltiu d a i) s = execSltiu d a i s := rfl
@[simp] theorem exec_xori (d : BitVec 5) (a : BitVec 5) (i : BitVec 12) (s : State) : exec (.xori d a i) s = execXori d a i s := rfl
@[simp] theorem exec_ori (d : BitVec 5) (a : BitVec 5) (i : BitVec 12) (s : State) : exec (.ori d a i) s = execOri d a i s := rfl
@[simp] theorem exec_andi (d : BitVec 5) (a : BitVec 5) (i : BitVec 12) (s : State) : exec (.andi d a i) s = execAndi d a i s := rfl
@[simp] theorem exec_slli (d : BitVec 5) (a : BitVec 5) (s : BitVec 6) (st : State) : exec (.slli d a s) st = execSlli d a s st := rfl
@[simp] theorem exec_srli (d : BitVec 5) (a : BitVec 5) (s : BitVec 6) (st : State) : exec (.srli d a s) st = execSrli d a s st := rfl
@[simp] theorem exec_srai (d : BitVec 5) (a : BitVec 5) (s : BitVec 6) (st : State) : exec (.srai d a s) st = execSrai d a s st := rfl
@[simp] theorem exec_lih (d : BitVec 5) (i : BitVec 20) (s : State) : exec (.lih d i) s = execLih d i s := rfl
@[simp] theorem exec_addpc (d : BitVec 5) (i : BitVec 20) (s : State) : exec (.addpc d i) s = execAddpc d i s := rfl
@[simp] theorem exec_lb (d : BitVec 5) (a : BitVec 5) (i : BitVec 12) (s : State) : exec (.lb d a i) s = execLb d a i s := rfl
@[simp] theorem exec_lh (d : BitVec 5) (a : BitVec 5) (i : BitVec 12) (s : State) : exec (.lh d a i) s = execLh d a i s := rfl
@[simp] theorem exec_lw (d : BitVec 5) (a : BitVec 5) (i : BitVec 12) (s : State) : exec (.lw d a i) s = execLw d a i s := rfl
@[simp] theorem exec_ld (d : BitVec 5) (a : BitVec 5) (i : BitVec 12) (s : State) : exec (.ld d a i) s = execLd d a i s := rfl
@[simp] theorem exec_lbu (d : BitVec 5) (a : BitVec 5) (i : BitVec 12) (s : State) : exec (.lbu d a i) s = execLbu d a i s := rfl
@[simp] theorem exec_lhu (d : BitVec 5) (a : BitVec 5) (i : BitVec 12) (s : State) : exec (.lhu d a i) s = execLhu d a i s := rfl
@[simp] theorem exec_lwu (d : BitVec 5) (a : BitVec 5) (i : BitVec 12) (s : State) : exec (.lwu d a i) s = execLwu d a i s := rfl
@[simp] theorem exec_sb (a : BitVec 5) (b : BitVec 5) (i : BitVec 12) (s : State) : exec (.sb a b i) s = execSb a b i s := rfl
@[simp] theorem exec_sh (a : BitVec 5) (b : BitVec 5) (i : BitVec 12) (s : State) : exec (.sh a b i) s = execSh a b i s := rfl
@[simp] theorem exec_sw (a : BitVec 5) (b : BitVec 5) (i : BitVec 12) (s : State) : exec (.sw a b i) s = execSw a b i s := rfl
@[simp] theorem exec_sd (a : BitVec 5) (b : BitVec 5) (i : BitVec 12) (s : State) : exec (.sd a b i) s = execSd a b i s := rfl
@[simp] theorem exec_beq (a : BitVec 5) (b : BitVec 5) (i : BitVec 12) (s : State) : exec (.beq a b i) s = execBeq a b i s := rfl
@[simp] theorem exec_bne (a : BitVec 5) (b : BitVec 5) (i : BitVec 12) (s : State) : exec (.bne a b i) s = execBne a b i s := rfl
@[simp] theorem exec_blt (a : BitVec 5) (b : BitVec 5) (i : BitVec 12) (s : State) : exec (.blt a b i) s = execBlt a b i s := rfl
@[simp] theorem exec_bge (a : BitVec 5) (b : BitVec 5) (i : BitVec 12) (s : State) : exec (.bge a b i) s = execBge a b i s := rfl
@[simp] theorem exec_bltu (a : BitVec 5) (b : BitVec 5) (i : BitVec 12) (s : State) : exec (.bltu a b i) s = execBltu a b i s := rfl
@[simp] theorem exec_bgeu (a : BitVec 5) (b : BitVec 5) (i : BitVec 12) (s : State) : exec (.bgeu a b i) s = execBgeu a b i s := rfl
@[simp] theorem exec_jal (d : BitVec 5) (i : BitVec 20) (s : State) : exec (.jal d i) s = execJal d i s := rfl
@[simp] theorem exec_jalr (d : BitVec 5) (a : BitVec 5) (i : BitVec 12) (s : State) : exec (.jalr d a i) s = execJalr d a i s := rfl
@[simp] theorem exec_bfx (d : BitVec 5) (a : BitVec 5) (l : BitVec 6) (p : BitVec 6) (s : State) : exec (.bfx d a l p) s = execBfx d a l p s := rfl
@[simp] theorem exec_bfi (d : BitVec 5) (a : BitVec 5) (l : BitVec 6) (p : BitVec 6) (s : State) : exec (.bfi d a l p) s = execBfi d a l p s := rfl
@[simp] theorem exec_mkaddr (d : BitVec 5) (a : BitVec 5) (b : BitVec 5) (s : State) : exec (.mkaddr d a b) s = execMkaddr d a b s := rfl
@[simp] theorem exec_absaddr (d : BitVec 5) (a : BitVec 5) (s : State) : exec (.absaddr d a) s = execAbsaddr d a s := rfl
@[simp] theorem exec_ecall (s : State) : exec .ecall s = execEcall s := rfl
@[simp] theorem exec_ebreak (s : State) : exec .ebreak s = execEbreak s := rfl
@[simp] theorem exec_tret (s : State) : exec .tret s = execTret s := rfl
@[simp] theorem exec_wfe (s : State) : exec .wfe s = execWfe s := rfl
@[simp] theorem exec_isync (s : State) : exec .isync s = execIsync s := rfl
@[simp] theorem exec_csrrw (d : BitVec 5) (a : BitVec 5) (c : BitVec 12) (s : State) : exec (.csrrw d a c) s = execCsrrw d a c s := rfl
@[simp] theorem exec_csrrs (d : BitVec 5) (a : BitVec 5) (c : BitVec 12) (s : State) : exec (.csrrs d a c) s = execCsrrs d a c s := rfl
@[simp] theorem exec_csrrc (d : BitVec 5) (a : BitVec 5) (c : BitVec 12) (s : State) : exec (.csrrc d a c) s = execCsrrc d a c s := rfl
@[simp] theorem exec_csrrwi (d : BitVec 5) (c : BitVec 12) (u : BitVec 5) (s : State) : exec (.csrrwi d c u) s = execCsrrwi d c u s := rfl
@[simp] theorem exec_csrrsi (d : BitVec 5) (c : BitVec 12) (u : BitVec 5) (s : State) : exec (.csrrsi d c u) s = execCsrrsi d c u s := rfl
@[simp] theorem exec_csrrci (d : BitVec 5) (c : BitVec 12) (u : BitVec 5) (s : State) : exec (.csrrci d c u) s = execCsrrci d c u s := rfl
@[simp] theorem exec_flh (d : BitVec 5) (a : BitVec 5) (i : BitVec 12) (s : State) : exec (.flh d a i) s = execFlh d a i s := rfl
@[simp] theorem exec_flw (d : BitVec 5) (a : BitVec 5) (i : BitVec 12) (s : State) : exec (.flw d a i) s = execFlw d a i s := rfl
@[simp] theorem exec_fld (d : BitVec 5) (a : BitVec 5) (i : BitVec 12) (s : State) : exec (.fld d a i) s = execFld d a i s := rfl
@[simp] theorem exec_fsh (a : BitVec 5) (b : BitVec 5) (i : BitVec 12) (s : State) : exec (.fsh a b i) s = execFsh a b i s := rfl
@[simp] theorem exec_fsw (a : BitVec 5) (b : BitVec 5) (i : BitVec 12) (s : State) : exec (.fsw a b i) s = execFsw a b i s := rfl
@[simp] theorem exec_fsd (a : BitVec 5) (b : BitVec 5) (i : BitVec 12) (s : State) : exec (.fsd a b i) s = execFsd a b i s := rfl
@[simp] theorem exec_fadd (d : BitVec 5) (a : BitVec 5) (b : BitVec 5) (f : BitVec 1) (r : BitVec 3) (s : State) : exec (.fadd d a b f r) s = execFadd d a b f r s := rfl
@[simp] theorem exec_fsub (d : BitVec 5) (a : BitVec 5) (b : BitVec 5) (f : BitVec 1) (r : BitVec 3) (s : State) : exec (.fsub d a b f r) s = execFsub d a b f r s := rfl
@[simp] theorem exec_fmul (d : BitVec 5) (a : BitVec 5) (b : BitVec 5) (f : BitVec 1) (r : BitVec 3) (s : State) : exec (.fmul d a b f r) s = execFmul d a b f r s := rfl
@[simp] theorem exec_fdiv (d : BitVec 5) (a : BitVec 5) (b : BitVec 5) (f : BitVec 1) (r : BitVec 3) (s : State) : exec (.fdiv d a b f r) s = execFdiv d a b f r s := rfl
@[simp] theorem exec_fsqrt (d : BitVec 5) (a : BitVec 5) (f : BitVec 1) (r : BitVec 3) (s : State) : exec (.fsqrt d a f r) s = execFsqrt d a f r s := rfl
@[simp] theorem exec_fsgnj (d : BitVec 5) (a : BitVec 5) (b : BitVec 5) (f : BitVec 1) (s : State) : exec (.fsgnj d a b f) s = execFsgnj d a b f s := rfl
@[simp] theorem exec_fsgnjn (d : BitVec 5) (a : BitVec 5) (b : BitVec 5) (f : BitVec 1) (s : State) : exec (.fsgnjn d a b f) s = execFsgnjn d a b f s := rfl
@[simp] theorem exec_fsgnjx (d : BitVec 5) (a : BitVec 5) (b : BitVec 5) (f : BitVec 1) (s : State) : exec (.fsgnjx d a b f) s = execFsgnjx d a b f s := rfl
@[simp] theorem exec_fmin (d : BitVec 5) (a : BitVec 5) (b : BitVec 5) (f : BitVec 1) (s : State) : exec (.fmin d a b f) s = execFmin d a b f s := rfl
@[simp] theorem exec_fmax (d : BitVec 5) (a : BitVec 5) (b : BitVec 5) (f : BitVec 1) (s : State) : exec (.fmax d a b f) s = execFmax d a b f s := rfl
@[simp] theorem exec_fle (d : BitVec 5) (a : BitVec 5) (b : BitVec 5) (f : BitVec 1) (s : State) : exec (.fle d a b f) s = execFle d a b f s := rfl
@[simp] theorem exec_flt (d : BitVec 5) (a : BitVec 5) (b : BitVec 5) (f : BitVec 1) (s : State) : exec (.flt d a b f) s = execFlt d a b f s := rfl
@[simp] theorem exec_feq (d : BitVec 5) (a : BitVec 5) (b : BitVec 5) (f : BitVec 1) (s : State) : exec (.feq d a b f) s = execFeq d a b f s := rfl
@[simp] theorem exec_fclass (d : BitVec 5) (a : BitVec 5) (f : BitVec 1) (s : State) : exec (.fclass d a f) s = execFclass d a f s := rfl
@[simp] theorem exec_fcvtFloatFloat (d : BitVec 5) (a : BitVec 5) (e : BitVec 2) (s : BitVec 1) (g : BitVec 2) (r : BitVec 3) (st : State) : exec (.fcvtFloatFloat d a e s g r) st = execFcvtFloatFloat d a e s g r st := rfl
@[simp] theorem exec_fcvtFloatInt (d : BitVec 5) (a : BitVec 5) (e : BitVec 2) (s : BitVec 1) (t : BitVec 2) (r : BitVec 3) (st : State) : exec (.fcvtFloatInt d a e s t r) st = execFcvtFloatInt d a e s t r st := rfl
@[simp] theorem exec_fcvtIntFloat (d : BitVec 5) (a : BitVec 5) (e : BitVec 2) (t : BitVec 2) (r : BitVec 3) (s : State) : exec (.fcvtIntFloat d a e t r) s = execFcvtIntFloat d a e t r s := rfl
@[simp] theorem exec_fmvx (d : BitVec 5) (a : BitVec 5) (w : BitVec 2) (s : State) : exec (.fmvx d a w) s = execFmvx d a w s := rfl
@[simp] theorem exec_fmvf (d : BitVec 5) (a : BitVec 5) (w : BitVec 2) (s : State) : exec (.fmvf d a w) s = execFmvf d a w s := rfl
@[simp] theorem exec_fmadd (d : BitVec 5) (a : BitVec 5) (b : BitVec 5) (c : BitVec 5) (f : BitVec 1) (r : BitVec 3) (s : State) : exec (.fmadd d a b c f r) s = execFmadd d a b c f r s := rfl
@[simp] theorem exec_fmsub (d : BitVec 5) (a : BitVec 5) (b : BitVec 5) (c : BitVec 5) (f : BitVec 1) (r : BitVec 3) (s : State) : exec (.fmsub d a b c f r) s = execFmsub d a b c f r s := rfl
@[simp] theorem exec_fnmadd (d : BitVec 5) (a : BitVec 5) (b : BitVec 5) (c : BitVec 5) (f : BitVec 1) (r : BitVec 3) (s : State) : exec (.fnmadd d a b c f r) s = execFnmadd d a b c f r s := rfl
@[simp] theorem exec_fnmsub (d : BitVec 5) (a : BitVec 5) (b : BitVec 5) (c : BitVec 5) (f : BitVec 1) (r : BitVec 3) (s : State) : exec (.fnmsub d a b c f r) s = execFnmsub d a b c f r s := rfl
@[simp] theorem exec_sbind (d : BitVec 5) (k : BitVec 1) (p : BitVec 2) (s : State) : exec (.sbind d k p) s = execSbind d k p s := rfl
@[simp] theorem exec_sunbind (p : BitVec 2) (s : State) : exec (.sunbind p) s = execSunbind p s := rfl
@[simp] theorem exec_sskip (a : BitVec 5) (p : BitVec 2) (s : State) : exec (.sskip a p) s = execSskip a p s := rfl
@[simp] theorem exec_ssync (m : BitVec 4) (s : State) : exec (.ssync m) s = execSsync m s := rfl
@[simp] theorem exec_frep (a : BitVec 5) (n : BitVec 4) (s : State) : exec (.frep a n) s = execFrep a n s := rfl
@[simp] theorem exec_frepi (c : BitVec 8) (n : BitVec 4) (s : State) : exec (.frepi c n) s = execFrepi c n s := rfl
@[simp] theorem exec_vld (d : BitVec 5) (a : BitVec 5) (t : BitVec 4) (o : BitVec 8) (s : State) : exec (.vld d a t o) s = execVld d a t o s := rfl
@[simp] theorem exec_vst (a : BitVec 5) (b : BitVec 5) (o : BitVec 8) (s : State) : exec (.vst a b o) s = execVst a b o s := rfl
@[simp] theorem exec_vlds (d : BitVec 5) (a : BitVec 5) (b : BitVec 5) (e : BitVec 2) (t : BitVec 4) (s : State) : exec (.vlds d a b e t) s = execVlds d a b e t s := rfl
@[simp] theorem exec_vsts (d : BitVec 5) (a : BitVec 5) (b : BitVec 5) (e : BitVec 2) (s : State) : exec (.vsts d a b e) s = execVsts d a b e s := rfl
@[simp] theorem exec_vgather (d : BitVec 5) (a : BitVec 5) (b : BitVec 5) (e : BitVec 2) (t : BitVec 4) (s : State) : exec (.vgather d a b e t) s = execVgather d a b e t s := rfl
@[simp] theorem exec_vscatter (d : BitVec 5) (a : BitVec 5) (b : BitVec 5) (e : BitVec 2) (s : State) : exec (.vscatter d a b e) s = execVscatter d a b e s := rfl
@[simp] theorem exec_vldb (d : BitVec 5) (a : BitVec 5) (i : BitVec 12) (s : State) : exec (.vldb d a i) s = execVldb d a i s := rfl
@[simp] theorem exec_vadd (d : BitVec 5) (a : BitVec 5) (b : BitVec 5) (r : BitVec 3) (s : State) : exec (.vadd d a b r) s = execVadd d a b r s := rfl
@[simp] theorem exec_vsub (d : BitVec 5) (a : BitVec 5) (b : BitVec 5) (r : BitVec 3) (s : State) : exec (.vsub d a b r) s = execVsub d a b r s := rfl
@[simp] theorem exec_vmul (d : BitVec 5) (a : BitVec 5) (b : BitVec 5) (r : BitVec 3) (s : State) : exec (.vmul d a b r) s = execVmul d a b r s := rfl
@[simp] theorem exec_vmin (d : BitVec 5) (a : BitVec 5) (b : BitVec 5) (s : State) : exec (.vmin d a b) s = execVmin d a b s := rfl
@[simp] theorem exec_vmax (d : BitVec 5) (a : BitVec 5) (b : BitVec 5) (s : State) : exec (.vmax d a b) s = execVmax d a b s := rfl
@[simp] theorem exec_vand (d : BitVec 5) (a : BitVec 5) (b : BitVec 5) (s : State) : exec (.vand d a b) s = execVand d a b s := rfl
@[simp] theorem exec_vor (d : BitVec 5) (a : BitVec 5) (b : BitVec 5) (s : State) : exec (.vor d a b) s = execVor d a b s := rfl
@[simp] theorem exec_vxor (d : BitVec 5) (a : BitVec 5) (b : BitVec 5) (s : State) : exec (.vxor d a b) s = execVxor d a b s := rfl
@[simp] theorem exec_vshl (d : BitVec 5) (a : BitVec 5) (b : BitVec 5) (s : State) : exec (.vshl d a b) s = execVshl d a b s := rfl
@[simp] theorem exec_vshr (d : BitVec 5) (a : BitVec 5) (b : BitVec 5) (s : State) : exec (.vshr d a b) s = execVshr d a b s := rfl
@[simp] theorem exec_vsra (d : BitVec 5) (a : BitVec 5) (b : BitVec 5) (s : State) : exec (.vsra d a b) s = execVsra d a b s := rfl
@[simp] theorem exec_vcmp (d : BitVec 5) (a : BitVec 5) (b : BitVec 5) (c : BitVec 3) (s : State) : exec (.vcmp d a b c) s = execVcmp d a b c s := rfl
@[simp] theorem exec_vabs (d : BitVec 5) (a : BitVec 5) (s : State) : exec (.vabs d a) s = execVabs d a s := rfl
@[simp] theorem exec_vneg (d : BitVec 5) (a : BitVec 5) (s : State) : exec (.vneg d a) s = execVneg d a s := rfl
@[simp] theorem exec_vfma (d : BitVec 5) (a : BitVec 5) (b : BitVec 5) (c : BitVec 5) (r : BitVec 3) (s : State) : exec (.vfma d a b c r) s = execVfma d a b c r s := rfl
@[simp] theorem exec_vfms (d : BitVec 5) (a : BitVec 5) (b : BitVec 5) (c : BitVec 5) (r : BitVec 3) (s : State) : exec (.vfms d a b c r) s = execVfms d a b c r s := rfl
@[simp] theorem exec_vnfma (d : BitVec 5) (a : BitVec 5) (b : BitVec 5) (c : BitVec 5) (r : BitVec 3) (s : State) : exec (.vnfma d a b c r) s = execVnfma d a b c r s := rfl
@[simp] theorem exec_vsel (d : BitVec 5) (a : BitVec 5) (b : BitVec 5) (c : BitVec 5) (s : State) : exec (.vsel d a b c) s = execVsel d a b c s := rfl
@[simp] theorem exec_vredAdd (d : BitVec 5) (a : BitVec 5) (r : BitVec 3) (s : State) : exec (.vredAdd d a r) s = execVredAdd d a r s := rfl
@[simp] theorem exec_vredMin (d : BitVec 5) (a : BitVec 5) (s : State) : exec (.vredMin d a) s = execVredMin d a s := rfl
@[simp] theorem exec_vredMax (d : BitVec 5) (a : BitVec 5) (s : State) : exec (.vredMax d a) s = execVredMax d a s := rfl
@[simp] theorem exec_vdot (d : BitVec 5) (a : BitVec 5) (b : BitVec 5) (r : BitVec 3) (s : State) : exec (.vdot d a b r) s = execVdot d a b r s := rfl
@[simp] theorem exec_vcvt (d : BitVec 5) (a : BitVec 5) (s : BitVec 1) (t : BitVec 4) (r : BitVec 3) (st : State) : exec (.vcvt d a s t r) st = execVcvt d a s t r st := rfl
@[simp] theorem exec_vqnt (d : BitVec 5) (a : BitVec 5) (s : BitVec 1) (t : BitVec 4) (r : BitVec 3) (st : State) : exec (.vqnt d a s t r) st = execVqnt d a s t r st := rfl
@[simp] theorem exec_vdqnt (d : BitVec 5) (a : BitVec 5) (t : BitVec 4) (r : BitVec 3) (s : State) : exec (.vdqnt d a t r) s = execVdqnt d a t r s := rfl
@[simp] theorem exec_vperm (d : BitVec 5) (a : BitVec 5) (b : BitVec 5) (s : State) : exec (.vperm d a b) s = execVperm d a b s := rfl
@[simp] theorem exec_vshuf (d : BitVec 5) (a : BitVec 5) (b : BitVec 5) (s : State) : exec (.vshuf d a b) s = execVshuf d a b s := rfl
@[simp] theorem exec_vslideUp (d : BitVec 5) (a : BitVec 5) (b : BitVec 5) (s : State) : exec (.vslideUp d a b) s = execVslideUp d a b s := rfl
@[simp] theorem exec_vslideDown (d : BitVec 5) (a : BitVec 5) (b : BitVec 5) (s : State) : exec (.vslideDown d a b) s = execVslideDown d a b s := rfl
@[simp] theorem exec_vbcastX (d : BitVec 5) (a : BitVec 5) (s : State) : exec (.vbcastX d a) s = execVbcastX d a s := rfl
@[simp] theorem exec_vbcastF (d : BitVec 5) (a : BitVec 5) (s : State) : exec (.vbcastF d a) s = execVbcastF d a s := rfl
@[simp] theorem exec_vexp2 (d : BitVec 5) (a : BitVec 5) (s : State) : exec (.vexp2 d a) s = execVexp2 d a s := rfl
@[simp] theorem exec_vrcp (d : BitVec 5) (a : BitVec 5) (s : State) : exec (.vrcp d a) s = execVrcp d a s := rfl
@[simp] theorem exec_vrsq (d : BitVec 5) (a : BitVec 5) (s : State) : exec (.vrsq d a) s = execVrsq d a s := rfl
@[simp] theorem exec_vmov (d : BitVec 5) (a : BitVec 5) (s : State) : exec (.vmov d a) s = execVmov d a s := rfl
@[simp] theorem exec_vmvx (d : BitVec 5) (a : BitVec 5) (b : BitVec 5) (s : State) : exec (.vmvx d a b) s = execVmvx d a b s := rfl
@[simp] theorem exec_vmvf (d : BitVec 5) (a : BitVec 5) (b : BitVec 5) (s : State) : exec (.vmvf d a b) s = execVmvf d a b s := rfl
@[simp] theorem exec_vtag (d : BitVec 5) (a : BitVec 5) (t : BitVec 4) (s : State) : exec (.vtag d a t) s = execVtag d a t s := rfl
@[simp] theorem exec_vsideRead (d : BitVec 5) (a : BitVec 5) (s : State) : exec (.vsideRead d a) s = execVsideRead d a s := rfl
@[simp] theorem exec_vsideWrite (d : BitVec 5) (a : BitVec 5) (s : State) : exec (.vsideWrite d a) s = execVsideWrite d a s := rfl
@[simp] theorem exec_bbinit (a : BitVec 5) (b : BitVec 5) (s : State) : exec (.bbinit a b) s = execBbinit a b s := rfl
@[simp] theorem exec_bbget (d : BitVec 5) (n : BitVec 5) (s : State) : exec (.bbget d n) s = execBbget d n s := rfl
@[simp] theorem exec_bbpeek (d : BitVec 5) (n : BitVec 5) (s : State) : exec (.bbpeek d n) s = execBbpeek d n s := rfl
@[simp] theorem exec_bbskip (n : BitVec 5) (s : State) : exec (.bbskip n) s = execBbskip n s := rfl
@[simp] theorem exec_bbdec (d : BitVec 5) (a : BitVec 5) (k : BitVec 4) (s : State) : exec (.bbdec d a k) s = execBbdec d a k s := rfl
@[simp] theorem exec_bbemit (a : BitVec 5) (n : BitVec 5) (s : State) : exec (.bbemit a n) s = execBbemit a n s := rfl
@[simp] theorem exec_bbflush (s : State) : exec .bbflush s = execBbflush s := rfl
@[simp] theorem exec_bbalign (s : State) : exec .bbalign s = execBbalign s := rfl
@[simp] theorem exec_amoswap (d : BitVec 5) (a : BitVec 5) (b : BitVec 5) (q : BitVec 1) (l : BitVec 1) (w : BitVec 1) (x : BitVec 3) (s : State) : exec (.amoswap d a b q l w x) s = execAmoswap d a b q l w x s := rfl
@[simp] theorem exec_amoadd (d : BitVec 5) (a : BitVec 5) (b : BitVec 5) (q : BitVec 1) (l : BitVec 1) (w : BitVec 1) (x : BitVec 3) (s : State) : exec (.amoadd d a b q l w x) s = execAmoadd d a b q l w x s := rfl
@[simp] theorem exec_amoand (d : BitVec 5) (a : BitVec 5) (b : BitVec 5) (q : BitVec 1) (l : BitVec 1) (w : BitVec 1) (x : BitVec 3) (s : State) : exec (.amoand d a b q l w x) s = execAmoand d a b q l w x s := rfl
@[simp] theorem exec_amoor (d : BitVec 5) (a : BitVec 5) (b : BitVec 5) (q : BitVec 1) (l : BitVec 1) (w : BitVec 1) (x : BitVec 3) (s : State) : exec (.amoor d a b q l w x) s = execAmoor d a b q l w x s := rfl
@[simp] theorem exec_amoxor (d : BitVec 5) (a : BitVec 5) (b : BitVec 5) (q : BitVec 1) (l : BitVec 1) (w : BitVec 1) (x : BitVec 3) (s : State) : exec (.amoxor d a b q l w x) s = execAmoxor d a b q l w x s := rfl
@[simp] theorem exec_amomin (d : BitVec 5) (a : BitVec 5) (b : BitVec 5) (q : BitVec 1) (l : BitVec 1) (w : BitVec 1) (x : BitVec 3) (s : State) : exec (.amomin d a b q l w x) s = execAmomin d a b q l w x s := rfl
@[simp] theorem exec_amomax (d : BitVec 5) (a : BitVec 5) (b : BitVec 5) (q : BitVec 1) (l : BitVec 1) (w : BitVec 1) (x : BitVec 3) (s : State) : exec (.amomax d a b q l w x) s = execAmomax d a b q l w x s := rfl
@[simp] theorem exec_amominu (d : BitVec 5) (a : BitVec 5) (b : BitVec 5) (q : BitVec 1) (l : BitVec 1) (w : BitVec 1) (x : BitVec 3) (s : State) : exec (.amominu d a b q l w x) s = execAmominu d a b q l w x s := rfl
@[simp] theorem exec_amomaxu (d : BitVec 5) (a : BitVec 5) (b : BitVec 5) (q : BitVec 1) (l : BitVec 1) (w : BitVec 1) (x : BitVec 3) (s : State) : exec (.amomaxu d a b q l w x) s = execAmomaxu d a b q l w x s := rfl
@[simp] theorem exec_amocas (d : BitVec 5) (a : BitVec 5) (b : BitVec 5) (q : BitVec 1) (l : BitVec 1) (w : BitVec 1) (x : BitVec 3) (s : State) : exec (.amocas d a b q l w x) s = execAmocas d a b q l w x s := rfl
@[simp] theorem exec_amocasQ (d : BitVec 5) (a : BitVec 5) (b : BitVec 5) (q : BitVec 1) (l : BitVec 1) (x : BitVec 3) (s : State) : exec (.amocasQ d a b q l x) s = execAmocasQ d a b q l x s := rfl
@[simp] theorem exec_famoadd (d : BitVec 5) (a : BitVec 5) (b : BitVec 5) (q : BitVec 1) (l : BitVec 1) (w : BitVec 1) (x : BitVec 3) (s : State) : exec (.famoadd d a b q l w x) s = execFamoadd d a b q l w x s := rfl
@[simp] theorem exec_fence (m : BitVec 8) (s : State) : exec (.fence m) s = execFence m s := rfl
@[simp] theorem exec_ldaq (d : BitVec 5) (a : BitVec 5) (z : BitVec 2) (x : BitVec 3) (s : State) : exec (.ldaq d a z x) s = execLdaq d a z x s := rfl
@[simp] theorem exec_strl (a : BitVec 5) (b : BitVec 5) (z : BitVec 2) (x : BitVec 3) (s : State) : exec (.strl a b z x) s = execStrl a b z x s := rfl
@[simp] theorem exec_bar (n : BitVec 4) (s : State) : exec (.bar n) s = execBar n s := rfl
@[simp] theorem exec_bararr (n : BitVec 4) (s : State) : exec (.bararr n) s = execBararr n s := rfl
@[simp] theorem exec_barwait (n : BitVec 4) (s : State) : exec (.barwait n) s = execBarwait n s := rfl
@[simp] theorem exec_tbinit (a : BitVec 5) (b : BitVec 5) (c : BitVec 5) (s : State) : exec (.tbinit a b c) s = execTbinit a b c s := rfl
@[simp] theorem exec_tbexp (a : BitVec 5) (b : BitVec 5) (c : BitVec 5) (s : State) : exec (.tbexp a b c) s = execTbexp a b c s := rfl
@[simp] theorem exec_tbarr (a : BitVec 5) (s : State) : exec (.tbarr a) s = execTbarr a s := rfl
@[simp] theorem exec_tbwait (d : BitVec 5) (a : BitVec 5) (s : State) : exec (.tbwait d a) s = execTbwait d a s := rfl
@[simp] theorem exec_tbtest (d : BitVec 5) (a : BitVec 5) (s : State) : exec (.tbtest d a) s = execTbtest d a s := rfl
@[simp] theorem exec_tbact (a : BitVec 5) (b : BitVec 5) (s : State) : exec (.tbact a b) s = execTbact a b s := rfl
@[simp] theorem exec_tbretire (a : BitVec 5) (s : State) : exec (.tbretire a) s = execTbretire a s := rfl
@[simp] theorem exec_sendr (a : BitVec 5) (b : BitVec 5) (n : BitVec 5) (s : State) : exec (.sendr a b n) s = execSendr a b n s := rfl
@[simp] theorem exec_pclr (n : BitVec 5) (s : State) : exec (.pclr n) s = execPclr n s := rfl
@[simp] theorem exec_ptest (d : BitVec 5) (n : BitVec 5) (s : State) : exec (.ptest d n) s = execPtest d n s := rfl
@[simp] theorem exec_xmsg (a : BitVec 5) (b : BitVec 5) (c : BitVec 5) (v : BitVec 1) (s : State) : exec (.xmsg a b c v) s = execXmsg a b c v s := rfl
@[simp] theorem exec_mtake (d : BitVec 5) (s : State) : exec (.mtake d) s = execMtake d s := rfl
@[simp] theorem exec_mfree (a : BitVec 5) (s : State) : exec (.mfree a) s = execMfree a s := rfl
@[simp] theorem exec_spawn (d : BitVec 5) (a : BitVec 5) (b : BitVec 5) (s : State) : exec (.spawn d a b) s = execSpawn d a b s := rfl
@[simp] theorem exec_hexit (s : State) : exec .hexit s = execHexit s := rfl
@[simp] theorem exec_hwait (h : BitVec 4) (s : State) : exec (.hwait h) s = execHwait h s := rfl
@[simp] theorem exec_dqpush (a : BitVec 5) (s : State) : exec (.dqpush a) s = execDqpush a s := rfl
@[simp] theorem exec_dqpop (d : BitVec 5) (s : State) : exec (.dqpop d) s = execDqpop d s := rfl
@[simp] theorem exec_dqsteal (d : BitVec 5) (a : BitVec 5) (s : State) : exec (.dqsteal d a) s = execDqsteal d a s := rfl
@[simp] theorem exec_dqlen (d : BitVec 5) (s : State) : exec (.dqlen d) s = execDqlen d s := rfl
@[simp] theorem exec_rinit (a : BitVec 5) (n : BitVec 4) (s : State) : exec (.rinit a n) s = execRinit a n s := rfl
@[simp] theorem exec_rclaim (d : BitVec 5) (n : BitVec 4) (s : State) : exec (.rclaim d n) s = execRclaim d n s := rfl
@[simp] theorem exec_rcommit (a : BitVec 5) (s : State) : exec (.rcommit a) s = execRcommit a s := rfl
@[simp] theorem exec_rtake (d : BitVec 5) (n : BitVec 4) (s : State) : exec (.rtake d n) s = execRtake d n s := rfl
@[simp] theorem exec_rfree (a : BitVec 5) (s : State) : exec (.rfree a) s = execRfree a s := rfl
@[simp] theorem exec_xcopy (a : BitVec 5) (b : BitVec 5) (c : BitVec 5) (t : BitVec 1) (k : BitVec 4) (s : State) : exec (.xcopy a b c t k) s = execXcopy a b c t k s := rfl
@[simp] theorem exec_xsub (b : BitVec 5) (c : BitVec 5) (n : BitVec 4) (s : State) : exec (.xsub b c n) s = execXsub b c n s := rfl
@[simp] theorem exec_xpub (a : BitVec 5) (c : BitVec 5) (n : BitVec 4) (s : State) : exec (.xpub a c n) s = execXpub a c n s := rfl
@[simp] theorem exec_xamo (a : BitVec 5) (b : BitVec 5) (c : BitVec 5) (w : BitVec 1) (o : BitVec 4) (s : State) : exec (.xamo a b c w o) s = execXamo a b c w o s := rfl
@[simp] theorem exec_xresume (a : BitVec 5) (s : State) : exec (.xresume a) s = execXresume a s := rfl
@[simp] theorem exec_xcancel (a : BitVec 5) (s : State) : exec (.xcancel a) s = execXcancel a s := rfl
@[simp] theorem exec_xdisc (a : BitVec 5) (b : BitVec 5) (s : State) : exec (.xdisc a b) s = execXdisc a b s := rfl
@[simp] theorem exec_ptouch (a : BitVec 5) (m : BitVec 2) (s : State) : exec (.ptouch a m) s = execPtouch a m s := rfl
@[simp] theorem exec_mma (a : BitVec 5) (b : BitVec 5) (c : BitVec 5) (n : BitVec 2) (s : State) : exec (.mma a b c n) s = execMma a b c n s := rfl
@[simp] theorem exec_mzero (a : BitVec 5) (n : BitVec 2) (s : State) : exec (.mzero a n) s = execMzero a n s := rfl
@[simp] theorem exec_mload (a : BitVec 5) (b : BitVec 5) (n : BitVec 2) (s : State) : exec (.mload a b n) s = execMload a b n s := rfl
@[simp] theorem exec_mstore (a : BitVec 5) (b : BitVec 5) (c : BitVec 5) (n : BitVec 2) (s : State) : exec (.mstore a b c n) s = execMstore a b c n s := rfl
@[simp] theorem exec_mdrain (a : BitVec 5) (b : BitVec 5) (c : BitVec 5) (z : BitVec 1) (n : BitVec 2) (s : State) : exec (.mdrain a b c z n) s = execMdrain a b c z n s := rfl
@[simp] theorem exec_mfence (a : BitVec 5) (s : State) : exec (.mfence a) s = execMfence a s := rfl
@[simp] theorem exec_fold (a : BitVec 5) (b : BitVec 5) (c : BitVec 5) (s : BitVec 3) (p : BitVec 4) (st : State) : exec (.fold a b c s p) st = execFold a b c s p st := rfl
@[simp] theorem exec_fres (a : BitVec 5) (s : BitVec 3) (st : State) : exec (.fres a s) st = execFres a s st := rfl
@[simp] theorem exec_frel (a : BitVec 5) (s : State) : exec (.frel a) s = execFrel a s := rfl
@[simp] theorem exec_fkey (d : BitVec 5) (a : BitVec 5) (s : State) : exec (.fkey d a) s = execFkey d a s := rfl
@[simp] theorem exec_add16 (d : BitVec 5) (b : BitVec 5) (s : State) : exec (.add16 d b) s = execAdd16 d b s := rfl
@[simp] theorem exec_sub16 (d : BitVec 5) (b : BitVec 5) (s : State) : exec (.sub16 d b) s = execSub16 d b s := rfl
@[simp] theorem exec_and16 (d : BitVec 5) (b : BitVec 5) (s : State) : exec (.and16 d b) s = execAnd16 d b s := rfl
@[simp] theorem exec_or16 (d : BitVec 5) (b : BitVec 5) (s : State) : exec (.or16 d b) s = execOr16 d b s := rfl
@[simp] theorem exec_xor16 (d : BitVec 5) (b : BitVec 5) (s : State) : exec (.xor16 d b) s = execXor16 d b s := rfl
@[simp] theorem exec_sll16 (d : BitVec 5) (b : BitVec 5) (s : State) : exec (.sll16 d b) s = execSll16 d b s := rfl
@[simp] theorem exec_srl16 (d : BitVec 5) (b : BitVec 5) (s : State) : exec (.srl16 d b) s = execSrl16 d b s := rfl
@[simp] theorem exec_mv16 (d : BitVec 5) (b : BitVec 5) (s : State) : exec (.mv16 d b) s = execMv16 d b s := rfl
@[simp] theorem exec_addi16 (d : BitVec 5) (i : BitVec 5) (s : State) : exec (.addi16 d i) s = execAddi16 d i s := rfl
@[simp] theorem exec_fadd16 (d : BitVec 5) (b : BitVec 5) (s : State) : exec (.fadd16 d b) s = execFadd16 d b s := rfl
@[simp] theorem exec_fsub16 (d : BitVec 5) (b : BitVec 5) (s : State) : exec (.fsub16 d b) s = execFsub16 d b s := rfl
@[simp] theorem exec_fmul16 (d : BitVec 5) (b : BitVec 5) (s : State) : exec (.fmul16 d b) s = execFmul16 d b s := rfl
@[simp] theorem exec_fmax16 (d : BitVec 5) (b : BitVec 5) (s : State) : exec (.fmax16 d b) s = execFmax16 d b s := rfl
@[simp] theorem exec_vadd16 (d : BitVec 5) (b : BitVec 5) (s : State) : exec (.vadd16 d b) s = execVadd16 d b s := rfl
@[simp] theorem exec_vsub16 (d : BitVec 5) (b : BitVec 5) (s : State) : exec (.vsub16 d b) s = execVsub16 d b s := rfl
@[simp] theorem exec_vmul16 (d : BitVec 5) (b : BitVec 5) (s : State) : exec (.vmul16 d b) s = execVmul16 d b s := rfl
@[simp] theorem exec_sendrArrive (pkt : Nat) (s : State) : exec (.sendrArrive pkt) s = execSendrArrive pkt s := rfl
@[simp] theorem exec_xmsgArrive (pkt : Nat) (s : State) : exec (.xmsgArrive pkt) s = execXmsgArrive pkt s := rfl
@[simp] theorem exec_helperStart (core : Nat) (s : State) : exec (.helperStart core) s = execHelperStart core s := rfl
@[simp] theorem exec_enginePieceSend (core : Nat) (piece : PieceChoice) (s : State) : exec (.enginePieceSend core piece) s = execEnginePieceSend core piece s := rfl
@[simp] theorem exec_layoutRecordRead (core entry : Nat) (s : State) : exec (.layoutRecordRead core entry) s = execLayoutRecordRead core entry s := rfl
@[simp] theorem exec_engineSlotClaim (core entry : Nat) (s : State) : exec (.engineSlotClaim core entry) s = execEngineSlotClaim core entry s := rfl
@[simp] theorem exec_xpubSlotTake (core entry : Nat) (s : State) : exec (.xpubSlotTake core entry) s = execXpubSlotTake core entry s := rfl
@[simp] theorem exec_pieceLand (core entry piece : Nat) (s : State) : exec (.pieceLand core entry piece) s = execPieceLand core entry piece s := rfl
@[simp] theorem exec_handBack (core entry : Nat) (s : State) : exec (.handBack core entry) s = execHandBack core entry s := rfl
@[simp] theorem exec_ptouchResolved (core ctx : Nat) (s : State) : exec (.ptouchResolved core ctx) s = execPtouchResolved core ctx s := rfl
@[simp] theorem exec_discardAccept (core entry : Nat) (s : State) : exec (.discardAccept core entry) s = execDiscardAccept core entry s := rfl
@[simp] theorem exec_matrixCommandStart (quad : Nat) (s : State) : exec (.matrixCommandStart quad) s = execMatrixCommandStart quad s := rfl
@[simp] theorem exec_kstepTake (quad : Nat) (s : State) : exec (.kstepTake quad) s = execKstepTake quad s := rfl
@[simp] theorem exec_kstepRetire (quad : Nat) (s : State) : exec (.kstepRetire quad) s = execKstepRetire quad s := rfl
@[simp] theorem exec_kstepWaitTimeout (quad : Nat) (s : State) : exec (.kstepWaitTimeout quad) s = execKstepWaitTimeout quad s := rfl
@[simp] theorem exec_drainRowOffer (quad : Nat) (s : State) : exec (.drainRowOffer quad) s = execDrainRowOffer quad s := rfl
@[simp] theorem exec_mloadDone (quad acc : Nat) (s : State) : exec (.mloadDone quad acc) s = execMloadDone quad acc s := rfl
@[simp] theorem exec_foldOperandArrive (pkt : Nat) (s : State) : exec (.foldOperandArrive pkt) s = execFoldOperandArrive pkt s := rfl
@[simp] theorem exec_foldResultDeliver (fold job : Nat) (s : State) : exec (.foldResultDeliver fold job) s = execFoldResultDeliver fold job s := rfl
@[simp] theorem exec_foldOrphanTimeout (fold entry : Nat) (s : State) : exec (.foldOrphanTimeout fold entry) s = execFoldOrphanTimeout fold entry s := rfl
@[simp] theorem exec_fresGrant (fold : Nat) (s : State) : exec (.fresGrant fold) s = execFresGrant fold s := rfl
@[simp] theorem exec_ecallExit (core : Nat) (s : State) : exec (.ecallExit core) s = execEcallExit core s := rfl
@[simp] theorem exec_park (core ctx : Nat) (s : State) : exec (.park core ctx) s = execPark core ctx s := rfl
@[simp] theorem exec_setoto (core ctx : Nat) (s : State) : exec (.setoto core ctx) s = execSetoto core ctx s := rfl
@[simp] theorem exec_setseed (core ctx : Nat) (s : State) : exec (.setseed core ctx) s = execSetseed core ctx s := rfl
@[simp] theorem exec_wilziaAnswer (core ctx : Nat) (s : State) : exec (.wilziaAnswer core ctx) s = execWilziaAnswer core ctx s := rfl
@[simp] theorem exec_barTimeout (core ctx : Nat) (s : State) : exec (.barTimeout core ctx) s = execBarTimeout core ctx s := rfl
@[simp] theorem exec_presenceTimeout (core ctx : Nat) (s : State) : exec (.presenceTimeout core ctx) s = execPresenceTimeout core ctx s := rfl
@[simp] theorem exec_wfeRelease (core ctx : Nat) (s : State) : exec (.wfeRelease core ctx) s = execWfeRelease core ctx s := rfl
@[simp] theorem exec_remoteAck (core ctx id : Nat) (s : State) : exec (.remoteAck core ctx id) s = execRemoteAck core ctx id s := rfl
@[simp] theorem exec_streamPrefetch (core port : Nat) (s : State) : exec (.streamPrefetch core port) s = execStreamPrefetch core port s := rfl
@[simp] theorem exec_latheIssue (core : Nat) (s : State) : exec (.latheIssue core) s = execLatheIssue core s := rfl
@[simp] theorem exec_launch (fn queue : Nat) (packet : List (BitVec 64)) (s : State) : exec (.launch fn queue packet) s = execLaunch fn queue packet s := rfl
@[simp] theorem exec_fencePacket (fn queue : Nat) (packet : List (BitVec 64)) (s : State) : exec (.fencePacket fn queue packet) s = execFencePacket fn queue packet s := rfl
@[simp] theorem exec_fencePoll (fn queue tuple : Nat) (s : State) : exec (.fencePoll fn queue tuple) s = execFencePoll fn queue tuple s := rfl
@[simp] theorem exec_fenceTimeout (fn queue : Nat) (s : State) : exec (.fenceTimeout fn queue) s = execFenceTimeout fn queue s := rfl
@[simp] theorem exec_cond (fn queue : Nat) (packet : List (BitVec 64)) (s : State) : exec (.cond fn queue packet) s = execCond fn queue packet s := rfl
@[simp] theorem exec_signal (fn queue : Nat) (packet : List (BitVec 64)) (s : State) : exec (.signal fn queue packet) s = execSignal fn queue packet s := rfl
@[simp] theorem exec_copyPacket (fn queue : Nat) (packet : List (BitVec 64)) (data : List (BitVec 8)) (s : State) : exec (.copyPacket fn queue packet data) s = execCopyPacket fn queue packet data s := rfl
@[simp] theorem exec_copyDone (fn queue job : Nat) (s : State) : exec (.copyDone fn queue job) s = execCopyDone fn queue job s := rfl
@[simp] theorem exec_preemptHold (fn queue : Nat) (packet : List (BitVec 64)) (s : State) : exec (.preemptHold fn queue packet) s = execPreemptHold fn queue packet s := rfl
@[simp] theorem exec_preemptRelease (fn queue : Nat) (packet : List (BitVec 64)) (s : State) : exec (.preemptRelease fn queue packet) s = execPreemptRelease fn queue packet s := rfl
@[simp] theorem exec_killPacket (fn queue : Nat) (packet : List (BitVec 64)) (s : State) : exec (.killPacket fn queue packet) s = execKillPacket fn queue packet s := rfl
@[simp] theorem exec_queueDoorbell (fn queue : Nat) (tail : BitVec 16) (s : State) : exec (.queueDoorbell fn queue tail) s = execQueueDoorbell fn queue tail s := rfl
@[simp] theorem exec_queueEnable (fn queue : Nat) (cfg : BitVec 64) (s : State) : exec (.queueEnable fn queue cfg) s = execQueueEnable fn queue cfg s := rfl
@[simp] theorem exec_queueErrorClear (fn queue : Nat) (s : State) : exec (.queueErrorClear fn queue) s = execQueueErrorClear fn queue s := rfl
@[simp] theorem exec_hostRegisterWrite (fn offset : Nat) (value : BitVec 64) (s : State) : exec (.hostRegisterWrite fn offset value) s = execHostRegisterWrite fn offset value s := rfl
@[simp] theorem exec_bind (launch : Nat) (choice : BindChoice) (s : State) : exec (.bind launch choice) s = execBind launch choice s := rfl
@[simp] theorem exec_bindComplete (part : Nat) (s : State) : exec (.bindComplete part) s = execBindComplete part s := rfl
@[simp] theorem exec_bindWaitCap (launch : Nat) (s : State) : exec (.bindWaitCap launch) s = execBindWaitCap launch s := rfl
@[simp] theorem exec_launchEnd (part : Nat) (s : State) : exec (.launchEnd part) s = execLaunchEnd part s := rfl
@[simp] theorem exec_preemptRequest (part : Nat) (cause : PreemptCause) (s : State) : exec (.preemptRequest part cause) s = execPreemptRequest part cause s := rfl
@[simp] theorem exec_haltComplete (part : Nat) (s : State) : exec (.haltComplete part) s = execHaltComplete part s := rfl
@[simp] theorem exec_swapComplete (part : Nat) (s : State) : exec (.swapComplete part) s = execSwapComplete part s := rfl
@[simp] theorem exec_saveComplete (part : Nat) (s : State) : exec (.saveComplete part) s = execSaveComplete part s := rfl
@[simp] theorem exec_evict (part : Nat) (s : State) : exec (.evict part) s = execEvict part s := rfl
@[simp] theorem exec_restoreRequest (part : Nat) (s : State) : exec (.restoreRequest part) s = execRestoreRequest part s := rfl
@[simp] theorem exec_restoreDone (part : Nat) (intact : Bool) (s : State) : exec (.restoreDone part intact) s = execRestoreDone part intact s := rfl
@[simp] theorem exec_killRequest (part : Nat) (s : State) : exec (.killRequest part) s = execKillRequest part s := rfl
@[simp] theorem exec_killSweepEnd (part cluster : Nat) (s : State) : exec (.killSweepEnd part cluster) s = execKillSweepEnd part cluster s := rfl
@[simp] theorem exec_killConfirm (part : Nat) (s : State) : exec (.killConfirm part) s = execKillConfirm part s := rfl
@[simp] theorem exec_stackFlitReceive (link : Nat) (flit : LinkFlit) (s : State) : exec (.stackFlitReceive link flit) s = execStackFlitReceive link flit s := rfl
@[simp] theorem exec_linkReplay (link : Nat) (s : State) : exec (.linkReplay link) s = execLinkReplay link s := rfl
@[simp] theorem exec_linkRetrain (link : Nat) (ok : Bool) (s : State) : exec (.linkRetrain link ok) s = execLinkRetrain link ok s := rfl
@[simp] theorem exec_homeRequestApply (home index : Nat) (s : State) : exec (.homeRequestApply home index) s = execHomeRequestApply home index s := rfl
@[simp] theorem exec_gleanerStep (stack : Nat) (s : State) : exec (.gleanerStep stack) s = execGleanerStep stack s := rfl
@[simp] theorem exec_wilziaGrowthAnswer (stack : Nat) (moved : Nat) (donor : Nat) (reserve : Nat) (s : State) : exec (.wilziaGrowthAnswer stack moved donor reserve) s = execWilziaGrowthAnswer stack moved donor reserve s := rfl
@[simp] theorem exec_parkDeadline (stack : Nat) (s : State) : exec (.parkDeadline stack) s = execParkDeadline stack s := rfl
@[simp] theorem exec_faultAnswer (fn : Nat) (answer : BitVec 64) (s : State) : exec (.faultAnswer fn answer) s = execFaultAnswer fn answer s := rfl
@[simp] theorem exec_cxlLinkDown (port : Nat) (s : State) : exec (.cxlLinkDown port) s = execCxlLinkDown port s := rfl
@[simp] theorem exec_hostAtomic (fn : Nat) (va : BitVec 64) (op : HostAtomicOp) (bytes : Nat) (compare operand : BitVec 128) (s : State) : exec (.hostAtomic fn va op bytes compare operand) s = execHostAtomic fn va op bytes compare operand s := rfl
@[simp] theorem exec_ikirathFlitReceive (port : Nat) (flit : LinkFlit) (s : State) : exec (.ikirathFlitReceive port flit) s = execIkirathFlitReceive port flit s := rfl
@[simp] theorem exec_podArrival (pid module phase : Nat) (s : State) : exec (.podArrival pid module phase) s = execPodArrival pid module phase s := rfl
@[simp] theorem exec_podPidAllot (fn podgrp : Nat) (pid : BitVec 12) (s : State) : exec (.podPidAllot fn podgrp pid) s = execPodPidAllot fn podgrp pid s := rfl
@[simp] theorem exec_budgetPeriod (report : BudgetReport) (s : State) : exec (.budgetPeriod report) s = execBudgetPeriod report s := rfl
@[simp] theorem exec_opChangeDone (quad : Nat) (s : State) : exec (.opChangeDone quad) s = execOpChangeDone quad s := rfl
@[simp] theorem exec_currentLimit (die : Nat) (s : State) : exec (.currentLimit die) s = execCurrentLimit die s := rfl
@[simp] theorem exec_limitRelease (die : Nat) (s : State) : exec (.limitRelease die) s = execLimitRelease die s := rfl
@[simp] theorem exec_temperatureSample (temps : List Nat) (s : State) : exec (.temperatureSample temps) s = execTemperatureSample temps s := rfl
@[simp] theorem exec_savesDone (s : State) : exec .savesDone s = execSavesDone s := rfl
@[simp] theorem exec_thermalReenable (s : State) : exec .thermalReenable s = execThermalReenable s := rfl
@[simp] theorem exec_recoveryDone (s : State) : exec .recoveryDone s = execRecoveryDone s := rfl
@[simp] theorem exec_retentionEntry (cluster : Nat) (s : State) : exec (.retentionEntry cluster) s = execRetentionEntry cluster s := rfl
@[simp] theorem exec_retentionExit (cluster : Nat) (parityOk : Bool) (s : State) : exec (.retentionExit cluster parityOk) s = execRetentionExit cluster parityOk s := rfl
@[simp] theorem exec_powerOn (image : ImageCheck) (s : State) : exec (.powerOn image) s = execPowerOn image s := rfl
@[simp] theorem exec_bootReady (s : State) : exec .bootReady s = execBootReady s := rfl
@[simp] theorem exec_recoveryGo (image : ImageCheck) (s : State) : exec (.recoveryGo image) s = execRecoveryGo image s := rfl
@[simp] theorem exec_attestationGo (s : State) : exec .attestationGo s = execAttestationGo s := rfl
@[simp] theorem exec_attestationDone (s : State) : exec .attestationDone s = execAttestationDone s := rfl
@[simp] theorem exec_funcon (s : State) : exec .funcon s = execFuncon s := rfl
@[simp] theorem exec_funcoff (s : State) : exec .funcoff s = execFuncoff s := rfl
@[simp] theorem exec_trapk (s : State) : exec .trapk s = execTrapk s := rfl
@[simp] theorem exec_homerng (s : State) : exec .homerng s = execHomerng s := rfl
@[simp] theorem exec_map (resources : Bool) (s : State) : exec (.map resources) s = execMap resources s := rfl
@[simp] theorem exec_unmap (s : State) : exec .unmap s = execUnmap s := rfl
@[simp] theorem exec_quota (resources : Bool) (s : State) : exec (.quota resources) s = execQuota resources s := rfl
@[simp] theorem exec_functionRequestDone (s : State) : exec .functionRequestDone s = execFunctionRequestDone s := rfl
@[simp] theorem exec_lifetimeUpdate (s : State) : exec .lifetimeUpdate s = execLifetimeUpdate s := rfl
@[simp] theorem exec_fpVectorQueueDrain (core : Nat) (s : State) : exec (.fpVectorQueueDrain core) s = execFpVectorQueueDrain core s := rfl
@[simp] theorem exec_remoteAccessPerform (core ctx id : Nat) (s : State) : exec (.remoteAccessPerform core ctx id) s = execRemoteAccessPerform core ctx id s := rfl
@[simp] theorem exec_routerOutputGrant (router : Nat) (out : RouterPort) (cls : MsgClass) (s : State) : exec (.routerOutputGrant router out cls) s = execRouterOutputGrant router out cls s := rfl
@[simp] theorem exec_matrixCommandArrive (pkt : Nat) (s : State) : exec (.matrixCommandArrive pkt) s = execMatrixCommandArrive pkt s := rfl
@[simp] theorem exec_matrixCommandDone (quad : Nat) (s : State) : exec (.matrixCommandDone quad) s = execMatrixCommandDone quad s := rfl
@[simp] theorem exec_foldRequestArrive (pkt : Nat) (s : State) : exec (.foldRequestArrive pkt) s = execFoldRequestArrive pkt s := rfl
@[simp] theorem exec_foldAnswer (pkt : Nat) (s : State) : exec (.foldAnswer pkt) s = execFoldAnswer pkt s := rfl
@[simp] theorem exec_pieceFault (core entry piece : Nat) (s : State) : exec (.pieceFault core entry piece) s = execPieceFault core entry piece s := rfl
@[simp] theorem exec_linkRecovered (link : LinkName) (s : State) : exec (.linkRecovered link) s = execLinkRecovered link s := rfl
@[simp] theorem exec_podFormation (number : Nat) (routes : List (Nat × Nat)) (s : State) : exec (.podFormation number routes) s = execPodFormation number routes s := rfl
@[simp] theorem exec_uncorrectableError (where_ : ErrorSite) (s : State) : exec (.uncorrectableError where_) s = execUncorrectableError where_ s := rfl

end Sys2Proof.Machine
end

