-- ==== Sys2Proof/Laws/Gate.lean ====
section
/-! SUPPORT. The gate: what it says of an instruction that issues, and what an instruction that passes it comes to. -/

namespace Sys2Proof.Machine

theorem State.absentReg_none {s : State} {i : Instr} (h : s.SourcesPresent i) (hk : s.inHelper = false) :
    s.cx.absentReg i = none := by
  simp only [Ctx.absentReg, List.find?_eq_none, List.mem_filterMap]
  rintro n ⟨r, hr, hn⟩
  cases r <;> simp at hn
  subst hn
  have := h hk _ hr
  simpa using this

/-- An instruction that issues passes the gate. -/
theorem State.gate_go {s : State} {i : Instr} (h : s.Issues i) : s.gate i = .go := by
  obtain ⟨ho, hp, hh⟩ := h
  unfold State.Owns at ho
  unfold State.gate
  cases hk : s.inHelper <;> simp_all [State.absentReg_none hp]

/-- With nothing older under way, an instruction whose registers are owned and present issues. -/
theorem State.issues_of_settled {s : State} {i : Instr} (h : s.Settled) (ho : s.Owns i) (hp : s.SourcesPresent i) :
    s.Issues i := by
  obtain ⟨h1, h2, h3, h4, h5⟩ := h
  have hl : s.cx.latheActive = false := by simp [Ctx.latheActive, h5]
  have ha : s.cx.ahead = [] := by simp [Ctx.ahead, h2, hl]
  have hw : s.cx.windowHold i = false := by simp [Ctx.windowHold, h1]
  have hf : s.cx.holdsLathe i = false := by unfold Ctx.holdsLathe; split <;> simp [h2, h5]
  refine ⟨ho, hp, ?_⟩
  simp only [Ctx.holds, hw, hf, h3, h4, h2, hl]
  cases i.queued <;> cases i.cls <;> simp [ha, Ctx.hazard]

/-- An instruction that issues comes to its effect. -/
theorem gated_of_issues {s : State} {i : Instr} (h : s.Issues i) (k : State → Out) : gated i s k = k s := by
  simp [gated, State.gate_go h]

/-- With nothing older under way, a trap of the integer pipe is taken. -/
theorem State.trapWaits_of_settled {s : State} (h : s.Settled) : s.cx.trapWaits s.inHelper = false := by
  obtain ⟨h1, h2, h3, h4, h5⟩ := h
  simp [Ctx.trapWaits, Ctx.ahead, Ctx.latheActive, h1, h2, h3, h4, h5]

theorem State.raise_of_settled {s : State} (h : s.Settled) (t : State) (tr : Trap) :
    s.raise t tr = .next (t.takeTrap s.cur.1 s.cur.2 tr s.cx.pc [] s.cx.pc) := by
  simp [State.raise, State.trapWaits_of_settled h]

/-- What a gated instruction whose effect is `k` can come to, if it comes to a state: its effect, a wait, or the
trap ILLEGAL_REG. -/
theorem gated_cases {s t : State} {i : Instr} {k : State → Out} (h : gated i s k = .next t) :
    (s.gate i = .go ∧ k s = .next t) ∨ s.Waits t ∨ s.Traps t := by
  unfold gated at h
  split at h
  · exact .inl ⟨‹_›, h⟩
  · unfold State.raise at h
    split at h
    · cases h; exact .inr (.inl (.inl rfl))
    · cases h; exact .inr (.inr ⟨_, rfl⟩)
  · cases h; exact .inr (.inl (.inr ⟨_, _, rfl⟩))
  · cases h; exact .inr (.inl (.inl rfl))

end Sys2Proof.Machine
end

