-- ==== Sys2Proof/Laws/Gates.lean ====
section
/-! SUPPORT. Every encoded instruction but ECALL and the CSR instructions passes the gate before it acts: where the gate
does not let it go on, the gate alone says what happens. -/

namespace Sys2Proof.Machine

/-- What an instruction that the gate stops comes to. -/
def Gates (i : Instr) : Prop := ∀ s, s.gate i ≠ .go → exec i s = gated i s .next

theorem gated_stopped {i : Instr} {s : State} (k : State → Out) (h : s.gate i ≠ .go) : gated i s k = gated i s .next := by
  unfold gated
  cases hg : s.gate i <;> simp_all

theorem gatedRun_stopped {i : Instr} {s : State} (k : State → Run) (h : s.gate i ≠ .go) :
    gatedRun i s k = gated i s .next := gated_stopped _ h

theorem gatedOrder_stopped {i : Instr} {s : State} (k : State → Run) (h : s.gate i ≠ .go) :
    gatedOrder i s k = gated i s .next := gated_stopped _ h

theorem viaQueue_stopped {i : Instr} {s : State} (k : State → Run) (h : s.gate i ≠ .go) :
    viaQueue i s k = gated i s .next := gated_stopped _ h

theorem writesX_stopped {i : Instr} (d : BitVec 5) (v : State → BitVec 64) (len : Nat) {s : State} (h : s.gate i ≠ .go) :
    writesX i d v len s = gated i s .next := by
  simp only [writesX]; exact gated_stopped _ h

theorem gates_add (d : BitVec 5) (a : BitVec 5) (b : BitVec 5) : Gates (.add d a b) := fun st h => by
  rw [exec_add]; unfold execAdd; exact writesX_stopped _ _ _ h
theorem gates_sll (d : BitVec 5) (a : BitVec 5) (b : BitVec 5) : Gates (.sll d a b) := fun st h => by
  rw [exec_sll]; unfold execSll; exact writesX_stopped _ _ _ h
theorem gates_slt (d : BitVec 5) (a : BitVec 5) (b : BitVec 5) : Gates (.slt d a b) := fun st h => by
  rw [exec_slt]; unfold execSlt; exact writesX_stopped _ _ _ h
theorem gates_sltu (d : BitVec 5) (a : BitVec 5) (b : BitVec 5) : Gates (.sltu d a b) := fun st h => by
  rw [exec_sltu]; unfold execSltu; exact writesX_stopped _ _ _ h
theorem gates_xor (d : BitVec 5) (a : BitVec 5) (b : BitVec 5) : Gates (.xor d a b) := fun st h => by
  rw [exec_xor]; unfold execXor; exact writesX_stopped _ _ _ h
theorem gates_srl (d : BitVec 5) (a : BitVec 5) (b : BitVec 5) : Gates (.srl d a b) := fun st h => by
  rw [exec_srl]; unfold execSrl; exact writesX_stopped _ _ _ h
theorem gates_or (d : BitVec 5) (a : BitVec 5) (b : BitVec 5) : Gates (.or d a b) := fun st h => by
  rw [exec_or]; unfold execOr; exact writesX_stopped _ _ _ h
theorem gates_and (d : BitVec 5) (a : BitVec 5) (b : BitVec 5) : Gates (.and d a b) := fun st h => by
  rw [exec_and]; unfold execAnd; exact writesX_stopped _ _ _ h
theorem gates_sub (d : BitVec 5) (a : BitVec 5) (b : BitVec 5) : Gates (.sub d a b) := fun st h => by
  rw [exec_sub]; unfold execSub; exact writesX_stopped _ _ _ h
theorem gates_sra (d : BitVec 5) (a : BitVec 5) (b : BitVec 5) : Gates (.sra d a b) := fun st h => by
  rw [exec_sra]; unfold execSra; exact writesX_stopped _ _ _ h
theorem gates_mul (d : BitVec 5) (a : BitVec 5) (b : BitVec 5) : Gates (.mul d a b) := fun st h => by
  rw [exec_mul]; unfold execMul; exact writesX_stopped _ _ _ h
theorem gates_mulh (d : BitVec 5) (a : BitVec 5) (b : BitVec 5) : Gates (.mulh d a b) := fun st h => by
  rw [exec_mulh]; unfold execMulh; exact writesX_stopped _ _ _ h
theorem gates_mulhsu (d : BitVec 5) (a : BitVec 5) (b : BitVec 5) : Gates (.mulhsu d a b) := fun st h => by
  rw [exec_mulhsu]; unfold execMulhsu; exact writesX_stopped _ _ _ h
theorem gates_mulhu (d : BitVec 5) (a : BitVec 5) (b : BitVec 5) : Gates (.mulhu d a b) := fun st h => by
  rw [exec_mulhu]; unfold execMulhu; exact writesX_stopped _ _ _ h
theorem gates_div (d : BitVec 5) (a : BitVec 5) (b : BitVec 5) : Gates (.div d a b) := fun st h => by
  rw [exec_div]; unfold execDiv; exact writesX_stopped _ _ _ h
theorem gates_divu (d : BitVec 5) (a : BitVec 5) (b : BitVec 5) : Gates (.divu d a b) := fun st h => by
  rw [exec_divu]; unfold execDivu; exact writesX_stopped _ _ _ h
theorem gates_rem (d : BitVec 5) (a : BitVec 5) (b : BitVec 5) : Gates (.rem d a b) := fun st h => by
  rw [exec_rem]; unfold execRem; exact writesX_stopped _ _ _ h
theorem gates_remu (d : BitVec 5) (a : BitVec 5) (b : BitVec 5) : Gates (.remu d a b) := fun st h => by
  rw [exec_remu]; unfold execRemu; exact writesX_stopped _ _ _ h
theorem gates_min (d : BitVec 5) (a : BitVec 5) (b : BitVec 5) : Gates (.min d a b) := fun st h => by
  rw [exec_min]; unfold execMin; exact writesX_stopped _ _ _ h
theorem gates_max (d : BitVec 5) (a : BitVec 5) (b : BitVec 5) : Gates (.max d a b) := fun st h => by
  rw [exec_max]; unfold execMax; exact writesX_stopped _ _ _ h
theorem gates_minu (d : BitVec 5) (a : BitVec 5) (b : BitVec 5) : Gates (.minu d a b) := fun st h => by
  rw [exec_minu]; unfold execMinu; exact writesX_stopped _ _ _ h
theorem gates_maxu (d : BitVec 5) (a : BitVec 5) (b : BitVec 5) : Gates (.maxu d a b) := fun st h => by
  rw [exec_maxu]; unfold execMaxu; exact writesX_stopped _ _ _ h
theorem gates_clz (d : BitVec 5) (a : BitVec 5) : Gates (.clz d a) := fun st h => by
  rw [exec_clz]; unfold execClz; exact writesX_stopped _ _ _ h
theorem gates_ctz (d : BitVec 5) (a : BitVec 5) : Gates (.ctz d a) := fun st h => by
  rw [exec_ctz]; unfold execCtz; exact writesX_stopped _ _ _ h
theorem gates_popc (d : BitVec 5) (a : BitVec 5) : Gates (.popc d a) := fun st h => by
  rw [exec_popc]; unfold execPopc; exact writesX_stopped _ _ _ h
theorem gates_brev (d : BitVec 5) (a : BitVec 5) : Gates (.brev d a) := fun st h => by
  rw [exec_brev]; unfold execBrev; exact writesX_stopped _ _ _ h
theorem gates_sextb (d : BitVec 5) (a : BitVec 5) : Gates (.sextb d a) := fun st h => by
  rw [exec_sextb]; unfold execSextb; exact writesX_stopped _ _ _ h
theorem gates_sexth (d : BitVec 5) (a : BitVec 5) : Gates (.sexth d a) := fun st h => by
  rw [exec_sexth]; unfold execSexth; exact writesX_stopped _ _ _ h
theorem gates_sextw (d : BitVec 5) (a : BitVec 5) : Gates (.sextw d a) := fun st h => by
  rw [exec_sextw]; unfold execSextw; exact writesX_stopped _ _ _ h
theorem gates_addi (d : BitVec 5) (a : BitVec 5) (i : BitVec 12) : Gates (.addi d a i) := fun st h => by
  rw [exec_addi]; unfold execAddi; exact writesX_stopped _ _ _ h
theorem gates_slti (d : BitVec 5) (a : BitVec 5) (i : BitVec 12) : Gates (.slti d a i) := fun st h => by
  rw [exec_slti]; unfold execSlti; exact writesX_stopped _ _ _ h
theorem gates_sltiu (d : BitVec 5) (a : BitVec 5) (i : BitVec 12) : Gates (.sltiu d a i) := fun st h => by
  rw [exec_sltiu]; unfold execSltiu; exact writesX_stopped _ _ _ h
theorem gates_xori (d : BitVec 5) (a : BitVec 5) (i : BitVec 12) : Gates (.xori d a i) := fun st h => by
  rw [exec_xori]; unfold execXori; exact writesX_stopped _ _ _ h
theorem gates_ori (d : BitVec 5) (a : BitVec 5) (i : BitVec 12) : Gates (.ori d a i) := fun st h => by
  rw [exec_ori]; unfold execOri; exact writesX_stopped _ _ _ h
theorem gates_andi (d : BitVec 5) (a : BitVec 5) (i : BitVec 12) : Gates (.andi d a i) := fun st h => by
  rw [exec_andi]; unfold execAndi; exact writesX_stopped _ _ _ h
theorem gates_slli (d : BitVec 5) (a : BitVec 5) (s : BitVec 6) : Gates (.slli d a s) := fun st h => by
  rw [exec_slli]; unfold execSlli; exact writesX_stopped _ _ _ h
theorem gates_srli (d : BitVec 5) (a : BitVec 5) (s : BitVec 6) : Gates (.srli d a s) := fun st h => by
  rw [exec_srli]; unfold execSrli; exact writesX_stopped _ _ _ h
theorem gates_srai (d : BitVec 5) (a : BitVec 5) (s : BitVec 6) : Gates (.srai d a s) := fun st h => by
  rw [exec_srai]; unfold execSrai; exact writesX_stopped _ _ _ h
theorem gates_lih (d : BitVec 5) (i : BitVec 20) : Gates (.lih d i) := fun st h => by
  rw [exec_lih]; unfold execLih; exact writesX_stopped _ _ _ h
theorem gates_addpc (d : BitVec 5) (i : BitVec 20) : Gates (.addpc d i) := fun st h => by
  rw [exec_addpc]; unfold execAddpc; exact writesX_stopped _ _ _ h
theorem load_stopped {i : Instr} (d a : BitVec 5) (imm : BitVec 12) (size : Nat) (signed window : Bool) {s : State} (h : s.gate i ≠ .go) :
    load i d a imm size signed window s = gated i s .next := by
  simp only [load]; exact gated_stopped _ h

theorem gates_lb (d : BitVec 5) (a : BitVec 5) (i : BitVec 12) : Gates (.lb d a i) := fun st h => by
  rw [exec_lb]; unfold execLb; exact load_stopped _ _ _ _ _ _ h
theorem gates_lh (d : BitVec 5) (a : BitVec 5) (i : BitVec 12) : Gates (.lh d a i) := fun st h => by
  rw [exec_lh]; unfold execLh; exact load_stopped _ _ _ _ _ _ h
theorem gates_lw (d : BitVec 5) (a : BitVec 5) (i : BitVec 12) : Gates (.lw d a i) := fun st h => by
  rw [exec_lw]; unfold execLw; exact load_stopped _ _ _ _ _ _ h
theorem gates_ld (d : BitVec 5) (a : BitVec 5) (i : BitVec 12) : Gates (.ld d a i) := fun st h => by
  rw [exec_ld]; unfold execLd; exact load_stopped _ _ _ _ _ _ h
theorem gates_lbu (d : BitVec 5) (a : BitVec 5) (i : BitVec 12) : Gates (.lbu d a i) := fun st h => by
  rw [exec_lbu]; unfold execLbu; exact load_stopped _ _ _ _ _ _ h
theorem gates_lhu (d : BitVec 5) (a : BitVec 5) (i : BitVec 12) : Gates (.lhu d a i) := fun st h => by
  rw [exec_lhu]; unfold execLhu; exact load_stopped _ _ _ _ _ _ h
theorem gates_lwu (d : BitVec 5) (a : BitVec 5) (i : BitVec 12) : Gates (.lwu d a i) := fun st h => by
  rw [exec_lwu]; unfold execLwu; exact load_stopped _ _ _ _ _ _ h
theorem store_stopped {i : Instr} (a b : BitVec 5) (imm : BitVec 12) (size : Nat) {s : State} (h : s.gate i ≠ .go) :
    store i a b imm size s = gated i s .next := by
  simp only [store]; exact gated_stopped _ h

theorem gates_sb (a : BitVec 5) (b : BitVec 5) (i : BitVec 12) : Gates (.sb a b i) := fun st h => by
  rw [exec_sb]; unfold execSb; exact store_stopped _ _ _ _ h
theorem gates_sh (a : BitVec 5) (b : BitVec 5) (i : BitVec 12) : Gates (.sh a b i) := fun st h => by
  rw [exec_sh]; unfold execSh; exact store_stopped _ _ _ _ h
theorem gates_sw (a : BitVec 5) (b : BitVec 5) (i : BitVec 12) : Gates (.sw a b i) := fun st h => by
  rw [exec_sw]; unfold execSw; exact store_stopped _ _ _ _ h
theorem gates_sd (a : BitVec 5) (b : BitVec 5) (i : BitVec 12) : Gates (.sd a b i) := fun st h => by
  rw [exec_sd]; unfold execSd; exact store_stopped _ _ _ _ h
theorem branch_stopped {i : Instr} (cond : State → Bool) (imm : BitVec 12) {s : State} (h : s.gate i ≠ .go) :
    branch i cond imm s = gated i s .next := by
  simp only [branch]; exact gated_stopped _ h

theorem gates_beq (a : BitVec 5) (b : BitVec 5) (i : BitVec 12) : Gates (.beq a b i) := fun st h => by
  rw [exec_beq]; unfold execBeq; exact branch_stopped _ _ h
theorem gates_bne (a : BitVec 5) (b : BitVec 5) (i : BitVec 12) : Gates (.bne a b i) := fun st h => by
  rw [exec_bne]; unfold execBne; exact branch_stopped _ _ h
theorem gates_blt (a : BitVec 5) (b : BitVec 5) (i : BitVec 12) : Gates (.blt a b i) := fun st h => by
  rw [exec_blt]; unfold execBlt; exact branch_stopped _ _ h
theorem gates_bge (a : BitVec 5) (b : BitVec 5) (i : BitVec 12) : Gates (.bge a b i) := fun st h => by
  rw [exec_bge]; unfold execBge; exact branch_stopped _ _ h
theorem gates_bltu (a : BitVec 5) (b : BitVec 5) (i : BitVec 12) : Gates (.bltu a b i) := fun st h => by
  rw [exec_bltu]; unfold execBltu; exact branch_stopped _ _ h
theorem gates_bgeu (a : BitVec 5) (b : BitVec 5) (i : BitVec 12) : Gates (.bgeu a b i) := fun st h => by
  rw [exec_bgeu]; unfold execBgeu; exact branch_stopped _ _ h
theorem gates_jal (d : BitVec 5) (i : BitVec 20) : Gates (.jal d i) := fun st h => by
  rw [exec_jal]; unfold execJal; exact gated_stopped _ h
theorem gates_jalr (d : BitVec 5) (a : BitVec 5) (i : BitVec 12) : Gates (.jalr d a i) := fun st h => by
  rw [exec_jalr]; unfold execJalr; exact gatedRun_stopped _ h
theorem gates_bfx (d : BitVec 5) (a : BitVec 5) (l : BitVec 6) (p : BitVec 6) : Gates (.bfx d a l p) := fun st h => by
  rw [exec_bfx]; unfold execBfx; exact writesX_stopped _ _ _ h
theorem gates_bfi (d : BitVec 5) (a : BitVec 5) (l : BitVec 6) (p : BitVec 6) : Gates (.bfi d a l p) := fun st h => by
  rw [exec_bfi]; unfold execBfi; exact writesX_stopped _ _ _ h
theorem gates_mkaddr (d : BitVec 5) (a : BitVec 5) (b : BitVec 5) : Gates (.mkaddr d a b) := fun st h => by
  rw [exec_mkaddr]; unfold execMkaddr; exact gatedRun_stopped _ h
theorem gates_absaddr (d : BitVec 5) (a : BitVec 5) : Gates (.absaddr d a) := fun st h => by
  rw [exec_absaddr]; unfold execAbsaddr; exact gatedRun_stopped _ h
theorem gates_ebreak : Gates .ebreak := fun st h => by
  rw [exec_ebreak]; unfold execEbreak; exact gated_stopped _ h
theorem gates_tret : Gates .tret := fun st h => by
  rw [exec_tret]; unfold execTret; exact gatedRun_stopped _ h
theorem gates_wfe : Gates .wfe := fun st h => by
  rw [exec_wfe]; unfold execWfe; exact gated_stopped _ h
theorem gates_isync : Gates .isync := fun st h => by
  rw [exec_isync]; unfold execIsync; exact gated_stopped _ h
theorem gates_flh (d : BitVec 5) (a : BitVec 5) (i : BitVec 12) : Gates (.flh d a i) := fun st h => by
  rw [exec_flh]; unfold execFlh; exact viaQueue_stopped _ h
theorem gates_flw (d : BitVec 5) (a : BitVec 5) (i : BitVec 12) : Gates (.flw d a i) := fun st h => by
  rw [exec_flw]; unfold execFlw; exact viaQueue_stopped _ h
theorem gates_fld (d : BitVec 5) (a : BitVec 5) (i : BitVec 12) : Gates (.fld d a i) := fun st h => by
  rw [exec_fld]; unfold execFld; exact viaQueue_stopped _ h
theorem gates_fsh (a : BitVec 5) (b : BitVec 5) (i : BitVec 12) : Gates (.fsh a b i) := fun st h => by
  rw [exec_fsh]; unfold execFsh; exact viaQueue_stopped _ h
theorem gates_fsw (a : BitVec 5) (b : BitVec 5) (i : BitVec 12) : Gates (.fsw a b i) := fun st h => by
  rw [exec_fsw]; unfold execFsw; exact viaQueue_stopped _ h
theorem gates_fsd (a : BitVec 5) (b : BitVec 5) (i : BitVec 12) : Gates (.fsd a b i) := fun st h => by
  rw [exec_fsd]; unfold execFsd; exact viaQueue_stopped _ h
theorem gates_fadd (d : BitVec 5) (a : BitVec 5) (b : BitVec 5) (f : BitVec 1) (r : BitVec 3) : Gates (.fadd d a b f r) := fun st h => by
  rw [exec_fadd]; unfold execFadd; exact viaQueue_stopped _ h
theorem gates_fsub (d : BitVec 5) (a : BitVec 5) (b : BitVec 5) (f : BitVec 1) (r : BitVec 3) : Gates (.fsub d a b f r) := fun st h => by
  rw [exec_fsub]; unfold execFsub; exact viaQueue_stopped _ h
theorem gates_fmul (d : BitVec 5) (a : BitVec 5) (b : BitVec 5) (f : BitVec 1) (r : BitVec 3) : Gates (.fmul d a b f r) := fun st h => by
  rw [exec_fmul]; unfold execFmul; exact viaQueue_stopped _ h
theorem gates_fdiv (d : BitVec 5) (a : BitVec 5) (b : BitVec 5) (f : BitVec 1) (r : BitVec 3) : Gates (.fdiv d a b f r) := fun st h => by
  rw [exec_fdiv]; unfold execFdiv; exact viaQueue_stopped _ h
theorem gates_fsqrt (d : BitVec 5) (a : BitVec 5) (f : BitVec 1) (r : BitVec 3) : Gates (.fsqrt d a f r) := fun st h => by
  rw [exec_fsqrt]; unfold execFsqrt; exact viaQueue_stopped _ h
theorem gates_fsgnj (d : BitVec 5) (a : BitVec 5) (b : BitVec 5) (f : BitVec 1) : Gates (.fsgnj d a b f) := fun st h => by
  rw [exec_fsgnj]; unfold execFsgnj; exact viaQueue_stopped _ h
theorem gates_fsgnjn (d : BitVec 5) (a : BitVec 5) (b : BitVec 5) (f : BitVec 1) : Gates (.fsgnjn d a b f) := fun st h => by
  rw [exec_fsgnjn]; unfold execFsgnjn; exact viaQueue_stopped _ h
theorem gates_fsgnjx (d : BitVec 5) (a : BitVec 5) (b : BitVec 5) (f : BitVec 1) : Gates (.fsgnjx d a b f) := fun st h => by
  rw [exec_fsgnjx]; unfold execFsgnjx; exact viaQueue_stopped _ h
theorem gates_fmin (d : BitVec 5) (a : BitVec 5) (b : BitVec 5) (f : BitVec 1) : Gates (.fmin d a b f) := fun st h => by
  rw [exec_fmin]; unfold execFmin; exact viaQueue_stopped _ h
theorem gates_fmax (d : BitVec 5) (a : BitVec 5) (b : BitVec 5) (f : BitVec 1) : Gates (.fmax d a b f) := fun st h => by
  rw [exec_fmax]; unfold execFmax; exact viaQueue_stopped _ h
theorem gates_fle (d : BitVec 5) (a : BitVec 5) (b : BitVec 5) (f : BitVec 1) : Gates (.fle d a b f) := fun st h => by
  rw [exec_fle]; unfold execFle; exact viaQueue_stopped _ h
theorem gates_flt (d : BitVec 5) (a : BitVec 5) (b : BitVec 5) (f : BitVec 1) : Gates (.flt d a b f) := fun st h => by
  rw [exec_flt]; unfold execFlt; exact viaQueue_stopped _ h
theorem gates_feq (d : BitVec 5) (a : BitVec 5) (b : BitVec 5) (f : BitVec 1) : Gates (.feq d a b f) := fun st h => by
  rw [exec_feq]; unfold execFeq; exact viaQueue_stopped _ h
theorem gates_fclass (d : BitVec 5) (a : BitVec 5) (f : BitVec 1) : Gates (.fclass d a f) := fun st h => by
  rw [exec_fclass]; unfold execFclass; exact viaQueue_stopped _ h
theorem gates_fcvtFloatFloat (d : BitVec 5) (a : BitVec 5) (e : BitVec 2) (s : BitVec 1) (g : BitVec 2) (r : BitVec 3) : Gates (.fcvtFloatFloat d a e s g r) := fun st h => by
  rw [exec_fcvtFloatFloat]; unfold execFcvtFloatFloat; exact viaQueue_stopped _ h
theorem gates_fcvtFloatInt (d : BitVec 5) (a : BitVec 5) (e : BitVec 2) (s : BitVec 1) (t : BitVec 2) (r : BitVec 3) : Gates (.fcvtFloatInt d a e s t r) := fun st h => by
  rw [exec_fcvtFloatInt]; unfold execFcvtFloatInt; exact viaQueue_stopped _ h
theorem gates_fcvtIntFloat (d : BitVec 5) (a : BitVec 5) (e : BitVec 2) (t : BitVec 2) (r : BitVec 3) : Gates (.fcvtIntFloat d a e t r) := fun st h => by
  rw [exec_fcvtIntFloat]; unfold execFcvtIntFloat; exact viaQueue_stopped _ h
theorem gates_fmvx (d : BitVec 5) (a : BitVec 5) (w : BitVec 2) : Gates (.fmvx d a w) := fun st h => by
  rw [exec_fmvx]; unfold execFmvx; exact viaQueue_stopped _ h
theorem gates_fmvf (d : BitVec 5) (a : BitVec 5) (w : BitVec 2) : Gates (.fmvf d a w) := fun st h => by
  rw [exec_fmvf]; unfold execFmvf; exact viaQueue_stopped _ h
theorem gates_fmadd (d : BitVec 5) (a : BitVec 5) (b : BitVec 5) (c : BitVec 5) (f : BitVec 1) (r : BitVec 3) : Gates (.fmadd d a b c f r) := fun st h => by
  rw [exec_fmadd]; unfold execFmadd; exact viaQueue_stopped _ h
theorem gates_fmsub (d : BitVec 5) (a : BitVec 5) (b : BitVec 5) (c : BitVec 5) (f : BitVec 1) (r : BitVec 3) : Gates (.fmsub d a b c f r) := fun st h => by
  rw [exec_fmsub]; unfold execFmsub; exact viaQueue_stopped _ h
theorem gates_fnmadd (d : BitVec 5) (a : BitVec 5) (b : BitVec 5) (c : BitVec 5) (f : BitVec 1) (r : BitVec 3) : Gates (.fnmadd d a b c f r) := fun st h => by
  rw [exec_fnmadd]; unfold execFnmadd; exact viaQueue_stopped _ h
theorem gates_fnmsub (d : BitVec 5) (a : BitVec 5) (b : BitVec 5) (c : BitVec 5) (f : BitVec 1) (r : BitVec 3) : Gates (.fnmsub d a b c f r) := fun st h => by
  rw [exec_fnmsub]; unfold execFnmsub; exact viaQueue_stopped _ h
theorem gates_sbind (d : BitVec 5) (k : BitVec 1) (p : BitVec 2) : Gates (.sbind d k p) := fun st h => by
  rw [exec_sbind]; unfold execSbind; exact gatedRun_stopped _ h
theorem gates_sunbind (p : BitVec 2) : Gates (.sunbind p) := fun st h => by
  rw [exec_sunbind]; unfold execSunbind; exact gated_stopped _ h
theorem gates_sskip (a : BitVec 5) (p : BitVec 2) : Gates (.sskip a p) := fun st h => by
  rw [exec_sskip]; unfold execSskip; exact gated_stopped _ h
theorem gates_ssync (m : BitVec 4) : Gates (.ssync m) := fun st h => by
  rw [exec_ssync]; unfold execSsync; exact gated_stopped _ h
theorem frep_stopped {i : Instr} (n : BitVec 4) (last : State → Nat) {s : State} (h : s.gate i ≠ .go) :
    frep i n last s = gated i s .next := by
  simp only [frep]; exact gated_stopped _ h

theorem gates_frep (a : BitVec 5) (n : BitVec 4) : Gates (.frep a n) := fun st h => by
  rw [exec_frep]; unfold execFrep; exact frep_stopped _ _ h
theorem gates_frepi (c : BitVec 8) (n : BitVec 4) : Gates (.frepi c n) := fun st h => by
  rw [exec_frepi]; unfold execFrepi; exact frep_stopped _ _ h
theorem gates_vld (d : BitVec 5) (a : BitVec 5) (t : BitVec 4) (o : BitVec 8) : Gates (.vld d a t o) := fun st h => by
  rw [exec_vld]; unfold execVld; exact viaQueue_stopped _ h
theorem gates_vst (a : BitVec 5) (b : BitVec 5) (o : BitVec 8) : Gates (.vst a b o) := fun st h => by
  rw [exec_vst]; unfold execVst; exact viaQueue_stopped _ h
theorem gates_vlds (d : BitVec 5) (a : BitVec 5) (b : BitVec 5) (e : BitVec 2) (t : BitVec 4) : Gates (.vlds d a b e t) := fun st h => by
  rw [exec_vlds]; unfold execVlds; exact viaQueue_stopped _ h
theorem gates_vsts (d : BitVec 5) (a : BitVec 5) (b : BitVec 5) (e : BitVec 2) : Gates (.vsts d a b e) := fun st h => by
  rw [exec_vsts]; unfold execVsts; exact viaQueue_stopped _ h
theorem gates_vgather (d : BitVec 5) (a : BitVec 5) (b : BitVec 5) (e : BitVec 2) (t : BitVec 4) : Gates (.vgather d a b e t) := fun st h => by
  rw [exec_vgather]; unfold execVgather; exact viaQueue_stopped _ h
theorem gates_vscatter (d : BitVec 5) (a : BitVec 5) (b : BitVec 5) (e : BitVec 2) : Gates (.vscatter d a b e) := fun st h => by
  rw [exec_vscatter]; unfold execVscatter; exact viaQueue_stopped _ h
theorem gates_vldb (d : BitVec 5) (a : BitVec 5) (i : BitVec 12) : Gates (.vldb d a i) := fun st h => by
  rw [exec_vldb]; unfold execVldb; exact viaQueue_stopped _ h
theorem gates_vadd (d : BitVec 5) (a : BitVec 5) (b : BitVec 5) (r : BitVec 3) : Gates (.vadd d a b r) := fun st h => by
  rw [exec_vadd]; unfold execVadd; exact viaQueue_stopped _ h
theorem gates_vsub (d : BitVec 5) (a : BitVec 5) (b : BitVec 5) (r : BitVec 3) : Gates (.vsub d a b r) := fun st h => by
  rw [exec_vsub]; unfold execVsub; exact viaQueue_stopped _ h
theorem gates_vmul (d : BitVec 5) (a : BitVec 5) (b : BitVec 5) (r : BitVec 3) : Gates (.vmul d a b r) := fun st h => by
  rw [exec_vmul]; unfold execVmul; exact viaQueue_stopped _ h
theorem gates_vmin (d : BitVec 5) (a : BitVec 5) (b : BitVec 5) : Gates (.vmin d a b) := fun st h => by
  rw [exec_vmin]; unfold execVmin; exact viaQueue_stopped _ h
theorem gates_vmax (d : BitVec 5) (a : BitVec 5) (b : BitVec 5) : Gates (.vmax d a b) := fun st h => by
  rw [exec_vmax]; unfold execVmax; exact viaQueue_stopped _ h
theorem gates_vand (d : BitVec 5) (a : BitVec 5) (b : BitVec 5) : Gates (.vand d a b) := fun st h => by
  rw [exec_vand]; unfold execVand; exact viaQueue_stopped _ h
theorem gates_vor (d : BitVec 5) (a : BitVec 5) (b : BitVec 5) : Gates (.vor d a b) := fun st h => by
  rw [exec_vor]; unfold execVor; exact viaQueue_stopped _ h
theorem gates_vxor (d : BitVec 5) (a : BitVec 5) (b : BitVec 5) : Gates (.vxor d a b) := fun st h => by
  rw [exec_vxor]; unfold execVxor; exact viaQueue_stopped _ h
theorem gates_vshl (d : BitVec 5) (a : BitVec 5) (b : BitVec 5) : Gates (.vshl d a b) := fun st h => by
  rw [exec_vshl]; unfold execVshl; exact viaQueue_stopped _ h
theorem gates_vshr (d : BitVec 5) (a : BitVec 5) (b : BitVec 5) : Gates (.vshr d a b) := fun st h => by
  rw [exec_vshr]; unfold execVshr; exact viaQueue_stopped _ h
theorem gates_vsra (d : BitVec 5) (a : BitVec 5) (b : BitVec 5) : Gates (.vsra d a b) := fun st h => by
  rw [exec_vsra]; unfold execVsra; exact viaQueue_stopped _ h
theorem gates_vcmp (d : BitVec 5) (a : BitVec 5) (b : BitVec 5) (c : BitVec 3) : Gates (.vcmp d a b c) := fun st h => by
  rw [exec_vcmp]; unfold execVcmp; exact viaQueue_stopped _ h
theorem gates_vabs (d : BitVec 5) (a : BitVec 5) : Gates (.vabs d a) := fun st h => by
  rw [exec_vabs]; unfold execVabs; exact viaQueue_stopped _ h
theorem gates_vneg (d : BitVec 5) (a : BitVec 5) : Gates (.vneg d a) := fun st h => by
  rw [exec_vneg]; unfold execVneg; exact viaQueue_stopped _ h
theorem gates_vfma (d : BitVec 5) (a : BitVec 5) (b : BitVec 5) (c : BitVec 5) (r : BitVec 3) : Gates (.vfma d a b c r) := fun st h => by
  rw [exec_vfma]; unfold execVfma; exact viaQueue_stopped _ h
theorem gates_vfms (d : BitVec 5) (a : BitVec 5) (b : BitVec 5) (c : BitVec 5) (r : BitVec 3) : Gates (.vfms d a b c r) := fun st h => by
  rw [exec_vfms]; unfold execVfms; exact viaQueue_stopped _ h
theorem gates_vnfma (d : BitVec 5) (a : BitVec 5) (b : BitVec 5) (c : BitVec 5) (r : BitVec 3) : Gates (.vnfma d a b c r) := fun st h => by
  rw [exec_vnfma]; unfold execVnfma; exact viaQueue_stopped _ h
theorem gates_vsel (d : BitVec 5) (a : BitVec 5) (b : BitVec 5) (c : BitVec 5) : Gates (.vsel d a b c) := fun st h => by
  rw [exec_vsel]; unfold execVsel; exact viaQueue_stopped _ h
theorem gates_vredAdd (d : BitVec 5) (a : BitVec 5) (r : BitVec 3) : Gates (.vredAdd d a r) := fun st h => by
  rw [exec_vredAdd]; unfold execVredAdd; exact viaQueue_stopped _ h
theorem gates_vredMin (d : BitVec 5) (a : BitVec 5) : Gates (.vredMin d a) := fun st h => by
  rw [exec_vredMin]; unfold execVredMin; exact viaQueue_stopped _ h
theorem gates_vredMax (d : BitVec 5) (a : BitVec 5) : Gates (.vredMax d a) := fun st h => by
  rw [exec_vredMax]; unfold execVredMax; exact viaQueue_stopped _ h
theorem gates_vdot (d : BitVec 5) (a : BitVec 5) (b : BitVec 5) (r : BitVec 3) : Gates (.vdot d a b r) := fun st h => by
  rw [exec_vdot]; unfold execVdot; exact viaQueue_stopped _ h
theorem gates_vcvt (d : BitVec 5) (a : BitVec 5) (s : BitVec 1) (t : BitVec 4) (r : BitVec 3) : Gates (.vcvt d a s t r) := fun st h => by
  rw [exec_vcvt]; unfold execVcvt; exact viaQueue_stopped _ h
theorem gates_vqnt (d : BitVec 5) (a : BitVec 5) (s : BitVec 1) (t : BitVec 4) (r : BitVec 3) : Gates (.vqnt d a s t r) := fun st h => by
  rw [exec_vqnt]; unfold execVqnt; exact viaQueue_stopped _ h
theorem gates_vdqnt (d : BitVec 5) (a : BitVec 5) (t : BitVec 4) (r : BitVec 3) : Gates (.vdqnt d a t r) := fun st h => by
  rw [exec_vdqnt]; unfold execVdqnt; exact viaQueue_stopped _ h
theorem gates_vperm (d : BitVec 5) (a : BitVec 5) (b : BitVec 5) : Gates (.vperm d a b) := fun st h => by
  rw [exec_vperm]; unfold execVperm; exact viaQueue_stopped _ h
theorem gates_vshuf (d : BitVec 5) (a : BitVec 5) (b : BitVec 5) : Gates (.vshuf d a b) := fun st h => by
  rw [exec_vshuf]; unfold execVshuf; exact viaQueue_stopped _ h
theorem gates_vslideUp (d : BitVec 5) (a : BitVec 5) (b : BitVec 5) : Gates (.vslideUp d a b) := fun st h => by
  rw [exec_vslideUp]; unfold execVslideUp; exact viaQueue_stopped _ h
theorem gates_vslideDown (d : BitVec 5) (a : BitVec 5) (b : BitVec 5) : Gates (.vslideDown d a b) := fun st h => by
  rw [exec_vslideDown]; unfold execVslideDown; exact viaQueue_stopped _ h
theorem gates_vbcastX (d : BitVec 5) (a : BitVec 5) : Gates (.vbcastX d a) := fun st h => by
  rw [exec_vbcastX]; unfold execVbcastX; exact viaQueue_stopped _ h
theorem gates_vbcastF (d : BitVec 5) (a : BitVec 5) : Gates (.vbcastF d a) := fun st h => by
  rw [exec_vbcastF]; unfold execVbcastF; exact viaQueue_stopped _ h
theorem gates_vexp2 (d : BitVec 5) (a : BitVec 5) : Gates (.vexp2 d a) := fun st h => by
  rw [exec_vexp2]; unfold execVexp2; exact viaQueue_stopped _ h
theorem gates_vrcp (d : BitVec 5) (a : BitVec 5) : Gates (.vrcp d a) := fun st h => by
  rw [exec_vrcp]; unfold execVrcp; exact viaQueue_stopped _ h
theorem gates_vrsq (d : BitVec 5) (a : BitVec 5) : Gates (.vrsq d a) := fun st h => by
  rw [exec_vrsq]; unfold execVrsq; exact viaQueue_stopped _ h
theorem gates_vmov (d : BitVec 5) (a : BitVec 5) : Gates (.vmov d a) := fun st h => by
  rw [exec_vmov]; unfold execVmov; exact viaQueue_stopped _ h
theorem gates_vmvx (d : BitVec 5) (a : BitVec 5) (b : BitVec 5) : Gates (.vmvx d a b) := fun st h => by
  rw [exec_vmvx]; unfold execVmvx; exact viaQueue_stopped _ h
theorem gates_vmvf (d : BitVec 5) (a : BitVec 5) (b : BitVec 5) : Gates (.vmvf d a b) := fun st h => by
  rw [exec_vmvf]; unfold execVmvf; exact viaQueue_stopped _ h
theorem gates_vtag (d : BitVec 5) (a : BitVec 5) (t : BitVec 4) : Gates (.vtag d a t) := fun st h => by
  rw [exec_vtag]; unfold execVtag; exact viaQueue_stopped _ h
theorem gates_vsideRead (d : BitVec 5) (a : BitVec 5) : Gates (.vsideRead d a) := fun st h => by
  rw [exec_vsideRead]; unfold execVsideRead; exact viaQueue_stopped _ h
theorem gates_vsideWrite (d : BitVec 5) (a : BitVec 5) : Gates (.vsideWrite d a) := fun st h => by
  rw [exec_vsideWrite]; unfold execVsideWrite; exact viaQueue_stopped _ h
theorem gates_bbinit (a : BitVec 5) (b : BitVec 5) : Gates (.bbinit a b) := fun st h => by
  rw [exec_bbinit]; unfold execBbinit; exact gatedRun_stopped _ h
theorem gates_bbget (d : BitVec 5) (n : BitVec 5) : Gates (.bbget d n) := fun st h => by
  rw [exec_bbget]; unfold execBbget; exact gatedOrder_stopped _ h
theorem gates_bbpeek (d : BitVec 5) (n : BitVec 5) : Gates (.bbpeek d n) := fun st h => by
  rw [exec_bbpeek]; unfold execBbpeek; exact gatedOrder_stopped _ h
theorem gates_bbskip (n : BitVec 5) : Gates (.bbskip n) := fun st h => by
  rw [exec_bbskip]; unfold execBbskip; exact gatedOrder_stopped _ h
theorem gates_bbdec (d : BitVec 5) (a : BitVec 5) (k : BitVec 4) : Gates (.bbdec d a k) := fun st h => by
  rw [exec_bbdec]; unfold execBbdec; exact gatedOrder_stopped _ h
theorem gates_bbemit (a : BitVec 5) (n : BitVec 5) : Gates (.bbemit a n) := fun st h => by
  rw [exec_bbemit]; unfold execBbemit; exact gatedOrder_stopped _ h
theorem gates_bbflush : Gates .bbflush := fun st h => by
  rw [exec_bbflush]; unfold execBbflush; exact gatedOrder_stopped _ h
theorem gates_bbalign : Gates .bbalign := fun st h => by
  rw [exec_bbalign]; unfold execBbalign; exact gatedOrder_stopped _ h
theorem amo_stopped {i : Instr} (a : BitVec 5) (op n : Nat) (q l : BitVec 1) (x : BitVec 3) (b cmp : State → Nat)
    (dest : Dest) {s : State} (h : s.gate i ≠ .go) : amo i a op n q l x b cmp dest s = gated i s .next := by
  simp only [amo]; exact gated_stopped _ h

theorem amoInt_stopped {i : Instr} (op : Nat) (d a b : BitVec 5) (q l w : BitVec 1) (x : BitVec 3) {s : State}
    (h : s.gate i ≠ .go) : amoInt i op d a b q l w x s = gated i s .next := by
  simp only [amoInt]; exact amo_stopped _ _ _ _ _ _ _ _ _ h

theorem gates_amoswap (d : BitVec 5) (a : BitVec 5) (b : BitVec 5) (q : BitVec 1) (l : BitVec 1) (w : BitVec 1) (x : BitVec 3) : Gates (.amoswap d a b q l w x) := fun st h => by
  rw [exec_amoswap]; unfold execAmoswap; exact amoInt_stopped _ _ _ _ _ _ _ _ h
theorem gates_amoadd (d : BitVec 5) (a : BitVec 5) (b : BitVec 5) (q : BitVec 1) (l : BitVec 1) (w : BitVec 1) (x : BitVec 3) : Gates (.amoadd d a b q l w x) := fun st h => by
  rw [exec_amoadd]; unfold execAmoadd; exact amoInt_stopped _ _ _ _ _ _ _ _ h
theorem gates_amoand (d : BitVec 5) (a : BitVec 5) (b : BitVec 5) (q : BitVec 1) (l : BitVec 1) (w : BitVec 1) (x : BitVec 3) : Gates (.amoand d a b q l w x) := fun st h => by
  rw [exec_amoand]; unfold execAmoand; exact amoInt_stopped _ _ _ _ _ _ _ _ h
theorem gates_amoor (d : BitVec 5) (a : BitVec 5) (b : BitVec 5) (q : BitVec 1) (l : BitVec 1) (w : BitVec 1) (x : BitVec 3) : Gates (.amoor d a b q l w x) := fun st h => by
  rw [exec_amoor]; unfold execAmoor; exact amoInt_stopped _ _ _ _ _ _ _ _ h
theorem gates_amoxor (d : BitVec 5) (a : BitVec 5) (b : BitVec 5) (q : BitVec 1) (l : BitVec 1) (w : BitVec 1) (x : BitVec 3) : Gates (.amoxor d a b q l w x) := fun st h => by
  rw [exec_amoxor]; unfold execAmoxor; exact amoInt_stopped _ _ _ _ _ _ _ _ h
theorem gates_amomin (d : BitVec 5) (a : BitVec 5) (b : BitVec 5) (q : BitVec 1) (l : BitVec 1) (w : BitVec 1) (x : BitVec 3) : Gates (.amomin d a b q l w x) := fun st h => by
  rw [exec_amomin]; unfold execAmomin; exact amoInt_stopped _ _ _ _ _ _ _ _ h
theorem gates_amomax (d : BitVec 5) (a : BitVec 5) (b : BitVec 5) (q : BitVec 1) (l : BitVec 1) (w : BitVec 1) (x : BitVec 3) : Gates (.amomax d a b q l w x) := fun st h => by
  rw [exec_amomax]; unfold execAmomax; exact amoInt_stopped _ _ _ _ _ _ _ _ h
theorem gates_amominu (d : BitVec 5) (a : BitVec 5) (b : BitVec 5) (q : BitVec 1) (l : BitVec 1) (w : BitVec 1) (x : BitVec 3) : Gates (.amominu d a b q l w x) := fun st h => by
  rw [exec_amominu]; unfold execAmominu; exact amoInt_stopped _ _ _ _ _ _ _ _ h
theorem gates_amomaxu (d : BitVec 5) (a : BitVec 5) (b : BitVec 5) (q : BitVec 1) (l : BitVec 1) (w : BitVec 1) (x : BitVec 3) : Gates (.amomaxu d a b q l w x) := fun st h => by
  rw [exec_amomaxu]; unfold execAmomaxu; exact amoInt_stopped _ _ _ _ _ _ _ _ h
theorem gates_amocas (d : BitVec 5) (a : BitVec 5) (b : BitVec 5) (q : BitVec 1) (l : BitVec 1) (w : BitVec 1) (x : BitVec 3) : Gates (.amocas d a b q l w x) := fun st h => by
  rw [exec_amocas]; unfold execAmocas; exact amoInt_stopped _ _ _ _ _ _ _ _ h
theorem gates_amocasQ (d : BitVec 5) (a : BitVec 5) (b : BitVec 5) (q : BitVec 1) (l : BitVec 1) (x : BitVec 3) : Gates (.amocasQ d a b q l x) := fun st h => by
  rw [exec_amocasQ]; unfold execAmocasQ; exact amo_stopped _ _ _ _ _ _ _ _ _ h
theorem gates_famoadd (d : BitVec 5) (a : BitVec 5) (b : BitVec 5) (q : BitVec 1) (l : BitVec 1) (w : BitVec 1) (x : BitVec 3) : Gates (.famoadd d a b q l w x) := fun st h => by
  rw [exec_famoadd]; unfold execFamoadd; exact amo_stopped _ _ _ _ _ _ _ _ _ h
theorem gates_fence (m : BitVec 8) : Gates (.fence m) := fun st h => by
  rw [exec_fence]; unfold execFence; exact gated_stopped _ h
theorem gates_ldaq (d : BitVec 5) (a : BitVec 5) (z : BitVec 2) (x : BitVec 3) : Gates (.ldaq d a z x) := fun st h => by
  rw [exec_ldaq]; unfold execLdaq; exact gated_stopped _ h
theorem gates_strl (a : BitVec 5) (b : BitVec 5) (z : BitVec 2) (x : BitVec 3) : Gates (.strl a b z x) := fun st h => by
  rw [exec_strl]; unfold execStrl; exact gated_stopped _ h
theorem barEntry_stopped {i : Instr} (net : Nat)  (k : State → Out) {s : State} (h : s.gate i ≠ .go) :
    barEntry i net s k = gated i s .next := by
  simp only [barEntry]; exact gated_stopped _ h

theorem gates_bar (n : BitVec 4) : Gates (.bar n) := fun st h => by
  rw [exec_bar]; unfold execBar; exact barEntry_stopped _ _ h
theorem gates_bararr (n : BitVec 4) : Gates (.bararr n) := fun st h => by
  rw [exec_bararr]; unfold execBararr; exact barEntry_stopped _ _ h
theorem gates_barwait (n : BitVec 4) : Gates (.barwait n) := fun st h => by
  rw [exec_barwait]; unfold execBarwait; exact barEntry_stopped _ _ h
theorem gates_tbinit (a : BitVec 5) (b : BitVec 5) (c : BitVec 5) : Gates (.tbinit a b c) := fun st h => by
  rw [exec_tbinit]; unfold execTbinit; exact gatedRun_stopped _ h
theorem gates_tbexp (a : BitVec 5) (b : BitVec 5) (c : BitVec 5) : Gates (.tbexp a b c) := fun st h => by
  rw [exec_tbexp]; unfold execTbexp; exact gatedRun_stopped _ h
theorem gates_tbarr (a : BitVec 5) : Gates (.tbarr a) := fun st h => by
  rw [exec_tbarr]; unfold execTbarr; exact gatedRun_stopped _ h
theorem gates_tbwait (d : BitVec 5) (a : BitVec 5) : Gates (.tbwait d a) := fun st h => by
  rw [exec_tbwait]; unfold execTbwait; exact gatedRun_stopped _ h
theorem gates_tbtest (d : BitVec 5) (a : BitVec 5) : Gates (.tbtest d a) := fun st h => by
  rw [exec_tbtest]; unfold execTbtest; exact gatedRun_stopped _ h
theorem gates_tbact (a : BitVec 5) (b : BitVec 5) : Gates (.tbact a b) := fun st h => by
  rw [exec_tbact]; unfold execTbact; exact gatedRun_stopped _ h
theorem gates_tbretire (a : BitVec 5) : Gates (.tbretire a) := fun st h => by
  rw [exec_tbretire]; unfold execTbretire; exact gatedRun_stopped _ h
theorem gates_sendr (a : BitVec 5) (b : BitVec 5) (n : BitVec 5) : Gates (.sendr a b n) := fun st h => by
  rw [exec_sendr]; unfold execSendr; exact gatedRun_stopped _ h
theorem gates_pclr (n : BitVec 5) : Gates (.pclr n) := fun st h => by
  rw [exec_pclr]; unfold execPclr; exact gated_stopped _ h
theorem gates_ptest (d : BitVec 5) (n : BitVec 5) : Gates (.ptest d n) := fun st h => by
  rw [exec_ptest]; unfold execPtest; exact gated_stopped _ h
theorem gates_xmsg (a : BitVec 5) (b : BitVec 5) (c : BitVec 5) (v : BitVec 1) : Gates (.xmsg a b c v) := fun st h => by
  rw [exec_xmsg]; unfold execXmsg; exact gated_stopped _ h
theorem gates_mtake (d : BitVec 5) : Gates (.mtake d) := fun st h => by
  rw [exec_mtake]; unfold execMtake; exact gated_stopped _ h
theorem gates_mfree (a : BitVec 5) : Gates (.mfree a) := fun st h => by
  rw [exec_mfree]; unfold execMfree; exact gatedRun_stopped _ h
theorem gates_spawn (d : BitVec 5) (a : BitVec 5) (b : BitVec 5) : Gates (.spawn d a b) := fun st h => by
  rw [exec_spawn]; unfold execSpawn; exact gated_stopped _ h
theorem gates_hexit : Gates .hexit := fun st h => by
  rw [exec_hexit]; unfold execHexit; exact gated_stopped _ h
theorem gates_hwait (h : BitVec 4) : Gates (.hwait h) := fun st h => by
  rw [exec_hwait]; unfold execHwait; exact gatedRun_stopped _ h
theorem gates_dqpush (a : BitVec 5) : Gates (.dqpush a) := fun st h => by
  rw [exec_dqpush]; unfold execDqpush; exact gatedRun_stopped _ h
theorem gates_dqpop (d : BitVec 5) : Gates (.dqpop d) := fun st h => by
  rw [exec_dqpop]; unfold execDqpop; exact gated_stopped _ h
theorem gates_dqsteal (d : BitVec 5) (a : BitVec 5) : Gates (.dqsteal d a) := fun st h => by
  rw [exec_dqsteal]; unfold execDqsteal; exact gatedRun_stopped _ h
theorem gates_dqlen (d : BitVec 5) : Gates (.dqlen d) := fun st h => by
  rw [exec_dqlen]; unfold execDqlen; exact gated_stopped _ h
theorem gates_rinit (a : BitVec 5) (n : BitVec 4) : Gates (.rinit a n) := fun st h => by
  rw [exec_rinit]; unfold execRinit; exact gatedRun_stopped _ h
theorem gates_rclaim (d : BitVec 5) (n : BitVec 4) : Gates (.rclaim d n) := fun st h => by
  rw [exec_rclaim]; unfold execRclaim; exact gatedRun_stopped _ h
theorem slotMove_stopped {i : Instr} (a : BitVec 5) (before after : SlotState) (k : Nat → Nat → State → State) {s : State} (h : s.gate i ≠ .go) :
    slotMove i a before after k s = gated i s .next := by
  simp only [slotMove]; exact gatedRun_stopped _ h

theorem gates_rcommit (a : BitVec 5) : Gates (.rcommit a) := fun st h => by
  rw [exec_rcommit]; unfold execRcommit; exact slotMove_stopped _ _ _ _ h
theorem gates_rtake (d : BitVec 5) (n : BitVec 4) : Gates (.rtake d n) := fun st h => by
  rw [exec_rtake]; unfold execRtake; exact gatedRun_stopped _ h
theorem gates_rfree (a : BitVec 5) : Gates (.rfree a) := fun st h => by
  rw [exec_rfree]; unfold execRfree; exact slotMove_stopped _ _ _ _ h
theorem gates_xcopy (a : BitVec 5) (b : BitVec 5) (c : BitVec 5) (t : BitVec 1) (k : BitVec 4) : Gates (.xcopy a b c t k) := fun st h => by
  rw [exec_xcopy]; unfold execXcopy; exact gatedRun_stopped _ h
theorem gates_xsub (b : BitVec 5) (c : BitVec 5) (n : BitVec 4) : Gates (.xsub b c n) := fun st h => by
  rw [exec_xsub]; unfold execXsub; exact gatedRun_stopped _ h
theorem gates_xpub (a : BitVec 5) (c : BitVec 5) (n : BitVec 4) : Gates (.xpub a c n) := fun st h => by
  rw [exec_xpub]; unfold execXpub; exact gatedRun_stopped _ h
theorem gates_xamo (a : BitVec 5) (b : BitVec 5) (c : BitVec 5) (w : BitVec 1) (o : BitVec 4) : Gates (.xamo a b c w o) := fun st h => by
  rw [exec_xamo]; unfold execXamo; exact gatedRun_stopped _ h
theorem gates_xresume (a : BitVec 5) : Gates (.xresume a) := fun st h => by
  rw [exec_xresume]; unfold execXresume; exact gatedRun_stopped _ h
theorem gates_xcancel (a : BitVec 5) : Gates (.xcancel a) := fun st h => by
  rw [exec_xcancel]; unfold execXcancel; exact gatedRun_stopped _ h
theorem gates_xdisc (a : BitVec 5) (b : BitVec 5) : Gates (.xdisc a b) := fun st h => by
  rw [exec_xdisc]; unfold execXdisc; exact gatedRun_stopped _ h
theorem gates_ptouch (a : BitVec 5) (m : BitVec 2) : Gates (.ptouch a m) := fun st h => by
  rw [exec_ptouch]; unfold execPtouch; exact gatedRun_stopped _ h
theorem matrixSend_stopped {i : Instr} (a : BitVec 5) (acc : BitVec 2) (ops : State → Except Trap MatIssue) {s : State} (h : s.gate i ≠ .go) :
    matrixSend i a acc ops s = gated i s .next := by
  simp only [matrixSend]; exact gatedRun_stopped _ h

theorem gates_mma (a : BitVec 5) (b : BitVec 5) (c : BitVec 5) (n : BitVec 2) : Gates (.mma a b c n) := fun st h => by
  rw [exec_mma]; unfold execMma; exact matrixSend_stopped _ _ _ h
theorem gates_mzero (a : BitVec 5) (n : BitVec 2) : Gates (.mzero a n) := fun st h => by
  rw [exec_mzero]; unfold execMzero; exact matrixSend_stopped _ _ _ h
theorem gates_mload (a : BitVec 5) (b : BitVec 5) (n : BitVec 2) : Gates (.mload a b n) := fun st h => by
  rw [exec_mload]; unfold execMload; exact matrixSend_stopped _ _ _ h
theorem gates_mstore (a : BitVec 5) (b : BitVec 5) (c : BitVec 5) (n : BitVec 2) : Gates (.mstore a b c n) := fun st h => by
  rw [exec_mstore]; unfold execMstore; exact matrixSend_stopped _ _ _ h
theorem gates_mdrain (a : BitVec 5) (b : BitVec 5) (c : BitVec 5) (z : BitVec 1) (n : BitVec 2) : Gates (.mdrain a b c z n) := fun st h => by
  rw [exec_mdrain]; unfold execMdrain; exact matrixSend_stopped _ _ _ h
theorem gates_mfence (a : BitVec 5) : Gates (.mfence a) := fun st h => by
  rw [exec_mfence]; unfold execMfence; exact gatedRun_stopped _ h
theorem gates_fold (a : BitVec 5) (b : BitVec 5) (c : BitVec 5) (s : BitVec 3) (p : BitVec 4) : Gates (.fold a b c s p) := fun st h => by
  rw [exec_fold]; unfold execFold; exact gatedRun_stopped _ h
theorem foldRequest_stopped {i : Instr} (a : BitVec 5) (size : Option Nat) {s : State} (h : s.gate i ≠ .go) :
    foldRequest i a size s = gated i s .next := by
  simp only [foldRequest]; exact gatedRun_stopped _ h

theorem gates_fres (a : BitVec 5) (s : BitVec 3) : Gates (.fres a s) := fun st h => by
  rw [exec_fres]; unfold execFres; exact foldRequest_stopped _ _ h
theorem gates_frel (a : BitVec 5) : Gates (.frel a) := fun st h => by
  rw [exec_frel]; unfold execFrel; exact foldRequest_stopped _ _ h
theorem gates_fkey (d : BitVec 5) (a : BitVec 5) : Gates (.fkey d a) := fun st h => by
  rw [exec_fkey]; unfold execFkey; exact gatedRun_stopped _ h
theorem gates_add16 (d : BitVec 5) (b : BitVec 5) : Gates (.add16 d b) := fun st h => by
  rw [exec_add16]; unfold execAdd16; exact writesX_stopped _ _ _ h
theorem gates_sub16 (d : BitVec 5) (b : BitVec 5) : Gates (.sub16 d b) := fun st h => by
  rw [exec_sub16]; unfold execSub16; exact writesX_stopped _ _ _ h
theorem gates_and16 (d : BitVec 5) (b : BitVec 5) : Gates (.and16 d b) := fun st h => by
  rw [exec_and16]; unfold execAnd16; exact writesX_stopped _ _ _ h
theorem gates_or16 (d : BitVec 5) (b : BitVec 5) : Gates (.or16 d b) := fun st h => by
  rw [exec_or16]; unfold execOr16; exact writesX_stopped _ _ _ h
theorem gates_xor16 (d : BitVec 5) (b : BitVec 5) : Gates (.xor16 d b) := fun st h => by
  rw [exec_xor16]; unfold execXor16; exact writesX_stopped _ _ _ h
theorem gates_sll16 (d : BitVec 5) (b : BitVec 5) : Gates (.sll16 d b) := fun st h => by
  rw [exec_sll16]; unfold execSll16; exact writesX_stopped _ _ _ h
theorem gates_srl16 (d : BitVec 5) (b : BitVec 5) : Gates (.srl16 d b) := fun st h => by
  rw [exec_srl16]; unfold execSrl16; exact writesX_stopped _ _ _ h
theorem gates_mv16 (d : BitVec 5) (b : BitVec 5) : Gates (.mv16 d b) := fun st h => by
  rw [exec_mv16]; unfold execMv16; exact writesX_stopped _ _ _ h
theorem gates_addi16 (d : BitVec 5) (i : BitVec 5) : Gates (.addi16 d i) := fun st h => by
  rw [exec_addi16]; unfold execAddi16; exact writesX_stopped _ _ _ h
theorem gates_fadd16 (d : BitVec 5) (b : BitVec 5) : Gates (.fadd16 d b) := fun st h => by
  rw [exec_fadd16]; unfold execFadd16; exact viaQueue_stopped _ h
theorem gates_fsub16 (d : BitVec 5) (b : BitVec 5) : Gates (.fsub16 d b) := fun st h => by
  rw [exec_fsub16]; unfold execFsub16; exact viaQueue_stopped _ h
theorem gates_fmul16 (d : BitVec 5) (b : BitVec 5) : Gates (.fmul16 d b) := fun st h => by
  rw [exec_fmul16]; unfold execFmul16; exact viaQueue_stopped _ h
theorem gates_fmax16 (d : BitVec 5) (b : BitVec 5) : Gates (.fmax16 d b) := fun st h => by
  rw [exec_fmax16]; unfold execFmax16; exact viaQueue_stopped _ h
theorem gates_vadd16 (d : BitVec 5) (b : BitVec 5) : Gates (.vadd16 d b) := fun st h => by
  rw [exec_vadd16]; unfold execVadd16; exact viaQueue_stopped _ h
theorem gates_vsub16 (d : BitVec 5) (b : BitVec 5) : Gates (.vsub16 d b) := fun st h => by
  rw [exec_vsub16]; unfold execVsub16; exact viaQueue_stopped _ h
theorem gates_vmul16 (d : BitVec 5) (b : BitVec 5) : Gates (.vmul16 d b) := fun st h => by
  rw [exec_vmul16]; unfold execVmul16; exact viaQueue_stopped _ h

/-- ECALL and the CSR instructions make checks of their own before the gate. -/
def ownChecks : Instr → Bool
  | .csrrw .. | .csrrs .. | .csrrc .. | .csrrwi .. | .csrrsi .. | .csrrci .. | .ecall => true
  | _ => false

theorem gates (i : Instr) (he : i.isEvent = false) (hc : ownChecks i = false) : Gates i := by
  cases i with
  | illegalEncoding short bits => exact Bool.noConfusion (show true = false from he)
  | add d a b => exact gates_add d a b
  | sll d a b => exact gates_sll d a b
  | slt d a b => exact gates_slt d a b
  | sltu d a b => exact gates_sltu d a b
  | xor d a b => exact gates_xor d a b
  | srl d a b => exact gates_srl d a b
  | or d a b => exact gates_or d a b
  | and d a b => exact gates_and d a b
  | sub d a b => exact gates_sub d a b
  | sra d a b => exact gates_sra d a b
  | mul d a b => exact gates_mul d a b
  | mulh d a b => exact gates_mulh d a b
  | mulhsu d a b => exact gates_mulhsu d a b
  | mulhu d a b => exact gates_mulhu d a b
  | div d a b => exact gates_div d a b
  | divu d a b => exact gates_divu d a b
  | rem d a b => exact gates_rem d a b
  | remu d a b => exact gates_remu d a b
  | min d a b => exact gates_min d a b
  | max d a b => exact gates_max d a b
  | minu d a b => exact gates_minu d a b
  | maxu d a b => exact gates_maxu d a b
  | clz d a => exact gates_clz d a
  | ctz d a => exact gates_ctz d a
  | popc d a => exact gates_popc d a
  | brev d a => exact gates_brev d a
  | sextb d a => exact gates_sextb d a
  | sexth d a => exact gates_sexth d a
  | sextw d a => exact gates_sextw d a
  | addi d a i => exact gates_addi d a i
  | slti d a i => exact gates_slti d a i
  | sltiu d a i => exact gates_sltiu d a i
  | xori d a i => exact gates_xori d a i
  | ori d a i => exact gates_ori d a i
  | andi d a i => exact gates_andi d a i
  | slli d a s => exact gates_slli d a s
  | srli d a s => exact gates_srli d a s
  | srai d a s => exact gates_srai d a s
  | lih d i => exact gates_lih d i
  | addpc d i => exact gates_addpc d i
  | lb d a i => exact gates_lb d a i
  | lh d a i => exact gates_lh d a i
  | lw d a i => exact gates_lw d a i
  | ld d a i => exact gates_ld d a i
  | lbu d a i => exact gates_lbu d a i
  | lhu d a i => exact gates_lhu d a i
  | lwu d a i => exact gates_lwu d a i
  | sb a b i => exact gates_sb a b i
  | sh a b i => exact gates_sh a b i
  | sw a b i => exact gates_sw a b i
  | sd a b i => exact gates_sd a b i
  | beq a b i => exact gates_beq a b i
  | bne a b i => exact gates_bne a b i
  | blt a b i => exact gates_blt a b i
  | bge a b i => exact gates_bge a b i
  | bltu a b i => exact gates_bltu a b i
  | bgeu a b i => exact gates_bgeu a b i
  | jal d i => exact gates_jal d i
  | jalr d a i => exact gates_jalr d a i
  | bfx d a l p => exact gates_bfx d a l p
  | bfi d a l p => exact gates_bfi d a l p
  | mkaddr d a b => exact gates_mkaddr d a b
  | absaddr d a => exact gates_absaddr d a
  | ecall => exact Bool.noConfusion (show true = false from hc)
  | ebreak => exact gates_ebreak
  | tret => exact gates_tret
  | wfe => exact gates_wfe
  | isync => exact gates_isync
  | csrrw d a c => exact Bool.noConfusion (show true = false from hc)
  | csrrs d a c => exact Bool.noConfusion (show true = false from hc)
  | csrrc d a c => exact Bool.noConfusion (show true = false from hc)
  | csrrwi d c u => exact Bool.noConfusion (show true = false from hc)
  | csrrsi d c u => exact Bool.noConfusion (show true = false from hc)
  | csrrci d c u => exact Bool.noConfusion (show true = false from hc)
  | flh d a i => exact gates_flh d a i
  | flw d a i => exact gates_flw d a i
  | fld d a i => exact gates_fld d a i
  | fsh a b i => exact gates_fsh a b i
  | fsw a b i => exact gates_fsw a b i
  | fsd a b i => exact gates_fsd a b i
  | fadd d a b f r => exact gates_fadd d a b f r
  | fsub d a b f r => exact gates_fsub d a b f r
  | fmul d a b f r => exact gates_fmul d a b f r
  | fdiv d a b f r => exact gates_fdiv d a b f r
  | fsqrt d a f r => exact gates_fsqrt d a f r
  | fsgnj d a b f => exact gates_fsgnj d a b f
  | fsgnjn d a b f => exact gates_fsgnjn d a b f
  | fsgnjx d a b f => exact gates_fsgnjx d a b f
  | fmin d a b f => exact gates_fmin d a b f
  | fmax d a b f => exact gates_fmax d a b f
  | fle d a b f => exact gates_fle d a b f
  | flt d a b f => exact gates_flt d a b f
  | feq d a b f => exact gates_feq d a b f
  | fclass d a f => exact gates_fclass d a f
  | fcvtFloatFloat d a e s g r => exact gates_fcvtFloatFloat d a e s g r
  | fcvtFloatInt d a e s t r => exact gates_fcvtFloatInt d a e s t r
  | fcvtIntFloat d a e t r => exact gates_fcvtIntFloat d a e t r
  | fmvx d a w => exact gates_fmvx d a w
  | fmvf d a w => exact gates_fmvf d a w
  | fmadd d a b c f r => exact gates_fmadd d a b c f r
  | fmsub d a b c f r => exact gates_fmsub d a b c f r
  | fnmadd d a b c f r => exact gates_fnmadd d a b c f r
  | fnmsub d a b c f r => exact gates_fnmsub d a b c f r
  | sbind d k p => exact gates_sbind d k p
  | sunbind p => exact gates_sunbind p
  | sskip a p => exact gates_sskip a p
  | ssync m => exact gates_ssync m
  | frep a n => exact gates_frep a n
  | frepi c n => exact gates_frepi c n
  | vld d a t o => exact gates_vld d a t o
  | vst a b o => exact gates_vst a b o
  | vlds d a b e t => exact gates_vlds d a b e t
  | vsts d a b e => exact gates_vsts d a b e
  | vgather d a b e t => exact gates_vgather d a b e t
  | vscatter d a b e => exact gates_vscatter d a b e
  | vldb d a i => exact gates_vldb d a i
  | vadd d a b r => exact gates_vadd d a b r
  | vsub d a b r => exact gates_vsub d a b r
  | vmul d a b r => exact gates_vmul d a b r
  | vmin d a b => exact gates_vmin d a b
  | vmax d a b => exact gates_vmax d a b
  | vand d a b => exact gates_vand d a b
  | vor d a b => exact gates_vor d a b
  | vxor d a b => exact gates_vxor d a b
  | vshl d a b => exact gates_vshl d a b
  | vshr d a b => exact gates_vshr d a b
  | vsra d a b => exact gates_vsra d a b
  | vcmp d a b c => exact gates_vcmp d a b c
  | vabs d a => exact gates_vabs d a
  | vneg d a => exact gates_vneg d a
  | vfma d a b c r => exact gates_vfma d a b c r
  | vfms d a b c r => exact gates_vfms d a b c r
  | vnfma d a b c r => exact gates_vnfma d a b c r
  | vsel d a b c => exact gates_vsel d a b c
  | vredAdd d a r => exact gates_vredAdd d a r
  | vredMin d a => exact gates_vredMin d a
  | vredMax d a => exact gates_vredMax d a
  | vdot d a b r => exact gates_vdot d a b r
  | vcvt d a s t r => exact gates_vcvt d a s t r
  | vqnt d a s t r => exact gates_vqnt d a s t r
  | vdqnt d a t r => exact gates_vdqnt d a t r
  | vperm d a b => exact gates_vperm d a b
  | vshuf d a b => exact gates_vshuf d a b
  | vslideUp d a b => exact gates_vslideUp d a b
  | vslideDown d a b => exact gates_vslideDown d a b
  | vbcastX d a => exact gates_vbcastX d a
  | vbcastF d a => exact gates_vbcastF d a
  | vexp2 d a => exact gates_vexp2 d a
  | vrcp d a => exact gates_vrcp d a
  | vrsq d a => exact gates_vrsq d a
  | vmov d a => exact gates_vmov d a
  | vmvx d a b => exact gates_vmvx d a b
  | vmvf d a b => exact gates_vmvf d a b
  | vtag d a t => exact gates_vtag d a t
  | vsideRead d a => exact gates_vsideRead d a
  | vsideWrite d a => exact gates_vsideWrite d a
  | bbinit a b => exact gates_bbinit a b
  | bbget d n => exact gates_bbget d n
  | bbpeek d n => exact gates_bbpeek d n
  | bbskip n => exact gates_bbskip n
  | bbdec d a k => exact gates_bbdec d a k
  | bbemit a n => exact gates_bbemit a n
  | bbflush => exact gates_bbflush
  | bbalign => exact gates_bbalign
  | amoswap d a b q l w x => exact gates_amoswap d a b q l w x
  | amoadd d a b q l w x => exact gates_amoadd d a b q l w x
  | amoand d a b q l w x => exact gates_amoand d a b q l w x
  | amoor d a b q l w x => exact gates_amoor d a b q l w x
  | amoxor d a b q l w x => exact gates_amoxor d a b q l w x
  | amomin d a b q l w x => exact gates_amomin d a b q l w x
  | amomax d a b q l w x => exact gates_amomax d a b q l w x
  | amominu d a b q l w x => exact gates_amominu d a b q l w x
  | amomaxu d a b q l w x => exact gates_amomaxu d a b q l w x
  | amocas d a b q l w x => exact gates_amocas d a b q l w x
  | amocasQ d a b q l x => exact gates_amocasQ d a b q l x
  | famoadd d a b q l w x => exact gates_famoadd d a b q l w x
  | fence m => exact gates_fence m
  | ldaq d a z x => exact gates_ldaq d a z x
  | strl a b z x => exact gates_strl a b z x
  | bar n => exact gates_bar n
  | bararr n => exact gates_bararr n
  | barwait n => exact gates_barwait n
  | tbinit a b c => exact gates_tbinit a b c
  | tbexp a b c => exact gates_tbexp a b c
  | tbarr a => exact gates_tbarr a
  | tbwait d a => exact gates_tbwait d a
  | tbtest d a => exact gates_tbtest d a
  | tbact a b => exact gates_tbact a b
  | tbretire a => exact gates_tbretire a
  | sendr a b n => exact gates_sendr a b n
  | pclr n => exact gates_pclr n
  | ptest d n => exact gates_ptest d n
  | xmsg a b c v => exact gates_xmsg a b c v
  | mtake d => exact gates_mtake d
  | mfree a => exact gates_mfree a
  | spawn d a b => exact gates_spawn d a b
  | hexit => exact gates_hexit
  | hwait h => exact gates_hwait h
  | dqpush a => exact gates_dqpush a
  | dqpop d => exact gates_dqpop d
  | dqsteal d a => exact gates_dqsteal d a
  | dqlen d => exact gates_dqlen d
  | rinit a n => exact gates_rinit a n
  | rclaim d n => exact gates_rclaim d n
  | rcommit a => exact gates_rcommit a
  | rtake d n => exact gates_rtake d n
  | rfree a => exact gates_rfree a
  | xcopy a b c t k => exact gates_xcopy a b c t k
  | xsub b c n => exact gates_xsub b c n
  | xpub a c n => exact gates_xpub a c n
  | xamo a b c w o => exact gates_xamo a b c w o
  | xresume a => exact gates_xresume a
  | xcancel a => exact gates_xcancel a
  | xdisc a b => exact gates_xdisc a b
  | ptouch a m => exact gates_ptouch a m
  | mma a b c n => exact gates_mma a b c n
  | mzero a n => exact gates_mzero a n
  | mload a b n => exact gates_mload a b n
  | mstore a b c n => exact gates_mstore a b c n
  | mdrain a b c z n => exact gates_mdrain a b c z n
  | mfence a => exact gates_mfence a
  | fold a b c s p => exact gates_fold a b c s p
  | fres a s => exact gates_fres a s
  | frel a => exact gates_frel a
  | fkey d a => exact gates_fkey d a
  | add16 d b => exact gates_add16 d b
  | sub16 d b => exact gates_sub16 d b
  | and16 d b => exact gates_and16 d b
  | or16 d b => exact gates_or16 d b
  | xor16 d b => exact gates_xor16 d b
  | sll16 d b => exact gates_sll16 d b
  | srl16 d b => exact gates_srl16 d b
  | mv16 d b => exact gates_mv16 d b
  | addi16 d i => exact gates_addi16 d i
  | fadd16 d b => exact gates_fadd16 d b
  | fsub16 d b => exact gates_fsub16 d b
  | fmul16 d b => exact gates_fmul16 d b
  | fmax16 d b => exact gates_fmax16 d b
  | vadd16 d b => exact gates_vadd16 d b
  | vsub16 d b => exact gates_vsub16 d b
  | vmul16 d b => exact gates_vmul16 d b
  | sendrArrive pkt => exact Bool.noConfusion (show true = false from he)
  | xmsgArrive pkt => exact Bool.noConfusion (show true = false from he)
  | helperStart core => exact Bool.noConfusion (show true = false from he)
  | enginePieceSend core piece => exact Bool.noConfusion (show true = false from he)
  | layoutRecordRead core entry => exact Bool.noConfusion (show true = false from he)
  | engineSlotClaim core entry => exact Bool.noConfusion (show true = false from he)
  | xpubSlotTake core entry => exact Bool.noConfusion (show true = false from he)
  | pieceLand core entry piece => exact Bool.noConfusion (show true = false from he)
  | handBack core entry => exact Bool.noConfusion (show true = false from he)
  | ptouchResolved core ctx => exact Bool.noConfusion (show true = false from he)
  | discardAccept core entry => exact Bool.noConfusion (show true = false from he)
  | matrixCommandStart quad => exact Bool.noConfusion (show true = false from he)
  | kstepTake quad => exact Bool.noConfusion (show true = false from he)
  | kstepRetire quad => exact Bool.noConfusion (show true = false from he)
  | kstepWaitTimeout quad => exact Bool.noConfusion (show true = false from he)
  | drainRowOffer quad => exact Bool.noConfusion (show true = false from he)
  | mloadDone quad acc => exact Bool.noConfusion (show true = false from he)
  | foldOperandArrive pkt => exact Bool.noConfusion (show true = false from he)
  | foldResultDeliver fold job => exact Bool.noConfusion (show true = false from he)
  | foldOrphanTimeout fold entry => exact Bool.noConfusion (show true = false from he)
  | fresGrant fold => exact Bool.noConfusion (show true = false from he)
  | ecallExit core => exact Bool.noConfusion (show true = false from he)
  | park core ctx => exact Bool.noConfusion (show true = false from he)
  | setoto core ctx => exact Bool.noConfusion (show true = false from he)
  | setseed core ctx => exact Bool.noConfusion (show true = false from he)
  | wilziaAnswer core ctx => exact Bool.noConfusion (show true = false from he)
  | barTimeout core ctx => exact Bool.noConfusion (show true = false from he)
  | presenceTimeout core ctx => exact Bool.noConfusion (show true = false from he)
  | wfeRelease core ctx => exact Bool.noConfusion (show true = false from he)
  | remoteAck core ctx id => exact Bool.noConfusion (show true = false from he)
  | streamPrefetch core port => exact Bool.noConfusion (show true = false from he)
  | latheIssue core => exact Bool.noConfusion (show true = false from he)
  | launch fn queue packet => exact Bool.noConfusion (show true = false from he)
  | fencePacket fn queue packet => exact Bool.noConfusion (show true = false from he)
  | fencePoll fn queue tuple => exact Bool.noConfusion (show true = false from he)
  | fenceTimeout fn queue => exact Bool.noConfusion (show true = false from he)
  | cond fn queue packet => exact Bool.noConfusion (show true = false from he)
  | signal fn queue packet => exact Bool.noConfusion (show true = false from he)
  | copyPacket fn queue packet data => exact Bool.noConfusion (show true = false from he)
  | copyDone fn queue job => exact Bool.noConfusion (show true = false from he)
  | preemptHold fn queue packet => exact Bool.noConfusion (show true = false from he)
  | preemptRelease fn queue packet => exact Bool.noConfusion (show true = false from he)
  | killPacket fn queue packet => exact Bool.noConfusion (show true = false from he)
  | queueDoorbell fn queue tail => exact Bool.noConfusion (show true = false from he)
  | queueEnable fn queue cfg => exact Bool.noConfusion (show true = false from he)
  | queueErrorClear fn queue => exact Bool.noConfusion (show true = false from he)
  | hostRegisterWrite fn offset value => exact Bool.noConfusion (show true = false from he)
  | bind launch choice => exact Bool.noConfusion (show true = false from he)
  | bindComplete part => exact Bool.noConfusion (show true = false from he)
  | bindWaitCap launch => exact Bool.noConfusion (show true = false from he)
  | launchEnd part => exact Bool.noConfusion (show true = false from he)
  | preemptRequest part cause => exact Bool.noConfusion (show true = false from he)
  | haltComplete part => exact Bool.noConfusion (show true = false from he)
  | swapComplete part => exact Bool.noConfusion (show true = false from he)
  | saveComplete part => exact Bool.noConfusion (show true = false from he)
  | evict part => exact Bool.noConfusion (show true = false from he)
  | restoreRequest part => exact Bool.noConfusion (show true = false from he)
  | restoreDone part intact => exact Bool.noConfusion (show true = false from he)
  | killRequest part => exact Bool.noConfusion (show true = false from he)
  | killSweepEnd part cluster => exact Bool.noConfusion (show true = false from he)
  | killConfirm part => exact Bool.noConfusion (show true = false from he)
  | stackFlitReceive link flit => exact Bool.noConfusion (show true = false from he)
  | linkReplay link => exact Bool.noConfusion (show true = false from he)
  | linkRetrain link ok => exact Bool.noConfusion (show true = false from he)
  | homeRequestApply home index => exact Bool.noConfusion (show true = false from he)
  | gleanerStep stack => exact Bool.noConfusion (show true = false from he)
  | wilziaGrowthAnswer stack moved donor reserve => exact Bool.noConfusion (show true = false from he)
  | parkDeadline stack => exact Bool.noConfusion (show true = false from he)
  | faultAnswer fn answer => exact Bool.noConfusion (show true = false from he)
  | cxlLinkDown port => exact Bool.noConfusion (show true = false from he)
  | hostAtomic fn va op bytes compare operand => exact Bool.noConfusion (show true = false from he)
  | ikirathFlitReceive port flit => exact Bool.noConfusion (show true = false from he)
  | podArrival pid module phase => exact Bool.noConfusion (show true = false from he)
  | podPidAllot fn podgrp pid => exact Bool.noConfusion (show true = false from he)
  | budgetPeriod report => exact Bool.noConfusion (show true = false from he)
  | opChangeDone quad => exact Bool.noConfusion (show true = false from he)
  | currentLimit die => exact Bool.noConfusion (show true = false from he)
  | limitRelease die => exact Bool.noConfusion (show true = false from he)
  | temperatureSample temps => exact Bool.noConfusion (show true = false from he)
  | savesDone => exact Bool.noConfusion (show true = false from he)
  | thermalReenable => exact Bool.noConfusion (show true = false from he)
  | recoveryDone => exact Bool.noConfusion (show true = false from he)
  | retentionEntry cluster => exact Bool.noConfusion (show true = false from he)
  | retentionExit cluster parityOk => exact Bool.noConfusion (show true = false from he)
  | powerOn image => exact Bool.noConfusion (show true = false from he)
  | bootReady => exact Bool.noConfusion (show true = false from he)
  | recoveryGo image => exact Bool.noConfusion (show true = false from he)
  | attestationGo => exact Bool.noConfusion (show true = false from he)
  | attestationDone => exact Bool.noConfusion (show true = false from he)
  | funcon => exact Bool.noConfusion (show true = false from he)
  | funcoff => exact Bool.noConfusion (show true = false from he)
  | trapk => exact Bool.noConfusion (show true = false from he)
  | homerng => exact Bool.noConfusion (show true = false from he)
  | map resources => exact Bool.noConfusion (show true = false from he)
  | unmap => exact Bool.noConfusion (show true = false from he)
  | quota resources => exact Bool.noConfusion (show true = false from he)
  | functionRequestDone => exact Bool.noConfusion (show true = false from he)
  | lifetimeUpdate => exact Bool.noConfusion (show true = false from he)
  | fpVectorQueueDrain core => exact Bool.noConfusion (show true = false from he)
  | remoteAccessPerform core ctx id => exact Bool.noConfusion (show true = false from he)
  | routerOutputGrant router out cls => exact Bool.noConfusion (show true = false from he)
  | matrixCommandArrive pkt => exact Bool.noConfusion (show true = false from he)
  | matrixCommandDone quad => exact Bool.noConfusion (show true = false from he)
  | foldRequestArrive pkt => exact Bool.noConfusion (show true = false from he)
  | foldAnswer pkt => exact Bool.noConfusion (show true = false from he)
  | pieceFault core entry piece => exact Bool.noConfusion (show true = false from he)
  | linkRecovered link => exact Bool.noConfusion (show true = false from he)
  | podFormation number routes => exact Bool.noConfusion (show true = false from he)
  | uncorrectableError where_ => exact Bool.noConfusion (show true = false from he)

end Sys2Proof.Machine
end

