-- ==== Sys2Proof/Laws/Memory.lean ====
section
/-! SUPPORT. Memory: every operation keeps the canonical form, and what a read gives after a write. -/

namespace Sys2Proof.Machine

-- The canonical form.

/-- The canonical form, said of the whole list: addresses strictly rising, and no byte 0 listed. -/
theorem Memory.wf_iff (m : List Host.Cell) :
    Memory.wf m = true ↔ m.Pairwise (fun a b => a.1 < b.1) ∧ ∀ c ∈ m, c.2 ≠ 0#8 := by
  induction m with
  | nil => simp [Memory.wf]
  | cons e m ih =>
    obtain ⟨k, b⟩ := e
    cases m with
    | nil => simp [Memory.wf]
    | cons e' m =>
      obtain ⟨k', b'⟩ := e'
      simp only [Memory.wf, Bool.and_eq_true, bne_iff_ne, decide_eq_true_eq, ih]
      constructor
      · rintro ⟨⟨hb, hk⟩, hp, hz⟩
        refine ⟨List.pairwise_cons.2 ⟨fun c hc => ?_, hp⟩, List.forall_mem_cons.2 ⟨hb, hz⟩⟩
        rcases List.mem_cons.1 hc with rfl | hc
        · exact hk
        · exact hk.trans ((List.pairwise_cons.1 hp).1 c hc)
      · rintro ⟨hp, hz⟩
        obtain ⟨h1, h2⟩ := List.pairwise_cons.1 hp
        obtain ⟨h3, h4⟩ := List.forall_mem_cons.1 hz
        exact ⟨⟨h3, h1 _ List.mem_cons_self⟩, h2, h4⟩

@[simp] theorem Memory.wf_nil : Memory.wf [] = true := rfl

theorem Memory.wf_filter {m : List Host.Cell} (p : Host.Cell → Bool) (h : Memory.wf m = true) :
    Memory.wf (m.filter p) = true := by
  rw [Memory.wf_iff] at *
  exact ⟨h.1.filter p, fun c hc => h.2 c (List.mem_filter.1 hc).1⟩

theorem mem_amSet {β : Type} {m : AMap β} {j : Nat} {w : β} {e : Nat × β} (h : e ∈ amSet m j w) :
    e = (j, w) ∨ e ∈ m := by
  induction m with
  | nil => simpa [amSet] using h
  | cons d m ih =>
    obtain ⟨k, v⟩ := d
    unfold amSet at h
    split at h
    · rcases List.mem_cons.1 h with h | h
      · exact .inl h
      · exact .inr (List.mem_cons_of_mem _ h)
    · split at h
      · rcases List.mem_cons.1 h with h | h
        · exact .inl h
        · exact .inr h
      · rcases List.mem_cons.1 h with h | h
        · exact .inr (by simp [h])
        · exact (ih h).imp id (List.mem_cons_of_mem _)

theorem mem_amDel {β : Type} {m : AMap β} {j : Nat} {e : Nat × β} (h : e ∈ amDel m j) : e ∈ m := by
  induction m with
  | nil => simp [amDel] at h
  | cons d m ih =>
    obtain ⟨k, v⟩ := d
    unfold amDel at h
    split at h
    · exact List.mem_cons_of_mem _ (ih h)
    · rcases List.mem_cons.1 h with h | h
      · simp [h]
      · exact List.mem_cons_of_mem _ (ih h)

/-- Listing a value keeps the order. -/
theorem amSet_rising {β : Type} {m : AMap β} (j : Nat) (w : β) (h : m.Pairwise (fun a b => a.1 < b.1)) :
    (amSet m j w).Pairwise (fun a b => a.1 < b.1) := by
  induction m with
  | nil => simp [amSet]
  | cons d m ih =>
    obtain ⟨k, v⟩ := d
    obtain ⟨h1, h2⟩ := List.pairwise_cons.1 h
    unfold amSet
    split
    · rename_i hk; subst hk; exact List.pairwise_cons.2 ⟨h1, h2⟩
    · split
      · rename_i hj
        refine List.pairwise_cons.2 ⟨fun e he => ?_, h⟩
        rcases List.mem_cons.1 he with rfl | he
        · exact hj
        · exact hj.trans (h1 e he)
      · refine List.pairwise_cons.2 ⟨fun e he => ?_, ih h2⟩
        rcases mem_amSet he with rfl | he
        · simp only; omega
        · exact h1 e he

theorem amDel_rising {β : Type} {m : AMap β} (j : Nat) (h : m.Pairwise (fun a b => a.1 < b.1)) :
    (amDel m j).Pairwise (fun a b => a.1 < b.1) := by
  induction m with
  | nil => simp [amDel]
  | cons d m ih =>
    obtain ⟨k, v⟩ := d
    obtain ⟨h1, h2⟩ := List.pairwise_cons.1 h
    unfold amDel
    split
    · exact ih h2
    · exact List.pairwise_cons.2 ⟨fun e he => h1 e (mem_amDel he), ih h2⟩

theorem Memory.wf_memSet {m : List Host.Cell} (k : Nat) (b : BitVec 8) (h : Memory.wf m = true) :
    Memory.wf (memSet m k b) = true := by
  rw [Memory.wf_iff] at *
  unfold memSet
  split
  · exact ⟨amDel_rising k h.1, fun c hc => h.2 c (mem_amDel hc)⟩
  · rename_i hb
    refine ⟨amSet_rising k b h.1, fun c hc => ?_⟩
    rcases mem_amSet hc with rfl | hc
    · exact hb
    · exact h.2 c hc

theorem Memory.wf_memPut {m : List Host.Cell} (k : Nat) (bs : List (BitVec 8)) (h : Memory.wf m = true) :
    Memory.wf (memPut m k bs) = true := by
  induction bs generalizing m k with
  | nil => exact h
  | cons b bs ih => exact ih _ (Memory.wf_memSet k b h)

theorem Memory.wf_memWrite {m : List Host.Cell} (k n v : Nat) (h : Memory.wf m = true) :
    Memory.wf (memWrite m k n v) = true := by
  induction n generalizing m k v with
  | zero => exact h
  | succ n ih => exact ih _ _ (Memory.wf_memSet k _ h)

/-- Listing the cells of one memory in another, as a restore does. -/
theorem Memory.wf_fold_memSet {m : List Host.Cell} (cs : List Host.Cell) (h : Memory.wf m = true) :
    Memory.wf (cs.foldl (fun m c => memSet m c.1 c.2) m) = true := by
  induction cs generalizing m with
  | nil => exact h
  | cons c cs ih => exact ih (Memory.wf_memSet _ _ h)

theorem Memory.wf_poke {s : State} (k : Nat) (bs : List (BitVec 8)) (h : Memory.wf s.mem = true) :
    Memory.wf (s.poke k bs).mem = true := Memory.wf_memPut k bs h

-- Read after write.

@[simp] theorem memGet_memSet_self (m : List Host.Cell) (k : Nat) (b : BitVec 8) : memGet (memSet m k b) k = b := by
  unfold memSet memGet
  split
  · rename_i h; simp [h]
  · simp

theorem memGet_memSet_ne (m : List Host.Cell) {a k : Nat} (b : BitVec 8) (h : a ≠ k) :
    memGet (memSet m k b) a = memGet m a := by
  unfold memSet memGet
  split
  · exact amGet_amDel_ne _ _ h
  · exact amGet_amSet_ne _ _ _ h

/-- A write leaves every byte before it and from its end on. -/
theorem memGet_memPut_out (m : List Host.Cell) {a k : Nat} (bs : List (BitVec 8)) (h : a < k ∨ k + bs.length ≤ a) :
    memGet (memPut m k bs) a = memGet m a := by
  induction bs generalizing m k with
  | nil => rfl
  | cons b bs ih =>
    simp only [List.length_cons] at h
    rw [memPut, ih _ (by omega), memGet_memSet_ne _ _ (by omega)]

/-- A byte written reads as written. -/
theorem memGet_memPut_in (m : List Host.Cell) (k : Nat) (bs : List (BitVec 8)) (i : Nat) (h : i < bs.length) :
    memGet (memPut m k bs) (k + i) = bs[i] := by
  induction bs generalizing m k i with
  | nil => simp at h
  | cons b bs ih =>
    cases i with
    | zero => rw [memPut, memGet_memPut_out _ _ (by omega)]; simp
    | succ i =>
      rw [memPut, show k + (i + 1) = k + 1 + i by omega]
      exact ih _ _ i (by simpa using h)

theorem memBytes_congr {m m' : List Host.Cell} {k n : Nat} (h : ∀ a, k ≤ a → a < k + n → memGet m a = memGet m' a) :
    memBytes m k n = memBytes m' k n := by
  induction n generalizing k with
  | zero => rfl
  | succ n ih => rw [memBytes, memBytes, h k le_rfl (by omega), ih (k := k + 1) (fun a h1 h2 => h a (by omega) (by omega))]

theorem memRead_congr {m m' : List Host.Cell} {k n : Nat} (h : ∀ a, k ≤ a → a < k + n → memGet m a = memGet m' a) :
    memRead m k n = memRead m' k n := by
  induction n generalizing k with
  | zero => rfl
  | succ n ih => rw [memRead, memRead, h k le_rfl (by omega), ih (k := k + 1) (fun a h1 h2 => h a (by omega) (by omega))]

/-- What is written is what is read back. -/
theorem memBytes_memPut (m : List Host.Cell) (k : Nat) (bs : List (BitVec 8)) :
    memBytes (memPut m k bs) k bs.length = bs := by
  induction bs generalizing m k with
  | nil => rfl
  | cons b bs ih =>
    simp only [memPut, List.length_cons, memBytes, ih]
    rw [memGet_memPut_out _ _ (by omega), memGet_memSet_self]

@[simp] theorem natBytes_length (n v : Nat) : (natBytes n v).length = n := by
  induction n generalizing v with
  | zero => rfl
  | succ n ih => simp [natBytes, ih]

theorem memRead_memPut_natBytes (m : List Host.Cell) (k n v : Nat) (h : v < 256 ^ n) :
    memRead (memPut m k (natBytes n v)) k n = v := by
  induction n generalizing m k v with
  | zero => simp at h; simp [memRead, h]
  | succ n ih =>
    simp only [natBytes, memPut, memRead]
    rw [ih _ _ _ (by rw [pow_succ] at h; omega), memGet_memPut_out _ _ (by omega), memGet_memSet_self]
    simp; omega

theorem memRead_lt (m : List Host.Cell) (k n : Nat) : memRead m k n < 256 ^ n := by
  induction n generalizing k with
  | zero => simp [memRead]
  | succ n ih => have := (memGet m k).isLt; have := ih (k + 1); simp only [memRead, pow_succ]; omega

end Sys2Proof.Machine
end

