-- ==== Sys2Proof/Laws/PerInstr.lean ====
section
/-! SUPPORT. The family RoundTrip: for every constructor, the decoder reads the instruction's own word as that
instruction. An event has no word. -/

set_option linter.unusedSimpArgs false

namespace Sys2Proof.Laws.RoundTrip

/-- The word or the halfword of an instruction reads as the instruction. -/
def Statement (i : Instr) : Prop :=
  (∀ w, encode32 i = some w → decodeMajor (opcodeOf w).toNat (slots w) = some i) ∧
    (∀ h, encode16 i = some h → decode16 h = some i)

-- Fields of joined fields.

theorem extract_low {n m : Nat} (x : BitVec n) (y : BitVec m) : (x ++ y).extractLsb' 0 m = y := by
  ext k hk
  simp [BitVec.getLsbD_append, hk]

theorem extract_high {n m : Nat} (x : BitVec n) (y : BitVec m) (k : Nat) (h : k = m) :
    (x ++ y).extractLsb' k n = x := by
  subst h
  ext j hj
  simp [BitVec.getLsbD_append, BitVec.getLsbD_eq_getElem hj]

/-- A field that lies in the upper part. -/
theorem extract_up {n m : Nat} (x : BitVec n) (y : BitVec m) (k l : Nat) (h : m ≤ k) :
    (x ++ y).extractLsb' k l = x.extractLsb' (k - m) l := by
  ext j hj
  simp [BitVec.getLsbD_append, show ¬ k + j < m by omega, show k + j - m = k - m + j by omega]

theorem extract_all {n : Nat} (x : BitVec n) : x.extractLsb' 0 n = x := by
  ext j hj
  simp

/-- Two adjoining fields joined. -/
theorem extract_join {n : Nat} (x : BitVec n) (j k l : Nat) (h : j = k + l) (p : Nat) :
    (x.extractLsb' j p ++ x.extractLsb' k l : BitVec (p + l)) = x.extractLsb' k (p + l) := by
  subst h
  ext i hi
  simp only [BitVec.getElem_append, BitVec.getElem_extractLsb']
  split
  · rfl
  · congr 1; omega

theorem join6 (x : BitVec 6) : (x.extractLsb' 5 1 ++ x.extractLsb' 0 5 : BitVec 6) = x := by
  rw [extract_join x 5 0 5 rfl 1]; exact extract_all x

theorem join8 (x : BitVec 8) : (x.extractLsb' 5 3 ++ x.extractLsb' 0 5 : BitVec 8) = x := by
  rw [extract_join x 5 0 5 rfl 3]; exact extract_all x

theorem join8' (x : BitVec 8) : (x.extractLsb' 1 7 ++ x.extractLsb' 0 1 : BitVec 8) = x := by
  rw [extract_join x 1 0 1 rfl 7]; exact extract_all x

theorem join12 (x : BitVec 12) : (x.extractLsb' 5 7 ++ x.extractLsb' 0 5 : BitVec 12) = x := by
  rw [extract_join x 5 0 5 rfl 7]; exact extract_all x

theorem join20 (x : BitVec 20) :
    (x.extractLsb' 13 7 ++ x.extractLsb' 8 5 ++ x.extractLsb' 5 3 ++ x.extractLsb' 0 5 : BitVec 20) = x := by
  rw [extract_join x 13 8 5 rfl 7, extract_join x 8 5 3 rfl 12, extract_join x 5 0 5 rfl 15]; exact extract_all x

theorem slots_pack (f7 : BitVec 7) (b : BitVec 5) (f3 : BitVec 3) (a d : BitVec 5) (opc : BitVec 7) :
    slots (pack32 f7 b f3 a d opc) = { f7 := f7, b := b, f3 := f3, a := a, d := d } := by
  simp only [slots, pack32, Slots.mk.injEq]
  refine ⟨?_, ?_, ?_, ?_, ?_⟩ <;> simp only [extract_low, extract_high, extract_up, Nat.reduceLeDiff, Nat.reduceSub]

theorem two_bits (e : BitVec 2) : e = 0#2 ∨ e = 1#2 ∨ e = 2#2 ∨ e = 3#2 := by
  revert e; decide

theorem opcodeOf_pack (f7 : BitVec 7) (b : BitVec 5) (f3 : BitVec 3) (a d : BitVec 5) (opc : BitVec 7) :
    opcodeOf (pack32 f7 b f3 a d opc) = opc := extract_low _ _

/-- What shows the family's statement of an instruction of 32 bits. -/
theorem of_pack {i : Instr} {f7 : BitVec 7} {b : BitVec 5} {f3 : BitVec 3} {a d : BitVec 5} {opc : BitVec 7}
    (h : encode32 i = some (pack32 f7 b f3 a d opc)) (h16 : encode16 i = none)
    (hd : decodeMajor opc.toNat { f7 := f7, b := b, f3 := f3, a := a, d := d } = some i) : Statement i := by
  refine ⟨fun w hw => ?_, fun w hw => by simp [h16] at hw⟩
  rw [h] at hw
  cases hw
  rw [slots_pack, opcodeOf_pack]
  exact hd

/-- What shows the family's statement of an instruction of 16 bits. -/
theorem of_pack16 {i : Instr} {b d op : BitVec 5} (h : encode16 i = some (pack16 b d op)) (h32 : encode32 i = none)
    (hd : decodeOp16 op.toNat d b = some i) : Statement i := by
  refine ⟨fun w hw => by simp [h32] at hw, fun w hw => ?_⟩
  rw [h] at hw
  cases hw
  have h0 : (pack16 b d op).extractLsb' 0 1 = 0#1 := extract_low _ _
  have h1 : (pack16 b d op).extractLsb' 1 5 = op := by
    simp only [pack16]; rw [extract_up _ _ _ _ (by decide)]; exact extract_low _ _
  have h2 : (pack16 b d op).extractLsb' 6 5 = d := by
    simp only [pack16]; rw [extract_up _ _ _ _ (by decide), extract_up _ _ _ _ (by decide)]; exact extract_low _ _
  have h3 : (pack16 b d op).extractLsb' 11 5 = b := by
    simp only [pack16]; rw [extract_up _ _ _ _ (by decide), extract_up _ _ _ _ (by decide)]
    exact extract_high _ _ _ rfl
  simp only [decode16, h0, h1, h2, h3, if_true]
  exact hd

/-- What shows the family's statement of an event. -/
theorem of_event {i : Instr} (h : encode32 i = none) (h16 : encode16 i = none) : Statement i :=
  ⟨fun w hw => by simp [h] at hw, fun w hw => by simp [h16] at hw⟩

theorem illegalEncoding (short : Bool) (bits : BitVec 32) : Statement (.illegalEncoding short bits) :=
  of_event rfl rfl
theorem add (d : BitVec 5) (a : BitVec 5) (b : BitVec 5) : Statement (.add d a b) :=
  of_pack rfl rfl (by
    show decode03 _ = _
    simp only [decode03, extract_low, extract_high, extract_up, Nat.reduceLeDiff, Nat.reduceSub, join6, join8, join8', join12, join20]
    all_goals simp)
theorem sll (d : BitVec 5) (a : BitVec 5) (b : BitVec 5) : Statement (.sll d a b) :=
  of_pack rfl rfl (by
    show decode03 _ = _
    simp only [decode03, extract_low, extract_high, extract_up, Nat.reduceLeDiff, Nat.reduceSub, join6, join8, join8', join12, join20]
    all_goals simp)
theorem slt (d : BitVec 5) (a : BitVec 5) (b : BitVec 5) : Statement (.slt d a b) :=
  of_pack rfl rfl (by
    show decode03 _ = _
    simp only [decode03, extract_low, extract_high, extract_up, Nat.reduceLeDiff, Nat.reduceSub, join6, join8, join8', join12, join20]
    all_goals simp)
theorem sltu (d : BitVec 5) (a : BitVec 5) (b : BitVec 5) : Statement (.sltu d a b) :=
  of_pack rfl rfl (by
    show decode03 _ = _
    simp only [decode03, extract_low, extract_high, extract_up, Nat.reduceLeDiff, Nat.reduceSub, join6, join8, join8', join12, join20]
    all_goals simp)
theorem xor (d : BitVec 5) (a : BitVec 5) (b : BitVec 5) : Statement (.xor d a b) :=
  of_pack rfl rfl (by
    show decode03 _ = _
    simp only [decode03, extract_low, extract_high, extract_up, Nat.reduceLeDiff, Nat.reduceSub, join6, join8, join8', join12, join20]
    all_goals simp)
theorem srl (d : BitVec 5) (a : BitVec 5) (b : BitVec 5) : Statement (.srl d a b) :=
  of_pack rfl rfl (by
    show decode03 _ = _
    simp only [decode03, extract_low, extract_high, extract_up, Nat.reduceLeDiff, Nat.reduceSub, join6, join8, join8', join12, join20]
    all_goals simp)
theorem or (d : BitVec 5) (a : BitVec 5) (b : BitVec 5) : Statement (.or d a b) :=
  of_pack rfl rfl (by
    show decode03 _ = _
    simp only [decode03, extract_low, extract_high, extract_up, Nat.reduceLeDiff, Nat.reduceSub, join6, join8, join8', join12, join20]
    all_goals simp)
theorem and (d : BitVec 5) (a : BitVec 5) (b : BitVec 5) : Statement (.and d a b) :=
  of_pack rfl rfl (by
    show decode03 _ = _
    simp only [decode03, extract_low, extract_high, extract_up, Nat.reduceLeDiff, Nat.reduceSub, join6, join8, join8', join12, join20]
    all_goals simp)
theorem sub (d : BitVec 5) (a : BitVec 5) (b : BitVec 5) : Statement (.sub d a b) :=
  of_pack rfl rfl (by
    show decode03 _ = _
    simp only [decode03, extract_low, extract_high, extract_up, Nat.reduceLeDiff, Nat.reduceSub, join6, join8, join8', join12, join20]
    all_goals simp)
theorem sra (d : BitVec 5) (a : BitVec 5) (b : BitVec 5) : Statement (.sra d a b) :=
  of_pack rfl rfl (by
    show decode03 _ = _
    simp only [decode03, extract_low, extract_high, extract_up, Nat.reduceLeDiff, Nat.reduceSub, join6, join8, join8', join12, join20]
    all_goals simp)
theorem mul (d : BitVec 5) (a : BitVec 5) (b : BitVec 5) : Statement (.mul d a b) :=
  of_pack rfl rfl (by
    show decode03 _ = _
    simp only [decode03, extract_low, extract_high, extract_up, Nat.reduceLeDiff, Nat.reduceSub, join6, join8, join8', join12, join20]
    all_goals simp)
theorem mulh (d : BitVec 5) (a : BitVec 5) (b : BitVec 5) : Statement (.mulh d a b) :=
  of_pack rfl rfl (by
    show decode03 _ = _
    simp only [decode03, extract_low, extract_high, extract_up, Nat.reduceLeDiff, Nat.reduceSub, join6, join8, join8', join12, join20]
    all_goals simp)
theorem mulhsu (d : BitVec 5) (a : BitVec 5) (b : BitVec 5) : Statement (.mulhsu d a b) :=
  of_pack rfl rfl (by
    show decode03 _ = _
    simp only [decode03, extract_low, extract_high, extract_up, Nat.reduceLeDiff, Nat.reduceSub, join6, join8, join8', join12, join20]
    all_goals simp)
theorem mulhu (d : BitVec 5) (a : BitVec 5) (b : BitVec 5) : Statement (.mulhu d a b) :=
  of_pack rfl rfl (by
    show decode03 _ = _
    simp only [decode03, extract_low, extract_high, extract_up, Nat.reduceLeDiff, Nat.reduceSub, join6, join8, join8', join12, join20]
    all_goals simp)
theorem div (d : BitVec 5) (a : BitVec 5) (b : BitVec 5) : Statement (.div d a b) :=
  of_pack rfl rfl (by
    show decode03 _ = _
    simp only [decode03, extract_low, extract_high, extract_up, Nat.reduceLeDiff, Nat.reduceSub, join6, join8, join8', join12, join20]
    all_goals simp)
theorem divu (d : BitVec 5) (a : BitVec 5) (b : BitVec 5) : Statement (.divu d a b) :=
  of_pack rfl rfl (by
    show decode03 _ = _
    simp only [decode03, extract_low, extract_high, extract_up, Nat.reduceLeDiff, Nat.reduceSub, join6, join8, join8', join12, join20]
    all_goals simp)
theorem rem (d : BitVec 5) (a : BitVec 5) (b : BitVec 5) : Statement (.rem d a b) :=
  of_pack rfl rfl (by
    show decode03 _ = _
    simp only [decode03, extract_low, extract_high, extract_up, Nat.reduceLeDiff, Nat.reduceSub, join6, join8, join8', join12, join20]
    all_goals simp)
theorem remu (d : BitVec 5) (a : BitVec 5) (b : BitVec 5) : Statement (.remu d a b) :=
  of_pack rfl rfl (by
    show decode03 _ = _
    simp only [decode03, extract_low, extract_high, extract_up, Nat.reduceLeDiff, Nat.reduceSub, join6, join8, join8', join12, join20]
    all_goals simp)
theorem min (d : BitVec 5) (a : BitVec 5) (b : BitVec 5) : Statement (.min d a b) :=
  of_pack rfl rfl (by
    show decode03 _ = _
    simp only [decode03, extract_low, extract_high, extract_up, Nat.reduceLeDiff, Nat.reduceSub, join6, join8, join8', join12, join20]
    all_goals simp)
theorem max (d : BitVec 5) (a : BitVec 5) (b : BitVec 5) : Statement (.max d a b) :=
  of_pack rfl rfl (by
    show decode03 _ = _
    simp only [decode03, extract_low, extract_high, extract_up, Nat.reduceLeDiff, Nat.reduceSub, join6, join8, join8', join12, join20]
    all_goals simp)
theorem minu (d : BitVec 5) (a : BitVec 5) (b : BitVec 5) : Statement (.minu d a b) :=
  of_pack rfl rfl (by
    show decode03 _ = _
    simp only [decode03, extract_low, extract_high, extract_up, Nat.reduceLeDiff, Nat.reduceSub, join6, join8, join8', join12, join20]
    all_goals simp)
theorem maxu (d : BitVec 5) (a : BitVec 5) (b : BitVec 5) : Statement (.maxu d a b) :=
  of_pack rfl rfl (by
    show decode03 _ = _
    simp only [decode03, extract_low, extract_high, extract_up, Nat.reduceLeDiff, Nat.reduceSub, join6, join8, join8', join12, join20]
    all_goals simp)
theorem clz (d : BitVec 5) (a : BitVec 5) : Statement (.clz d a) :=
  of_pack rfl rfl (by
    show decode03 _ = _
    simp only [decode03, extract_low, extract_high, extract_up, Nat.reduceLeDiff, Nat.reduceSub, join6, join8, join8', join12, join20]
    all_goals simp)
theorem ctz (d : BitVec 5) (a : BitVec 5) : Statement (.ctz d a) :=
  of_pack rfl rfl (by
    show decode03 _ = _
    simp only [decode03, extract_low, extract_high, extract_up, Nat.reduceLeDiff, Nat.reduceSub, join6, join8, join8', join12, join20]
    all_goals simp)
theorem popc (d : BitVec 5) (a : BitVec 5) : Statement (.popc d a) :=
  of_pack rfl rfl (by
    show decode03 _ = _
    simp only [decode03, extract_low, extract_high, extract_up, Nat.reduceLeDiff, Nat.reduceSub, join6, join8, join8', join12, join20]
    all_goals simp)
theorem brev (d : BitVec 5) (a : BitVec 5) : Statement (.brev d a) :=
  of_pack rfl rfl (by
    show decode03 _ = _
    simp only [decode03, extract_low, extract_high, extract_up, Nat.reduceLeDiff, Nat.reduceSub, join6, join8, join8', join12, join20]
    all_goals simp)
theorem sextb (d : BitVec 5) (a : BitVec 5) : Statement (.sextb d a) :=
  of_pack rfl rfl (by
    show decode03 _ = _
    simp only [decode03, extract_low, extract_high, extract_up, Nat.reduceLeDiff, Nat.reduceSub, join6, join8, join8', join12, join20]
    all_goals simp)
theorem sexth (d : BitVec 5) (a : BitVec 5) : Statement (.sexth d a) :=
  of_pack rfl rfl (by
    show decode03 _ = _
    simp only [decode03, extract_low, extract_high, extract_up, Nat.reduceLeDiff, Nat.reduceSub, join6, join8, join8', join12, join20]
    all_goals simp)
theorem sextw (d : BitVec 5) (a : BitVec 5) : Statement (.sextw d a) :=
  of_pack rfl rfl (by
    show decode03 _ = _
    simp only [decode03, extract_low, extract_high, extract_up, Nat.reduceLeDiff, Nat.reduceSub, join6, join8, join8', join12, join20]
    all_goals simp)
theorem addi (d : BitVec 5) (a : BitVec 5) (i : BitVec 12) : Statement (.addi d a i) :=
  of_pack rfl rfl (by
    show decode05 _ = _
    simp only [decode05, extract_low, extract_high, extract_up, Nat.reduceLeDiff, Nat.reduceSub, join6, join8, join8', join12, join20]
    all_goals simp)
theorem slti (d : BitVec 5) (a : BitVec 5) (i : BitVec 12) : Statement (.slti d a i) :=
  of_pack rfl rfl (by
    show decode05 _ = _
    simp only [decode05, extract_low, extract_high, extract_up, Nat.reduceLeDiff, Nat.reduceSub, join6, join8, join8', join12, join20]
    all_goals simp)
theorem sltiu (d : BitVec 5) (a : BitVec 5) (i : BitVec 12) : Statement (.sltiu d a i) :=
  of_pack rfl rfl (by
    show decode05 _ = _
    simp only [decode05, extract_low, extract_high, extract_up, Nat.reduceLeDiff, Nat.reduceSub, join6, join8, join8', join12, join20]
    all_goals simp)
theorem xori (d : BitVec 5) (a : BitVec 5) (i : BitVec 12) : Statement (.xori d a i) :=
  of_pack rfl rfl (by
    show decode05 _ = _
    simp only [decode05, extract_low, extract_high, extract_up, Nat.reduceLeDiff, Nat.reduceSub, join6, join8, join8', join12, join20]
    all_goals simp)
theorem ori (d : BitVec 5) (a : BitVec 5) (i : BitVec 12) : Statement (.ori d a i) :=
  of_pack rfl rfl (by
    show decode05 _ = _
    simp only [decode05, extract_low, extract_high, extract_up, Nat.reduceLeDiff, Nat.reduceSub, join6, join8, join8', join12, join20]
    all_goals simp)
theorem andi (d : BitVec 5) (a : BitVec 5) (i : BitVec 12) : Statement (.andi d a i) :=
  of_pack rfl rfl (by
    show decode05 _ = _
    simp only [decode05, extract_low, extract_high, extract_up, Nat.reduceLeDiff, Nat.reduceSub, join6, join8, join8', join12, join20]
    all_goals simp)
theorem slli (d : BitVec 5) (a : BitVec 5) (s : BitVec 6) : Statement (.slli d a s) :=
  of_pack rfl rfl (by
    show decode05 _ = _
    simp only [decode05, extract_low, extract_high, extract_up, Nat.reduceLeDiff, Nat.reduceSub, join6, join8, join8', join12, join20]
    all_goals simp)
theorem srli (d : BitVec 5) (a : BitVec 5) (s : BitVec 6) : Statement (.srli d a s) :=
  of_pack rfl rfl (by
    show decode05 _ = _
    simp only [decode05, extract_low, extract_high, extract_up, Nat.reduceLeDiff, Nat.reduceSub, join6, join8, join8', join12, join20]
    all_goals simp)
theorem srai (d : BitVec 5) (a : BitVec 5) (s : BitVec 6) : Statement (.srai d a s) :=
  of_pack rfl rfl (by
    show decode05 _ = _
    simp only [decode05, extract_low, extract_high, extract_up, Nat.reduceLeDiff, Nat.reduceSub, join6, join8, join8', join12, join20]
    all_goals simp)
theorem lih (d : BitVec 5) (i : BitVec 20) : Statement (.lih d i) :=
  of_pack rfl rfl (by
    show decode07 _ = _
    simp only [decode07, extract_low, extract_high, extract_up, Nat.reduceLeDiff, Nat.reduceSub, join6, join8, join8', join12, join20])
theorem addpc (d : BitVec 5) (i : BitVec 20) : Statement (.addpc d i) :=
  of_pack rfl rfl (by
    show decode09 _ = _
    simp only [decode09, extract_low, extract_high, extract_up, Nat.reduceLeDiff, Nat.reduceSub, join6, join8, join8', join12, join20])
theorem lb (d : BitVec 5) (a : BitVec 5) (i : BitVec 12) : Statement (.lb d a i) :=
  of_pack rfl rfl (by
    show decode0B _ = _
    simp only [decode0B, extract_low, extract_high, extract_up, Nat.reduceLeDiff, Nat.reduceSub, join6, join8, join8', join12, join20]
    all_goals simp)
theorem lh (d : BitVec 5) (a : BitVec 5) (i : BitVec 12) : Statement (.lh d a i) :=
  of_pack rfl rfl (by
    show decode0B _ = _
    simp only [decode0B, extract_low, extract_high, extract_up, Nat.reduceLeDiff, Nat.reduceSub, join6, join8, join8', join12, join20]
    all_goals simp)
theorem lw (d : BitVec 5) (a : BitVec 5) (i : BitVec 12) : Statement (.lw d a i) :=
  of_pack rfl rfl (by
    show decode0B _ = _
    simp only [decode0B, extract_low, extract_high, extract_up, Nat.reduceLeDiff, Nat.reduceSub, join6, join8, join8', join12, join20]
    all_goals simp)
theorem ld (d : BitVec 5) (a : BitVec 5) (i : BitVec 12) : Statement (.ld d a i) :=
  of_pack rfl rfl (by
    show decode0B _ = _
    simp only [decode0B, extract_low, extract_high, extract_up, Nat.reduceLeDiff, Nat.reduceSub, join6, join8, join8', join12, join20]
    all_goals simp)
theorem lbu (d : BitVec 5) (a : BitVec 5) (i : BitVec 12) : Statement (.lbu d a i) :=
  of_pack rfl rfl (by
    show decode0B _ = _
    simp only [decode0B, extract_low, extract_high, extract_up, Nat.reduceLeDiff, Nat.reduceSub, join6, join8, join8', join12, join20]
    all_goals simp)
theorem lhu (d : BitVec 5) (a : BitVec 5) (i : BitVec 12) : Statement (.lhu d a i) :=
  of_pack rfl rfl (by
    show decode0B _ = _
    simp only [decode0B, extract_low, extract_high, extract_up, Nat.reduceLeDiff, Nat.reduceSub, join6, join8, join8', join12, join20]
    all_goals simp)
theorem lwu (d : BitVec 5) (a : BitVec 5) (i : BitVec 12) : Statement (.lwu d a i) :=
  of_pack rfl rfl (by
    show decode0B _ = _
    simp only [decode0B, extract_low, extract_high, extract_up, Nat.reduceLeDiff, Nat.reduceSub, join6, join8, join8', join12, join20]
    all_goals simp)
theorem sb (a : BitVec 5) (b : BitVec 5) (i : BitVec 12) : Statement (.sb a b i) :=
  of_pack rfl rfl (by
    show decode0D _ = _
    simp only [decode0D, extract_low, extract_high, extract_up, Nat.reduceLeDiff, Nat.reduceSub, join6, join8, join8', join12, join20]
    all_goals simp)
theorem sh (a : BitVec 5) (b : BitVec 5) (i : BitVec 12) : Statement (.sh a b i) :=
  of_pack rfl rfl (by
    show decode0D _ = _
    simp only [decode0D, extract_low, extract_high, extract_up, Nat.reduceLeDiff, Nat.reduceSub, join6, join8, join8', join12, join20]
    all_goals simp)
theorem sw (a : BitVec 5) (b : BitVec 5) (i : BitVec 12) : Statement (.sw a b i) :=
  of_pack rfl rfl (by
    show decode0D _ = _
    simp only [decode0D, extract_low, extract_high, extract_up, Nat.reduceLeDiff, Nat.reduceSub, join6, join8, join8', join12, join20]
    all_goals simp)
theorem sd (a : BitVec 5) (b : BitVec 5) (i : BitVec 12) : Statement (.sd a b i) :=
  of_pack rfl rfl (by
    show decode0D _ = _
    simp only [decode0D, extract_low, extract_high, extract_up, Nat.reduceLeDiff, Nat.reduceSub, join6, join8, join8', join12, join20]
    all_goals simp)
theorem beq (a : BitVec 5) (b : BitVec 5) (i : BitVec 12) : Statement (.beq a b i) :=
  of_pack rfl rfl (by
    show decode0F _ = _
    simp only [decode0F, extract_low, extract_high, extract_up, Nat.reduceLeDiff, Nat.reduceSub, join6, join8, join8', join12, join20]
    all_goals simp)
theorem bne (a : BitVec 5) (b : BitVec 5) (i : BitVec 12) : Statement (.bne a b i) :=
  of_pack rfl rfl (by
    show decode0F _ = _
    simp only [decode0F, extract_low, extract_high, extract_up, Nat.reduceLeDiff, Nat.reduceSub, join6, join8, join8', join12, join20]
    all_goals simp)
theorem blt (a : BitVec 5) (b : BitVec 5) (i : BitVec 12) : Statement (.blt a b i) :=
  of_pack rfl rfl (by
    show decode0F _ = _
    simp only [decode0F, extract_low, extract_high, extract_up, Nat.reduceLeDiff, Nat.reduceSub, join6, join8, join8', join12, join20]
    all_goals simp)
theorem bge (a : BitVec 5) (b : BitVec 5) (i : BitVec 12) : Statement (.bge a b i) :=
  of_pack rfl rfl (by
    show decode0F _ = _
    simp only [decode0F, extract_low, extract_high, extract_up, Nat.reduceLeDiff, Nat.reduceSub, join6, join8, join8', join12, join20]
    all_goals simp)
theorem bltu (a : BitVec 5) (b : BitVec 5) (i : BitVec 12) : Statement (.bltu a b i) :=
  of_pack rfl rfl (by
    show decode0F _ = _
    simp only [decode0F, extract_low, extract_high, extract_up, Nat.reduceLeDiff, Nat.reduceSub, join6, join8, join8', join12, join20]
    all_goals simp)
theorem bgeu (a : BitVec 5) (b : BitVec 5) (i : BitVec 12) : Statement (.bgeu a b i) :=
  of_pack rfl rfl (by
    show decode0F _ = _
    simp only [decode0F, extract_low, extract_high, extract_up, Nat.reduceLeDiff, Nat.reduceSub, join6, join8, join8', join12, join20]
    all_goals simp)
theorem jal (d : BitVec 5) (i : BitVec 20) : Statement (.jal d i) :=
  of_pack rfl rfl (by
    show decode11 _ = _
    simp only [decode11, extract_low, extract_high, extract_up, Nat.reduceLeDiff, Nat.reduceSub, join6, join8, join8', join12, join20])
theorem jalr (d : BitVec 5) (a : BitVec 5) (i : BitVec 12) : Statement (.jalr d a i) :=
  of_pack rfl rfl (by
    show decode13 _ = _
    simp only [decode13, extract_low, extract_high, extract_up, Nat.reduceLeDiff, Nat.reduceSub, join6, join8, join8', join12, join20]
    all_goals simp)
theorem bfx (d : BitVec 5) (a : BitVec 5) (l : BitVec 6) (p : BitVec 6) : Statement (.bfx d a l p) :=
  of_pack rfl rfl (by
    show decode15 _ = _
    simp only [decode15, extract_low, extract_high, extract_up, Nat.reduceLeDiff, Nat.reduceSub, join6, join8, join8', join12, join20]
    all_goals simp)
theorem bfi (d : BitVec 5) (a : BitVec 5) (l : BitVec 6) (p : BitVec 6) : Statement (.bfi d a l p) :=
  of_pack rfl rfl (by
    show decode15 _ = _
    simp only [decode15, extract_low, extract_high, extract_up, Nat.reduceLeDiff, Nat.reduceSub, join6, join8, join8', join12, join20]
    all_goals simp)
theorem mkaddr (d : BitVec 5) (a : BitVec 5) (b : BitVec 5) : Statement (.mkaddr d a b) :=
  of_pack rfl rfl (by
    show decode17 _ = _
    simp only [decode17, extract_low, extract_high, extract_up, Nat.reduceLeDiff, Nat.reduceSub, join6, join8, join8', join12, join20]
    all_goals simp)
theorem absaddr (d : BitVec 5) (a : BitVec 5) : Statement (.absaddr d a) :=
  of_pack rfl rfl (by
    show decode17 _ = _
    simp only [decode17, extract_low, extract_high, extract_up, Nat.reduceLeDiff, Nat.reduceSub, join6, join8, join8', join12, join20]
    all_goals simp)
theorem ecall : Statement (.ecall) :=
  of_pack rfl rfl (by
    show decode19 _ = _
    simp only [decode19, extract_low, extract_high, extract_up, Nat.reduceLeDiff, Nat.reduceSub, join6, join8, join8', join12, join20]
    all_goals simp)
theorem ebreak : Statement (.ebreak) :=
  of_pack rfl rfl (by
    show decode19 _ = _
    simp only [decode19, extract_low, extract_high, extract_up, Nat.reduceLeDiff, Nat.reduceSub, join6, join8, join8', join12, join20]
    all_goals simp)
theorem tret : Statement (.tret) :=
  of_pack rfl rfl (by
    show decode19 _ = _
    simp only [decode19, extract_low, extract_high, extract_up, Nat.reduceLeDiff, Nat.reduceSub, join6, join8, join8', join12, join20]
    all_goals simp)
theorem wfe : Statement (.wfe) :=
  of_pack rfl rfl (by
    show decode19 _ = _
    simp only [decode19, extract_low, extract_high, extract_up, Nat.reduceLeDiff, Nat.reduceSub, join6, join8, join8', join12, join20]
    all_goals simp)
theorem isync : Statement (.isync) :=
  of_pack rfl rfl (by
    show decode19 _ = _
    simp only [decode19, extract_low, extract_high, extract_up, Nat.reduceLeDiff, Nat.reduceSub, join6, join8, join8', join12, join20]
    all_goals simp)
theorem csrrw (d : BitVec 5) (a : BitVec 5) (c : BitVec 12) : Statement (.csrrw d a c) :=
  of_pack rfl rfl (by
    show decode19 _ = _
    simp only [decode19, extract_low, extract_high, extract_up, Nat.reduceLeDiff, Nat.reduceSub, join6, join8, join8', join12, join20]
    all_goals simp)
theorem csrrs (d : BitVec 5) (a : BitVec 5) (c : BitVec 12) : Statement (.csrrs d a c) :=
  of_pack rfl rfl (by
    show decode19 _ = _
    simp only [decode19, extract_low, extract_high, extract_up, Nat.reduceLeDiff, Nat.reduceSub, join6, join8, join8', join12, join20]
    all_goals simp)
theorem csrrc (d : BitVec 5) (a : BitVec 5) (c : BitVec 12) : Statement (.csrrc d a c) :=
  of_pack rfl rfl (by
    show decode19 _ = _
    simp only [decode19, extract_low, extract_high, extract_up, Nat.reduceLeDiff, Nat.reduceSub, join6, join8, join8', join12, join20]
    all_goals simp)
theorem csrrwi (d : BitVec 5) (c : BitVec 12) (u : BitVec 5) : Statement (.csrrwi d c u) :=
  of_pack rfl rfl (by
    show decode19 _ = _
    simp only [decode19, extract_low, extract_high, extract_up, Nat.reduceLeDiff, Nat.reduceSub, join6, join8, join8', join12, join20]
    all_goals simp)
theorem csrrsi (d : BitVec 5) (c : BitVec 12) (u : BitVec 5) : Statement (.csrrsi d c u) :=
  of_pack rfl rfl (by
    show decode19 _ = _
    simp only [decode19, extract_low, extract_high, extract_up, Nat.reduceLeDiff, Nat.reduceSub, join6, join8, join8', join12, join20]
    all_goals simp)
theorem csrrci (d : BitVec 5) (c : BitVec 12) (u : BitVec 5) : Statement (.csrrci d c u) :=
  of_pack rfl rfl (by
    show decode19 _ = _
    simp only [decode19, extract_low, extract_high, extract_up, Nat.reduceLeDiff, Nat.reduceSub, join6, join8, join8', join12, join20]
    all_goals simp)
theorem flh (d : BitVec 5) (a : BitVec 5) (i : BitVec 12) : Statement (.flh d a i) :=
  of_pack rfl rfl (by
    show decode1B _ = _
    simp only [decode1B, extract_low, extract_high, extract_up, Nat.reduceLeDiff, Nat.reduceSub, join6, join8, join8', join12, join20]
    all_goals simp)
theorem flw (d : BitVec 5) (a : BitVec 5) (i : BitVec 12) : Statement (.flw d a i) :=
  of_pack rfl rfl (by
    show decode1B _ = _
    simp only [decode1B, extract_low, extract_high, extract_up, Nat.reduceLeDiff, Nat.reduceSub, join6, join8, join8', join12, join20]
    all_goals simp)
theorem fld (d : BitVec 5) (a : BitVec 5) (i : BitVec 12) : Statement (.fld d a i) :=
  of_pack rfl rfl (by
    show decode1B _ = _
    simp only [decode1B, extract_low, extract_high, extract_up, Nat.reduceLeDiff, Nat.reduceSub, join6, join8, join8', join12, join20]
    all_goals simp)
theorem fsh (a : BitVec 5) (b : BitVec 5) (i : BitVec 12) : Statement (.fsh a b i) :=
  of_pack rfl rfl (by
    show decode1D _ = _
    simp only [decode1D, extract_low, extract_high, extract_up, Nat.reduceLeDiff, Nat.reduceSub, join6, join8, join8', join12, join20]
    all_goals simp)
theorem fsw (a : BitVec 5) (b : BitVec 5) (i : BitVec 12) : Statement (.fsw a b i) :=
  of_pack rfl rfl (by
    show decode1D _ = _
    simp only [decode1D, extract_low, extract_high, extract_up, Nat.reduceLeDiff, Nat.reduceSub, join6, join8, join8', join12, join20]
    all_goals simp)
theorem fsd (a : BitVec 5) (b : BitVec 5) (i : BitVec 12) : Statement (.fsd a b i) :=
  of_pack rfl rfl (by
    show decode1D _ = _
    simp only [decode1D, extract_low, extract_high, extract_up, Nat.reduceLeDiff, Nat.reduceSub, join6, join8, join8', join12, join20]
    all_goals simp)
theorem fadd (d : BitVec 5) (a : BitVec 5) (b : BitVec 5) (f : BitVec 1) (r : BitVec 3) : Statement (.fadd d a b f r) :=
  of_pack rfl rfl (by
    show decode1F _ = _
    simp only [decode1F, extract_low, extract_high, extract_up, Nat.reduceLeDiff, Nat.reduceSub, join6, join8, join8', join12, join20]
    all_goals simp)
theorem fsub (d : BitVec 5) (a : BitVec 5) (b : BitVec 5) (f : BitVec 1) (r : BitVec 3) : Statement (.fsub d a b f r) :=
  of_pack rfl rfl (by
    show decode1F _ = _
    simp only [decode1F, extract_low, extract_high, extract_up, Nat.reduceLeDiff, Nat.reduceSub, join6, join8, join8', join12, join20]
    all_goals simp)
theorem fmul (d : BitVec 5) (a : BitVec 5) (b : BitVec 5) (f : BitVec 1) (r : BitVec 3) : Statement (.fmul d a b f r) :=
  of_pack rfl rfl (by
    show decode1F _ = _
    simp only [decode1F, extract_low, extract_high, extract_up, Nat.reduceLeDiff, Nat.reduceSub, join6, join8, join8', join12, join20]
    all_goals simp)
theorem fdiv (d : BitVec 5) (a : BitVec 5) (b : BitVec 5) (f : BitVec 1) (r : BitVec 3) : Statement (.fdiv d a b f r) :=
  of_pack rfl rfl (by
    show decode1F _ = _
    simp only [decode1F, extract_low, extract_high, extract_up, Nat.reduceLeDiff, Nat.reduceSub, join6, join8, join8', join12, join20]
    all_goals simp)
theorem fsqrt (d : BitVec 5) (a : BitVec 5) (f : BitVec 1) (r : BitVec 3) : Statement (.fsqrt d a f r) :=
  of_pack rfl rfl (by
    show decode1F _ = _
    simp only [decode1F, extract_low, extract_high, extract_up, Nat.reduceLeDiff, Nat.reduceSub, join6, join8, join8', join12, join20]
    all_goals simp)
theorem fsgnj (d : BitVec 5) (a : BitVec 5) (b : BitVec 5) (f : BitVec 1) : Statement (.fsgnj d a b f) :=
  of_pack rfl rfl (by
    show decode1F _ = _
    simp only [decode1F, extract_low, extract_high, extract_up, Nat.reduceLeDiff, Nat.reduceSub, join6, join8, join8', join12, join20]
    all_goals simp)
theorem fsgnjn (d : BitVec 5) (a : BitVec 5) (b : BitVec 5) (f : BitVec 1) : Statement (.fsgnjn d a b f) :=
  of_pack rfl rfl (by
    show decode1F _ = _
    simp only [decode1F, extract_low, extract_high, extract_up, Nat.reduceLeDiff, Nat.reduceSub, join6, join8, join8', join12, join20]
    all_goals simp)
theorem fsgnjx (d : BitVec 5) (a : BitVec 5) (b : BitVec 5) (f : BitVec 1) : Statement (.fsgnjx d a b f) :=
  of_pack rfl rfl (by
    show decode1F _ = _
    simp only [decode1F, extract_low, extract_high, extract_up, Nat.reduceLeDiff, Nat.reduceSub, join6, join8, join8', join12, join20]
    all_goals simp)
theorem fmin (d : BitVec 5) (a : BitVec 5) (b : BitVec 5) (f : BitVec 1) : Statement (.fmin d a b f) :=
  of_pack rfl rfl (by
    show decode1F _ = _
    simp only [decode1F, extract_low, extract_high, extract_up, Nat.reduceLeDiff, Nat.reduceSub, join6, join8, join8', join12, join20]
    all_goals simp)
theorem fmax (d : BitVec 5) (a : BitVec 5) (b : BitVec 5) (f : BitVec 1) : Statement (.fmax d a b f) :=
  of_pack rfl rfl (by
    show decode1F _ = _
    simp only [decode1F, extract_low, extract_high, extract_up, Nat.reduceLeDiff, Nat.reduceSub, join6, join8, join8', join12, join20]
    all_goals simp)
theorem fle (d : BitVec 5) (a : BitVec 5) (b : BitVec 5) (f : BitVec 1) : Statement (.fle d a b f) :=
  of_pack rfl rfl (by
    show decode1F _ = _
    simp only [decode1F, extract_low, extract_high, extract_up, Nat.reduceLeDiff, Nat.reduceSub, join6, join8, join8', join12, join20]
    all_goals simp)
theorem flt (d : BitVec 5) (a : BitVec 5) (b : BitVec 5) (f : BitVec 1) : Statement (.flt d a b f) :=
  of_pack rfl rfl (by
    show decode1F _ = _
    simp only [decode1F, extract_low, extract_high, extract_up, Nat.reduceLeDiff, Nat.reduceSub, join6, join8, join8', join12, join20]
    all_goals simp)
theorem feq (d : BitVec 5) (a : BitVec 5) (b : BitVec 5) (f : BitVec 1) : Statement (.feq d a b f) :=
  of_pack rfl rfl (by
    show decode1F _ = _
    simp only [decode1F, extract_low, extract_high, extract_up, Nat.reduceLeDiff, Nat.reduceSub, join6, join8, join8', join12, join20]
    all_goals simp)
theorem fclass (d : BitVec 5) (a : BitVec 5) (f : BitVec 1) : Statement (.fclass d a f) :=
  of_pack rfl rfl (by
    show decode1F _ = _
    simp only [decode1F, extract_low, extract_high, extract_up, Nat.reduceLeDiff, Nat.reduceSub, join6, join8, join8', join12, join20]
    all_goals simp)
theorem fcvtFloatFloat (d : BitVec 5) (a : BitVec 5) (e : BitVec 2) (s : BitVec 1) (g : BitVec 2) (r : BitVec 3) : Statement (.fcvtFloatFloat d a e s g r) :=
  of_pack rfl rfl (by
    show decode1F _ = _
    rcases two_bits e with rfl | rfl | rfl | rfl <;>
    simp only [decode1F, extract_low, extract_high, extract_up, Nat.reduceLeDiff, Nat.reduceSub, join6, join8, join8', join12, join20]
    all_goals simp)
theorem fcvtFloatInt (d : BitVec 5) (a : BitVec 5) (e : BitVec 2) (s : BitVec 1) (t : BitVec 2) (r : BitVec 3) : Statement (.fcvtFloatInt d a e s t r) :=
  of_pack rfl rfl (by
    show decode1F _ = _
    rcases two_bits e with rfl | rfl | rfl | rfl <;>
    simp only [decode1F, extract_low, extract_high, extract_up, Nat.reduceLeDiff, Nat.reduceSub, join6, join8, join8', join12, join20]
    all_goals simp)
theorem fcvtIntFloat (d : BitVec 5) (a : BitVec 5) (e : BitVec 2) (t : BitVec 2) (r : BitVec 3) : Statement (.fcvtIntFloat d a e t r) :=
  of_pack rfl rfl (by
    show decode1F _ = _
    rcases two_bits e with rfl | rfl | rfl | rfl <;>
    simp only [decode1F, extract_low, extract_high, extract_up, Nat.reduceLeDiff, Nat.reduceSub, join6, join8, join8', join12, join20]
    all_goals simp)
theorem fmvx (d : BitVec 5) (a : BitVec 5) (w : BitVec 2) : Statement (.fmvx d a w) :=
  of_pack rfl rfl (by
    show decode1F _ = _
    rcases two_bits w with rfl | rfl | rfl | rfl <;>
    simp only [decode1F, extract_low, extract_high, extract_up, Nat.reduceLeDiff, Nat.reduceSub, join6, join8, join8', join12, join20]
    all_goals simp)
theorem fmvf (d : BitVec 5) (a : BitVec 5) (w : BitVec 2) : Statement (.fmvf d a w) :=
  of_pack rfl rfl (by
    show decode1F _ = _
    rcases two_bits w with rfl | rfl | rfl | rfl <;>
    simp only [decode1F, extract_low, extract_high, extract_up, Nat.reduceLeDiff, Nat.reduceSub, join6, join8, join8', join12, join20]
    all_goals simp)
theorem fmadd (d : BitVec 5) (a : BitVec 5) (b : BitVec 5) (c : BitVec 5) (f : BitVec 1) (r : BitVec 3) : Statement (.fmadd d a b c f r) :=
  of_pack rfl rfl (by
    show decode21 _ = _
    simp only [decode21, extract_low, extract_high, extract_up, Nat.reduceLeDiff, Nat.reduceSub, join6, join8, join8', join12, join20]
    all_goals simp)
theorem fmsub (d : BitVec 5) (a : BitVec 5) (b : BitVec 5) (c : BitVec 5) (f : BitVec 1) (r : BitVec 3) : Statement (.fmsub d a b c f r) :=
  of_pack rfl rfl (by
    show decode23 _ = _
    simp only [decode23, extract_low, extract_high, extract_up, Nat.reduceLeDiff, Nat.reduceSub, join6, join8, join8', join12, join20]
    all_goals simp)
theorem fnmadd (d : BitVec 5) (a : BitVec 5) (b : BitVec 5) (c : BitVec 5) (f : BitVec 1) (r : BitVec 3) : Statement (.fnmadd d a b c f r) :=
  of_pack rfl rfl (by
    show decode25 _ = _
    simp only [decode25, extract_low, extract_high, extract_up, Nat.reduceLeDiff, Nat.reduceSub, join6, join8, join8', join12, join20]
    all_goals simp)
theorem fnmsub (d : BitVec 5) (a : BitVec 5) (b : BitVec 5) (c : BitVec 5) (f : BitVec 1) (r : BitVec 3) : Statement (.fnmsub d a b c f r) :=
  of_pack rfl rfl (by
    show decode27 _ = _
    simp only [decode27, extract_low, extract_high, extract_up, Nat.reduceLeDiff, Nat.reduceSub, join6, join8, join8', join12, join20]
    all_goals simp)
theorem sbind (d : BitVec 5) (k : BitVec 1) (p : BitVec 2) : Statement (.sbind d k p) :=
  of_pack rfl rfl (by
    show decode29 _ = _
    simp only [decode29, extract_low, extract_high, extract_up, Nat.reduceLeDiff, Nat.reduceSub, join6, join8, join8', join12, join20]
    all_goals simp)
theorem sunbind (p : BitVec 2) : Statement (.sunbind p) :=
  of_pack rfl rfl (by
    show decode29 _ = _
    simp only [decode29, extract_low, extract_high, extract_up, Nat.reduceLeDiff, Nat.reduceSub, join6, join8, join8', join12, join20]
    all_goals simp)
theorem sskip (a : BitVec 5) (p : BitVec 2) : Statement (.sskip a p) :=
  of_pack rfl rfl (by
    show decode29 _ = _
    simp only [decode29, extract_low, extract_high, extract_up, Nat.reduceLeDiff, Nat.reduceSub, join6, join8, join8', join12, join20]
    all_goals simp)
theorem ssync (m : BitVec 4) : Statement (.ssync m) :=
  of_pack rfl rfl (by
    show decode29 _ = _
    simp only [decode29, extract_low, extract_high, extract_up, Nat.reduceLeDiff, Nat.reduceSub, join6, join8, join8', join12, join20]
    all_goals simp)
theorem frep (a : BitVec 5) (n : BitVec 4) : Statement (.frep a n) :=
  of_pack rfl rfl (by
    show decode2B _ = _
    simp only [decode2B, extract_low, extract_high, extract_up, Nat.reduceLeDiff, Nat.reduceSub, join6, join8, join8', join12, join20]
    all_goals simp)
theorem frepi (c : BitVec 8) (n : BitVec 4) : Statement (.frepi c n) :=
  of_pack rfl rfl (by
    show decode2B _ = _
    simp only [decode2B, extract_low, extract_high, extract_up, Nat.reduceLeDiff, Nat.reduceSub, join6, join8, join8', join12, join20]
    all_goals simp)
theorem vld (d : BitVec 5) (a : BitVec 5) (t : BitVec 4) (o : BitVec 8) : Statement (.vld d a t o) :=
  of_pack rfl rfl (by
    show decode2D _ = _
    simp only [decode2D, extract_low, extract_high, extract_up, Nat.reduceLeDiff, Nat.reduceSub, join6, join8, join8', join12, join20]
    all_goals simp)
theorem vst (a : BitVec 5) (b : BitVec 5) (o : BitVec 8) : Statement (.vst a b o) :=
  of_pack rfl rfl (by
    show decode2D _ = _
    simp only [decode2D, extract_low, extract_high, extract_up, Nat.reduceLeDiff, Nat.reduceSub, join6, join8, join8', join12, join20]
    all_goals simp)
theorem vlds (d : BitVec 5) (a : BitVec 5) (b : BitVec 5) (e : BitVec 2) (t : BitVec 4) : Statement (.vlds d a b e t) :=
  of_pack rfl rfl (by
    show decode2D _ = _
    simp only [decode2D, extract_low, extract_high, extract_up, Nat.reduceLeDiff, Nat.reduceSub, join6, join8, join8', join12, join20]
    all_goals simp)
theorem vsts (d : BitVec 5) (a : BitVec 5) (b : BitVec 5) (e : BitVec 2) : Statement (.vsts d a b e) :=
  of_pack rfl rfl (by
    show decode2D _ = _
    simp only [decode2D, extract_low, extract_high, extract_up, Nat.reduceLeDiff, Nat.reduceSub, join6, join8, join8', join12, join20]
    all_goals simp)
theorem vgather (d : BitVec 5) (a : BitVec 5) (b : BitVec 5) (e : BitVec 2) (t : BitVec 4) : Statement (.vgather d a b e t) :=
  of_pack rfl rfl (by
    show decode2D _ = _
    simp only [decode2D, extract_low, extract_high, extract_up, Nat.reduceLeDiff, Nat.reduceSub, join6, join8, join8', join12, join20]
    all_goals simp)
theorem vscatter (d : BitVec 5) (a : BitVec 5) (b : BitVec 5) (e : BitVec 2) : Statement (.vscatter d a b e) :=
  of_pack rfl rfl (by
    show decode2D _ = _
    simp only [decode2D, extract_low, extract_high, extract_up, Nat.reduceLeDiff, Nat.reduceSub, join6, join8, join8', join12, join20]
    all_goals simp)
theorem vldb (d : BitVec 5) (a : BitVec 5) (i : BitVec 12) : Statement (.vldb d a i) :=
  of_pack rfl rfl (by
    show decode2D _ = _
    simp only [decode2D, extract_low, extract_high, extract_up, Nat.reduceLeDiff, Nat.reduceSub, join6, join8, join8', join12, join20]
    all_goals simp)
theorem vadd (d : BitVec 5) (a : BitVec 5) (b : BitVec 5) (r : BitVec 3) : Statement (.vadd d a b r) :=
  of_pack rfl rfl (by
    show decode2F _ = _
    simp only [decode2F, extract_low, extract_high, extract_up, Nat.reduceLeDiff, Nat.reduceSub, join6, join8, join8', join12, join20]
    all_goals simp)
theorem vsub (d : BitVec 5) (a : BitVec 5) (b : BitVec 5) (r : BitVec 3) : Statement (.vsub d a b r) :=
  of_pack rfl rfl (by
    show decode2F _ = _
    simp only [decode2F, extract_low, extract_high, extract_up, Nat.reduceLeDiff, Nat.reduceSub, join6, join8, join8', join12, join20]
    all_goals simp)
theorem vmul (d : BitVec 5) (a : BitVec 5) (b : BitVec 5) (r : BitVec 3) : Statement (.vmul d a b r) :=
  of_pack rfl rfl (by
    show decode2F _ = _
    simp only [decode2F, extract_low, extract_high, extract_up, Nat.reduceLeDiff, Nat.reduceSub, join6, join8, join8', join12, join20]
    all_goals simp)
theorem vmin (d : BitVec 5) (a : BitVec 5) (b : BitVec 5) : Statement (.vmin d a b) :=
  of_pack rfl rfl (by
    show decode2F _ = _
    simp only [decode2F, extract_low, extract_high, extract_up, Nat.reduceLeDiff, Nat.reduceSub, join6, join8, join8', join12, join20]
    all_goals simp)
theorem vmax (d : BitVec 5) (a : BitVec 5) (b : BitVec 5) : Statement (.vmax d a b) :=
  of_pack rfl rfl (by
    show decode2F _ = _
    simp only [decode2F, extract_low, extract_high, extract_up, Nat.reduceLeDiff, Nat.reduceSub, join6, join8, join8', join12, join20]
    all_goals simp)
theorem vand (d : BitVec 5) (a : BitVec 5) (b : BitVec 5) : Statement (.vand d a b) :=
  of_pack rfl rfl (by
    show decode2F _ = _
    simp only [decode2F, extract_low, extract_high, extract_up, Nat.reduceLeDiff, Nat.reduceSub, join6, join8, join8', join12, join20]
    all_goals simp)
theorem vor (d : BitVec 5) (a : BitVec 5) (b : BitVec 5) : Statement (.vor d a b) :=
  of_pack rfl rfl (by
    show decode2F _ = _
    simp only [decode2F, extract_low, extract_high, extract_up, Nat.reduceLeDiff, Nat.reduceSub, join6, join8, join8', join12, join20]
    all_goals simp)
theorem vxor (d : BitVec 5) (a : BitVec 5) (b : BitVec 5) : Statement (.vxor d a b) :=
  of_pack rfl rfl (by
    show decode2F _ = _
    simp only [decode2F, extract_low, extract_high, extract_up, Nat.reduceLeDiff, Nat.reduceSub, join6, join8, join8', join12, join20]
    all_goals simp)
theorem vshl (d : BitVec 5) (a : BitVec 5) (b : BitVec 5) : Statement (.vshl d a b) :=
  of_pack rfl rfl (by
    show decode2F _ = _
    simp only [decode2F, extract_low, extract_high, extract_up, Nat.reduceLeDiff, Nat.reduceSub, join6, join8, join8', join12, join20]
    all_goals simp)
theorem vshr (d : BitVec 5) (a : BitVec 5) (b : BitVec 5) : Statement (.vshr d a b) :=
  of_pack rfl rfl (by
    show decode2F _ = _
    simp only [decode2F, extract_low, extract_high, extract_up, Nat.reduceLeDiff, Nat.reduceSub, join6, join8, join8', join12, join20]
    all_goals simp)
theorem vsra (d : BitVec 5) (a : BitVec 5) (b : BitVec 5) : Statement (.vsra d a b) :=
  of_pack rfl rfl (by
    show decode2F _ = _
    simp only [decode2F, extract_low, extract_high, extract_up, Nat.reduceLeDiff, Nat.reduceSub, join6, join8, join8', join12, join20]
    all_goals simp)
theorem vcmp (d : BitVec 5) (a : BitVec 5) (b : BitVec 5) (c : BitVec 3) : Statement (.vcmp d a b c) :=
  of_pack rfl rfl (by
    show decode2F _ = _
    simp only [decode2F, extract_low, extract_high, extract_up, Nat.reduceLeDiff, Nat.reduceSub, join6, join8, join8', join12, join20]
    all_goals simp)
theorem vabs (d : BitVec 5) (a : BitVec 5) : Statement (.vabs d a) :=
  of_pack rfl rfl (by
    show decode2F _ = _
    simp only [decode2F, extract_low, extract_high, extract_up, Nat.reduceLeDiff, Nat.reduceSub, join6, join8, join8', join12, join20]
    all_goals simp)
theorem vneg (d : BitVec 5) (a : BitVec 5) : Statement (.vneg d a) :=
  of_pack rfl rfl (by
    show decode2F _ = _
    simp only [decode2F, extract_low, extract_high, extract_up, Nat.reduceLeDiff, Nat.reduceSub, join6, join8, join8', join12, join20]
    all_goals simp)
theorem vfma (d : BitVec 5) (a : BitVec 5) (b : BitVec 5) (c : BitVec 5) (r : BitVec 3) : Statement (.vfma d a b c r) :=
  of_pack rfl rfl (by
    show decode31 _ = _
    simp only [decode31, extract_low, extract_high, extract_up, Nat.reduceLeDiff, Nat.reduceSub, join6, join8, join8', join12, join20]
    all_goals simp)
theorem vfms (d : BitVec 5) (a : BitVec 5) (b : BitVec 5) (c : BitVec 5) (r : BitVec 3) : Statement (.vfms d a b c r) :=
  of_pack rfl rfl (by
    show decode31 _ = _
    simp only [decode31, extract_low, extract_high, extract_up, Nat.reduceLeDiff, Nat.reduceSub, join6, join8, join8', join12, join20]
    all_goals simp)
theorem vnfma (d : BitVec 5) (a : BitVec 5) (b : BitVec 5) (c : BitVec 5) (r : BitVec 3) : Statement (.vnfma d a b c r) :=
  of_pack rfl rfl (by
    show decode31 _ = _
    simp only [decode31, extract_low, extract_high, extract_up, Nat.reduceLeDiff, Nat.reduceSub, join6, join8, join8', join12, join20]
    all_goals simp)
theorem vsel (d : BitVec 5) (a : BitVec 5) (b : BitVec 5) (c : BitVec 5) : Statement (.vsel d a b c) :=
  of_pack rfl rfl (by
    show decode31 _ = _
    simp only [decode31, extract_low, extract_high, extract_up, Nat.reduceLeDiff, Nat.reduceSub, join6, join8, join8', join12, join20]
    all_goals simp)
theorem vredAdd (d : BitVec 5) (a : BitVec 5) (r : BitVec 3) : Statement (.vredAdd d a r) :=
  of_pack rfl rfl (by
    show decode33 _ = _
    simp only [decode33, extract_low, extract_high, extract_up, Nat.reduceLeDiff, Nat.reduceSub, join6, join8, join8', join12, join20]
    all_goals simp)
theorem vredMin (d : BitVec 5) (a : BitVec 5) : Statement (.vredMin d a) :=
  of_pack rfl rfl (by
    show decode33 _ = _
    simp only [decode33, extract_low, extract_high, extract_up, Nat.reduceLeDiff, Nat.reduceSub, join6, join8, join8', join12, join20]
    all_goals simp)
theorem vredMax (d : BitVec 5) (a : BitVec 5) : Statement (.vredMax d a) :=
  of_pack rfl rfl (by
    show decode33 _ = _
    simp only [decode33, extract_low, extract_high, extract_up, Nat.reduceLeDiff, Nat.reduceSub, join6, join8, join8', join12, join20]
    all_goals simp)
theorem vdot (d : BitVec 5) (a : BitVec 5) (b : BitVec 5) (r : BitVec 3) : Statement (.vdot d a b r) :=
  of_pack rfl rfl (by
    show decode33 _ = _
    simp only [decode33, extract_low, extract_high, extract_up, Nat.reduceLeDiff, Nat.reduceSub, join6, join8, join8', join12, join20]
    all_goals simp)
theorem vcvt (d : BitVec 5) (a : BitVec 5) (s : BitVec 1) (t : BitVec 4) (r : BitVec 3) : Statement (.vcvt d a s t r) :=
  of_pack rfl rfl (by
    show decode33 _ = _
    simp only [decode33, extract_low, extract_high, extract_up, Nat.reduceLeDiff, Nat.reduceSub, join6, join8, join8', join12, join20]
    all_goals simp)
theorem vqnt (d : BitVec 5) (a : BitVec 5) (s : BitVec 1) (t : BitVec 4) (r : BitVec 3) : Statement (.vqnt d a s t r) :=
  of_pack rfl rfl (by
    show decode33 _ = _
    simp only [decode33, extract_low, extract_high, extract_up, Nat.reduceLeDiff, Nat.reduceSub, join6, join8, join8', join12, join20]
    all_goals simp)
theorem vdqnt (d : BitVec 5) (a : BitVec 5) (t : BitVec 4) (r : BitVec 3) : Statement (.vdqnt d a t r) :=
  of_pack rfl rfl (by
    show decode33 _ = _
    simp only [decode33, extract_low, extract_high, extract_up, Nat.reduceLeDiff, Nat.reduceSub, join6, join8, join8', join12, join20]
    all_goals simp)
theorem vperm (d : BitVec 5) (a : BitVec 5) (b : BitVec 5) : Statement (.vperm d a b) :=
  of_pack rfl rfl (by
    show decode33 _ = _
    simp only [decode33, extract_low, extract_high, extract_up, Nat.reduceLeDiff, Nat.reduceSub, join6, join8, join8', join12, join20]
    all_goals simp)
theorem vshuf (d : BitVec 5) (a : BitVec 5) (b : BitVec 5) : Statement (.vshuf d a b) :=
  of_pack rfl rfl (by
    show decode33 _ = _
    simp only [decode33, extract_low, extract_high, extract_up, Nat.reduceLeDiff, Nat.reduceSub, join6, join8, join8', join12, join20]
    all_goals simp)
theorem vslideUp (d : BitVec 5) (a : BitVec 5) (b : BitVec 5) : Statement (.vslideUp d a b) :=
  of_pack rfl rfl (by
    show decode33 _ = _
    simp only [decode33, extract_low, extract_high, extract_up, Nat.reduceLeDiff, Nat.reduceSub, join6, join8, join8', join12, join20]
    all_goals simp)
theorem vslideDown (d : BitVec 5) (a : BitVec 5) (b : BitVec 5) : Statement (.vslideDown d a b) :=
  of_pack rfl rfl (by
    show decode33 _ = _
    simp only [decode33, extract_low, extract_high, extract_up, Nat.reduceLeDiff, Nat.reduceSub, join6, join8, join8', join12, join20]
    all_goals simp)
theorem vbcastX (d : BitVec 5) (a : BitVec 5) : Statement (.vbcastX d a) :=
  of_pack rfl rfl (by
    show decode33 _ = _
    simp only [decode33, extract_low, extract_high, extract_up, Nat.reduceLeDiff, Nat.reduceSub, join6, join8, join8', join12, join20]
    all_goals simp)
theorem vbcastF (d : BitVec 5) (a : BitVec 5) : Statement (.vbcastF d a) :=
  of_pack rfl rfl (by
    show decode33 _ = _
    simp only [decode33, extract_low, extract_high, extract_up, Nat.reduceLeDiff, Nat.reduceSub, join6, join8, join8', join12, join20]
    all_goals simp)
theorem vexp2 (d : BitVec 5) (a : BitVec 5) : Statement (.vexp2 d a) :=
  of_pack rfl rfl (by
    show decode33 _ = _
    simp only [decode33, extract_low, extract_high, extract_up, Nat.reduceLeDiff, Nat.reduceSub, join6, join8, join8', join12, join20]
    all_goals simp)
theorem vrcp (d : BitVec 5) (a : BitVec 5) : Statement (.vrcp d a) :=
  of_pack rfl rfl (by
    show decode33 _ = _
    simp only [decode33, extract_low, extract_high, extract_up, Nat.reduceLeDiff, Nat.reduceSub, join6, join8, join8', join12, join20]
    all_goals simp)
theorem vrsq (d : BitVec 5) (a : BitVec 5) : Statement (.vrsq d a) :=
  of_pack rfl rfl (by
    show decode33 _ = _
    simp only [decode33, extract_low, extract_high, extract_up, Nat.reduceLeDiff, Nat.reduceSub, join6, join8, join8', join12, join20]
    all_goals simp)
theorem vmov (d : BitVec 5) (a : BitVec 5) : Statement (.vmov d a) :=
  of_pack rfl rfl (by
    show decode33 _ = _
    simp only [decode33, extract_low, extract_high, extract_up, Nat.reduceLeDiff, Nat.reduceSub, join6, join8, join8', join12, join20]
    all_goals simp)
theorem vmvx (d : BitVec 5) (a : BitVec 5) (b : BitVec 5) : Statement (.vmvx d a b) :=
  of_pack rfl rfl (by
    show decode33 _ = _
    simp only [decode33, extract_low, extract_high, extract_up, Nat.reduceLeDiff, Nat.reduceSub, join6, join8, join8', join12, join20]
    all_goals simp)
theorem vmvf (d : BitVec 5) (a : BitVec 5) (b : BitVec 5) : Statement (.vmvf d a b) :=
  of_pack rfl rfl (by
    show decode33 _ = _
    simp only [decode33, extract_low, extract_high, extract_up, Nat.reduceLeDiff, Nat.reduceSub, join6, join8, join8', join12, join20]
    all_goals simp)
theorem vtag (d : BitVec 5) (a : BitVec 5) (t : BitVec 4) : Statement (.vtag d a t) :=
  of_pack rfl rfl (by
    show decode33 _ = _
    simp only [decode33, extract_low, extract_high, extract_up, Nat.reduceLeDiff, Nat.reduceSub, join6, join8, join8', join12, join20]
    all_goals simp)
theorem vsideRead (d : BitVec 5) (a : BitVec 5) : Statement (.vsideRead d a) :=
  of_pack rfl rfl (by
    show decode33 _ = _
    simp only [decode33, extract_low, extract_high, extract_up, Nat.reduceLeDiff, Nat.reduceSub, join6, join8, join8', join12, join20]
    all_goals simp)
theorem vsideWrite (d : BitVec 5) (a : BitVec 5) : Statement (.vsideWrite d a) :=
  of_pack rfl rfl (by
    show decode33 _ = _
    simp only [decode33, extract_low, extract_high, extract_up, Nat.reduceLeDiff, Nat.reduceSub, join6, join8, join8', join12, join20]
    all_goals simp)
theorem bbinit (a : BitVec 5) (b : BitVec 5) : Statement (.bbinit a b) :=
  of_pack rfl rfl (by
    show decode35 _ = _
    simp only [decode35, extract_low, extract_high, extract_up, Nat.reduceLeDiff, Nat.reduceSub, join6, join8, join8', join12, join20]
    all_goals simp)
theorem bbget (d : BitVec 5) (n : BitVec 5) : Statement (.bbget d n) :=
  of_pack rfl rfl (by
    show decode35 _ = _
    simp only [decode35, extract_low, extract_high, extract_up, Nat.reduceLeDiff, Nat.reduceSub, join6, join8, join8', join12, join20]
    all_goals simp)
theorem bbpeek (d : BitVec 5) (n : BitVec 5) : Statement (.bbpeek d n) :=
  of_pack rfl rfl (by
    show decode35 _ = _
    simp only [decode35, extract_low, extract_high, extract_up, Nat.reduceLeDiff, Nat.reduceSub, join6, join8, join8', join12, join20]
    all_goals simp)
theorem bbskip (n : BitVec 5) : Statement (.bbskip n) :=
  of_pack rfl rfl (by
    show decode35 _ = _
    simp only [decode35, extract_low, extract_high, extract_up, Nat.reduceLeDiff, Nat.reduceSub, join6, join8, join8', join12, join20]
    all_goals simp)
theorem bbdec (d : BitVec 5) (a : BitVec 5) (k : BitVec 4) : Statement (.bbdec d a k) :=
  of_pack rfl rfl (by
    show decode35 _ = _
    simp only [decode35, extract_low, extract_high, extract_up, Nat.reduceLeDiff, Nat.reduceSub, join6, join8, join8', join12, join20]
    all_goals simp)
theorem bbemit (a : BitVec 5) (n : BitVec 5) : Statement (.bbemit a n) :=
  of_pack rfl rfl (by
    show decode35 _ = _
    simp only [decode35, extract_low, extract_high, extract_up, Nat.reduceLeDiff, Nat.reduceSub, join6, join8, join8', join12, join20]
    all_goals simp)
theorem bbflush : Statement (.bbflush) :=
  of_pack rfl rfl (by
    show decode35 _ = _
    simp only [decode35, extract_low, extract_high, extract_up, Nat.reduceLeDiff, Nat.reduceSub, join6, join8, join8', join12, join20]
    all_goals simp)
theorem bbalign : Statement (.bbalign) :=
  of_pack rfl rfl (by
    show decode35 _ = _
    simp only [decode35, extract_low, extract_high, extract_up, Nat.reduceLeDiff, Nat.reduceSub, join6, join8, join8', join12, join20]
    all_goals simp)
theorem amoswap (d : BitVec 5) (a : BitVec 5) (b : BitVec 5) (q : BitVec 1) (l : BitVec 1) (w : BitVec 1) (x : BitVec 3) : Statement (.amoswap d a b q l w x) :=
  of_pack rfl rfl (by
    show decode37 _ = _
    simp only [decode37, extract_low, extract_high, extract_up, Nat.reduceLeDiff, Nat.reduceSub, join6, join8, join8', join12, join20]
    all_goals simp)
theorem amoadd (d : BitVec 5) (a : BitVec 5) (b : BitVec 5) (q : BitVec 1) (l : BitVec 1) (w : BitVec 1) (x : BitVec 3) : Statement (.amoadd d a b q l w x) :=
  of_pack rfl rfl (by
    show decode37 _ = _
    simp only [decode37, extract_low, extract_high, extract_up, Nat.reduceLeDiff, Nat.reduceSub, join6, join8, join8', join12, join20]
    all_goals simp)
theorem amoand (d : BitVec 5) (a : BitVec 5) (b : BitVec 5) (q : BitVec 1) (l : BitVec 1) (w : BitVec 1) (x : BitVec 3) : Statement (.amoand d a b q l w x) :=
  of_pack rfl rfl (by
    show decode37 _ = _
    simp only [decode37, extract_low, extract_high, extract_up, Nat.reduceLeDiff, Nat.reduceSub, join6, join8, join8', join12, join20]
    all_goals simp)
theorem amoor (d : BitVec 5) (a : BitVec 5) (b : BitVec 5) (q : BitVec 1) (l : BitVec 1) (w : BitVec 1) (x : BitVec 3) : Statement (.amoor d a b q l w x) :=
  of_pack rfl rfl (by
    show decode37 _ = _
    simp only [decode37, extract_low, extract_high, extract_up, Nat.reduceLeDiff, Nat.reduceSub, join6, join8, join8', join12, join20]
    all_goals simp)
theorem amoxor (d : BitVec 5) (a : BitVec 5) (b : BitVec 5) (q : BitVec 1) (l : BitVec 1) (w : BitVec 1) (x : BitVec 3) : Statement (.amoxor d a b q l w x) :=
  of_pack rfl rfl (by
    show decode37 _ = _
    simp only [decode37, extract_low, extract_high, extract_up, Nat.reduceLeDiff, Nat.reduceSub, join6, join8, join8', join12, join20]
    all_goals simp)
theorem amomin (d : BitVec 5) (a : BitVec 5) (b : BitVec 5) (q : BitVec 1) (l : BitVec 1) (w : BitVec 1) (x : BitVec 3) : Statement (.amomin d a b q l w x) :=
  of_pack rfl rfl (by
    show decode37 _ = _
    simp only [decode37, extract_low, extract_high, extract_up, Nat.reduceLeDiff, Nat.reduceSub, join6, join8, join8', join12, join20]
    all_goals simp)
theorem amomax (d : BitVec 5) (a : BitVec 5) (b : BitVec 5) (q : BitVec 1) (l : BitVec 1) (w : BitVec 1) (x : BitVec 3) : Statement (.amomax d a b q l w x) :=
  of_pack rfl rfl (by
    show decode37 _ = _
    simp only [decode37, extract_low, extract_high, extract_up, Nat.reduceLeDiff, Nat.reduceSub, join6, join8, join8', join12, join20]
    all_goals simp)
theorem amominu (d : BitVec 5) (a : BitVec 5) (b : BitVec 5) (q : BitVec 1) (l : BitVec 1) (w : BitVec 1) (x : BitVec 3) : Statement (.amominu d a b q l w x) :=
  of_pack rfl rfl (by
    show decode37 _ = _
    simp only [decode37, extract_low, extract_high, extract_up, Nat.reduceLeDiff, Nat.reduceSub, join6, join8, join8', join12, join20]
    all_goals simp)
theorem amomaxu (d : BitVec 5) (a : BitVec 5) (b : BitVec 5) (q : BitVec 1) (l : BitVec 1) (w : BitVec 1) (x : BitVec 3) : Statement (.amomaxu d a b q l w x) :=
  of_pack rfl rfl (by
    show decode37 _ = _
    simp only [decode37, extract_low, extract_high, extract_up, Nat.reduceLeDiff, Nat.reduceSub, join6, join8, join8', join12, join20]
    all_goals simp)
theorem amocas (d : BitVec 5) (a : BitVec 5) (b : BitVec 5) (q : BitVec 1) (l : BitVec 1) (w : BitVec 1) (x : BitVec 3) : Statement (.amocas d a b q l w x) :=
  of_pack rfl rfl (by
    show decode37 _ = _
    simp only [decode37, extract_low, extract_high, extract_up, Nat.reduceLeDiff, Nat.reduceSub, join6, join8, join8', join12, join20]
    all_goals simp)
theorem amocasQ (d : BitVec 5) (a : BitVec 5) (b : BitVec 5) (q : BitVec 1) (l : BitVec 1) (x : BitVec 3) : Statement (.amocasQ d a b q l x) :=
  of_pack rfl rfl (by
    show decode37 _ = _
    simp only [decode37, extract_low, extract_high, extract_up, Nat.reduceLeDiff, Nat.reduceSub, join6, join8, join8', join12, join20]
    all_goals simp)
theorem famoadd (d : BitVec 5) (a : BitVec 5) (b : BitVec 5) (q : BitVec 1) (l : BitVec 1) (w : BitVec 1) (x : BitVec 3) : Statement (.famoadd d a b q l w x) :=
  of_pack rfl rfl (by
    show decode37 _ = _
    simp only [decode37, extract_low, extract_high, extract_up, Nat.reduceLeDiff, Nat.reduceSub, join6, join8, join8', join12, join20]
    all_goals simp)
theorem fence (m : BitVec 8) : Statement (.fence m) :=
  of_pack rfl rfl (by
    show decode39 _ = _
    simp only [decode39, extract_low, extract_high, extract_up, Nat.reduceLeDiff, Nat.reduceSub, join6, join8, join8', join12, join20]
    all_goals simp)
theorem ldaq (d : BitVec 5) (a : BitVec 5) (z : BitVec 2) (x : BitVec 3) : Statement (.ldaq d a z x) :=
  of_pack rfl rfl (by
    show decode39 _ = _
    simp only [decode39, extract_low, extract_high, extract_up, Nat.reduceLeDiff, Nat.reduceSub, join6, join8, join8', join12, join20]
    all_goals simp)
theorem strl (a : BitVec 5) (b : BitVec 5) (z : BitVec 2) (x : BitVec 3) : Statement (.strl a b z x) :=
  of_pack rfl rfl (by
    show decode39 _ = _
    simp only [decode39, extract_low, extract_high, extract_up, Nat.reduceLeDiff, Nat.reduceSub, join6, join8, join8', join12, join20]
    all_goals simp)
theorem bar (n : BitVec 4) : Statement (.bar n) :=
  of_pack rfl rfl (by
    show decode3B _ = _
    simp only [decode3B, extract_low, extract_high, extract_up, Nat.reduceLeDiff, Nat.reduceSub, join6, join8, join8', join12, join20]
    all_goals simp)
theorem bararr (n : BitVec 4) : Statement (.bararr n) :=
  of_pack rfl rfl (by
    show decode3B _ = _
    simp only [decode3B, extract_low, extract_high, extract_up, Nat.reduceLeDiff, Nat.reduceSub, join6, join8, join8', join12, join20]
    all_goals simp)
theorem barwait (n : BitVec 4) : Statement (.barwait n) :=
  of_pack rfl rfl (by
    show decode3B _ = _
    simp only [decode3B, extract_low, extract_high, extract_up, Nat.reduceLeDiff, Nat.reduceSub, join6, join8, join8', join12, join20]
    all_goals simp)
theorem tbinit (a : BitVec 5) (b : BitVec 5) (c : BitVec 5) : Statement (.tbinit a b c) :=
  of_pack rfl rfl (by
    show decode3D _ = _
    simp only [decode3D, extract_low, extract_high, extract_up, Nat.reduceLeDiff, Nat.reduceSub, join6, join8, join8', join12, join20]
    all_goals simp)
theorem tbexp (a : BitVec 5) (b : BitVec 5) (c : BitVec 5) : Statement (.tbexp a b c) :=
  of_pack rfl rfl (by
    show decode3D _ = _
    simp only [decode3D, extract_low, extract_high, extract_up, Nat.reduceLeDiff, Nat.reduceSub, join6, join8, join8', join12, join20]
    all_goals simp)
theorem tbarr (a : BitVec 5) : Statement (.tbarr a) :=
  of_pack rfl rfl (by
    show decode3D _ = _
    simp only [decode3D, extract_low, extract_high, extract_up, Nat.reduceLeDiff, Nat.reduceSub, join6, join8, join8', join12, join20]
    all_goals simp)
theorem tbwait (d : BitVec 5) (a : BitVec 5) : Statement (.tbwait d a) :=
  of_pack rfl rfl (by
    show decode3D _ = _
    simp only [decode3D, extract_low, extract_high, extract_up, Nat.reduceLeDiff, Nat.reduceSub, join6, join8, join8', join12, join20]
    all_goals simp)
theorem tbtest (d : BitVec 5) (a : BitVec 5) : Statement (.tbtest d a) :=
  of_pack rfl rfl (by
    show decode3D _ = _
    simp only [decode3D, extract_low, extract_high, extract_up, Nat.reduceLeDiff, Nat.reduceSub, join6, join8, join8', join12, join20]
    all_goals simp)
theorem tbact (a : BitVec 5) (b : BitVec 5) : Statement (.tbact a b) :=
  of_pack rfl rfl (by
    show decode3D _ = _
    simp only [decode3D, extract_low, extract_high, extract_up, Nat.reduceLeDiff, Nat.reduceSub, join6, join8, join8', join12, join20]
    all_goals simp)
theorem tbretire (a : BitVec 5) : Statement (.tbretire a) :=
  of_pack rfl rfl (by
    show decode3D _ = _
    simp only [decode3D, extract_low, extract_high, extract_up, Nat.reduceLeDiff, Nat.reduceSub, join6, join8, join8', join12, join20]
    all_goals simp)
theorem sendr (a : BitVec 5) (b : BitVec 5) (n : BitVec 5) : Statement (.sendr a b n) :=
  of_pack rfl rfl (by
    show decode3F _ = _
    simp only [decode3F, extract_low, extract_high, extract_up, Nat.reduceLeDiff, Nat.reduceSub, join6, join8, join8', join12, join20]
    all_goals simp)
theorem pclr (n : BitVec 5) : Statement (.pclr n) :=
  of_pack rfl rfl (by
    show decode3F _ = _
    simp only [decode3F, extract_low, extract_high, extract_up, Nat.reduceLeDiff, Nat.reduceSub, join6, join8, join8', join12, join20]
    all_goals simp)
theorem ptest (d : BitVec 5) (n : BitVec 5) : Statement (.ptest d n) :=
  of_pack rfl rfl (by
    show decode3F _ = _
    simp only [decode3F, extract_low, extract_high, extract_up, Nat.reduceLeDiff, Nat.reduceSub, join6, join8, join8', join12, join20]
    all_goals simp)
theorem xmsg (a : BitVec 5) (b : BitVec 5) (c : BitVec 5) (v : BitVec 1) : Statement (.xmsg a b c v) :=
  of_pack rfl rfl (by
    show decode3F _ = _
    simp only [decode3F, extract_low, extract_high, extract_up, Nat.reduceLeDiff, Nat.reduceSub, join6, join8, join8', join12, join20]
    all_goals simp)
theorem mtake (d : BitVec 5) : Statement (.mtake d) :=
  of_pack rfl rfl (by
    show decode3F _ = _
    simp only [decode3F, extract_low, extract_high, extract_up, Nat.reduceLeDiff, Nat.reduceSub, join6, join8, join8', join12, join20]
    all_goals simp)
theorem mfree (a : BitVec 5) : Statement (.mfree a) :=
  of_pack rfl rfl (by
    show decode3F _ = _
    simp only [decode3F, extract_low, extract_high, extract_up, Nat.reduceLeDiff, Nat.reduceSub, join6, join8, join8', join12, join20]
    all_goals simp)
theorem spawn (d : BitVec 5) (a : BitVec 5) (b : BitVec 5) : Statement (.spawn d a b) :=
  of_pack rfl rfl (by
    show decode41 _ = _
    simp only [decode41, extract_low, extract_high, extract_up, Nat.reduceLeDiff, Nat.reduceSub, join6, join8, join8', join12, join20]
    all_goals simp)
theorem hexit : Statement (.hexit) :=
  of_pack rfl rfl (by
    show decode41 _ = _
    simp only [decode41, extract_low, extract_high, extract_up, Nat.reduceLeDiff, Nat.reduceSub, join6, join8, join8', join12, join20]
    all_goals simp)
theorem hwait (h : BitVec 4) : Statement (.hwait h) :=
  of_pack rfl rfl (by
    show decode41 _ = _
    simp only [decode41, extract_low, extract_high, extract_up, Nat.reduceLeDiff, Nat.reduceSub, join6, join8, join8', join12, join20]
    all_goals simp)
theorem dqpush (a : BitVec 5) : Statement (.dqpush a) :=
  of_pack rfl rfl (by
    show decode43 _ = _
    simp only [decode43, extract_low, extract_high, extract_up, Nat.reduceLeDiff, Nat.reduceSub, join6, join8, join8', join12, join20]
    all_goals simp)
theorem dqpop (d : BitVec 5) : Statement (.dqpop d) :=
  of_pack rfl rfl (by
    show decode43 _ = _
    simp only [decode43, extract_low, extract_high, extract_up, Nat.reduceLeDiff, Nat.reduceSub, join6, join8, join8', join12, join20]
    all_goals simp)
theorem dqsteal (d : BitVec 5) (a : BitVec 5) : Statement (.dqsteal d a) :=
  of_pack rfl rfl (by
    show decode43 _ = _
    simp only [decode43, extract_low, extract_high, extract_up, Nat.reduceLeDiff, Nat.reduceSub, join6, join8, join8', join12, join20]
    all_goals simp)
theorem dqlen (d : BitVec 5) : Statement (.dqlen d) :=
  of_pack rfl rfl (by
    show decode43 _ = _
    simp only [decode43, extract_low, extract_high, extract_up, Nat.reduceLeDiff, Nat.reduceSub, join6, join8, join8', join12, join20]
    all_goals simp)
theorem rinit (a : BitVec 5) (n : BitVec 4) : Statement (.rinit a n) :=
  of_pack rfl rfl (by
    show decode45 _ = _
    simp only [decode45, extract_low, extract_high, extract_up, Nat.reduceLeDiff, Nat.reduceSub, join6, join8, join8', join12, join20]
    all_goals simp)
theorem rclaim (d : BitVec 5) (n : BitVec 4) : Statement (.rclaim d n) :=
  of_pack rfl rfl (by
    show decode45 _ = _
    simp only [decode45, extract_low, extract_high, extract_up, Nat.reduceLeDiff, Nat.reduceSub, join6, join8, join8', join12, join20]
    all_goals simp)
theorem rcommit (a : BitVec 5) : Statement (.rcommit a) :=
  of_pack rfl rfl (by
    show decode45 _ = _
    simp only [decode45, extract_low, extract_high, extract_up, Nat.reduceLeDiff, Nat.reduceSub, join6, join8, join8', join12, join20]
    all_goals simp)
theorem rtake (d : BitVec 5) (n : BitVec 4) : Statement (.rtake d n) :=
  of_pack rfl rfl (by
    show decode45 _ = _
    simp only [decode45, extract_low, extract_high, extract_up, Nat.reduceLeDiff, Nat.reduceSub, join6, join8, join8', join12, join20]
    all_goals simp)
theorem rfree (a : BitVec 5) : Statement (.rfree a) :=
  of_pack rfl rfl (by
    show decode45 _ = _
    simp only [decode45, extract_low, extract_high, extract_up, Nat.reduceLeDiff, Nat.reduceSub, join6, join8, join8', join12, join20]
    all_goals simp)
theorem xcopy (a : BitVec 5) (b : BitVec 5) (c : BitVec 5) (t : BitVec 1) (k : BitVec 4) : Statement (.xcopy a b c t k) :=
  of_pack rfl rfl (by
    show decode47 _ = _
    simp only [decode47, extract_low, extract_high, extract_up, Nat.reduceLeDiff, Nat.reduceSub, join6, join8, join8', join12, join20]
    all_goals simp)
theorem xsub (b : BitVec 5) (c : BitVec 5) (n : BitVec 4) : Statement (.xsub b c n) :=
  of_pack rfl rfl (by
    show decode47 _ = _
    simp only [decode47, extract_low, extract_high, extract_up, Nat.reduceLeDiff, Nat.reduceSub, join6, join8, join8', join12, join20]
    all_goals simp)
theorem xpub (a : BitVec 5) (c : BitVec 5) (n : BitVec 4) : Statement (.xpub a c n) :=
  of_pack rfl rfl (by
    show decode47 _ = _
    simp only [decode47, extract_low, extract_high, extract_up, Nat.reduceLeDiff, Nat.reduceSub, join6, join8, join8', join12, join20]
    all_goals simp)
theorem xamo (a : BitVec 5) (b : BitVec 5) (c : BitVec 5) (w : BitVec 1) (o : BitVec 4) : Statement (.xamo a b c w o) :=
  of_pack rfl rfl (by
    show decode47 _ = _
    simp only [decode47, extract_low, extract_high, extract_up, Nat.reduceLeDiff, Nat.reduceSub, join6, join8, join8', join12, join20]
    all_goals simp)
theorem xresume (a : BitVec 5) : Statement (.xresume a) :=
  of_pack rfl rfl (by
    show decode49 _ = _
    simp only [decode49, extract_low, extract_high, extract_up, Nat.reduceLeDiff, Nat.reduceSub, join6, join8, join8', join12, join20]
    all_goals simp)
theorem xcancel (a : BitVec 5) : Statement (.xcancel a) :=
  of_pack rfl rfl (by
    show decode49 _ = _
    simp only [decode49, extract_low, extract_high, extract_up, Nat.reduceLeDiff, Nat.reduceSub, join6, join8, join8', join12, join20]
    all_goals simp)
theorem xdisc (a : BitVec 5) (b : BitVec 5) : Statement (.xdisc a b) :=
  of_pack rfl rfl (by
    show decode49 _ = _
    simp only [decode49, extract_low, extract_high, extract_up, Nat.reduceLeDiff, Nat.reduceSub, join6, join8, join8', join12, join20]
    all_goals simp)
theorem ptouch (a : BitVec 5) (m : BitVec 2) : Statement (.ptouch a m) :=
  of_pack rfl rfl (by
    show decode49 _ = _
    simp only [decode49, extract_low, extract_high, extract_up, Nat.reduceLeDiff, Nat.reduceSub, join6, join8, join8', join12, join20]
    all_goals simp)
theorem mma (a : BitVec 5) (b : BitVec 5) (c : BitVec 5) (n : BitVec 2) : Statement (.mma a b c n) :=
  of_pack rfl rfl (by
    show decode4B _ = _
    simp only [decode4B, extract_low, extract_high, extract_up, Nat.reduceLeDiff, Nat.reduceSub, join6, join8, join8', join12, join20]
    all_goals simp)
theorem mzero (a : BitVec 5) (n : BitVec 2) : Statement (.mzero a n) :=
  of_pack rfl rfl (by
    show decode4B _ = _
    simp only [decode4B, extract_low, extract_high, extract_up, Nat.reduceLeDiff, Nat.reduceSub, join6, join8, join8', join12, join20]
    all_goals simp)
theorem mload (a : BitVec 5) (b : BitVec 5) (n : BitVec 2) : Statement (.mload a b n) :=
  of_pack rfl rfl (by
    show decode4B _ = _
    simp only [decode4B, extract_low, extract_high, extract_up, Nat.reduceLeDiff, Nat.reduceSub, join6, join8, join8', join12, join20]
    all_goals simp)
theorem mstore (a : BitVec 5) (b : BitVec 5) (c : BitVec 5) (n : BitVec 2) : Statement (.mstore a b c n) :=
  of_pack rfl rfl (by
    show decode4B _ = _
    simp only [decode4B, extract_low, extract_high, extract_up, Nat.reduceLeDiff, Nat.reduceSub, join6, join8, join8', join12, join20]
    all_goals simp)
theorem mdrain (a : BitVec 5) (b : BitVec 5) (c : BitVec 5) (z : BitVec 1) (n : BitVec 2) : Statement (.mdrain a b c z n) :=
  of_pack rfl rfl (by
    show decode4B _ = _
    simp only [decode4B, extract_low, extract_high, extract_up, Nat.reduceLeDiff, Nat.reduceSub, join6, join8, join8', join12, join20]
    all_goals simp)
theorem mfence (a : BitVec 5) : Statement (.mfence a) :=
  of_pack rfl rfl (by
    show decode4B _ = _
    simp only [decode4B, extract_low, extract_high, extract_up, Nat.reduceLeDiff, Nat.reduceSub, join6, join8, join8', join12, join20]
    all_goals simp)
theorem fold (a : BitVec 5) (b : BitVec 5) (c : BitVec 5) (s : BitVec 3) (p : BitVec 4) : Statement (.fold a b c s p) :=
  of_pack rfl rfl (by
    show decode4D _ = _
    simp only [decode4D, extract_low, extract_high, extract_up, Nat.reduceLeDiff, Nat.reduceSub, join6, join8, join8', join12, join20]
    all_goals simp)
theorem fres (a : BitVec 5) (s : BitVec 3) : Statement (.fres a s) :=
  of_pack rfl rfl (by
    show decode4D _ = _
    simp only [decode4D, extract_low, extract_high, extract_up, Nat.reduceLeDiff, Nat.reduceSub, join6, join8, join8', join12, join20]
    all_goals simp)
theorem frel (a : BitVec 5) : Statement (.frel a) :=
  of_pack rfl rfl (by
    show decode4D _ = _
    simp only [decode4D, extract_low, extract_high, extract_up, Nat.reduceLeDiff, Nat.reduceSub, join6, join8, join8', join12, join20]
    all_goals simp)
theorem fkey (d : BitVec 5) (a : BitVec 5) : Statement (.fkey d a) :=
  of_pack rfl rfl (by
    show decode4D _ = _
    simp only [decode4D, extract_low, extract_high, extract_up, Nat.reduceLeDiff, Nat.reduceSub, join6, join8, join8', join12, join20]
    all_goals simp)
theorem add16 (d : BitVec 5) (b : BitVec 5) : Statement (.add16 d b) :=
  of_pack16 rfl rfl rfl
theorem sub16 (d : BitVec 5) (b : BitVec 5) : Statement (.sub16 d b) :=
  of_pack16 rfl rfl rfl
theorem and16 (d : BitVec 5) (b : BitVec 5) : Statement (.and16 d b) :=
  of_pack16 rfl rfl rfl
theorem or16 (d : BitVec 5) (b : BitVec 5) : Statement (.or16 d b) :=
  of_pack16 rfl rfl rfl
theorem xor16 (d : BitVec 5) (b : BitVec 5) : Statement (.xor16 d b) :=
  of_pack16 rfl rfl rfl
theorem sll16 (d : BitVec 5) (b : BitVec 5) : Statement (.sll16 d b) :=
  of_pack16 rfl rfl rfl
theorem srl16 (d : BitVec 5) (b : BitVec 5) : Statement (.srl16 d b) :=
  of_pack16 rfl rfl rfl
theorem mv16 (d : BitVec 5) (b : BitVec 5) : Statement (.mv16 d b) :=
  of_pack16 rfl rfl rfl
theorem addi16 (d : BitVec 5) (i : BitVec 5) : Statement (.addi16 d i) :=
  of_pack16 rfl rfl rfl
theorem fadd16 (d : BitVec 5) (b : BitVec 5) : Statement (.fadd16 d b) :=
  of_pack16 rfl rfl rfl
theorem fsub16 (d : BitVec 5) (b : BitVec 5) : Statement (.fsub16 d b) :=
  of_pack16 rfl rfl rfl
theorem fmul16 (d : BitVec 5) (b : BitVec 5) : Statement (.fmul16 d b) :=
  of_pack16 rfl rfl rfl
theorem fmax16 (d : BitVec 5) (b : BitVec 5) : Statement (.fmax16 d b) :=
  of_pack16 rfl rfl rfl
theorem vadd16 (d : BitVec 5) (b : BitVec 5) : Statement (.vadd16 d b) :=
  of_pack16 rfl rfl rfl
theorem vsub16 (d : BitVec 5) (b : BitVec 5) : Statement (.vsub16 d b) :=
  of_pack16 rfl rfl rfl
theorem vmul16 (d : BitVec 5) (b : BitVec 5) : Statement (.vmul16 d b) :=
  of_pack16 rfl rfl rfl
theorem sendrArrive (pkt : Nat) : Statement (.sendrArrive pkt) :=
  of_event rfl rfl
theorem xmsgArrive (pkt : Nat) : Statement (.xmsgArrive pkt) :=
  of_event rfl rfl
theorem helperStart (core : Nat) : Statement (.helperStart core) :=
  of_event rfl rfl
theorem enginePieceSend (core : Nat) (piece : PieceChoice) : Statement (.enginePieceSend core piece) :=
  of_event rfl rfl
theorem layoutRecordRead (core entry : Nat) : Statement (.layoutRecordRead core entry) :=
  of_event rfl rfl
theorem engineSlotClaim (core entry : Nat) : Statement (.engineSlotClaim core entry) :=
  of_event rfl rfl
theorem xpubSlotTake (core entry : Nat) : Statement (.xpubSlotTake core entry) :=
  of_event rfl rfl
theorem pieceLand (core entry piece : Nat) : Statement (.pieceLand core entry piece) :=
  of_event rfl rfl
theorem handBack (core entry : Nat) : Statement (.handBack core entry) :=
  of_event rfl rfl
theorem ptouchResolved (core ctx : Nat) : Statement (.ptouchResolved core ctx) :=
  of_event rfl rfl
theorem discardAccept (core entry : Nat) : Statement (.discardAccept core entry) :=
  of_event rfl rfl
theorem matrixCommandStart (quad : Nat) : Statement (.matrixCommandStart quad) :=
  of_event rfl rfl
theorem kstepTake (quad : Nat) : Statement (.kstepTake quad) :=
  of_event rfl rfl
theorem kstepRetire (quad : Nat) : Statement (.kstepRetire quad) :=
  of_event rfl rfl
theorem kstepWaitTimeout (quad : Nat) : Statement (.kstepWaitTimeout quad) :=
  of_event rfl rfl
theorem drainRowOffer (quad : Nat) : Statement (.drainRowOffer quad) :=
  of_event rfl rfl
theorem mloadDone (quad acc : Nat) : Statement (.mloadDone quad acc) :=
  of_event rfl rfl
theorem foldOperandArrive (pkt : Nat) : Statement (.foldOperandArrive pkt) :=
  of_event rfl rfl
theorem foldResultDeliver (fold job : Nat) : Statement (.foldResultDeliver fold job) :=
  of_event rfl rfl
theorem foldOrphanTimeout (fold entry : Nat) : Statement (.foldOrphanTimeout fold entry) :=
  of_event rfl rfl
theorem fresGrant (fold : Nat) : Statement (.fresGrant fold) :=
  of_event rfl rfl
theorem ecallExit (core : Nat) : Statement (.ecallExit core) :=
  of_event rfl rfl
theorem park (core ctx : Nat) : Statement (.park core ctx) :=
  of_event rfl rfl
theorem setoto (core ctx : Nat) : Statement (.setoto core ctx) :=
  of_event rfl rfl
theorem setseed (core ctx : Nat) : Statement (.setseed core ctx) :=
  of_event rfl rfl
theorem wilziaAnswer (core ctx : Nat) : Statement (.wilziaAnswer core ctx) :=
  of_event rfl rfl
theorem barTimeout (core ctx : Nat) : Statement (.barTimeout core ctx) :=
  of_event rfl rfl
theorem presenceTimeout (core ctx : Nat) : Statement (.presenceTimeout core ctx) :=
  of_event rfl rfl
theorem wfeRelease (core ctx : Nat) : Statement (.wfeRelease core ctx) :=
  of_event rfl rfl
theorem remoteAck (core ctx id : Nat) : Statement (.remoteAck core ctx id) :=
  of_event rfl rfl
theorem streamPrefetch (core port : Nat) : Statement (.streamPrefetch core port) :=
  of_event rfl rfl
theorem latheIssue (core : Nat) : Statement (.latheIssue core) :=
  of_event rfl rfl
theorem launch (fn queue : Nat) (packet : List (BitVec 64)) : Statement (.launch fn queue packet) :=
  of_event rfl rfl
theorem fencePacket (fn queue : Nat) (packet : List (BitVec 64)) : Statement (.fencePacket fn queue packet) :=
  of_event rfl rfl
theorem fencePoll (fn queue tuple : Nat) : Statement (.fencePoll fn queue tuple) :=
  of_event rfl rfl
theorem fenceTimeout (fn queue : Nat) : Statement (.fenceTimeout fn queue) :=
  of_event rfl rfl
theorem cond (fn queue : Nat) (packet : List (BitVec 64)) : Statement (.cond fn queue packet) :=
  of_event rfl rfl
theorem signal (fn queue : Nat) (packet : List (BitVec 64)) : Statement (.signal fn queue packet) :=
  of_event rfl rfl
theorem copyPacket (fn queue : Nat) (packet : List (BitVec 64)) (data : List (BitVec 8)) : Statement (.copyPacket fn queue packet data) :=
  of_event rfl rfl
theorem copyDone (fn queue job : Nat) : Statement (.copyDone fn queue job) :=
  of_event rfl rfl
theorem preemptHold (fn queue : Nat) (packet : List (BitVec 64)) : Statement (.preemptHold fn queue packet) :=
  of_event rfl rfl
theorem preemptRelease (fn queue : Nat) (packet : List (BitVec 64)) : Statement (.preemptRelease fn queue packet) :=
  of_event rfl rfl
theorem killPacket (fn queue : Nat) (packet : List (BitVec 64)) : Statement (.killPacket fn queue packet) :=
  of_event rfl rfl
theorem queueDoorbell (fn queue : Nat) (tail : BitVec 16) : Statement (.queueDoorbell fn queue tail) :=
  of_event rfl rfl
theorem queueEnable (fn queue : Nat) (cfg : BitVec 64) : Statement (.queueEnable fn queue cfg) :=
  of_event rfl rfl
theorem queueErrorClear (fn queue : Nat) : Statement (.queueErrorClear fn queue) :=
  of_event rfl rfl
theorem hostRegisterWrite (fn offset : Nat) (value : BitVec 64) : Statement (.hostRegisterWrite fn offset value) :=
  of_event rfl rfl
theorem bind (launch : Nat) (choice : BindChoice) : Statement (.bind launch choice) :=
  of_event rfl rfl
theorem bindComplete (part : Nat) : Statement (.bindComplete part) :=
  of_event rfl rfl
theorem bindWaitCap (launch : Nat) : Statement (.bindWaitCap launch) :=
  of_event rfl rfl
theorem launchEnd (part : Nat) : Statement (.launchEnd part) :=
  of_event rfl rfl
theorem preemptRequest (part : Nat) (cause : PreemptCause) : Statement (.preemptRequest part cause) :=
  of_event rfl rfl
theorem haltComplete (part : Nat) : Statement (.haltComplete part) :=
  of_event rfl rfl
theorem swapComplete (part : Nat) : Statement (.swapComplete part) :=
  of_event rfl rfl
theorem saveComplete (part : Nat) : Statement (.saveComplete part) :=
  of_event rfl rfl
theorem evict (part : Nat) : Statement (.evict part) :=
  of_event rfl rfl
theorem restoreRequest (part : Nat) : Statement (.restoreRequest part) :=
  of_event rfl rfl
theorem restoreDone (part : Nat) (intact : Bool) : Statement (.restoreDone part intact) :=
  of_event rfl rfl
theorem killRequest (part : Nat) : Statement (.killRequest part) :=
  of_event rfl rfl
theorem killSweepEnd (part cluster : Nat) : Statement (.killSweepEnd part cluster) :=
  of_event rfl rfl
theorem killConfirm (part : Nat) : Statement (.killConfirm part) :=
  of_event rfl rfl
theorem stackFlitReceive (link : Nat) (flit : LinkFlit) : Statement (.stackFlitReceive link flit) :=
  of_event rfl rfl
theorem linkReplay (link : Nat) : Statement (.linkReplay link) :=
  of_event rfl rfl
theorem linkRetrain (link : Nat) (ok : Bool) : Statement (.linkRetrain link ok) :=
  of_event rfl rfl
theorem homeRequestApply (home index : Nat) : Statement (.homeRequestApply home index) :=
  of_event rfl rfl
theorem gleanerStep (stack : Nat) : Statement (.gleanerStep stack) :=
  of_event rfl rfl
theorem wilziaGrowthAnswer (stack : Nat) (moved : Nat) (donor : Nat) (reserve : Nat) : Statement (.wilziaGrowthAnswer stack moved donor reserve) :=
  of_event rfl rfl
theorem parkDeadline (stack : Nat) : Statement (.parkDeadline stack) :=
  of_event rfl rfl
theorem faultAnswer (fn : Nat) (answer : BitVec 64) : Statement (.faultAnswer fn answer) :=
  of_event rfl rfl
theorem cxlLinkDown (port : Nat) : Statement (.cxlLinkDown port) :=
  of_event rfl rfl
theorem hostAtomic (fn : Nat) (va : BitVec 64) (op : HostAtomicOp) (bytes : Nat) (compare operand : BitVec 128) : Statement (.hostAtomic fn va op bytes compare operand) :=
  of_event rfl rfl
theorem ikirathFlitReceive (port : Nat) (flit : LinkFlit) : Statement (.ikirathFlitReceive port flit) :=
  of_event rfl rfl
theorem podArrival (pid module phase : Nat) : Statement (.podArrival pid module phase) :=
  of_event rfl rfl
theorem podPidAllot (fn podgrp : Nat) (pid : BitVec 12) : Statement (.podPidAllot fn podgrp pid) :=
  of_event rfl rfl
theorem budgetPeriod (report : BudgetReport) : Statement (.budgetPeriod report) :=
  of_event rfl rfl
theorem opChangeDone (quad : Nat) : Statement (.opChangeDone quad) :=
  of_event rfl rfl
theorem currentLimit (die : Nat) : Statement (.currentLimit die) :=
  of_event rfl rfl
theorem limitRelease (die : Nat) : Statement (.limitRelease die) :=
  of_event rfl rfl
theorem temperatureSample (temps : List Nat) : Statement (.temperatureSample temps) :=
  of_event rfl rfl
theorem savesDone : Statement (.savesDone) :=
  of_event rfl rfl
theorem thermalReenable : Statement (.thermalReenable) :=
  of_event rfl rfl
theorem recoveryDone : Statement (.recoveryDone) :=
  of_event rfl rfl
theorem retentionEntry (cluster : Nat) : Statement (.retentionEntry cluster) :=
  of_event rfl rfl
theorem retentionExit (cluster : Nat) (parityOk : Bool) : Statement (.retentionExit cluster parityOk) :=
  of_event rfl rfl
theorem powerOn (image : ImageCheck) : Statement (.powerOn image) :=
  of_event rfl rfl
theorem bootReady : Statement (.bootReady) :=
  of_event rfl rfl
theorem recoveryGo (image : ImageCheck) : Statement (.recoveryGo image) :=
  of_event rfl rfl
theorem attestationGo : Statement (.attestationGo) :=
  of_event rfl rfl
theorem attestationDone : Statement (.attestationDone) :=
  of_event rfl rfl
theorem funcon : Statement (.funcon) :=
  of_event rfl rfl
theorem funcoff : Statement (.funcoff) :=
  of_event rfl rfl
theorem trapk : Statement (.trapk) :=
  of_event rfl rfl
theorem homerng : Statement (.homerng) :=
  of_event rfl rfl
theorem map (resources : Bool) : Statement (.map resources) :=
  of_event rfl rfl
theorem unmap : Statement (.unmap) :=
  of_event rfl rfl
theorem quota (resources : Bool) : Statement (.quota resources) :=
  of_event rfl rfl
theorem functionRequestDone : Statement (.functionRequestDone) :=
  of_event rfl rfl
theorem lifetimeUpdate : Statement (.lifetimeUpdate) :=
  of_event rfl rfl
theorem fpVectorQueueDrain (core : Nat) : Statement (.fpVectorQueueDrain core) :=
  of_event rfl rfl
theorem remoteAccessPerform (core ctx id : Nat) : Statement (.remoteAccessPerform core ctx id) :=
  of_event rfl rfl
theorem routerOutputGrant (router : Nat) (out : RouterPort) (cls : MsgClass) : Statement (.routerOutputGrant router out cls) :=
  of_event rfl rfl
theorem matrixCommandArrive (pkt : Nat) : Statement (.matrixCommandArrive pkt) :=
  of_event rfl rfl
theorem matrixCommandDone (quad : Nat) : Statement (.matrixCommandDone quad) :=
  of_event rfl rfl
theorem foldRequestArrive (pkt : Nat) : Statement (.foldRequestArrive pkt) :=
  of_event rfl rfl
theorem foldAnswer (pkt : Nat) : Statement (.foldAnswer pkt) :=
  of_event rfl rfl
theorem pieceFault (core entry piece : Nat) : Statement (.pieceFault core entry piece) :=
  of_event rfl rfl
theorem linkRecovered (link : LinkName) : Statement (.linkRecovered link) :=
  of_event rfl rfl
theorem podFormation (number : Nat) (routes : List (Nat × Nat)) : Statement (.podFormation number routes) :=
  of_event rfl rfl
theorem uncorrectableError (where_ : ErrorSite) : Statement (.uncorrectableError where_) :=
  of_event rfl rfl

end Sys2Proof.Laws.RoundTrip
end

