-- ==== Sys2Proof/Tests/Slice0.lean ====
section
/-! SUPPORT. The model's own tests: words of the spec and what they decode to, ill-formed instructions that the check
refuses, worked examples of the spec, one step each, and for every claim with hypotheses states and operands that meet
them. -/

section

set_option Elab.async false

open Sys2Proof Sys2Proof.Machine

-- Words written out from the spec's encodings.

theorem test_decode_integer :
    decodeTableWord 32 0x00B03183 = some (.add 3#5 3#5 11#5) ∧ decodeTableWord 32 0x403AA505 = some (.srai 10#5 10#5 3#6) ∧
    decodeTableWord 16 0x5A82 = some (.add16 10#5 11#5) := by decide

theorem test_decode_jumps :
    decodeTableWord 32 0x00080091 = some (.jal 1#5 0x80#20) ∧ decodeTableWord 32 0x00000019 = some .ecall := by decide

theorem test_decode_csr :
    decodeTableWord 32 0x30523019 = some (.csrrw 0#5 3#5 0x305#12) ∧
    decodeTableWord 32 0x031A4019 = some (.csrrwi 0#5 0x031#12 4#5) := by decide

theorem test_decode_float :
    decodeTableWord 32 0x202011A1 = some (.fmadd 3#5 1#5 2#5 4#5 0#1 0#3) ∧
    decodeTableWord 32 0x5102151F = some (.fcvtFloatInt 10#5 1#5 0#2 1#1 0#2 1#3) ∧
    decodeTableWord 32 0x002E109F = some (.fadd 1#5 1#5 2#5 0#1 7#3) ∧
    decodeTableWord 16 0x1054 = some (.fadd16 1#5 2#5) := by decide

theorem test_decode_streams :
    decodeTableWord 32 0x02000229 = some (.sbind 4#5 0#1 1#2) ∧ decodeTableWord 32 0x08000129 = some (.sbind 2#5 1#1 0#2) ∧
    decodeTableWord 32 0x0020302B = some (.frep 3#5 2#4) ∧ decodeTableWord 32 0x0702002B = some (.frepi 7#8 0#4) := by decide

theorem test_decode_vector :
    decodeTableWord 32 0x7020A0AD = some (.vld 1#5 10#5 7#4 2#8) ∧
    decodeTableWord 32 0x003020AF = some (.vadd 1#5 2#5 3#5 0#3) := by decide

theorem test_decode_atomics :
    decodeTableWord 32 0x1EB0C537 = some (.amoadd 10#5 12#5 11#5 1#1 1#1 1#1 0#3) ∧
    decodeTableWord 32 0xACC03537 = some (.amocasQ 10#5 3#5 12#5 1#1 1#1 0#3) ∧
    decodeTableWord 32 0x01800039 = some (.fence 0x18#8) ∧
    decodeTableWord 32 0x2002B539 = some (.ldaq 10#5 11#5 2#2 0#3) := by decide

theorem test_decode_barriers :
    decodeTableWord 32 0x0040003B = some (.bar 4#4) ∧ decodeTableWord 32 0x0044003B = some (.barwait 4#4) ∧
    decodeTableWord 32 0x0022003B = some (.bararr 2#4) ∧ decodeTableWord 32 0x00B0A63D = some (.tbinit 10#5 11#5 12#5) ∧
    decodeTableWord 32 0x0006A1BD = some (.tbwait 3#5 10#5) := by decide

theorem test_decode_messages :
    decodeTableWord 32 0x0AB0A03F = some (.sendr 10#5 11#5 5#5) ∧ decodeTableWord 32 0x003642BF = some (.xmsg 4#5 3#5 5#5 0#1) ∧
    decodeTableWord 32 0x000803BF = some (.mtake 7#5) ∧ decodeTableWord 32 0x00B0A1C1 = some (.spawn 3#5 10#5 11#5) ∧
    decodeTableWord 32 0x00020041 = some .hexit ∧ decodeTableWord 32 0x00340041 = some (.hwait 3#4) ∧
    decodeTableWord 32 0x00043543 = some (.dqsteal 10#5 3#5) := by decide

theorem test_decode_engine_matrix_fold :
    decodeTableWord 32 0x04B20647 = some (.xsub 11#5 12#5 2#4) ∧ decodeTableWord 32 0x04B0A64B = some (.mma 10#5 11#5 12#5 2#2) ∧
    decodeTableWord 32 0x08B8A64B = some (.mdrain 10#5 11#5 12#5 1#1 0#2) ∧ decodeTableWord 32 0x000AA04B = some (.mfence 10#5) ∧
    decodeTableWord 32 0x80B0A64D = some (.fold 10#5 11#5 12#5 4#3 0#4) ∧ decodeTableWord 32 0x4002A04D = some (.fres 10#5 2#3) ∧
    decodeTableWord 32 0x0006A1CD = some (.fkey 3#5 10#5) := by decide

/-- The example of R117. -/
theorem test_decode_rejects : decodeTableWord 32 0x00062513 = none ∧ decodeTableWord 32 0x00000001 = none ∧
    decodeTableWord 16 0x0022 = none := by decide

-- An ill-formed instruction for each check.

theorem test_wf_fields : (Instr.bfx 1#5 2#5 63#6 1#6).wellFormed = false ∧ (Instr.bfi 1#5 2#5 0#6 63#6).wellFormed = true ∧
    (Instr.fadd 1#5 2#5 3#5 0#1 6#3).wellFormed = false ∧ (Instr.fcvtFloatFloat 1#5 2#5 1#2 0#1 1#2 0#3).wellFormed = false ∧
    (Instr.ssync 0#4).wellFormed = false ∧ (Instr.vcmp 1#5 2#5 3#5 6#3).wellFormed = false ∧
    (Instr.amocasQ 3#5 10#5 4#5 0#1 0#1 0#3).wellFormed = false ∧ (Instr.amocasQ 2#5 10#5 0#5 0#1 0#1 0#3).wellFormed = false := by
  decide

theorem test_wf_units : (Instr.bar 7#4).wellFormed = false ∧ (Instr.sendr 1#5 2#5 0#5).wellFormed = false ∧
    (Instr.hwait 0#4).wellFormed = false ∧ (Instr.hwait 11#4).wellFormed = false ∧
    (Instr.xcopy 1#5 2#5 3#5 1#1 0#4).wellFormed = false ∧ (Instr.xcopy 1#5 2#5 3#5 0#1 11#4).wellFormed = false ∧
    (Instr.xamo 1#5 2#5 3#5 1#1 10#4).wellFormed = false ∧ (Instr.ptouch 1#5 3#2).wellFormed = false ∧
    (Instr.fold 1#5 2#5 3#5 6#3 0#4).wellFormed = false ∧ (Instr.fold 1#5 2#5 3#5 0#3 9#4).wellFormed = false ∧
    (Instr.fres 1#5 6#3).wellFormed = false := by decide

theorem test_wf_agents : (Instr.helperStart 65536).wellFormed = false ∧ (Instr.park 0 11).wellFormed = false ∧
    (Instr.handBack 0 16).wellFormed = false ∧ (Instr.kstepTake 16384).wellFormed = false ∧
    (Instr.mloadDone 0 4).wellFormed = false ∧ (Instr.fresGrant 4096).wellFormed = false ∧
    (Instr.launch 65 0 []).wellFormed = false ∧ (Instr.launch 0 64 []).wellFormed = false ∧
    (Instr.launch 0 0 [0#64]).wellFormed = false := by decide

-- States for the witnesses: one core of a running partition, at a program.

namespace Sys2Proof.Tests

/-- An instruction that passes the gate issues. -/
theorem issues_of_gate {s : State} {i : Instr} (h : s.gate i = .go) : s.Issues i := by
  unfold State.gate at h
  split at h
  · cases h
  · rename_i ho
    split at h
    · cases h
    · rename_i hn
      split at h
      · cases h
      · rename_i hh
        refine ⟨by simpa [State.Owns] using ho, fun hk n hn' h0 => ?_, by simpa using hh⟩
        rw [hk] at hn
        simp only [Bool.false_eq_true, if_false, Ctx.absentReg, List.find?_eq_none, List.mem_filterMap] at hn
        have := hn n ⟨_, hn', rfl⟩
        simpa [h0] using this

/-- Whether an outcome is a next state. -/
def nexts : Out → Bool
  | .next _ => true
  | _ => false

/-- The next state of an outcome. -/
def after (s : State) : Out → State
  | .next t => t
  | _ => s

theorem next_of {o : Out} (h : nexts o = true) : ∃ t, o = .next t := by
  cases o <;> simp_all [nexts]

/-- Core 0 of a running partition of one cluster, its control context at an instruction. -/
def base : State := State.reset.withFetchWord 32 0

/-- The same with values in x1, x2 and x10. -/
def regs (a b c : BitVec 64) : State := ((base.setX 1#5 a).setX 2#5 b).setX 10#5 c

/-- The same in its helper k. -/
def helper (k : Nat) : State :=
  (base.setCtxAt 0 k { Ctx.reset k with pc := base.cx.pc, live := true }).at 0 k

/-- The same at K level. -/
def kernel : State := base.setCx { base.cx with level := .k }

end Sys2Proof.Tests

open Sys2Proof.Tests

-- Encoding, fetching and the step.

theorem witness_encode : (Instr.bfi 1#5 2#5 0#6 63#6).wellFormed = true ∧
    encode (.bfi 31#5 2#5 63#6 0#6) = some [0x95#8, 0x2F#8, 0x02#8, 0xFC#8] := by decide

theorem witness_decode : decodeBytes [0x83#8, 0x31#8, 0xB0#8, 0#8, 0x55#8] = .ok (.add 3#5 3#5 11#5, [0x55#8]) := by decide

theorem witness_patterns : 0x4F ≤ (opcodeOf 0x0000004F#32).toNat ∧ opcodeOf 0xFFFFFF81#32 = 0x01#7 ∧
    17 ≤ ((0x0022#16).extractLsb' 1 5).toNat ∧ decode32 0x00B03183#32 = some (.add 3#5 3#5 11#5) := by decide

namespace Sys2Proof.Tests

/-- The base state with ADD t0, t0, a1 at its PC. -/
def atAdd : State := State.reset.withFetchWord 32 0x00B03183

/-- The state that a fetch leaves. -/
def fetched (s : State) (c k : Nat) (pc : BitVec 64) : State :=
  match s.fetchHalf c k pc with
  | .ok (t, _) => t
  | .error _ => s

/-- What a fetch brings. -/
def half (s : State) (c k : Nat) (pc : BitVec 64) : Option (BitVec 16) :=
  match s.fetchHalf c k pc with
  | .ok (_, h) => some h
  | .error _ => none

theorem fetchHalf_of_half {s : State} {c k : Nat} {pc : BitVec 64} {h : BitVec 16} (e : half s c k pc = some h) :
    s.fetchHalf c k pc = .ok (fetched s c k pc, h) := by
  unfold half at e; unfold fetched
  split at e <;> simp_all

end Sys2Proof.Tests

theorem witness_step :
    let s := atAdd; let t := Claims.inHand s 0 0
    Claims.Selects s 0 0 ∧ s.agenda = [] ∧ s.auto = .issue 0 ∧
    Claims.Fetched t 0 0 (fetched (fetched t 0 0 t.cx.pc) 0 0 (t.cx.pc + 2#64)) (.add 3#5 3#5 11#5) ∧
    (Instr.latheIssue 0).isEvent = true :=
  ⟨by unfold Claims.Selects; decide +kernel, rfl, by decide +kernel,
    ⟨by decide +kernel, .inr ⟨0x3183#16, 0x00B0#16, fetched (Claims.inHand atAdd 0 0) 0 0 (Claims.inHand atAdd 0 0).cx.pc,
      fetchHalf_of_half (by decide +kernel), by decide +kernel, fetchHalf_of_half (by decide +kernel), by decide +kernel⟩⟩, rfl⟩

/-- With an agenda that names the core, and a 16-bit instruction. -/
theorem witness_step_agenda :
    let s := { State.reset.withFetchWord 16 0x5A82 with agenda := [] }; let t := Claims.inHand s 0 0
    Claims.Selects s 0 0 ∧ Claims.Fetched t 0 0 (fetched t 0 0 t.cx.pc) (.add16 10#5 11#5) :=
  ⟨by unfold Claims.Selects; decide +kernel, by decide +kernel, .inl ⟨0x5A82#16, fetchHalf_of_half (by decide +kernel), by decide +kernel⟩⟩

namespace Sys2Proof.Tests

/-- Regions that give every right. -/
def wideOpen : Vector (BitVec 64) 8 := (Core.reset.prgn.set 0 0x8700000003000000#64).set 1 0xC700000080000000#64

/-- The base state with every right to its local memory and the scratchpad, over their whole size. -/
def open_ : State := base.modCore 0 fun k =>
  { k with prgn := wideOpen, ctxs := k.ctxs.map fun e => (e.1, { e.2 with fetchPrgn := wideOpen }) }

/-- An address in the core's own local memory. -/
def here : BitVec 64 := 0x100#64

end Sys2Proof.Tests

theorem witness_fetch :
    (bitOf here 63 = false ∧ open_.checkIn (open_.ctxAt 0 0).fetchPrgn 0 here 2 1 [.x] false = .ok ⟨0, 1, 0x100⟩ ∧
      open_.eccWord (Mesh.key ⟨0, 1, 0x100⟩) 2 = none) ∧
    (amGet? ((fetched base 0 0 base.cx.pc).quad 0).icache base.cx.pc.toNat = some 0#16) ∧
    (let p := base.partOfCore 0; bitOf base.cx.pc 63 = true ∧ amGet? (base.quad 0).icache base.cx.pc.toNat = none ∧
      fld base.cx.pc 54 9 = 0 ∧ base.serve p.fn p.pid p.hrt base.cx.pc false = none ∧
      base.homeFor p.hrt base.cx.pc = .ok (stackOf 0x10000) ∧
      base.blockFail (stackOf 0x10000) p.fn (fld base.cx.pc 0 48) = none ∧
      (base.spoil (stackOf 0x10000) p.fn 0x10000 fun b => { b with poison := true }).blockFail (stackOf 0x10000) p.fn 0x10000
        = some .poison) := by decide +kernel

theorem witness_fetch_traps :
    bitOf (base.cx.pc + 1#64) 0 = true ∧ base.checkIn (base.ctxAt 0 0).fetchPrgn 0 0#64 2 1 [.x] false = .error (trap cProt 0#64) ∧
    fld (base.cx.pc + 0x0040000000000000#64) 54 9 ≠ 0 ∧
    (let p := base.partOfCore 0; base.serve p.fn p.pid p.hrt (base.cx.pc + 0x10000#64) false ≠ none) ∧
    (let s := (State.reset.withFetchWord 16 0x0001); let pc := s.cx.pc + 0xFFFE#64
      bitOf pc 0 = false ∧ (∃ e, s.fetchHalf 0 0 (pc + 2#64) = .error e)) :=
  ⟨by decide +kernel, by decide +kernel, by decide +kernel, by decide +kernel, by decide +kernel,
    ⟨trap cProt (base.cx.pc + 0x10000#64), by decide +kernel⟩⟩

theorem witness_memory : Memory.wf [] = true ∧ Memory.wf (memSet [] 5 7#8) = true ∧ (0x11223344 : Nat) < 256 ^ 4 := by decide

/-- The example of R4. -/
theorem test_little_endian : memGet (memWrite [] 0x1000 4 0x11223344) 0x1000 = 0x44#8 ∧
    memGet (memWrite [] 0x1000 4 0x11223344) 0x1003 = 0x11#8 := by decide

theorem witness_form_of_a_step : Memory.wf atAdd.mem = true ∧ (∃ t, step atAdd = .next t) :=
  ⟨by decide, next_of (by decide +kernel)⟩

theorem witness_gate :
    (Reg.v 16 ∈ (Instr.vadd 16#5 0#5 0#5 0#3).uses.wr ∧ Claims.NotOwned false (.v 16)) ∧
    ((helper 1).inHelper = true ∧ Reg.x 16 ∈ (Instr.add 1#5 16#5 0#5).uses.rd ∧ Reg.f 8 ∈ (Instr.fadd 8#5 0#5 0#5 0#1 0#3).uses.wr ∧
      (Instr.frepi 7#8 0#4).controlOnly = true ∧ (helper 1).cx.pending = []) ∧
    (let s := base.modCx fun x => { x with present := 0xFFFFFFFD#32 }; s.Owns (.add 3#5 1#5 2#5) ∧
      s.inHelper = false ∧ s.cx.absentReg (.add 3#5 1#5 2#5) = some 1) ∧
    (let s := base.modCx fun x => { x with queue := [{ ins := .fcvtFloatInt 1#5 1#5 0#2 0#1 0#2 0#3, pc := x.pc, lathe := none, seq := 0 }] };
      s.Owns (.add 3#5 1#5 2#5) ∧ s.cx.absentReg (.add 3#5 1#5 2#5) = none ∧ s.cx.holds s.inHelper (.add 3#5 1#5 2#5) = true) := by
  unfold State.Owns Claims.NotOwned; decide +kernel

theorem witness_settled : base.Settled ∧ (helper 1).Settled ∧ kernel.Settled := by unfold State.Settled; decide +kernel

theorem witness_trap :
    let s := base
    ¬ ((s.ctxAt 0 0).level = .k ∧ bitOf (s.ctxAt 0 0).tstatus 1 = false) ∧ ([1#64, 2#64] : List (BitVec 64)).length ≤ 8 ∧
    (kernel.ctxAt 0 0).level = .k ∧ bitOf (kernel.ctxAt 0 0).tstatus 1 = false := by decide +kernel

-- Traps, levels and system instructions.

theorem witness_levels :
    (base.ctxAt 0 0).level = .u ∧ nexts (exec .ebreak base) = true ∧ ((after base (exec .ebreak base)).ctxAt 0 0).level = .k ∧
    (kernel.ctxAt 0 0).level = .k ∧ (kernel.ctxAt 0 0).live = true ∧ nexts (exec .tret kernel) = true ∧
    ((after kernel (exec .tret kernel)).ctxAt 0 0).level = .u := by decide +kernel

theorem witness_system_traps :
    base.cx.level = .u ∧ base.inHelper = false ∧ (base.setX 17#5 1#64).x 17#5 ≠ 0#64 ∧
    (base.setX 17#5 1#64).cx.present.toNat.testBit 17 = true ∧ (helper 1).cx.level = .u ∧ (helper 1).inHelper = true := by
  decide +kernel

theorem witness_system :
    (kernel.gate .tret = .go) ∧ ((kernel.at 0 0).cx.level = .k) ∧
    (let s := base.setCx { base.cx with wake := true }; s.gate .wfe = .go ∧ s.cx.wake = true) ∧
    (base.gate .wfe = .go ∧ base.cx.wake = false) ∧ base.gate .isync = .go ∧ base.x 17#5 = 0#64 ∧
    base.cx.present.toNat.testBit 10 = true := by decide +kernel

theorem test_ebreak : let t := after base (exec .ebreak base)
    (t.ctxAt 0 0).tcause = 0x10#64 ∧ (t.ctxAt 0 0).tval = 0#64 ∧ (t.ctxAt 0 0).tepc = base.cx.pc := by decide +kernel

-- Integer instructions.

namespace Sys2Proof.Tests

def integers1 : List Instr := [.add 3#5 1#5 2#5, .sub 3#5 1#5 2#5, .sll 3#5 1#5 2#5, .slt 3#5 1#5 2#5, .sltu 3#5 1#5 2#5,
      .xor 3#5 1#5 2#5, .srl 3#5 1#5 2#5, .sra 3#5 1#5 2#5, .or 3#5 1#5 2#5, .and 3#5 1#5 2#5, .min 3#5 1#5 2#5,
      .max 3#5 1#5 2#5, .minu 3#5 1#5 2#5, .maxu 3#5 1#5 2#5, .mul 3#5 1#5 2#5, .mulh 3#5 1#5 2#5, .mulhsu 3#5 1#5 2#5]
def integers2 : List Instr := [.mulhu 3#5 1#5 2#5, .sextb 3#5 1#5, .sexth 3#5 1#5, .sextw 3#5 1#5, .addi 3#5 1#5 0xFFF#12, .slti 3#5 1#5 0x800#12,
      .sltiu 3#5 1#5 0xFFF#12, .xori 3#5 1#5 1#12, .ori 3#5 1#5 1#12, .andi 3#5 1#5 1#12, .slli 3#5 1#5 63#6, .srli 3#5 1#5 63#6,
      .srai 3#5 1#5 63#6]
def integers3 : List Instr := [.lih 3#5 0x80000#20, .addpc 3#5 0xFFFFF#20, .add16 1#5 2#5, .sub16 1#5 2#5, .and16 1#5 2#5, .or16 1#5 2#5,
      .xor16 1#5 2#5, .sll16 1#5 2#5, .srl16 1#5 2#5, .mv16 1#5 2#5, .addi16 1#5 0x10#5]

end Sys2Proof.Tests

theorem witness_integer : ∀ i ∈ integers1 ++ integers2 ++ integers3,
    (regs (-7) 2 0).gate i = .go ∧ (Claims.intResult (regs (-7) 2 0) i).isSome = true := by decide +kernel

namespace Sys2Proof.Tests

def others1 : List Instr := [.div 3#5 1#5 2#5, .divu 3#5 1#5 2#5, .rem 3#5 1#5 2#5, .remu 3#5 1#5 2#5, .clz 3#5 1#5,
      .ctz 3#5 1#5, .popc 3#5 1#5, .brev 3#5 1#5, .bfx 3#5 1#5 63#6 0#6, .bfi 3#5 1#5 0#6 63#6, .mkaddr 3#5 1#5 2#5,
      .absaddr 3#5 1#5]
def others2 : List Instr := [.beq 1#5 2#5 0x800#12, .bne 1#5 2#5 0x7FF#12, .blt 1#5 2#5 0#12, .bge 1#5 2#5 0#12, .bltu 1#5 2#5 0#12, .bgeu 1#5 2#5 0#12,
      .jal 1#5 0x80000#20, .jalr 1#5 1#5 0#12]

end Sys2Proof.Tests

theorem witness_integer_more : ∀ i ∈ others1 ++ others2,
    ∀ s ∈ [regs 0x8000000000000000 0xFFFFFFFFFFFFFFFF 0, regs 7 0 0], s.gate i = .go := by decide +kernel

/-- Examples of R133, R134 and R136. -/
theorem test_integer :
    (after base (exec (.srai 10#5 10#5 3#6) (regs 0 0 0xFFFFFFFFFFFFFF00))).x 10#5 = 0xFFFFFFFFFFFFFFE0#64 ∧
    (after base (exec (.sll 3#5 1#5 2#5) (regs 1 65 0))).x 3#5 = 2#64 ∧
    (after base (exec (.sltiu 3#5 1#5 0xFFF#12) (regs 5 0 0))).x 3#5 = 1#64 ∧
    (after base (exec (.lih 3#5 0x80000#20) base)).x 3#5 = 0xFFFFFFFF80000000#64 := by decide +kernel

/-- Examples of R135 and R136. -/
theorem test_multiply_divide :
    (after base (exec (.mulhu 3#5 1#5 2#5) (regs (-1) (-1) 0))).x 3#5 = 0xFFFFFFFFFFFFFFFE#64 ∧
    (after base (exec (.mulhsu 3#5 1#5 2#5) (regs (-1) (-1) 0))).x 3#5 = 0xFFFFFFFFFFFFFFFF#64 ∧
    (after base (exec (.div 3#5 1#5 2#5) (regs (-7) 2 0))).x 3#5 = (-3) ∧
    (after base (exec (.rem 3#5 1#5 2#5) (regs (-7) 2 0))).x 3#5 = (-1) ∧
    (after base (exec (.remu 3#5 1#5 2#5) (regs 7 0 0))).x 3#5 = 7 := by decide +kernel

/-- Examples of R138 and R139. -/
theorem test_fields :
    (after base (exec (.bfx 4#5 10#5 3#6 8#6) (regs 0 0 0x12345678))).x 4#5 = 6#64 ∧
    (after base (exec (.bfi 10#5 1#5 3#6 4#6) (regs 5 0 0xFFFF0000))).x 10#5 = 0xFFFF0050#64 ∧
    (after base (exec (.mkaddr 3#5 1#5 2#5) (regs 0x513250 0x40 0))).x 3#5 = 0x00008C9620000040#64 := by decide +kernel

theorem witness_addresses :
    2 ^ 23 ≤ ((regs 0x800000 0 0).x 1#5).toNat ∧ 2 ^ 29 ≤ ((regs 0 0x20000000 0).x 2#5).toNat ∧
    resolve 0 0x00008C9620000040#64 1 ≠ none ∧ resolve 0 0x00008C9660000040#64 1 = none ∧
    resolve 65535 0x6000#64 1 = none ∧ resolve 65535 0x5FFF#64 1 = some ⟨4095, 16, 0x5FFF⟩ ∧
    resolve 0 0x00004C0020000000#64 1 = some ⟨0x300, 1, 0⟩ := by decide +kernel

theorem witness_jumps :
    bitOf (Claims.wrap ((regs 0x7FF 0 0).x 1#5).toNat) 0 = true ∧ bitOf (Claims.wrap ((regs 0x800 0 0).x 1#5).toNat) 0 = false ∧
    Claims.registerOnly (.jalr 1#5 1#5 0#12) = some 1#5 ∧ nexts (exec (.jalr 1#5 1#5 0#12) (regs 0x7FF 0 0)) = true := by
  decide +kernel

-- Addresses, loads, stores, CSRs.

namespace Sys2Proof.Tests

/-- x1 holds an address, and the regions give every right to it. -/
def at_ (a : BitVec 64) : State := open_.setX 1#5 a

/-- A load in the window of the context. -/
def load1 : Pending :=
  { id := 7, acc := { ea := 0x40000100#64, key := Mesh.key ⟨0, 2, 0x100⟩, size := 4, act := .read false }, dest := .reg 3#5 true,
    pc0 := 0x40#64, x0 := Vector.replicate 32 5#64, present0 := BitVec.allOnes 32, held := false, performed := false,
    acked := false, value := 0, fail := none }

/-- A packet of the base partition that stands whole at its target in the first cluster. -/
def pkt (id : Nat) (cls : MsgClass) (body : PktBody) : Packet :=
  { id := id, cls := cls, src := 0, dst := 0, agent := 0, pid := 0#12, nflit := 1, body := body,
    path := [{ place := .eject 0, via := .eject, got := 1 }], ready := 0, wx := false, wy := false, escape := false, ordered := false }

/-- The base state with accesses in the window and a packet at its target. -/
def posted (l : List Pending) (p : Packet) : State := { (at_ 0#64).modCx fun x => { x with pending := l } with net := [p] }

/-- That load after it has performed, or has been refused. -/
def load2 (fail : Option (BitVec 8 × BitVec 64)) : Pending := { load1 with performed := true, value := 9, fail := fail }

/-- Whether the answer to a load that has performed or has been refused is back, and the trap of a refused one can be taken. -/
def acknowledged (f : Option (BitVec 8 × BitVec 64)) : Bool :=
  let s := posted [load2 f] (pkt 9 .response (.ack 0 0 7 [9#8, 0#8, 0#8, 0#8]))
  (s.ctxAt 0 0).pending == [load2 f] && !(load2 f).acked && s.answerAt 0 0 7 == some (pkt 9 .response (.ack 0 0 7 [9#8, 0#8, 0#8, 0#8])) &&
    (s.ctxAt 0 0).level == .u && !(s.ctxAt 0 0).olderWork (load2 f)

end Sys2Proof.Tests

theorem witness_checks : resolve 0 0x4FFFFFFFC#64 1 = none ∧ open_.check 0 0x102#64 4 4 [.r] false = .error (trap cAlign 0x102#64) ∧
    (open_.shape 0).hasCluster 1 = false ∧ resolve 0 0x0000800420000000#64 1 = some ⟨1, 1, 0⟩ ∧
    resolve 0 0x0000000240000000#64 8 = some ⟨0, 18, 0⟩ ∧ resolve 0 0x0000000240000800#64 1 = none ∧
    base.check 0 0#64 1 1 [.x] false = .error (trap cProt 0#64) ∧ base.check 0 0x5FFF#64 1 1 [.w] false = .ok ⟨0, 1, 0x5FFF⟩ := by
  decide +kernel

theorem witness_loads : ∀ i ∈ ([.lb 3#5 1#5 0#12, .lh 3#5 1#5 0#12, .lw 3#5 1#5 0#12, .ld 3#5 1#5 0#12, .lbu 3#5 1#5 0#12,
      .lhu 3#5 1#5 0#12, .lwu 3#5 1#5 0#12] : List Instr),
    let s := at_ 0x5FF8#64; s.gate i = .go ∧ (Claims.loadForm i).isSome = true ∧ s.check 0 0x5FF8#64 8 8 [.r] true = .ok ⟨0, 1, 0x5FF8⟩ ∧
      s.cx.storeOverlap (granulesOf (Mesh.key ⟨0, 1, 0x5FF8⟩) 8) = false ∧ ownLocal 0 ⟨0, 1, 0x5FF8⟩ = true ∧
      s.granuleTrap 0 0x5FF8#64 (granulesOf (Mesh.key ⟨0, 1, 0x5FF8⟩) 8) false false = none ∧
      s.eccWord (Mesh.key ⟨0, 1, 0x5FF8⟩) 8 = none := by decide +kernel

theorem witness_load_traps : (at_ 0x6000#64).check 0 0x6000#64 1 1 [.r] false = .error (trap cAddr 0x6000#64) ∧
    ({ at_ 0x100#64 with live := [Mesh.key ⟨0, 1, 0x100⟩] } : State).granuleTrap 0 0x100#64
      (granulesOf (Mesh.key ⟨0, 1, 0x100⟩) 4) false false ≠ none ∧
    ((at_ 0x100#64).modCx fun x => { x with pending :=
      [{ load1 with acc := { load1.acc with key := Mesh.key ⟨0, 1, 0x100⟩, act := .write [] false } }] }).cx.storeOverlap
        (granulesOf (Mesh.key ⟨0, 1, 0x100⟩) 4) = true := by decide +kernel

/-- A write of another core that the context need not see, and one that it must. -/
theorem witness_racy_read :
    let o : OldWrite := { key := Mesh.key ⟨0, 1, 0x100⟩, old := [1#8, 2#8], known := [.thread 5 0], writer := some (5, 0) }
    ({ base with olds := [o] } : State).unseen 0 0 (Mesh.key ⟨0, 1, 0x101⟩) 4 = [o] ∧ OldWrite.undo (Mesh.key ⟨0, 1, 0x101⟩) [0#8, 0#8] o = [2#8, 0#8] ∧
    ({ base with olds := [{ o with known := [.thread 0 0] }] } : State).unseen 0 0 (Mesh.key ⟨0, 1, 0x101⟩) 4 = [] := by decide +kernel

theorem witness_control_window :
    (at_ 0x0000000240000408#64).check 0 0x0000000240000408#64 8 8 [.r] true = .ok ⟨0, 18, 0x408⟩ ∧
    (at_ 0x0000000240000004#64).check 0 0x0000000240000004#64 4 4 [.r] true = .ok ⟨0, 18, 4⟩ ∧
    (at_ 0x0000000240000004#64).gate (.lbu 3#5 1#5 0#12) = .go := by decide +kernel

theorem witness_stores : ∀ i ∈ ([.sb 1#5 2#5 0#12, .sh 1#5 2#5 0#12, .sw 1#5 2#5 0#12, .sd 1#5 2#5 0#12] : List Instr),
    let s := at_ 0x5FF8#64; s.gate i = .go ∧ (Claims.storeForm i).isSome = true ∧ s.check 0 0x5FF8#64 8 8 [.w] false = .ok ⟨0, 1, 0x5FF8⟩ ∧
      s.granuleTrap 0 0x5FF8#64 (granulesOf (Mesh.key ⟨0, 1, 0x5FF8⟩) 8) true false = none := by decide +kernel

/-- A store writes its bytes at the address of R145, the least significant first. -/
theorem test_store : let t := after base (exec (.sd 1#5 2#5 0xFF8#12) ((at_ 0x1000#64).setX 2#5 0x1122334455667788#64))
    memGet t.mem (Mesh.key ⟨0, 1, 0xFF8⟩) = 0x88#8 ∧ memGet t.mem (Mesh.key ⟨0, 1, 0xFFF⟩) = 0x11#8 := by decide +kernel

theorem witness_posted : let s := at_ 0x40000100#64
    s.gate (.lw 3#5 1#5 0#12) = .go ∧ s.gate (.sw 1#5 2#5 0#12) = .go ∧
    s.check 0 0x40000100#64 4 4 [.r] true = .ok ⟨0, 2, 0x100⟩ ∧ s.check 0 0x40000100#64 4 4 [.w] false = .ok ⟨0, 2, 0x100⟩ ∧
    ownLocal 0 ⟨0, 2, 0x100⟩ = false ∧ s.cx.pending.length < 4 ∧ s.roomFor 0 load1.acc = true ∧
    (let u := s.modCx fun x => { x with pending := [load1, load1, load1, load1] };
      4 ≤ u.cx.pending.length ∧ u.cx.storeOverlap (granulesOf (Mesh.key ⟨0, 2, 0x100⟩) 4) = false ∧
      u.gate (.lw 4#5 1#5 0#12) = .go) ∧
    (let a := { load1.acc with key := Mesh.key ⟨1, 2, 0x100⟩ };
      let q := { pkt 3 .request (.access 0 0 3 0 []) with dst := 1, path := [{ place := .inject 0, via := .eject, got := 1 }] };
      ({ s with net := List.replicate 4 q } : State).roomFor 0 a = false) := by decide +kernel

theorem witness_performed :
    (let s := posted [load1] (pkt 9 .request (.access 0 0 7 0 []));
      (s.ctxAt 0 0).pending = [load1] ∧ load1.acc.key = (meshOfKey load1.acc.key).key ∧ load1.performed = false ∧ load1.held = false ∧
      s.accessAt 0 0 7 = some (pkt 9 .request (.access 0 0 7 0 [])) ∧ s.answerRoom 0 load1 = true ∧
      s.granuleTrap 0 load1.acc.ea (granulesOf load1.acc.key 4) false false = none ∧ s.eccWord load1.acc.key 4 = none ∧
      (let u := { s with live := granulesOf load1.acc.key 4 }; u.granuleTrap 0 load1.acc.ea (granulesOf load1.acc.key 4) false false ≠ none) ∧
      (let u := s.setCtxAt 1 0 { Ctx.reset 0 with starting := true }; u.unstarted (meshOfKey load1.acc.key) = true)) ∧
    acknowledged none ∧ acknowledged (some (cRace, 0x40000100#64)) := by decide +kernel

/-- The load comes back with its value, sign-extended. -/
theorem test_posted : let s := posted [{ load2 none with value := 0xFFFFFFFE }] (pkt 9 .response (.ack 0 0 7 [9#8, 0#8, 0#8, 0#8]))
    (after s (execRemoteAck 0 0 7 s)).x 3#5 = 0xFFFFFFFFFFFFFFFE#64 := by decide +kernel

theorem witness_frames : nexts (exec (.lw 3#5 1#5 0#12) (at_ 0x100#64)) = true ∧ nexts (exec (.sw 1#5 2#5 0#12) (at_ 0x101#64)) = true ∧
    nexts (exec (.add 3#5 1#5 2#5) base) = true := by decide +kernel

theorem witness_csr :
    (∀ i ∈ ([.csrrw 3#5 1#5 0x001#12, .csrrs 3#5 1#5 0x001#12, .csrrc 3#5 0#5 0x003#12, .csrrwi 3#5 0x031#12 7#5, .csrrsi 3#5 0x301#12 0#5,
      .csrrci 3#5 0x301#12 1#5] : List Instr), kernel.gate i = .go ∧ (Claims.csrForm kernel i).isSome = true) ∧
    Claims.csrRow 0x001 = some (.rw, .rw, false) ∧ Claims.csrRow 0x30F = some (.none, .rw, false) ∧
    Claims.csrRow 0x003 = some (.r, .r, true) ∧ Claims.column kernel .none .rw = .rw ∧ Claims.column base .none .rw = .none ∧
    Claims.csrRow 0x006 = none ∧ Claims.csrRow 0x310 = none ∧ Claims.csrRow 0xFFF = none ∧
    Claims.csrRow 0x022 = some (.r, .rw, false) ∧ Claims.column base .r .rw = .r := by decide +kernel

theorem witness_csr_control : (helper 1).inHelper = true ∧ Claims.controlCsr 0x13B ∧ ¬ Claims.controlCsr 0x308 ∧
    Claims.csrMap base 0x000 0x1FF#64 = some 0x1F#64 ∧ Claims.csrMap base 0x020 0x100000#64 = some 1#64 := by
  unfold Claims.controlCsr; decide +kernel

-- Numbers and floating point.

theorem witness_numbers : Claims.Exact (.fin true 3 (-1) false) ∧ fp64 ∈ Claims.formats ∧ e2m1 ∈ Claims.formats ∧
    ((0#3 : BitVec 3).toNat ≤ 5 ∧ (5#3 : BitVec 3).toNat ≤ 5) :=
  ⟨rfl, List.mem_cons_self, by simp [Claims.formats], by decide⟩

theorem witness_signs : Claims.rat (.fin false 4 0 false) ≠ 0 ∧ Claims.rat (.fin true 4 0 false) < 0 ∧
    Claims.rat (.fin true 0 5 false) = 0 ∧ 0 < Claims.rat (.fin false 4 0 false) := by
  simp [Claims.rat]

/-- In RNE 2.5 rounds to 2 in E2M1, overflow saturates or not, and 0.25 underflows to 0 (Tables 3-2, 3-7 and 3-9). -/
theorem test_rounding : let r : Rnd := { mode := 0#3, seed := 0#64, j := 0#64 }
    roundTo e2m1 false r (.fin false 5 (-1) false) = { code := 4, fl := flgNX } ∧
    (roundTo fp32 false r (.fin true 1 128 false)).code = 0xFF800000 ∧
    (roundTo fp32 true r (.fin true 1 128 false)).code = 0xFF7FFFFF := by decide +kernel

namespace Sys2Proof.Tests

def floats1 : List Instr := [.fadd 3#5 1#5 2#5 0#1 0#3, .fsub 3#5 1#5 2#5 1#1 1#3, .fmul 3#5 1#5 2#5 0#1 2#3, .fdiv 3#5 1#5 2#5 0#1 3#3,
  .fsqrt 3#5 1#5 0#1 4#3, .fmadd 3#5 1#5 2#5 4#5 0#1 5#3, .fmsub 3#5 1#5 2#5 4#5 0#1 7#3, .fnmadd 3#5 1#5 2#5 4#5 0#1 0#3,
  .fnmsub 3#5 1#5 2#5 4#5 0#1 0#3, .fmin 3#5 1#5 2#5 0#1, .fmax 3#5 1#5 2#5 0#1, .fadd16 1#5 2#5, .fsub16 1#5 2#5, .fmul16 1#5 2#5,
  .fmax16 1#5 2#5]
def floats2 : List Instr := [.fsgnj 3#5 1#5 2#5 0#1, .fsgnjn 3#5 1#5 2#5 0#1, .fsgnjx 3#5 1#5 2#5 1#1,
  .fcvtFloatFloat 3#5 1#5 0#2 1#1 3#2 0#3, .fcvtIntFloat 3#5 1#5 2#2 1#2 0#3, .fmvf 3#5 1#5 2#2]
def floats3 : List Instr := [.flt 3#5 1#5 2#5 0#1, .fle 3#5 1#5 2#5 0#1, .feq 3#5 1#5 2#5 0#1, .fclass 3#5 1#5 0#1, .fmvx 3#5 1#5 1#2,
  .fcvtFloatInt 3#5 1#5 0#2 1#1 3#2 1#3]

/-- The base state, with the vector unit's turn at its core, and an instruction as the oldest of its queue. -/
def queued (i : Instr) : State := (base.modQuad 0 fun u => { u with vecLast := 3 }).modCx fun x =>
  { x with queue := [{ ins := i, pc := x.pc, lathe := none, seq := 0 }] }

theorem runs_modCx (s : State) (f : Ctx → Ctx) (c : Nat) : (s.modCx f).runs c = s.runs c := rfl

theorem cycleOf_modCx (s : State) (f : Ctx → Ctx) {c : Nat} (h : s.cur.1 = c) : (s.modCx f).cycleOf c = s.cycleOf c := by
  subst h
  have e : (s.modCx f).core s.cur.1 = { s.core s.cur.1 with ctxs := amSet (s.core s.cur.1).ctxs s.cur.2 (f s.cx) } := by
    simp [State.modCx, State.setCx, State.setCtxAt]
  unfold State.cycleOf
  rw [e]
  rfl

theorem vecTurn_queued (i : Instr) : (queued i).vecTurn 0 = true := by
  have hq : (queued i).quad (quadOf 0) = (base.modQuad 0 fun u => { u with vecLast := 3 }).quad 0 := rfl
  have hc : (queued i).cycleOf 0 = 0 := (cycleOf_modCx _ _ (by decide +kernel)).trans (by decide +kernel)
  simp only [State.vecTurn, hq, hc, Bool.and_eq_true]
  refine ⟨by decide +kernel, ?_⟩
  rw [show ((List.range 4).map fun j => quadOf 0 * 4 +
      (((base.modQuad 0 fun u => { u with vecLast := 3 }).quad 0).vecLast + 1 + j) % 4).takeWhile (fun d => d != 0) = [] by
    decide +kernel]
  rfl

theorem oldest_queued (i : Instr) : Claims.Oldest (queued i) i := by
  refine ⟨rfl, .inl ?_, rfl, ?_, _, _, rfl, rfl⟩
  · rw [queued, runs_modCx]
    exact (by decide +kernel : (base.modQuad 0 fun u => { u with vecLast := 3 }).runs 0 = true)
  · exact Bool.or_eq_true_iff.mpr (.inr (vecTurn_queued i))

end Sys2Proof.Tests

theorem witness_floats :
    (∀ i ∈ floats1 ++ floats2 ++ floats3, (helper 1).gate i = .go ∧ base.gate i = .go ∧ (helper 1).inHelper = true ∧
      base.cx.touchesPort i = false ∧ i.queued = true) ∧
    (∀ i ∈ floats1, (Claims.fpArith base i).isSome = true) ∧ (∀ i ∈ floats2, (Claims.fpMove base i).isSome = true) := by
  decide +kernel

/-- Values that a conversion to W takes, one above the range and a NaN. -/
theorem witness_conversion :
    fp32.decode 0x4F000000 = .fin false 0x800000 8 false ∧ fp32.decode 0xCF000000 = .fin true 0x800000 8 false ∧
    fp32.decode 0x7FC00000 = .nan false ∧ (Claims.rounding base 5#3).mode.toNat ≤ 5 := by decide +kernel

theorem test_floats :
    (after base (exec (.fadd 3#5 1#5 2#5 0#1 0#3) ((helper 1).modCx fun x => (x.setF 1#5 0x3F800000#64).setF 2#5 0x40000000#64))).cx.fr 3#5
      = 0x40400000#64 ∧
    (after base (exec (.fcvtFloatInt 10#5 1#5 0#2 1#1 0#2 1#3) ((helper 1).modCx fun x => x.setF 1#5 0xC0200000#64))).x 10#5
      = 0xFFFFFFFFFFFFFFFE#64 := by decide +kernel

-- Vectors, the queue, the lathe and streams.

namespace Sys2Proof.Tests

/-- A v register with FP32 ones. -/
def ones : VReg := { data := BitVec.ofNat 512 ((List.range 16).map fun j => 0x3F800000 * 2 ^ (32 * j)).sum, tag := 7#4, side := 0#64 }

/-- Helper 1 with two v registers of a tag. -/
def lanes_ (tag : BitVec 4) : State :=
  (helper 1).modCx fun x => ((x.setV 1#5 { ones with tag := tag }).setV 2#5 { ones with tag := tag }).setV 3#5 { ones with tag := tag }

def vectors1 : List Instr := [.vadd 3#5 1#5 2#5 0#3, .vsub 3#5 1#5 2#5 7#3, .vmul 3#5 1#5 2#5 0#3, .vadd16 1#5 2#5, .vsub16 1#5 2#5,
  .vmul16 1#5 2#5, .vmin 3#5 1#5 2#5, .vmax 3#5 1#5 2#5, .vand 3#5 1#5 2#5, .vor 3#5 1#5 2#5, .vxor 3#5 1#5 2#5]
def vectors2 : List Instr := [.vcmp 3#5 1#5 2#5 3#3, .vabs 3#5 1#5, .vneg 3#5 1#5, .vcvt 3#5 1#5 1#1 1#4 0#3,
  .vslideUp 3#5 1#5 2#5, .vslideDown 3#5 1#5 2#5, .vbcastX 3#5 1#5, .vbcastF 3#5 1#5, .vmov 3#5 1#5, .vtag 3#5 1#5 13#4,
  .vsideWrite 3#5 1#5]
def vectors3 : List Instr := [.vfma 3#5 1#5 2#5 1#5 0#3, .vfms 3#5 1#5 2#5 1#5 0#3, .vnfma 3#5 1#5 2#5 1#5 0#3, .vexp2 3#5 1#5,
  .vrcp 3#5 1#5, .vrsq 3#5 1#5, .vqnt 3#5 2#5 0#1 12#4 0#3]
def vectors4 : List Instr := [.vshl 3#5 1#5 2#5, .vshr 3#5 1#5 2#5, .vsra 3#5 1#5 2#5, .vsel 3#5 1#5 2#5 1#5, .vperm 3#5 1#5 2#5]
def vectors6 : List Instr := [.vcmp 3#5 1#5 2#5 5#3, .vshuf 3#5 1#5 2#5]
def vectors5 : List Instr := [.vredAdd 3#5 1#5 0#3, .vredMin 3#5 1#5, .vredMax 3#5 1#5, .vdot 3#5 1#5 2#5 0#3, .vmvf 3#5 1#5 2#5]

/-- Whether a form is the claim's, with its tags right or wrong as said. -/
def isVec (ok : Bool) (s : State) (i : Instr) : Bool :=
  match Claims.vecForm s i with
  | some (_, k, _) => k == ok && decide (s.gate i = .go)
  | none => match Claims.scalarForm s i with
    | some (_, k, _) => k == ok && decide (s.gate i = .go)
    | none => false

end Sys2Proof.Tests

theorem witness_vectors : (∀ i ∈ vectors1 ++ vectors3 ++ vectors5, isVec true (lanes_ 7#4) i = true) ∧
    (∀ i ∈ vectors2, isVec true (lanes_ 7#4) i = true) ∧
    (∀ i ∈ vectors4 ++ vectors6, isVec true (lanes_ 1#4) i = true) ∧
    isVec true (lanes_ 12#4) (.vdqnt 3#5 1#5 8#4 0#3) = true := by decide +kernel

theorem witness_vector_formats : (∀ i ∈ vectors1 ++ vectors4, isVec false (lanes_ 14#4) i = true) ∧
    isVec false (lanes_ 4#4) (.vexp2 3#5 1#5) = true ∧ tagOk 15#4 = false ∧ tagOk 13#4 = true ∧
    base.cx.touchesPort (.vmvx 3#5 1#5 2#5) = false ∧ (helper 1).gate (.vsideRead 3#5 1#5) = .go := by decide +kernel

/-- 1 + 1 = 2 in every FP32 lane. -/
theorem test_vadd : ((after base (exec (.vadd 3#5 1#5 2#5 0#3) (lanes_ 7#4))).cx.vr 3#5).data =
    BitVec.ofNat 512 ((List.range 16).map fun j => 0x40000000 * 2 ^ (32 * j)).sum := by decide +kernel

theorem witness_quantise : (∃ x ∈ [Num.inf false], ¬ Claims.Exact x ∧ (x.isNan = true ∨ x.isInf = true)) ∧
    (∃ x ∈ [Num.fin false 1 0 false], Claims.Exact x ∧ Claims.rat x ≠ 0) ∧ (List.replicate 32 Num.zero).length = 32 := by
  simp [Claims.Exact, Claims.rat, Num.isInf]

namespace Sys2Proof.Tests

def moves1 : List Instr := [.flh 3#5 1#5 0#12, .flw 3#5 1#5 0#12, .fld 3#5 1#5 0#12, .vld 3#5 1#5 7#4 0#8, .vldb 3#5 1#5 0#12]
def moves2 : List Instr := [.fsh 1#5 2#5 0#12, .fsw 1#5 2#5 0#12, .fsd 1#5 2#5 0#12, .vst 1#5 2#5 0#8]

/-- Helper 1 with an address in x1, a stride in x2, every right and an index vector in v2. -/
def mover (a : BitVec 64) : State :=
  ((open_.setCtxAt 0 1 { Ctx.reset 1 with pc := base.cx.pc, live := true }).at 0 1).modCx fun x =>
    ((x.setX 1#5 a).setX 2#5 64#64).setV 2#5 { ones with data := 0#512, tag := 1#4 }

end Sys2Proof.Tests

theorem witness_queued_moves : let s := mover 0x5FC0#64; let m : Mesh := ⟨0, 1, 0x5FC0⟩
    (∀ i ∈ moves1, s.gate i = .go ∧ (Claims.queuedLoad s i).isSome = true ∧ (Claims.memTags s i).1 = true) ∧
    (∀ i ∈ moves2, s.gate i = .go ∧ (Claims.queuedStore s i).isSome = true ∧ (Claims.memTags s i).1 = true) ∧
    s.check 0 0x5FC0#64 64 64 [.r] false = .ok m ∧ s.check 0 0x5FC0#64 64 64 [.w] false = .ok m ∧
    s.granuleTrap 0 0x5FC0#64 (granulesOf m.key 64) true false = none ∧ s.eccWord m.key 64 = none ∧
    (Claims.memTags s (.vld 3#5 1#5 14#4 0#8)).1 = false ∧ s.check 0 0x5F88#64 64 64 [.r] false = .error (trap cAlign 0x5F88#64) := by
  decide +kernel

theorem witness_strided : let s := mover 0x5F00#64
    (∀ i ∈ ([.vlds 3#5 1#5 2#5 3#2 7#4, .vsts 2#5 1#5 2#5 3#2, .vgather 3#5 1#5 2#5 0#2 1#4, .vscatter 2#5 1#5 2#5 0#2] : List Instr),
      s.gate i = .go ∧ (Claims.chunks s i).isSome = true ∧ (Claims.memTags s i).1 = true) ∧
    fld s.cx.pidx 0 7 = 0 ∧ s.check 0 0x5F00#64 8 8 [.w] false = .ok ⟨0, 1, 0x5F00⟩ ∧
    s.granuleTrap 0 0x5F00#64 (granulesOf (Mesh.key ⟨0, 1, 0x5F00⟩) 8) true false = none ∧
    s.check 0 0x6000#64 8 8 [.w] false = .error (trap cAddr 0x6000#64) ∧
    (Claims.memTags s (.vgather 3#5 1#5 2#5 0#2 14#4)).1 = false := by decide +kernel

theorem witness_drain : let s := queued (.fadd 3#5 1#5 2#5 0#1 0#3)
    s.runs 0 = true ∧ (s.ctxAt 0 0).pending = [] ∧ (∃ e q, (s.ctxAt 0 0).queue = e :: q ∧ q.length ≤ 7) ∧
    (∃ t, runQueued (.fadd 3#5 1#5 2#5 0#1 0#3) (s.at 0 0) = .ok t) :=
  ⟨by decide +kernel, rfl, ⟨_, _, rfl, by decide⟩, ⟨_, rfl⟩⟩

theorem witness_drain_trap : let s := queued (.vadd 3#5 1#5 2#5 0#3)
    (match runQueued (.vadd 3#5 1#5 2#5 0#3) ((s.modCx fun x => x.setV 1#5 { ones with tag := 15#4 }).at 0 0) with
      | .error (t, tr) => decide (tr.cause = cFormat ∧ t.stopping 0 = false ∧ (t.ctxAt 0 0).level = .u ∧ (t.ctxAt 0 0).queue.length = 1)
      | .ok _ => false) = true := by decide +kernel

theorem witness_reissue : let s := (State.reset.withFetchWord 32 0x002E109F).modCx fun x => { x with resume := [x.pc, 2#64] }
    (s.ctxAt 0 0).queue = [] ∧ (s.ctxAt 0 0).resume = [s.cx.pc, 2#64] ∧ s.runs 0 = true ∧
    (match s.fetch 0 0 s.cx.pc with | .ok (_, i) => i == .fadd 1#5 1#5 2#5 0#1 7#3 | .error _ => false) = true := by decide +kernel

namespace Sys2Proof.Tests

/-- A repetition of one FADD at an iteration of 8. -/
def repeating (it : Nat) : State := base.modCx fun x =>
  { x with lstat := word (2 ^ 12), liter := word (7 * 2 ^ 32 + it), body := [(.fadd 3#5 1#5 2#5 0#1 0#3, x.pc)] }

end Sys2Proof.Tests

theorem witness_lathe :
    (let s := (State.reset.withFetchWord 32 0x0702002B); s.gate (.frepi 7#8 0#4) = .go ∧ s.gate (.frep 3#5 15#4) = .go ∧
      (match s.fetchBody 0 1 (s.cx.pc + 4#64) with | .ok (_, b) => decide (b.length = 1) | .error _ => false) = true) ∧
    (∀ it ∈ [0, 7], let s := repeating it; s.runs 0 = true ∧ s.dutyOk 0 = true ∧ (s.ctxAt 0 0).live = true ∧
      bitOf (s.ctxAt 0 0).lstat 12 = true ∧ (s.ctxAt 0 0).body[0]? = some (.fadd 3#5 1#5 2#5 0#1 0#3, s.cx.pc) ∧
      (s.ctxAt 0 0).queue.length < 8 ∧ fld (s.ctxAt 0 0).liter 32 32 = 7) ∧
    (Instr.add 1#5 2#5 3#5).queued = false ∧ (Instr.vadd 16#5 0#5 0#5 0#3).illegalReg false = true := by decide +kernel

namespace Sys2Proof.Tests

/-- The port of the example of R170: BASE = %spad(0x100), counts 4 and 2, strides 4 and 64, words. -/
def port : Port :=
  { Port.zero with ctl := word (1 * 8 + 2 * 32), base := 0x220000100#64,
                   b := (Port.zero.b.set 0 3#64).set 1 1#64, st := (Port.zero.st.set 0 4#64).set 1 64#64 }

/-- That port 0 bound to an f register in the control context, as a read or a write port. -/
def streaming (r : Nat) (wr : Bool) : State := open_.modCx fun x => x.setPort 0
  { port with ctl := word (1 * 8 + 2 * 32 + (if wr then 2 ^ 12 else 0) + 2 ^ 13 + r * 2 ^ 15) }

end Sys2Proof.Tests

/-- The example of R170. -/
theorem test_pattern : port.total = 8 ∧ ((List.range 8).map port.address) =
    [0x220000100#64, 0x220000104#64, 0x220000108#64, 0x22000010C#64, 0x220000140#64, 0x220000144#64, 0x220000148#64,
     0x22000014C#64] := by decide +kernel

theorem witness_patterns_digits : (∀ d : Fin 4, ![3, 1, 0, 0] d < fld (port.b.get d) 0 20 + 1) ∧
    (∀ d : Fin 4, fld port.ctl 3 2 < d.val → ![3, 1, 0, 0] d = 0) := by decide +kernel

theorem witness_streams : let s := streaming 4 false
    s.gate (.sbind 5#5 0#1 3#2) = .go ∧ s.gate (.sunbind 0#2) = .go ∧ s.gate (.sskip 1#5 0#2) = .go ∧ s.gate (.ssync 15#4) = .go ∧
    (let u := base.modCx fun x => x.setPort 3 { port with ctl := word (14 * 2 ^ 20) }; 14 ≤ fld (u.cx.port 3).ctl 20 4) ∧
    (s.runs 0 = true ∧ (s.ctxAt 0 0).live = true ∧ bitOf ((s.ctxAt 0 0).port 0).ctl 13 = true ∧
      bitOf ((s.ctxAt 0 0).port 0).ctl 12 = false ∧ ((s.ctxAt 0 0).port 0).fifo.length < 4 ∧
      s.check 0 0x220000100#64 4 4 [.r] false = .ok ⟨0, 17, 0x100⟩ ∧ s.eccWord (Mesh.key ⟨0, 17, 0x100⟩) 4 = none) ∧
    base.check 0 0x220100000#64 4 4 [.r] false = .error (trap cAddr 0x220100000#64) := by decide +kernel

theorem witness_pops : (Claims.Bound (streaming 4 false) 0 4#5 ∧ Claims.Bound (streaming 4 true) 0 4#5) ∧
    ((streaming 4 false).cx.port 0).pos.toNat < ((streaming 4 false).cx.port 0).total ∧
    (let s := (streaming 4 false).modCx fun x => x.setPort 0 { x.port 0 with pos := 8#64 };
      (s.cx.port 0).total ≤ (s.cx.port 0).pos.toNat) ∧ fld ((streaming 4 true).cx.port 0).ctl 5 2 = 2 ∧
    bitOf ((streaming 4 true).cx.port 0).ctl 12 = true ∧
    (streaming 4 true).check 0 0x220000100#64 4 4 [.w] false = .ok ⟨0, 17, 0x100⟩ ∧
    (streaming 4 true).granuleTrap 0 0x220000100#64 (granulesOf (Mesh.key ⟨0, 17, 0x100⟩) 4) true false = none := by
  unfold Claims.Bound; decide +kernel


theorem witness_sent_moves : let s := mover 0x220000100#64; let m : Mesh := ⟨0, 17, 0x100⟩
    (∀ i ∈ ([.fld 3#5 1#5 0#12, .vld 3#5 1#5 7#4 0#8] : List Instr), s.gate i = .go ∧ (Claims.queuedLoad s i).isSome = true) ∧
    s.check 0 0x220000100#64 64 64 [.r] false = .ok m ∧ s.check 0 0x220000100#64 64 64 [.w] false = .ok m ∧ ownLocal 0 m = false ∧
    s.cx.answers = [] ∧ s.cx.used = 0 ∧ s.roomFor 0 (Claims.reads 0x220000100#64 m.key 64) = true ∧
    (let u := s.modCx fun x => { x with answers := [{ value := 7, fail := none }, { value := 0, fail := some (cRace, 1#64) }] };
      Claims.answered u 0 = some { value := 7, fail := none } ∧ Claims.answered u 1 = some { value := 0, fail := some (cRace, 1#64) }) ∧
    Claims.away s (fun _ => m) 0 8 = 8 := by decide +kernel

/-- An FLD from the scratchpad is sent, and completes with its answer. -/
theorem test_sent_moves : let s := mover 0x220000100#64
    let t := after s (execFld 3#5 1#5 0#12 s)
    t.cx.pending.length = 1 ∧ t.net.length = 1 ∧
    (after s (execFld 3#5 1#5 0#12 (s.modCx fun x => { x with answers := [{ value := 7, fail := none }] }))).cx.fr 3#5 = 7#64 := by
  decide +kernel

theorem witness_absent_sources :
    (let s := (repeating 0).modCx fun x => { x with present := 0xFFFFFFDF#32, body := [(.vbcastX 3#5 5#5, x.pc)] };
      (s.ctxAt 0 0).absentReg (.vbcastX 3#5 5#5) = some 5 ∧ (s.ctxAt 0 0).qwait = none ∧ (s.core 0).latheFree ≤ s.cycleOf 0 ∧
      (s.ctxAt 0 0).latheHeld = false ∧ (s.ctxAt 0 0).resume = [] ∧ (s.ctxAt 0 0).refetch = false) ∧
    (let s := base.modCx fun x => { x with present := 0xFFFFFFDF#32, resume := [x.pc] };
      (s.ctxAt 0 0).absentReg (.vbcastX 3#5 5#5) = some 5 ∧ s.dutyOk 0 = true ∧ (s.ctxAt 0 0).queue = []) ∧
    (queued (.vadd 3#5 1#5 2#5 0#3)).vecOpen 0 (.vadd 3#5 1#5 2#5 0#3) = true := by decide +kernel
-- The bit buffer, atomics, fences and barriers.

namespace Sys2Proof.Tests

/-- A bit buffer of a mode with cnt valid bits, pointer and end, and the table of the example of R199 in x1. -/
def bits (mode cnt : Nat) (win : BitVec 64) (ptr stop : Nat) : State :=
  { (open_.modCx fun x => { x.setX 1#5 0x200#64 with
      bbcnt := word (cnt + mode * 128), bbwin := win, bbptr := word ptr, bbend := word stop }) with
    mem := memWrite (memWrite [] (Mesh.key ⟨0, 1, 0x200⟩) 8 0x0062004200210021) (Mesh.key ⟨0, 1, 0x100⟩) 1 0xB4 }

/-- The symbols that n successive BBDECs of two bits read. -/
def symbols : Nat → State → List Nat
  | 0, _ => []
  | n + 1, s => let t := after s (execBbdec 3#5 1#5 1#4 s); (t.x 3#5).toNat :: symbols n t

/-- Place of a byte of the core's own local memory. -/
def own (a : Nat) : Mesh := ⟨0, 1, a⟩

end Sys2Proof.Tests

/-- The example of R199, up to its last symbol. -/
theorem test_bbdec : symbols 5 (bits 0 0 0#64 0x100 0x101) = [2, 3, 1, 2, 1] := by decide +kernel

/-- The example of R200. -/
theorem test_bbemit : let s := (bits 0 0 0#64 0x300 0x400)
    let t := after s (execBbemit 1#5 4#5 ((after s (execBbemit 1#5 2#5 (s.setX 1#5 5#64))).setX 1#5 0x1F#64))
    let u := after s (execBbflush (after s (execBbemit 1#5 0#5 (t.setX 1#5 1#64))))
    memGet t.mem (own 0x300).key = 0xBF#8 ∧ memGet u.mem (own 0x301).key = 0x80#8 ∧ u.cx.bbptr = 0x302#64 := by decide +kernel

theorem witness_bit_reads : let s := bits 0 0 0#64 0x100 0x101
    (∀ i ∈ ([.bbinit 1#5 2#5, .bbget 3#5 31#5, .bbskip 0#5, .bbpeek 3#5 31#5, .bbdec 3#5 1#5 15#4] : List Instr), s.gate i = .go) ∧
    Claims.refill s.cx 1 = 1 ∧ Claims.refill s.cx 32 = 1 ∧ Claims.refill (bits 1 32 0#64 0x100 0x101).cx 32 = 0 ∧
    fld s.cx.bbcnt 7 2 = 0 ∧ s.check 0 0x100#64 1 1 [.r] false = .ok (own 0x100) ∧
    s.granuleTrap 0 0x100#64 [granuleOf (own 0x100).key] false false = none ∧ s.eccWord (own 0x100).key 1 = none ∧
    Claims.byteBits 0xB4#8 = [true, false, true, true, false, true, false, false] ∧
    bitOf ((s.setX 1#5 (word (2 ^ 63))).x 1#5) 63 = true ∧ (s.x 2#5).toNat < (s.x 1#5).toNat ∧
    (bits 2 0 0#64 0x100 0x101).cx.bbcnt.toNat / 128 = 2 ∧
    base.check 0 0x6000#64 1 1 [.r] false = .error (trap cAddr 0x6000#64) ∧
    s.check 0 0x204#64 2 2 [.r] false = .ok (own 0x204) ∧ Claims.numAt s (own 0x204).key 2 = 0x42 ∧
    Claims.numAt s (own 0x208).key 2 % 32 = 0 ∧ s.check 0 0x201#64 2 2 [.r] false = .error (trap cAlign 0x201#64) := by
  decide +kernel

theorem witness_bit_writes : let s := bits 2 7 0#64 0x300 0x301
    s.gate (.bbemit 1#5 31#5) = .go ∧ s.gate .bbflush = .go ∧ s.gate .bbalign = .go ∧
    (Claims.validBits s.cx).length = 7 ∧ fld s.cx.bbcnt 7 2 = 2 ∧ s.cx.bbptr.toNat < s.cx.bbend.toNat ∧
    s.check 0 0x300#64 1 1 [.w] false = .ok (own 0x300) ∧
    s.granuleTrap 0 0x300#64 [granuleOf (own 0x300).key] true false = none ∧
    s.cx.bbend.toNat ≤ s.cx.bbptr.toNat + 1 ∧ fld (bits 1 64 0#64 0x300 0x301).cx.bbcnt 7 2 = 1 ∧
    fld (bits 3 0 0#64 0x300 0x301).cx.bbcnt 7 2 = 3 ∧ fld (bits 2 0 0#64 0x300 0x301).cx.bbcnt 0 7 = 0 ∧
    (bits 2 1 0#64 0x301 0x301).cx.bbend.toNat ≤ (bits 2 1 0#64 0x301 0x301).cx.bbptr.toNat := by decide +kernel

namespace Sys2Proof.Tests

def atomics : List Instr := [.amoswap 3#5 1#5 2#5 1#1 1#1 1#1 0#3, .amoadd 3#5 1#5 2#5 0#1 0#1 0#1 0#3, .amoand 3#5 1#5 2#5 0#1 1#1 1#1 0#3,
  .amoor 3#5 1#5 2#5 1#1 0#1 1#1 0#3, .amoxor 3#5 1#5 2#5 1#1 1#1 0#1 0#3, .amomin 3#5 1#5 2#5 1#1 1#1 1#1 0#3,
  .amomax 0#5 1#5 2#5 1#1 1#1 0#1 0#3, .amominu 3#5 1#5 2#5 1#1 1#1 1#1 7#3, .amomaxu 3#5 1#5 2#5 1#1 1#1 1#1 0#3,
  .amocas 3#5 1#5 2#5 1#1 1#1 1#1 0#3, .amocasQ 10#5 1#5 2#5 1#1 1#1 0#3, .famoadd 3#5 1#5 2#5 1#1 1#1 1#1 0#3]

end Sys2Proof.Tests

theorem witness_atomics : let s := at_ 0x5FF0#64
    (∀ i ∈ atomics, s.gate i = .go ∧ (Claims.atomicForm s i).isSome = true) ∧
    s.check 0 0x5FF0#64 16 16 [.r, .w] false = .ok (own 0x5FF0) ∧ s.check 0 0x5FF0#64 8 8 [.r, .w] false = .ok (own 0x5FF0) ∧
    (at_ 0x5FE8#64).check 0 0x5FE8#64 16 16 [.r, .w] false = .error (trap cAlign 0x5FE8#64) ∧
    s.granuleTrap 0 0x5FF0#64 (granulesOf (own 0x5FF0).key 16) true true = none ∧ s.eccWord (own 0x5FF0).key 16 = none ∧
    ({ s with live := [granuleOf (own 0x5FF0).key] } : State).granuleTrap 0 0x5FF0#64 (granulesOf (own 0x5FF0).key 8) true true
      ≠ none := by decide +kernel

/-- AMOCAS.D and AMOMIN.W at -1. -/
theorem test_atomics : let s := { at_ 0x100#64 with mem := memWrite [] (own 0x100).key 8 0xFFFFFFFF }
    (after s (execAmomin 3#5 1#5 2#5 0#1 0#1 0#1 0#3 (s.setX 2#5 5#64))).x 3#5 = -1 ∧
    memGet (after s (execAmocas 3#5 1#5 2#5 0#1 0#1 1#1 0#3 ((s.setX 2#5 5#64).setX 3#5 0xFFFFFFFF#64))).mem (own 0x100).key = 5#8 := by
  decide +kernel

theorem witness_fences : let s := at_ 0x5FF8#64
    (∀ i ∈ ([.fence 0#8, .fence 0xFF#8, .ldaq 3#5 1#5 3#2 0#3, .strl 1#5 2#5 3#2 0#3] : List Instr), s.gate i = .go) ∧
    s.check 0 0x5FF8#64 8 8 [.r] false = .ok (own 0x5FF8) ∧ s.check 0 0x5FF8#64 8 8 [.w] false = .ok (own 0x5FF8) ∧
    s.granuleTrap 0 0x5FF8#64 (granulesOf (own 0x5FF8).key 8) false true = none ∧ s.eccWord (own 0x5FF8).key 8 = none ∧
    s.granuleTrap 0 0x5FF8#64 (granulesOf (own 0x5FF8).key 8) true true = none ∧
    base.check 0 0x6000#64 8 8 [.w] false = .error (trap cAddr 0x6000#64) := by decide +kernel

/-- Masks: core 0 is of the quad of core 3, not of core 4; the pod's mask has every observer. The release reaches what the
context knows within its mask, and the read synchronises. -/
theorem witness_masks : let s := at_ 0x5FF8#64; let p := own 0x5FF8
    Claims.Observes 1#8 0 3 ∧ ¬ Claims.Observes 1#8 0 4 ∧ Claims.Observes 2#8 0 15 ∧ Claims.Observes 0xFF#8 0 4096 ∧
    Claims.Reaches 1#8 0 (Mesh.key ⟨0, 4, 0⟩) ∧ ¬ Claims.Reaches 1#8 0 (Mesh.key ⟨0, 5, 0⟩) ∧
    BitVec.ofNat 8 (fld s.cx.obs 0 8) = 0xFF#8 ∧ ownLocal 0 p = true ∧ nexts (exec (.strl 1#5 2#5 3#2 0#3) s) = true ∧
    nexts (exec (.ldaq 3#5 1#5 3#2 0#3) s) = true ∧ nexts (exec (.fence 1#8) s) = true := by
  unfold Claims.Observes Claims.Reaches; decide +kernel

/-- A core of the reader's quad that released is heard, one of another quad is not. -/
theorem test_masks : let e (o : Nat) : OldWrite := { key := 0, old := [0#8], known := [.cell (own 0x5FF8).key 8 o 1#8], writer := none }
    let knows (o : Nat) := ((after base (execLdaq 3#5 1#5 3#2 0#3 { at_ 0x5FF8#64 with olds := [e o] })).olds.any
      fun w => w.known.any fun k => k == .thread 0 0)
    knows 3 = true ∧ knows 4 = false := by decide +kernel

theorem witness_remote_synchronisation : let s := at_ 0x220000100#64; let m : Mesh := ⟨0, 17, 0x100⟩
    (∀ i ∈ ([.amoadd 3#5 1#5 2#5 1#1 1#1 1#1 0#3, .ldaq 3#5 1#5 3#2 0#3, .strl 1#5 2#5 3#2 0#3] : List Instr), s.gate i = .go) ∧
    s.check 0 0x220000100#64 8 8 [.r, .w] false = .ok m ∧ s.check 0 0x220000100#64 8 8 [.r] false = .ok m ∧
    s.check 0 0x220000100#64 8 8 [.w] false = .ok m ∧ ownLocal 0 m = false ∧
    s.roomFor 0 { ea := 0x220000100#64, key := m.key, size := 8, act := .read true, mask := 1#8 } = true ∧
    Claims.obsField (.amoadd 3#5 1#5 2#5 1#1 1#1 1#1 0#3) = some 0#3 := by decide +kernel

namespace Sys2Proof.Tests

/-- Cores of the base cluster with their arrival at network 6 made. -/
def arrivals (l : List Nat) : State :=
  l.foldl (fun s c => s.modCore c fun k => { k with barArr := k.barArr ||| 64#7 }) base

def bars : List Instr := [.bar 6#4, .bararr 6#4, .barwait 6#4]

/-- A context that waits for a phase of network 6. -/
def barWaiting (ph : Nat) : State := base.modCx fun x => { x with wait := some { kind := .barrier 6 ph, tval := 6#64, since := 0 } }

end Sys2Proof.Tests

theorem witness_barriers : let last := arrivals ((List.range 15).map (· + 1))
    (∀ i ∈ bars, base.gate i = .go ∧ last.gate i = .go ∧ (arrivals [0]).gate i = .go ∧ (barWaiting 0).gate i = .go) ∧
    (0 ∈ base.group 0 6 ∧ (base.group 0 6).Nodup ∧ 0 ∈ base.group 0 0) ∧
    (base.barWaitOn 6 = none ∧ Claims.inPhase base 0 6 = true ∧ Claims.arrived base 0 6 = false) ∧
    Claims.arrived (arrivals [0]) 0 6 = true ∧ (¬ ∀ d ∈ base.group 0 6, d ≠ 0 → Claims.inPhase base d 6 = true → Claims.arrived base d 6 = true) ∧
    ((∀ d ∈ last.group 0 6, d ≠ 0 → Claims.inPhase last d 6 = true → Claims.arrived last d 6 = true) ∧ ¬ (last.podPeers 0 = true)) ∧
    (let s := (barWaiting 0).modCore 0 fun k => { k with barPhase := k.barPhase.set 6 1 };
      s.barWaitOn 6 = some 0 ∧ 0 < Claims.phaseOf s 0 6) ∧
    Claims.inPhase (base.modCore 0 fun k => { k with barPart := 0#7 }) 0 6 = false := by decide +kernel

namespace Sys2Proof.Tests

/-- x1 names a barrier with a status word, x2 and x3 hold operands. -/
def tbar (live : Bool) (err ovr ph arem aexp pend : Nat) (b c : BitVec 64) : State :=
  let w := (if live then 2 ^ 63 else 0) + err * 2 ^ 62 + ovr * 2 ^ 61 + ph * 2 ^ 60 + arem * 2 ^ 44 + aexp * 2 ^ 32 + pend
  { ((at_ 0x100#64).setX 2#5 b).setX 3#5 c with
    live := if live then [granuleOf (own 0x100).key] else [], mem := memWrite [] (own 0x100).key 8 w }

def tbs : List Instr := [.tbinit 1#5 2#5 3#5, .tbexp 1#5 2#5 3#5, .tbarr 1#5, .tbwait 4#5 1#5, .tbtest 4#5 1#5, .tbact 1#5 2#5, .tbretire 1#5]

end Sys2Proof.Tests

theorem witness_transfer_barriers :
    (∀ i ∈ tbs, (tbar true 0 0 0 1 1 0 0#64 0#64).gate i = .go) ∧
    (let s := tbar false 0 0 0 0 0 0 0x7FFFFFFF#64 4095#64; let m := own 0x100;
      s.cur ∉ s.tbWaiters m.key ∧ s.check 0 0x100#64 16 16 [.r, .w] false = .ok m ∧ m.cluster = clusterOf 0 ∧
      s.granuleTrap 0 0x100#64 [granuleOf m.key] true false = none ∧ s.isLive m.key = false ∧
      (s.x 2#5).toNat < 2 ^ 31 ∧ (s.x 3#5).toNat < 4096 ∧ 2 ^ 31 ≤ ((s.setX 2#5 0x80000000#64).x 2#5).toNat ∧
      4096 ≤ ((s.setX 3#5 4096#64).x 3#5).toNat) ∧
    (let w := fun s : State => s.tbWord (own 0x100).key;
      let a := tbar true 0 0 0 1 1 0 0#64 0#64; let b := tbar true 0 0 0 1 1 1 0x7FFFFFFF#64 0#64;
      let c := tbar true 0 0 1 0 1 0xFFFFFFFF 0#64 0#64; let d := tbar true 0 0 0 4095 4095 5 0#64 1#64;
      a.isLive (own 0x100).key = true ∧ fld (w a) 44 12 = 1 ∧ Claims.pendOf (w a) = 0 ∧ 0 < Claims.pendOf (w b) ∧
      2 ^ 31 ≤ Claims.pendOf (w b) + ((b.x 2#5).toNat : Int) ∧ fld (w c) 44 12 = 0 ∧ Claims.pendOf (w c) = -1 ∧
      4096 ≤ fld (w d) 44 12 + (d.x 3#5).toNat ∧ a.actionOk 0#64 = true ∧ a.actionOk 0xFF00000000000000#64 = false ∧
      (({ a with live := granuleOf (own 0x100).key :: a.live }).check 0 0x100#64 16 16 [.r, .w] false = .ok (own 0x100))) := by
  decide +kernel

/-- The one arrival that remains flips the phase. -/
theorem test_tbarr : let s := tbar true 0 0 0 1 1 0 0#64 0#64
    fld ((after s (execTbarr 1#5 s)).tbWord (own 0x100).key) 60 4 = 9 := by decide +kernel
-- Presence, messages, helpers, the deque, slot rings and the issue of transfers.

namespace Sys2Proof.Tests

/-- The base state in a partition of two clusters, values in x1, x2 and x3. -/
def wide (a b c : BitVec 64) : State :=
  let s := { open_.modCore 0 fun k => { k with pshape := 0x10100#64 } with parts := open_.parts.map fun (e : Nat × Part) => (e.1, { e.2 with rect := 0x0100#16 }) }
  ((s.setX 1#5 a).setX 2#5 b).setX 3#5 c

/-- A request packet of the partition that stands at its target. -/
def request (body : PktBody) : Packet := { pkt 7 .request body with pid := (wide 0 0 0).pidAt 0 }

/-- A state with one packet that stands at its target. -/
def arrived_ (body : PktBody) : State := { wide 0 0 0 with net := [request body] }

/-- A core with a message ring of 64 bytes. -/
def ring64 (s : State) (c head tail : Nat) : State := s.modCore c fun k =>
  { k with mrbase := 0x5FC0#64, mrsize := 6#64, mrhead := word head, mrtail := word tail }

def event0 : HelperEvent :=
  { pc := 64#64, a0 := 1#64, a1 := 2#64, uicause := 3#64, uival := 4#64, uixfer := 5#64, row := none, record := none,
    source := 1, entered := 0 }

/-- Sixteen queued events on a core. -/
def busy (s : State) (c n : Nat) : State := s.modCore c fun k => { k with events := List.replicate n event0 }

/-- A packet that is the only one of a list stands at its target. -/
theorem atTarget_arrived (body : PktBody) : Claims.AtTarget (arrived_ body) 7 (request body) :=
  ⟨List.mem_singleton.mpr rfl, rfl, rfl, Nat.zero_le _, fun h => absurd h Bool.false_ne_true, fun _ hq _ => List.mem_singleton.mp hq⟩

end Sys2Proof.Tests

theorem witness_sendr : let s := wide 31 7 0
    s.gate (.sendr 1#5 2#5 9#5) = .go ∧ (s.shape 0).coreOf 31 = some 31 ∧ (s.shape 0).coreOf 32 = none ∧
    s.canInject 0 1 0 .request = true ∧ (wide 15 7 0).canInject 0 0 0 .request = true ∧
    (let full := { s with net := List.replicate 4 { pkt 1 .request (.sendr 16 9#5 0#64) with dst := 1, path := [{ place := .inject 0, via := .eject, got := 1 }] } };
      full.canInject 0 1 0 .request = false) ∧
    s.gate (.pclr 31#5) = .go ∧ s.gate (.ptest 3#5 9#5) = .go ∧
    (arrived_ (.sendr 5 9#5 7#64)).pidAt 0 = (request (.sendr 5 9#5 7#64)).pid ∧
    ((arrived_ (.sendr 5 9#5 7#64)).ctxAt 5 0).finished = false ∧ (request (.sendr 5 9#5 7#64)).pid ≠ 9 := by decide +kernel

theorem witness_sendr_arrives : Claims.AtTarget (arrived_ (.sendr 5 9#5 7#64)) 7 (request (.sendr 5 9#5 7#64)) := atTarget_arrived _

/-- The value arrives in its register. -/
theorem test_sendr : ((after base (execSendrArrive 7 (arrived_ (.sendr 5 9#5 7#64)))).ctxAt 5 0).xr 9#5 = 7#64 := by decide +kernel

theorem witness_xmsg : let s := wide 31 0x5FF8 8
    s.gate (.xmsg 1#5 2#5 3#5 1#1) = .go ∧ (s.shape 0).coreOf (s.x 1#5).toNat = some 31 ∧ fld (s.x 3#5) 0 10 = 8 ∧
    fld (s.x 3#5) 10 6 = 0 ∧ s.check 0 0x5FF8#64 8 8 [.r] false = .ok (own 0x5FF8) ∧
    s.granuleTrap 0 0x5FF8#64 (granulesOf (own 0x5FF8).key 8) false false = none ∧ s.eccWord (own 0x5FF8).key 8 = none ∧
    s.check 0 0x5FF8#64 512 8 [.r] false = .error (trap cAddr 0x5FF8#64) ∧ s.canInject 0 1 0 .request = true ∧
    resolve 0 (s.x 2#5) 0 ≠ none ∧ fld (513#64 : BitVec 64) 0 10 = 513 ∧ fld (0x400#64 : BitVec 64) 10 6 = 1 := by decide +kernel

/-- Arrivals that find room, that go round the end of the ring, and that are rejected. -/
theorem witness_xmsg_arrives :
    (let s := ring64 (arrived_ (.xmsg 5 0 true 7#16 8#64 (List.replicate 8 1#8))) 5 0 48;
      Claims.Fits s 5 16 64 ∧ (s.core 5).events.length < 16) ∧
    (let s := ring64 (arrived_ (.xmsg 5 0 false 7#16 8#64 (List.replicate 8 1#8))) 5 48 56;
      (s.core 5).mrsize.toNat ≠ 0 ∧ (s.core 5).mrbase.toNat + 64 ≤ 0x6000 ∧ 64 - (s.core 5).mrtail.toNat % 64 = 8 ∧
      8 + 16 ≤ 64 - ((s.core 5).mrtail.toNat + 2 ^ 64 - (s.core 5).mrhead.toNat) % 2 ^ 32) ∧
    ((wide 0 0 0).core 5).mrsize = 0#64 ∧ 16 ≤ ((busy (wide 0 0 0) 5 16).core 5).events.length ∧
    (List.replicate 512 (0#8 : Byte)).length ≤ 512 ∧ 64 < 8 + (512 + 7) / 8 * 8 := by
  unfold Claims.Fits; decide +kernel

/-- The example of R63's padding: the record that does not fit before the end goes to the start. -/
theorem test_ring_wraps : let s := ring64 (arrived_ (.xmsg 5 0 false 7#16 8#64 (List.replicate 8 0x5A#8))) 5 48 56
    let t := after s (execXmsgArrive 7 s)
    (t.core 5).mrtail = 80#64 ∧ memGet t.mem (Claims.localKey 5 0x5FC8) = 0x5A#8 := by decide +kernel

theorem witness_mailbox :
    (let r : MsgRecord := { off := 0x100, bytes := 16, kind := 0, taken := false, freed := false };
      let s := (wide 0x20000100 0 0).modCore 0 fun k => { k with records := [r] };
      let u := (wide 0x20000100 0 0).modCore 0 fun k => { k with records := [{ r with taken := true }] };
      s.gate (.mtake 3#5) = .go ∧ u.gate (.mfree 1#5) = .go ∧ s.me.nextData = some r ∧
      u.me.records = [{ r with taken := true }] ∧ u.x 1#5 = word ((1 + 0 % 16) * 2 ^ 29 + 0x100) ∧
      s.me.records.Pairwise (fun r q => r.off ≠ q.off)) ∧ base.me.nextData = none ∧ base.me.records = [] := by decide +kernel

namespace Sys2Proof.Tests

/-- Helpers of the list are live. -/
def occupied (l : List Nat) : State :=
  l.foldl (fun s k => s.setCtxAt 0 k { Ctx.reset k with pc := base.cx.pc, live := true }) (wide 64 5 0)

end Sys2Proof.Tests

theorem witness_helpers :
    (∀ s ∈ [occupied [1, 2, 4], occupied [1, 2, 3, 4, 5, 6, 7, 8, 9, 10], busy (occupied []) 0 1], s.gate (.spawn 4#5 1#5 2#5) = .go) ∧
    (let s := occupied [1, 2, 4]; s.me.events = [] ∧ (s.ctxAt 0 3).live = false ∧ (∀ j < 3, 1 ≤ j → (s.ctxAt 0 j).live = true) ∧
      s.gate (.hwait 4#4) = .go ∧ s.gate (.hwait 10#4) = .go ∧ (s.ctxAt 0 10).live = false) ∧
    (∀ h < 11, 1 ≤ h → ((occupied [1, 2, 3, 4, 5, 6, 7, 8, 9, 10]).ctxAt 0 h).live = true) ∧
    (let s := busy (occupied [1]) 0 16; s.runs 0 = true ∧ (s.core 0).events = event0 :: List.replicate 15 event0 ∧
      (s.ctxAt 0 2).live = false) ∧
    ((occupied [2]).at 0 2).gate .hexit = .go ∧ ((occupied [2]).at 0 2).cx.row = none ∧
    ((occupied [2]).at 0 2).gate (.hwait 2#4) = .go := by decide +kernel

theorem test_spawn : let t := after base (execSpawn 4#5 1#5 2#5 (occupied [1, 2, 4]))
    t.x 4#5 = 3#64 ∧ (t.ctxAt 0 3).pc = 64#64 ∧ (t.ctxAt 0 3).xr 10#5 = 5#64 := by decide +kernel

namespace Sys2Proof.Tests

/-- x1 names core 15, whose deque holds two items. -/
def stealing : State := (wide 15 5 0).modCore 15 fun k => { k with deque := [4#64, 6#64] }

end Sys2Proof.Tests

theorem witness_deque : let s := stealing
    (∀ i ∈ ([.dqpush 1#5, .dqpop 3#5, .dqsteal 3#5 1#5, .dqlen 3#5] : List Instr), s.gate i = .go) ∧
    (∀ e ∈ (s.cluster 0).held, ∃ c h, e = .helper c h) ∧ s.me.deque = [] ∧ (s.core 15).deque = 4#64 :: [6#64] ∧
    (let f := s.modCore 0 fun k => { k with deque := List.replicate 64 9#64 }; 64 ≤ f.me.deque.length ∧
      f.me.deque = List.replicate 63 9#64 ++ [9#64]) := by
  have none_held : (stealing.cluster 0).held = [] := by decide +kernel
  exact ⟨by decide +kernel, fun e he => absurd (none_held ▸ he) List.not_mem_nil, by decide +kernel⟩

namespace Sys2Proof.Tests

/-- Ring 5 with its slots, x1 holding a word. -/
def slots (en : Bool) (h t : Nat) (l : List SlotState) (a : BitVec 64) : State :=
  (wide a 0 0).setRing 0 5 { fmt := 7#4, en := en, count := l.length, slotsz := 2, base := 4, head := h, tail := t, slots := l }

/-- A ring's word: format, count, slot size and base. -/
def ringWord (fmt cnt sz base : Nat) : BitVec 64 := word (fmt * 2 ^ 60 + cnt * 2 ^ 44 + sz * 2 ^ 30 + base * 64)

end Sys2Proof.Tests

theorem witness_rings :
    (∀ i ∈ ([.rinit 1#5 5#4, .rclaim 3#5 5#4, .rtake 3#5 5#4, .rcommit 1#5, .rfree 1#5] : List Instr),
      (slots true 0 0 [.free, .free] 0x220000100#64).gate i = .go) ∧
    (let w := ringWord 13 64 1 (16384 - 64); fld w 44 7 = 64 ∧ fld w 6 14 * 64 + fld w 44 7 * (fld w 30 14 * 64) = 0x100000 ∧
      fld w 60 4 < 14 ∧ fld w 51 9 = 0 ∧ fld w 20 10 = 0 ∧ fld w 0 6 = 0) ∧
    0x100000 < fld (ringWord 0 64 1 (16384 - 63)) 6 14 * 64 + fld (ringWord 0 64 1 (16384 - 63)) 44 7 * (1 * 64) ∧
    64 < fld (ringWord 0 65 1 0) 44 7 ∧ 14 ≤ fld (ringWord 14 1 1 0) 60 4 ∧
    (let s := slots true 1 0 [.claimed, .taken] 0x220000100#64; let r := s.ring 0 5;
      (∃ x ∈ r.slots, x ≠ .free) ∧ r.slots[r.tail]? = some .claimed ∧ r.slots[r.head]? = some .taken ∧
      s.slotAt 0x220000100#64 = some (5, 0) ∧ (s.ring 0 5).slot 0 = .claimed ∧ s.slotAt 0x220000180#64 = some (5, 1) ∧
      (s.ring 0 5).slot 1 = .taken ∧ s.slotAt 0x220000101#64 = none) ∧
    (let s := slots true 0 0 [.free, .free] 0#64; (∀ x ∈ (s.ring 0 5).slots, x = .free) ∧ (s.cluster 0).attached = [] ∧
      s.mmaOn 0 5 = false ∧ (s.ring 0 5).slots[(s.ring 0 5).tail]? = some .free) ∧
    (let s := slots true 1 1 [.free, .committed] 0#64; (s.ring 0 5).slots[(s.ring 0 5).head]? = some .committed) ∧
    (base.ring 0 5).en = false := by decide +kernel

-- The issue of transfers.

namespace Sys2Proof.Tests

/-- A record of rank 1 of n elements of a tag at a base, with a next record. -/
def record1 (base tag n next : Nat) : Nat :=
  base + 2 ^ 64 * (tag + 16) + 2 ^ 128 * n + 2 ^ (8 * 0x24) * (n - 1) + 2 ^ (8 * 0x70) * next

/-- Records at 0x200 and 0x280, a LIVE barrier at 0x400, and x1, x2, x3 naming them. -/
def transfer (recD recS : Nat) : State :=
  { wide 0x200 0x280 0x400 with
    mem := memWrite (memWrite (memWrite [] (own 0x200).key 128 recD) (own 0x280).key 128 recS) (own 0x400).key 8 (2 ^ 63 + 2 ^ 44),
    live := [granuleOf (own 0x400).key] }

/-- Sixteen words to copy. -/
def words16 : State := transfer (record1 0x1000 7 16 0) (record1 0x2000 7 16 0)

/-- The first n entries of the request ring taken. -/
def entries (s : State) (n : Nat) : State := (List.range n).foldl (fun s e => s.setOp 0 e (newOp .xdisc 0 0 0 0 0 0)) s

/-- Whether everything holds that the claim asks of an accepted transfer. -/
def accepts (s : State) (i : Instr) : Bool :=
  match Claims.transferOf s i with
  | some (kind, dst, src, bar) =>
    match s.readNext 0 dst, s.readNext 0 src, s.check 0 bar 16 16 [.r, .w] false with
    | .ok d, .ok r, .ok m =>
      let recs := dst.toList ++ src.toList
      decide (s.gate i = .go) && decide ((recs.map fun a => Claims.opTrap 0 a 128).findSome? id = none) &&
      decide (Claims.opTrap 0 bar 16 = none) &&
      decide (Claims.firstErr (recs.map fun a => s.check 0 a 128 128 [.r] false) = none) && s.isLive m.key &&
      (match s.checkPair 0 kind (d.toList ++ r.toList) (r.map Prod.fst) (d.map Prod.fst) with | .ok () => true | .error _ => false) &&
      decide (s.issueRace 0 ((granuleBytes 0 ({ newOp kind 0 0 0 0 0 0 with kind := kind }.pairRanges (rawPair r d))).map Prod.fst) = none)
    | _, _, _ => false
  | none => false

/-- The cause and the value of the trap that an instruction takes. -/
def trapped (s : State) (o : Out) : Nat × Nat := let x := (after s o).ctxAt 0 0; (x.tcause.toNat, x.tval.toNat)

end Sys2Proof.Tests

theorem witness_transfers :
    accepts words16 (.xcopy 1#5 2#5 3#5 0#1 0#4) = true ∧ accepts words16 (.xcopy 1#5 2#5 3#5 0#1 1#4) = true ∧
    accepts (slots true 0 0 [.free, .free] 0#64 |> fun s => { words16 with clusters := s.clusters }) (.xsub 2#5 3#5 5#4) = true ∧
    accepts (slots true 0 0 [.free, .free] 0#64 |> fun s => { words16 with clusters := s.clusters }) (.xpub 1#5 3#5 5#4) = true ∧
    (words16.op? 0 0 = none ∧ (∀ j < 15, (entries words16 15).op? 0 j ≠ none) ∧ (entries words16 15).op? 0 15 = none ∧
      (∀ j < 16, (entries words16 16).op? 0 j ≠ none)) ∧
    Claims.opTrap 0 0x204#64 128 ≠ none ∧ Claims.opTrap 0 0x408#64 16 ≠ none ∧
    (({ words16 with live := [] } : State).isLive (own 0x400).key = false) := by decide +kernel

/-- Traps of R227 in their order: an operand, a record, a pair and a granule. -/
theorem test_transfer_traps : let i := execXcopy 1#5 2#5 3#5 0#1 0#4
    (trapped base (i (words16.setX 2#5 0x284#64))).2 = 0x284 ∧
    (trapped base (i { words16 with live := [] })) = (cBarrierWord.toNat, 0x400) ∧
    (trapped base (i (transfer (record1 0x5FF0 7 16 0) (record1 0x2000 7 16 0)))).1 = cAddr.toNat := by decide +kernel

theorem witness_amo_discard : let s := words16.setX 1#5 0x8000000000010010#64
    s.gate (.xamo 1#5 2#5 3#5 0#1 10#4) = .go ∧ Claims.opTrap 0 0x280#64 64 = none ∧ Claims.opTrap 0 0x400#64 16 = none ∧
    s.check 0 0x280#64 64 64 [.r] false = .ok (own 0x280) ∧ s.check 0 0x280#64 64 64 [.w] false = .ok (own 0x280) ∧
    s.check 0 0x400#64 16 16 [.r, .w] false = .ok (own 0x400) ∧ s.isLive (own 0x400).key = true ∧
    bitOf (s.x 1#5) 63 = true ∧ fld (s.x 1#5) 54 9 = 0 ∧ (s.x 1#5).toNat % 16 = 0 ∧
    s.issueRace 0 [granuleOf (own 0x280).key] = none ∧ s.live.contains (granuleOf (own 0x280).key) = false ∧
    (let u := (s.setX 1#5 0x8000000000010000#64).setX 2#5 0xFFFFFFFFFFFF0000#64; u.gate (.xdisc 1#5 2#5) = .go ∧
      (u.x 1#5).toNat % 65536 = 0 ∧ (u.x 2#5).toNat % 65536 = 0 ∧ u.x 2#5 ≠ 0#64) := by decide +kernel
-- The copy engine.

namespace Sys2Proof.Tests

/-- Records of two in a chain, and an operation over them. -/
def chained : State :=
  let s := transfer (record1 0x1000 7 16 0x300) (record1 0x2000 7 16 0x380)
  { s with mem := memWrite (memWrite s.mem (own 0x300).key 128 (record1 0x1100 7 8 0)) (own 0x380).key 128 (record1 0x2100 7 8 0) }

/-- A box of eight words from an origin in a tensor of sixteen. -/
def box (base : BitVec 64) (origin : Int) : LRec :=
  { addr := 0#64, base := base, tag := 7#4, rank := 1, notify := false, sat := false, rm := 0#3, pcmp := 0, ring := false, ringno := 0,
    sfp32 := false, adim := 0, rep := 0, size := [16, 1, 1, 1, 1], ext := [8, 1, 1, 1, 1], org := [origin, 0, 0, 0, 0],
    stride := [0, 0, 0, 0, 0], pval := 0, fill := 0x55#64, handler := 0#64, next := 0#64, paddr := 0#64 }

/-- The chained copy's operation as it is issued: sixteen words, and more in the next records. -/
def operation : EngOp :=
  let whole := fun (addr base next : BitVec 64) =>
    { box base 0 with addr := addr, ext := [16, 1, 1, 1, 1], fill := 0#64, next := next }
  { newOp (.xcopy 0#4 false) 0 0x002011C7#32 0x200#64 0x280#64 0x400#64 (own 0x400).key with
    pairs := [{ noRecPair with dst := some (whole 0x200#64 0x1000#64 0x300#64), src := some (whole 0x280#64 0x2000#64 0x380#64) }],
    phase := .send, dstRead := 1, srcRead := 1 }

/-- A state in which entry 0 holds an operation. -/
def operating (o : EngOp) : State := chained.setOp 0 0 o

/-- A piece that failed. -/
def lostPiece (lo hi : Nat) : Piece :=
  { id := 100 + lo, recn := 0, tile := 0, lo := lo, hi := hi, stage := .failed .perm 0x77#64, data := [], got := [] }

/-- The operation handed back with its pieces that failed. -/
def handedBack (l : List Piece) : EngOp := { operation with handed := true, stopped := true, faults := l, phase := .drained }

/-- An operation of another kind on entry 0, handed back. -/
def handedKind (k : EngKind) : EngOp := { handedBack [lostPiece 0 1] with kind := k, len := 0x10000#64 }

/-- A piece in flight with units that stand at 0x1000 and 0x1004. -/
def piece2 : Piece :=
  { id := 70, recn := 0, tile := 0, lo := 0, hi := 8, stage := .here,
    data := [{ loc := .mesh (own 0x1000).key, bytes := [1#8, 2#8, 3#8, 4#8], low := false },
             { loc := .mesh (own 0x1004).key, bytes := [5#8, 6#8, 7#8, 8#8], low := false }], got := [] }

/-- The operation with that piece in flight, and its barrier expecting the bytes. -/
def landing (live : List Nat) (w : Nat) : State :=
  { operating { operation with flying := [piece2] } with live := live, mem := memWrite chained.mem (own 0x400).key 8 w }

/-- x1 names entry 0. -/
def named0 (o : EngOp) : State := (operating o).setX 1#5 0#64

/-- An operation that has not been handed back is named by no value. -/
theorem not_names {s : State} {v : BitVec 64} {p : EngOp} (h : s.op? s.cur.1 (fld v 48 4) = some p) (hp : p.handed = false)
    (e : Nat) (o : EngOp) : ¬ Claims.Names s v e o := by
  rintro ⟨-, rfl, he, ho⟩
  rw [h] at he
  rw [← Option.some.inj he, hp] at ho
  cases ho

end Sys2Proof.Tests

/-- The chained copy, issued, holds entry 0. -/
theorem test_xcopy : ((after chained (execXcopy 1#5 2#5 3#5 0#1 0#4 chained)).op? 0 0).map (fun o => { o with granules := [] })
    = some operation := by decide +kernel

theorem witness_engine_control : (∀ o ∈ [handedBack [lostPiece 4 8], handedKind (.xamo 1#4 true), handedKind .xdisc], let s := named0 o
      s.gate (.xresume 1#5) = .go ∧ s.gate (.xcancel 1#5) = .go ∧ fld (s.x 1#5) 52 12 = 0 ∧ fld (s.x 1#5) 48 4 = 0 ∧
      s.op? 0 0 = some o ∧ o.handed = true ∧ s.issueRace 0 ((s.heldAgain 0 o).map Prod.fst) = none ∧
      s.cur ∉ s.tbWaiters o.barKey) ∧
    (let s := named0 (handedBack [lostPiece 4 8]); s.isLive operation.barKey = true ∧ (handedBack [lostPiece 4 8]).bad = none ∧
      operation.kind = .xcopy 0#4 false ∧ (handedBack [lostPiece 4 8]).faults ≠ [] ∧ 0 < fld (s.tbWord operation.barKey) 44 12 ∧
      (({ s with live := [] } : State).isLive operation.barKey = false)) ∧
    (let s := { named0 (handedBack [lostPiece 4 8]) with inflight := [(granuleOf (own 0x1010).key, 4)] };
      (s.issueRace 0 ((s.heldAgain 0 (handedBack [lostPiece 4 8])).map Prod.fst)).isSome = true) := by decide +kernel

theorem witness_engine_control_names : ∀ e o, ¬ Claims.Names (named0 operation) ((named0 operation).x 1#5) e o :=
  not_names (p := operation) (by decide +kernel) (by decide +kernel)

/-- An undelivered copy of 64 and 32 bytes that is cancelled marks its barrier ERR. -/
theorem test_xcancel : let s := { named0 (handedBack [lostPiece 4 8]) with
      mem := memWrite chained.mem (own 0x400).key 8 (2 ^ 63 + 2 ^ 44 + 1000) }
    bitOf ((after s (execXcancel 1#5 s)).tbWord (own 0x400).key) 62 = true ∧ (after s (execXcancel 1#5 s)).op? 0 0 = none := by
  decide +kernel

namespace Sys2Proof.Tests

/-- A page of the base partition's function. -/
def page (va : Nat) (r w : Bool) (s : State) : State :=
  s.mapAt (stackOf va) 1 [va / 65536] r w false

/-- x1 names a page's byte. -/
def touching (f : Function → Function) : State := (base.setX 1#5 0x8000000000040008#64).modFn 1 f

/-- The context waits for a page. -/
def touched (mode : Nat) (r : Option Reply) (s : State) : State :=
  s.modCx fun x => { x with wait := some { kind := .ptouch mode, since := 0, tval := x.xr 1#5 }, reply := r }

/-- A discard of n pieces of 64 KiB. -/
def discard (n : Nat) : EngOp := { newOp .xdisc 0 0 0x8000000000040000#64 0 0 0 with len := word (65536 * n), phase := .send }

end Sys2Proof.Tests

theorem witness_ptouch : let s := touching id; let o := 0x40008
    s.gate (.ptouch 1#5 2#2) = .go ∧ bitOf (s.x 1#5) 63 = true ∧ fld (s.x 1#5) 54 9 = 0 ∧ s.cx.wait = none ∧
    (s.partOfCore 0).fn = 1 ∧ (match s.homeFor (s.partOfCore 0).hrt (s.x 1#5) with | .ok h => h == 4 | .error _ => false) = true ∧
    isLeaf (s.leafFor 4 1 (s.partOfCore 0).pid o) = false ∧ (s.fn 1).demandAt o = none ∧ (s.fn 1).faultSlots = 0 ∧
    (let u := touching fun f => { f with fqcfg := 0x86#64 }; (u.fn 1).faultSlots ≠ 0 ∧
      ((u.fn 1).fqtail.toNat + 1) % (u.fn 1).faultSlots ≠ (u.fn 1).fqhead.toNat % (u.fn 1).faultSlots) ∧
    (let u := touching fun f => { f with fqcfg := 0x86#64, fqtail := 5#64, fqhead := 6#64 };
      ((u.fn 1).fqtail.toNat + 1) % (u.fn 1).faultSlots = (u.fn 1).fqhead.toNat % (u.fn 1).faultSlots) ∧
    (match base.homeFor (base.partOfCore 0).hrt 0x8001000000040008#64 with | .ok _ => false | .error _ => true) = true := by
  decide +kernel

/-- Locators not given out are unused where no listed entry has one. -/
theorem unused_of {s : State} (h1 : ∀ h, h < 40 → (s.base h).nextLoc + 64 ≤ 2 ^ 32)
    (h2 : ∀ e ∈ s.tables, e.1 / 512 % 2 ^ 32 < (s.base (e.1 / 512 / 2 ^ 32)).nextLoc)
    (h3 : ∀ e ∈ s.blocks, e.1 / 256 % 2 ^ 32 < (s.base (e.1 / 256 / 2 ^ 32)).nextLoc) : Claims.Unused s := by
  refine fun home hh => ⟨h1 home hh, fun loc hl hm => ⟨fun i hi => ?_, fun i hi => ?_⟩⟩
  · rw [amGet?_eq_amGet, amGet?_none fun e he hk => ?_]; · rfl
    have := h2 e he
    rw [hk, show ((home * 2 ^ 32 + loc) * 512 + i) / 512 = home * 2 ^ 32 + loc by omega,
      show (home * 2 ^ 32 + loc) % 2 ^ 32 = loc by omega, show (home * 2 ^ 32 + loc) / 2 ^ 32 = home by omega] at this
    omega
  · refine amGet?_none fun e he hk => ?_
    have := h3 e he
    rw [hk, show ((home * 2 ^ 32 + loc) * 256 + i) / 256 = home * 2 ^ 32 + loc by omega,
      show (home * 2 ^ 32 + loc) % 2 ^ 32 = loc by omega, show (home * 2 ^ 32 + loc) / 2 ^ 32 = home by omega] at this
    omega

theorem witness_ptouch_resolved : let s := touched 0 (some (.touched false)) (touching id)
    (s.runs 0 = true ∧ (s.ctxAt 0 0).wait = some { kind := .ptouch 0, since := 0, tval := 0x8000000000040008#64 }) ∧
    s.walk 4 1 0#12 0x40008 false = some .notPresent ∧ (s.ctxAt 0 0).reply = some (.touched false) ∧
    (page 0x40000 true false s).walk 4 1 0#12 0x40008 false = none ∧
    (page 0x40000 true false s).walk 4 1 0#12 0x40008 true = some .perm ∧ s.blockFail 4 1 0x40008 = none ∧
    (let u := touching fun f => { f with demand := [{ va := 0x40000, len := 0x10000, r := true, w := false, big := false }] };
      ((u.fn 1).demandAt 0x40008).isSome = true ∧ u.walk 4 1 0#12 0x40008 false = some .notPresent ∧
      u.root 1 0#12 = some (rootLoc 1) ∧ (Claims.way u 4 (rootLoc 1) 0x40008 [0, 1, 2]).Nodup ∧
      (∀ l ∈ Claims.way u 4 (rootLoc 1) 0x40008 [0, 1, 2], l < (u.base 4).nextLoc) ∧ u.ownHome 1 0x40008 = some 4 ∧
      amGet? u.pages (1 * 2 ^ 32 + 0x40008 / 2 ^ 16) = none) := by decide +kernel

/-- The locators are unused in a state that maps a page, as a demand-allocated range must find them. -/
theorem witness_may_map : Claims.Unused (page 0x40000 true true (touching id)) :=
  unused_of (by decide +kernel) (by decide +kernel) (by decide +kernel)

/-- A remainder that came back for the touched page, with each of the causes that a PTOUCH looks at. -/
theorem witness_came_back : ∀ f ∈ [HandBack.outOfSpace, .atomicPath],
    Claims.CameBack (base.setOp 0 2 (handedBack [{ lostPiece 0 1 with stage := .failed f 0x8000000000040020#64 }])) 0 0x40008 f := by
  refine fun f hf => ⟨2, handedBack [{ lostPiece 0 1 with stage := .failed f 0x8000000000040020#64 }], _, 0x8000000000040020#64, by decide,
    ?_, rfl, List.mem_singleton.mpr rfl, rfl, by decide⟩
  simp only [List.mem_cons, List.not_mem_nil, or_false] at hf
  obtain rfl | rfl := hf <;> decide +kernel

theorem witness_discards : let s := (page 0x40000 true true (page 0x50000 true false base)).setOp 0 2 (discard 3)
    s.op? 0 2 = some (discard 3) ∧ (discard 3).handed = false ∧ (discard 3).stopped = false ∧ (discard 3).resend = [] ∧ s.runs 0 = true ∧
    (discard 3).len.toNat / 65536 = 3 ∧ s.walk 4 1 0#12 0x40000 true = none ∧ s.walk 5 1 0#12 0x50000 true = some .perm ∧
    s.walk 6 1 0#12 0x60000 true ≠ none ∧ (amGet? s.pages (pageKey 1 0x40000)).isSome = true := by decide +kernel

theorem witness_copy_box : let r := box 0x1000#64 (-1); let d := box 0x2000#64 8
    r.tag = d.tag ∧ tagS d.tag = false ∧ tagWidth d.tag = 8 * 4 ∧ Claims.PlainBox r ∧ Claims.PlainBox d ∧ r.ext = d.ext ∧
    Claims.Inside d (fun j => d.org.getD j 0 + ![7, 0, 0, 0, 0] (Fin.ofNat 5 j)) ∧
    Claims.Inside r (fun j => r.org.getD j 0 + ![1, 0, 0, 0, 0] (Fin.ofNat 5 j)) ∧
    ¬ Claims.Inside r (fun j => r.org.getD j 0 + ![0, 0, 0, 0, 0] (Fin.ofNat 5 j)) := by
  unfold Claims.PlainBox Claims.Inside; decide +kernel

/-- Outside the source tensor the box delivers FILL. -/
theorem test_copy_box :
    ((base.boxUnits 0 0#4 false (some (box 0x1000#64 (-1))) (box 0x2000#64 8) (box 0x2000#64 8) false 0 0).map fun u =>
      (u.addr, u.bytes))[0]? = some (0x2020#64, [0x55#8, 0#8, 0#8, 0#8]) := by decide +kernel

namespace Sys2Proof.Tests

/-- The operation at its next records. -/
def reading (d : Nat) : EngOp := { operation with phase := .record, dstRead := d, sent := 0 }

/-- XSUB and XPUB on ring 5, just issued. -/
def ringCopy (pub : Bool) : State :=
  let l : List SlotState := if pub then [.free, .committed] else [.free, .free]
  let s := { transfer (record1 (if pub then 0x1000 else 0) 7 16 0) (record1 0x2000 7 16 0) with
    clusters := (slots true (if pub then 1 else 0) 0 l 0#64).clusters }
  after s (if pub then execXpub 1#5 3#5 5#4 s else execXsub 2#5 3#5 5#4 s)

/-- What an entry's operation says of itself. -/
def ofOp (s : State) (p : EngOp → Bool) : Bool := match s.op? 0 0 with | some o => p o | none => false

end Sys2Proof.Tests

theorem witness_engine_reads : (∀ n ∈ [1, 4095], let s := operating (reading n); s.op? 0 0 = some (reading n) ∧ s.runs 0 = true ∧
      (reading n).resend = [] ∧ (reading n).nextDst = some 0x300#64 ∧ (reading n).nextSrc = some 0x380#64 ∧ (reading n).srcRead < 4096 ∧
      (match s.readNext 0 (reading n).nextDst, s.readNext 0 (reading n).nextSrc with
        | .ok d, .ok r => (match s.checkPair 0 (reading n).kind (d.toList ++ r.toList) (r.map Prod.fst) (d.map Prod.fst) with
            | .ok () => !s.meets (reading n) (granuleBytes 0 ((reading n).pairRanges (rawPair r d)))
            | .error _ => false)
        | _, _ => false) = true) ∧ (reading 1).kind.dual = false ∧ 4096 ≤ (reading 4096).dstRead ∧
    (match chained.readRecord 0 0x301#64 with | .ok _ => false | .error _ => true) = true := by decide +kernel

theorem witness_engine_slots :
    ofOp (ringCopy false) (fun o => decide (o.phase = .slot ∧ o.ringOf (o.pair o.cur) o.tile = some (5, true) ∧
      ((ringCopy false).ring 0 5).en = true ∧ ((ringCopy false).ring 0 5).slot ((ringCopy false).ring 0 5).tail = .free)) = true ∧
    ofOp (ringCopy true) (fun o => decide (o.phase = .slot ∧ o.ringOf (o.pair o.cur) o.tile = some (5, false) ∧
      ((ringCopy true).ring 0 5).slot ((ringCopy true).ring 0 5).head = .committed)) = true := by decide +kernel

theorem witness_engine_sends :
    let s := ((operating operation).modCore 0 fun k => { k with deficit := 4096 }).modCluster 0 fun u => { u with turn := 0 }
    ofOp s (fun o => decide (o.phase = .send ∧ o.resend = [] ∧ o.lastAlone = false ∧ o.kind = .xcopy 0#4 false ∧
      s.pieceNeed 0 o 8 ≤ (s.core 0).deficit ∧ (s.cluster 0).turn = 0 ∧ unitBytes (s.units 0 o o.cur o.tile) = 64 ∧
      s.nextPiece 0 o 8 = some (0, 16) ∧ s.nextPiece 0 o 400 = some (0, 16) ∧ o.seen = [] ∧
      s.lostPlace 0 (s.units 0 o o.cur o.tile) = none ∧
      s.badSource 0 ((s.units 0 o o.cur o.tile).flatMap RawUnit.reads) = none)) = true := by decide +kernel

/-- A record in a word that ECC cannot correct reads, and is not clean; a chain that is done, and chains of two lengths. -/
theorem witness_engine_ends :
    (let s := { operating (reading 1) with eccBad := [(own 0x300).key] };
      (match s.readRecord 0 0x300#64 with | .ok _ => true | .error _ => false) = true ∧ resolve 0 0x300#64 128 = some (own 0x300) ∧
      s.eccWord (own 0x300).key 128 ≠ none) ∧
    (let p := operation.pair operation.cur; operation.pairs ≠ [] ∧ operation.tiles p ≤ operation.tile + 1 ∧
      (p.dst2.orElse fun _ => p.dst).isSome = true ∧ p.src.isSome = true) := by decide +kernel

/-- A tile of the slot ring on its way to the slot that it holds. -/
theorem witness_slot_landing : let s := ringCopy false; let u := after s (execEngineSlotClaim 0 0 s)
    ofOp u (fun o => match o.slotOf 0 0 with
      | some sl => decide (sl.slot = 0 ∧ sl.done = 0 ∧ o.ringOf (o.pair 0) 0 = some (5, true) ∧
          (u.ring 0 5).slot sl.slot = .claimed ∧ unitBytes (u.units 0 o 0 0) = 64)
      | none => false) = true := by decide +kernel

theorem witness_pieces : let w := 2 ^ 63 + 8; let s := landing [granuleOf (own 0x400).key] w
    let o : EngOp := { operation with flying := [piece2] }
    s.op? 0 0 = some o ∧ (o.flying.find? fun q => q.id == 70) = some piece2 ∧ piece2.stage = .here ∧ o.barKey % 16 = 0 ∧
    o.slotOf 0 0 = none ∧ (∀ u ∈ piece2.data, s.liveAt u = none) ∧ (piece2.data.map fun u => u.bytes.length).sum = 8 ∧
    s.isLive o.barKey = true ∧ ¬ Claims.doneOf (s.tbWord o.barKey) ∧ Claims.pendOf (s.tbWord o.barKey) = 8 ∧
    (∃ u us, piece2.data = u :: us ∧ ((landing [granuleOf (own 0x1000).key] w).liveAt u).isSome = true) := by
  refine ⟨by decide +kernel, by decide +kernel, by decide +kernel, by decide +kernel, by decide +kernel, by decide +kernel,
    by decide +kernel, by decide +kernel, ?_, by decide +kernel, _, _, rfl, by decide +kernel⟩
  unfold Claims.doneOf
  decide +kernel

theorem witness_pieces_disjoint : Claims.Disjoint piece2.data := by
  refine ⟨?_, by decide⟩
  simp only [piece2, List.pairwise_cons, List.mem_singleton, forall_eq, Claims.InUnit, own, Mesh.key]
  refine ⟨fun a h => ?_, by simp⟩
  obtain ⟨⟨k, hk, h1, h2⟩, l, hl, h3, h4⟩ := h
  cases hk; cases hl
  simp at h2 h3
  omega

theorem test_pieces : let s := landing [granuleOf (own 0x400).key] (2 ^ 63 + 8)
    memGet (after s (execPieceLand 0 0 70 s)).mem (own 0x1007).key = 8#8 ∧
    bitOf ((after s (execPieceLand 0 0 70 s)).tbWord (own 0x400).key) 60 = true := by decide +kernel

theorem witness_hand_back : let p := lostPiece 4 8
    let o : EngOp := { operation with flying := [], stopped := true, faults := [lostPiece 12 16, p].reverse }
    let s := (operating o).modCore 0 fun k => { k with xrbase := 0x8000000000005DC0#64, events := List.replicate 15 event0 }
    s.op? 0 0 = some o ∧ s.runs 0 = true ∧ o.handed = false ∧ p ∈ o.faults ∧ p.stage = .failed .perm 0x77#64 ∧
    (∀ q ∈ o.faults, q ≠ p → p.before q = true ∧ q.before p = false) ∧ (HandBack.perm, 2, 2) ∈ Claims.causes ∧
    (s.core 0).events.length < 16 ∧ (s.cluster 0).held = [] ∧ bitOf (s.core 0).xrbase 63 = true ∧
    bitOf (base.core 0).xrbase 63 = false ∧
    (operating { operation with flying := [p] }).op? 0 0 = some { operation with flying := [p] } := by decide +kernel
-- Homes, links and routers.

namespace Sys2Proof.Tests

/-- A request of an engine's piece at a home for the block at 0x40000. -/
def req (body : ReqBody) : HomeReq :=
  { writer := .engine 0 0 70, part := some 1, fn := 1, blocks := [0x400], body := body, va := 0x8000000000040000#64 }

/-- A byte to write at an offset of the block. -/
def write1 : ReqBody := .write [(0xFF, 0x5A#8, false)]

/-- Home 4 with the page of 0x40000 and a list of requests, free sectors, and share for partition 1. -/
def homed (l : List HomeReq) (free share : Nat) : State :=
  let s := page 0x40000 true true base
  { s with bases := [(4, { poolfree := free, parked := [], reaching := [], requests := l, coming := [], gleaner := 0, asked := [],
                           link := Link.up, replies := [], back := Link.up, tlb := [], asleep := false,
                           nextLoc := 132, nextSector := 4 })],
           accounts := amSet [] (acctKey 1 4) { Account.zero with qshare := share } }

/-- The same with the page in the TLB, as readable or writable. -/
def cached (r w : Bool) (s : State) : State :=
  s.modBase 4 fun b => { b with tlb := [{ pid := s.reqPid (req .read), fn := 1, page := 4, entry := mkEntry 1 r w 0 }] }

/-- The request waits, parked since a moment. -/
def parkedAt (t : Nat) (s : State) : State := s.modBase 4 fun b => { b with parked := [{ req := req write1, since := t, old := false }] }

/-- The block has its four sectors. -/
def held4 (s : State) : State :=
  s.setBlock (s.blockNo 4 1 0x400) { BlockEntry.empty with h := 4, sectors := [0, 1, 2, 3], holder := .part 1 }

/-- The 256 bytes of the block. -/
def bytes4 (s : State) : List (BitVec 8) := s.blockBytes 4 1 0x400

end Sys2Proof.Tests

theorem witness_home_requests : (∀ b ∈ [ReqBody.read, write1], let s := homed [req b] 8 8
      (s.base 4).requests[0]? = some (req b) ∧ (s.base 4).parked = [] ∧ (s.base 4).asleep = false ∧ s.tlbHit 4 (req b) = none ∧
      isLeaf (s.leafFor 4 1 (s.reqPid (req b)) 0x40000) = true ∧ ((cached true false s).tlbHit 4 (req b)).isSome = true) ∧
    (let s : State := { homed [req .read] 8 8 with tables := [] }; s.leafFor 4 1 (s.reqPid (req .read)) 0x40000 = .error false) ∧
    leafAllows (mkEntry 1 true false 0) true = false ∧ leafAllows (mkEntry 1 true false 0) false = true ∧
    (let s := cached true true (homed [req write1] 8 8); s.mergeFails 4 (req write1) = none ∧ s.blockFail 4 1 0x40000 = none ∧
      0 < s.needs 4 (req write1) ∧ (amGet? s.parts 1).isSome = true ∧ s.needs 4 (req write1) ≤ (s.base 4).poolfree ∧
      (s.blockOf 4 1 0x400).h = 0 ∧ s.needs 4 (req write1) ≤ (s.account 1 4).qshare ∧ (bytes4 s).length = 256 ∧
      (held4 s).needs 4 (req write1) ≤ ((held4 s).blockOf 4 1 0x400).h ∧ amGet 0 (held4 s).minors (blockKey 1 0x40000) < 0xFFFF ∧
      (s.spoil 4 1 0x40000 fun b => { b with poison := true }).mergeFails 4 (req write1) = some .poison ∧
      (s.spoil 4 1 0x40000 fun b => { b with poison := true }).blockFail 4 1 (256 * 0x400) = some .poison) ∧
    (let s := cached true true (homed [req write1] 0 0); (s.base 4).poolfree < s.needs 4 (req write1) ∧ (s.part 1).state ≠ .preempting ∧
      ((s.setPart 1 { s.part 1 with state := .preempting }).part 1).state = .preempting) := by decide +kernel

/-- An older request that has waited 2 µs stands before another. -/
theorem witness_overdue : let s : State := { homed [req .read, { req write1 with blocks := [0x401] }] 8 8 with now := 3600 }
    Claims.NextAt s 4 0 (req .read) ∧ (req .read).since + 3600 ≤ s.now ∧ (0 : Nat) < 1 :=
  ⟨⟨by decide +kernel, fun j q _ hj => absurd hj (Nat.not_lt_zero j), fun j q hj => absurd hj (Nat.not_lt_zero j), by decide +kernel⟩, by decide +kernel, by decide⟩

theorem witness_sound : Claims.Sound (held4 (homed [] 8 8)) 4 1 0x400 :=
  ⟨by decide +kernel, fun _ => ⟨by decide +kernel, by decide +kernel, by decide +kernel⟩⟩

theorem witness_plain_write : Claims.PlainWrite (req write1) 0x400 [(0xFF, 0x5A#8, false)] :=
  ⟨rfl, rfl, by simp, by simp, by simp, by decide⟩

/-- A write without room parks, and one with room is merged. -/
theorem test_home : (((after base (execHomeRequestApply 4 0 (cached true true (homed [req write1] 0 0)))).base 4).parked.length = 1) ∧
    (bytes4 (after base (execHomeRequestApply 4 0 (cached true true (homed [req write1] 8 8))))).getD 0xFF 0#8 = 0x5A#8 := by
  decide +kernel

namespace Sys2Proof.Tests

/-- A write of a whole block of another page of stack 4, parked. -/
def elsewhere : HomeReq :=
  { req (.write ((List.range 256).map fun i => (i, BitVec.ofNat 8 (i + 1), false))) with
    blocks := [0x2500], va := 0x8000000000250000#64 }
def parked2 (s : State) : State := s.modBase 4 fun b => { b with parked := [{ req := elsewhere, since := 0, old := false }] }

/-- The gleaner at a step, with that write parked, and the page of 0x40000 mapped beside, its block held and marked or not. -/
def gleaning (g : Nat) (marked : Bool) (own : Bool) : State :=
  let s := homed [] 0 0
  let s := s.setBlock (s.blockNo 4 1 0x400) { BlockEntry.empty with h := 1, sectors := [0], holder := .part 1 }
  let s := (page 0x250000 true true s).modBase 4 fun b => { b with gleaner := g }
  let s := { s with pages := amSet s.pages (pageKey 1 0x40000) { home := 4, discard := marked, marker := 1 } }
  if own then parkedAt 0 s else parked2 s

/-- The oldest write finds no growth, though the pool gains n sectors. -/
def isHeld (s : State) (n : Nat) (r : HomeReq) : Bool :=
  (match (s.base 4).parked with | w :: _ => w.req == r && !w.old | [] => false) && (s.mergeFails 4 r).isNone &&
    decide ((s.blockOf 4 1 (r.blocks.headD 0)).h + (s.base 4).poolfree + n < s.needs 4 r)

end Sys2Proof.Tests

/-- Step 1 takes the block of the marked page, and with the page's own write parked it withdraws that; step 2 finds the
ZERO-HELD block. A write of 256 bytes without a pattern needs four sectors. -/
theorem witness_gleaner :
    (let s := gleaning 1 true false; (s.base 4).asleep = false ∧ (s.base 4).asked = [] ∧ s.markedPieces 4 = [(1, 4)] ∧
      amGet? s.pages (1 * 2 ^ 32 + 4) = some { home := 4, discard := true, marker := 1 } ∧
      (s.mapOf 4 1 (65536 * 4)).isSome = true ∧ isHeld s 1 elsewhere = true ∧
      s.blockNo 4 1 0x2500 / 256 ≠ (s.mapOf 4 1 (65536 * 4)).getD 0) ∧
    (let s := gleaning 1 true true; s.markedPieces 4 = [(1, 4)] ∧ ((s.base 4).parked.map fun w => w.req) = [req write1]) ∧
    (let s := gleaning 2 false false; (s.blocks.map Prod.fst).Nodup ∧ s.zeroHeld 4 = [s.blockNo 4 1 0x400] ∧
      ((s.zeroHeld 4).map fun k => (s.block k).h).sum = 1 ∧ isHeld s 1 elsewhere = true) := by decide +kernel

/-- What steps 1 and 2 leave in the pool and in the block. -/
theorem test_gleaner : ∀ g ∈ [1, 2], let s := gleaning g (g == 1) false; let t := after s (execGleanerStep 4 s)
    (t.base 4).poolfree = 1 ∧ (t.blockOf 4 1 0x400).h = 0 ∧ (t.base 4).gleaner = g + 1 := by decide +kernel

theorem witness_growth : let s := parkedAt 0 (homed [] 0 0)
    (∀ g < 4, 0 < g → ((s.modBase 4 fun b => { b with gleaner := g }).base 4).parked ≠ []) ∧ s.markedPieces 4 = [] ∧
    s.fits 4 (req write1) = false ∧ isHeld s 0 (req write1) = true ∧ (s.base 4).asleep = false ∧
    ((s.modBase 4 fun b => { b with asleep := true }).base 4).asleep = true ∧
    (s.account 1 5).used + 0 ≤ (s.account 1 5).qshare ∧ (s.modFn 1 fun f => { f with allowance := 8 }).allows 1 4 = true ∧
    ((s.modBase 4 fun b => { b with asked := [some 1] }).base 4).asked = some 1 :: [] ∧
    (0 : Nat) + 180000 ≤ ({ s with now := 180000 } : State).now := by decide +kernel

theorem witness_host_atomics : let s := held4 (homed [] 8 8)
    (match s.homeFor (s.fn 1).hrt 0x8000000000040008#64 with | .ok h => h == 4 | .error _ => false) = true ∧
    (match s.homeFor (s.fn 1).hrt 0x8001000000040008#64 with | .ok _ => false | .error _ => true) = true ∧
    s.walk 4 1 0#12 0x40008 true = none ∧ s.blockFail 4 1 (256 * 0x400) = none ∧ (s.base 4).requests = [] ∧ (s.base 4).parked = [] ∧
    (s.blockOf 4 1 0x400).h = 4 ∧ ({ s with tables := [] } : State).walk 4 1 0#12 0x40008 true ≠ none ∧
    (s.spoil 4 1 0x40000 fun b => { b with macBad := true }).blockFail 4 1 (256 * 0x400) ≠ none := by decide +kernel

/-- CompareSwap of zeros puts its word and completes with the old value. -/
theorem test_host_atomic : let t := after base (execHostAtomic 1 0x8000000000040008#64 .cas 8 0#128 7#128 (held4 (homed [] 8 8)))
    bytesNat (((bytes4 t).drop 8).take 8) = 7 ∧ (t.base 4).replies.length = 1 := by decide +kernel

namespace Sys2Proof.Tests

def fault0 : FaultReq := { token := 5#32, va := 0x8000000000040008#64, pid := (base).pidAt 0, mode := 0#2, core := 0, ctx := 0 }

/-- The PTOUCH asks of a record that the host answers. -/
def asking (q : Option Reply) : State :=
  { (touched 0 q (touching id)).modFn 1 (fun f => { f with faults := [fault0] }) with modl := { base.modl with stage := 3 } }

end Sys2Proof.Tests

theorem witness_fault_answers : let s := asking (some (.asked 5#32))
    s.responds = true ∧ ((s.fn 1).faults.find? fun q => q.token.toNat == fld 5#64 0 32) = some fault0 ∧ s.stillAsks fault0 = true ∧
    (s.modCx fun x => { x with wait := none }).stillAsks fault0 = false ∧ (asking (some (.asked 6#32))).stillAsks fault0 = false ∧
    fault0.token.toNat ≠ fld 6#64 0 32 := by decide +kernel

namespace Sys2Proof.Tests

/-- Home 4 with a request of two flits and an answer of one on the way. -/
def linked (l b : Link) : State := (homed [] 8 8).modBase 4 fun u =>
  { u with link := l, back := b, coming := [(req .read, 2)],
           replies := [({ home := 4, req := req .read, fail := some (.perm, 0x77#64), got := [], result := [] }, 1)] }

end Sys2Proof.Tests

theorem witness_links : let s := linked Link.up Link.up
    (s.base 4).link.down = false ∧ (s.base 4).asleep = false ∧ (0#12 - (s.base 4).link.next).toNat < min 1024 2 ∧
    (1#12 - (s.base 4).link.next).toNat < min 1024 2 ∧ (1#12 : BitVec 12) ≠ (s.base 4).link.next ∧
    (0#12 - (s.base 4).back.next).toNat < min 1024 1 ∧ (s.base 4).coming = [(req .read, 2)] ∧
    (let o := { operation with flying := [{ lostPiece 0 8 with id := 70, stage := .here }] }; let u := s.setOp 0 0 o
      u.op? 0 0 = some o ∧ (o.flying.find? fun q => q.id == 70).isSome = true) ∧
    (linked { Link.up with nak := true, replays := 3 } Link.up).link 4 = { Link.up with nak := true, replays := 3 } ∧
    (linked Link.up { Link.up with training := true, failedTrains := 2 }).link 68 = { Link.up with training := true, failedTrains := 2 } ∧
    (linked { Link.up with down := true } Link.up).link 4 = { Link.up with down := true } ∧
    amGet Link.up s.modl.ikirath 3 = Link.up ∧ s.link 35 = Link.up ∧ 0 ∉ s.modl.cxlDown := by decide +kernel

/-- The packet of a completion that failed, at the cluster of the piece that asked. -/
theorem test_links : let o := { operation with flying := [{ lostPiece 0 8 with id := 70, stage := .here }] }
    let t := after base (execStackFlitReceive 68 { seq := 0#12, crcOk := true } ((linked Link.up Link.up).setOp 0 0 o))
    let d : HomeDone := { home := 4, req := req .read, fail := some (.perm, 0x77#64), got := [], result := [] }
    let p := { pkt 9 .response (.homeDone d) with pid := base.pidAt 0 }
    (t.base 4).replies = [(d, 0)] ∧ (({ t with net := [p] } : State).takePacket p).map (fun u =>
      (u.op? 0 0).map (fun q => q.flying.map Piece.stage)) = some (some [.failed .perm 0x77#64]) := by decide +kernel

namespace Sys2Proof.Tests

/-- A message of another module whose last flit comes over port 3, and one bound for it. -/
def overPort (m : IkMsg) : State :=
  ({ base with modl := { base.modl with routes := [(2, 3)], podFormed := true } } : State).modPort 3 fun x =>
    { x with coming := [(m, 1)], out := [(2, .request 42 (req .read))] }

end Sys2Proof.Tests

theorem witness_ikirath : let d : HomeDone := { home := 42, req := req .read, fail := none, got := [], result := [] }
    (∀ m ∈ [IkMsg.answer 42 d, .arrival 2304 2 0], let s := overPort m; (amGet Link.up s.modl.ikirath 3).down = false ∧
      (0#12 - (amGet Link.up s.modl.ikirath 3).next).toNat < min 1024 ((s.port 3).coming.map Prod.snd).sum ∧
      (s.port 3).coming = [(m, 1)] ∧ (∀ p ∈ s.portsTo 2, p = 35 - 32)) ∧
    ((2, IkMsg.request 42 (req .read)) ∈ ((overPort (.arrival 2304 2 0)).port 3).out) := by decide +kernel

/-- An arrival's last flit brings it to the root. -/
theorem test_ikirath : (after base (execIkirathFlitReceive 3 { seq := 0#12, crcOk := true } (overPort (.arrival 2304 2 0)))).modl.podInbox
    = [(2304, 2, 0)] := by decide +kernel

namespace Sys2Proof.Tests

/-- A packet in the injection queue of cluster 0 for another cluster. -/
def leaving (dst : Nat) : Packet := { request (.sendr 16 9#5 7#64) with
  dst := dst, path := [{ place := .inject 0, via := .eject, got := 1 }] }

def sending (dst : Nat) : State := { base with net := [leaving dst] }

end Sys2Proof.Tests

theorem witness_routers : (∀ c ∈ [(1, RouterPort.east), (15, .west), (16, .south), (240, .north), (256, .bridge)],
      (sending c.1).outputHeld 0 c.2 .request = false ∧ (sending c.1).winner 0 c.2 .request = some (0, leaving c.1)) ∧
    (let p := { leaving 1 with nflit := 3, path := [{ place := .channel 1 0 .pool, via := .east, got := 1 },
        { place := .inject 0, via := .eject, got := 3 }] };
      ({ base with net := [p] } : State).outputHeld 0 .east .request = true) := by decide +kernel
-- Matrix units and folds.

namespace Sys2Proof.Tests

/-- A core with a key whose x1 names quad 3, x2 and x3 holding operands. -/
def keyed (b c : BitVec 64) : State := (wide 3 b c).modCore 0 fun k => { k with capkey := 0x8000000000000007#64 }

/-- A command of core 0. -/
def command (k : MatKind) : MatCmd := { id := 9, kind := k, acc := 2, core := 0, key := 7#32, bits := 0#32, cut := none, image := [] }

/-- Quad 3 with its key, rings 4 and 5 of INT8 with a slot each, and commands. -/
def unit_ (l : List MatCmd) (st : SlotState) (f : MatUnit → MatUnit) : State :=
  let r (b : Nat) : Ring := { fmt := 1#4, en := true, count := 1, slotsz := 16, base := b, head := 0, tail := 0, slots := [st] }
  (((wide 3 0 0).setRing 0 4 (r 16)).setRing 0 5 (r 32)).modUnit 3 fun u => f { u with key := 7#32, fifo := l }

def mma1 : MatCmd := command (.mma 2 4 5)

/-- A k-step under way. -/
def stepping : State :=
  let s := unit_ [mma1] .taken fun u => { u with started := true, step := some (0, 0) }
  { s with mem := memWrite (memWrite [] (s.slotKey 0 4 0) 1 3) (s.slotKey 0 5 0) 1 0xFE }

end Sys2Proof.Tests

theorem witness_matrix : let s := keyed 0x1000#64 0x400#64
    (∀ i ∈ ([.mma 1#5 2#5 3#5 2#2, .mzero 1#5 2#2, .mload 1#5 2#5 2#2, .mstore 1#5 2#5 3#5 2#2, .mdrain 1#5 2#5 3#5 1#1 2#2,
      .mfence 1#5] : List Instr), s.gate i = .go) ∧
    bitOf s.me.capkey 63 = true ∧ (s.shape 0).coreOf (4 * (s.x 1#5).toNat) = some 12 ∧
    (s.shape 0).coreOf (4 * ((s.setX 1#5 8#64).x 1#5).toNat) = none ∧ bitOf base.me.capkey 63 = false ∧
    0 < (s.x 2#5).toNat ∧ (s.x 2#5).toNat ≤ 1048576 ∧ ((s.setX 3#5 255#64).x 3#5).toNat < 256 ∧
    Claims.dataTrap s 0x1000#64 4096 64 .r = none ∧ Claims.dataTrap s 0x1000#64 4096 64 .w = none ∧
    (resolve 0 0x1000#64 4096).isSome = true ∧ Claims.dataTrap s 0x5040#64 4096 64 .r ≠ none ∧
    (let u := { s with live := [granuleOf (own 0x400).key] }; Claims.opTrap 0 0x400#64 16 = none ∧
      (match u.barOperand 0 0x400#64 with | .ok b => b == (own 0x400).key | .error _ => false) = true ∧
      u.issueRace 0 (granulesOf (own 0x1000).key 4096) = none) ∧
    (match s.barOperand 0 0x400#64 with | .ok _ => false | .error _ => true) = true ∧
    (s.x 2#5).toNat % 2 = 0 ∧ ((s.setX 2#5 1#64).x 2#5).toNat % 2 = 1 ∧
    (s.shape 0).coreOf (((s.setX 3#5 (word (5 * 2 ^ 32 + 31))).x 3#5).toNat % 2 ^ 32) = some 31 ∧ (s.shape 0).coreOf 32 = none ∧
    s.me.matrixOut < 16 ∧ (s.unit 3).fifo.length < 16 ∧ s.canInject 0 0 0 .request = true ∧ s.quadCommands 0 3 = 0 ∧
    16 ≤ ((unit_ (List.replicate 16 mma1) .free id).unit 3).fifo.length ∧ (unit_ [mma1] .free id).quadCommands 0 3 ≠ 0 := by
  decide +kernel

/-- MMA's command sets out. -/
theorem test_mma : ((after base (execMma 1#5 2#5 3#5 2#2 (keyed 2#64 0x54#64))).net.map Packet.body).map (fun b => match b with
    | .matrix q c => some (q, c.kind, c.acc) | _ => none) = [some (3, .mma 2 4 5, 2)] := by decide +kernel

theorem witness_matrix_commands :
    (∀ k ∈ [MatKind.mma 2 4 5, .mzero, .mload (own 0x1000).key, .mstore (own 0x1000).key (own 0x400).key, .mdrain 0x40#64 5 9#32 true],
      let s := unit_ [command k] .committed id
      (s.unit 3).fifo = command k :: [] ∧ s.unitRuns 3 = true ∧ (s.unit 3).started = false ∧ ((s.unit 3).acc 2).rows = 0#32 ∧
      (s.unit 3).loading = [] ∧ (command k).key = (s.unit 3).key) ∧
    (let s := unit_ [mma1] .committed id; (s.ring 0 4).en = true ∧ (s.ring 0 5).en = true ∧ (s.ring 0 4).fmt = 1#4 ∧
      1024 ≤ (s.ring 0 4).slotBytes ∧ ((s.unit 3).acc 2).atag ≠ .fp32 ∧ (base.ring 0 4).en = false ∧
      { mma1 with key := 8#32 }.key ≠ (s.unit 3).key ∧ (s.core 0).events.length < 16 ∧ (s.cluster (clusterOf 0)).held = [] ∧
      (s.ring 0 4).slot (s.ring 0 4).head = .committed ∧ (s.unit 3).step = none) ∧
    (let s := unit_ [mma1] .free fun u => { u with started := true, waitSince := some 0 };
      (s.ring 0 4).slot (s.ring 0 4).head ≠ .committed ∧ (s.core 0).waitto.toNat * 1800 ≤
        ({ s with parts := s.parts.map fun (e : Nat × Part) => (e.1, { e.2 with clock := (s.core 0).waitto.toNat * 1800 }) } : State).clockOf 12 - 0) ∧
    (let s := stepping; (s.unit 3).step = some (0, 0) ∧ (s.ring 0 4).slot 0 = .taken ∧ (s.ring 0 5).slot 0 = .taken ∧ s.eccBad = []) := by
  decide +kernel

/-- The first products of a k-step: 3 and -2. -/
theorem test_kstep : Claims.accWord (after base (execKstepRetire 3 stepping)) 3 2 0 = 0xFFFFFFFA#32 := by decide +kernel

theorem witness_matrix_ends :
    (let m := { command (.mload (own 0x1000).key) with id := 4 };
      let s := unit_ [] .free fun u => { u with loading := [m] };
      s.unitRuns 3 = true ∧ ((s.unit 3).loading.find? fun m => m.acc == 2 && m.kind.loadKey.isSome) = some m ∧ s.eccBad = []) := by
  decide +kernel

namespace Sys2Proof.Tests

/-- An MSTORE whose copy of the accumulator is on its way. -/
def storing : MatCmd := { command (.mstore (own 0x1000).key (own 0x400).key) with image := List.replicate 4096 1#8 }

end Sys2Proof.Tests

theorem witness_matrix_store : let s := { unit_ [] .free fun u => { u with loading := [storing] } with live := [granuleOf (own 0x400).key] }
    (s.unit 3).loading.map MatCmd.id = [9] ∧ storing.cut = none ∧ storing.image.length = 4096 ∧
    s.isLive (own 0x400).key = true ∧ (own 0x400).key % 16 = 0 ∧ (own 0x400).key + 16 ≤ (own 0x1000).key :=
  ⟨by decide +kernel, rfl, List.length_replicate, by decide +kernel, by decide +kernel, by decide +kernel⟩

theorem witness_matrix_arrives : Claims.AtTarget (arrived_ (.matrix 3 mma1)) 7 (request (.matrix 3 mma1)) ∧
    ((arrived_ (.matrix 3 mma1)).unit 3).fifo.length < 16 ∧ (request (.matrix 3 mma1)).pid = (arrived_ (.matrix 3 mma1)).pidAt 0 :=
  ⟨atTarget_arrived _, by decide +kernel, by decide +kernel⟩

namespace Sys2Proof.Tests

/-- x1 holds a key, x2 an operand and x3 a route block whose only entry delivers to 0x800 with the barrier 0x400. -/
def folding : State :=
  { (wide 0x123 0x1000 0x2000) with
    mem := memWrite (memWrite [] (own 0x2000).key 16 (0x800 + 2 ^ 62 + 2 ^ 64 * 0x400)) (own 0x400).key 8 (2 ^ 63 + 64),
    live := [granuleOf (own 0x400).key] }

def fold1 : FoldOperand :=
  { key := 0x123#48, op := 4#4, size := 0, data := List.replicate 64 0xFF#8, route := [.deliver (own 0x800).key (own 0x400).key],
    sender := 0, ctx := 0, block := 0x2000#64, pid := (wide 0 0 0).pidAt 0, chained := false, id := 0 }

/-- The fold of cluster 0 in the partition, and a packet at it. -/
def folded (f : Fold → Fold) (body : PktBody) : State :=
  (arrived_ body).modFold 0 fun x => f { x with pid := (wide 0 0 0).pidAt 0 }

end Sys2Proof.Tests

theorem witness_folds : let s := folding
    (∀ i ∈ ([.fkey 4#5 1#5, .fold 1#5 2#5 3#5 0#3 4#4, .fres 1#5 0#3, .frel 1#5] : List Instr), s.gate i = .go) ∧ s.waitsFold = false ∧
    (s.x 1#5).toNat < 2 ^ 48 ∧ ((s.shape 0).clusters[Claims.hash 0x123 % ((s.shape 0).cores / 16)]?).isSome = true ∧ s.cx.wait = none ∧
    s.canInject 0 0 0 .fold = true ∧ s.canInject 0 1 0 .fold = true ∧ Claims.dataTrap s 0x1000#64 64 64 .r = none ∧
    resolve 0 0x1000#64 64 = some (own 0x1000) ∧ Claims.routeTrap s 0x2000#64 128 128 .r = none ∧
    Claims.dataTrap s 0x1020#64 64 64 .r ≠ none ∧ Claims.routeTrap s 0x2040#64 128 128 .r ≠ none ∧
    resolve 0 0x2000#64 128 = some (own 0x2000) ∧ 2 ^ 48 ≤ (2 ^ 48 : BitVec 64).toNat ∧ s.eccBad = [] := by decide +kernel

/-- FOLD sends its operand with its route. -/
theorem test_fold : ((after base (execFold 1#5 2#5 3#5 0#3 4#4 folding)).net.map Packet.body).map (fun b => match b with
    | .operand _ o => decide ({ o with data := fold1.data, id := 0 } = fold1) | _ => false) = [true] := by decide +kernel

theorem witness_fold_arrivals :
    (∀ b ∈ [PktBody.request 0 0 0 0x123#48 (some 2), PktBody.request 0 0 0 0x123#48 none, PktBody.operand 0 fold1], let s := folded id b
      (s.foldAt 0).find 0x123#48 = none ∧ (s.foldAt 0).fres = [] ∧ (s.foldAt 0).freeEntry.isSome = true ∧
      (request b).pid = (s.foldAt 0).pid ∧ (∀ p ∈ s.net, p.id < { s with nextId := 8 }.nextId)) ∧
    (let s := folded (fun f => { f with entries := [(3, { key := 0x123#48, res := some (2, 0), held := none })] }) (.request 0 0 0 0x123#48 none);
      (s.foldAt 0).find 0x123#48 = some (3, { key := 0x123#48, res := some (2, 0), held := none })) ∧
    (let s := folded (fun f => { f with entries := [(3, { key := 0x123#48, res := none, held := some (fold1, 0, 0) })] }) (PktBody.operand 0 fold1);
      (s.foldAt 0).find 0x123#48 = some (3, { key := 0x123#48, res := none, held := some (fold1, 0, 0) }) ∧
      ((s.foldAt 0).entry 3).held = some (fold1, 0, 0) ∧ 18432 * 2 ^ 0 ≤ 10 *
        (({ s with parts := s.parts.map fun (e : Nat × Part) => (e.1, { e.2 with clock := 1844 }) } : State).clusterClock 0 - 0)) ∧
    (let s := folded (fun f => { f with fres := [{ core := 0, ctx := 0, key := 0x123#48, size := 2 }] }) (PktBody.operand 0 fold1);
      (s.foldAt 0).fres = { core := 0, ctx := 0, key := 0x123#48, size := 2 } :: [] ∧ (s.foldAt 0).freeEntry.isSome = true) ∧
    (folded (fun f => { f with pid := 9#12 }) (PktBody.operand 0 fold1)).foldAt 0 ≠ (folded id (PktBody.operand 0 fold1)).foldAt 0 := by
  decide +kernel

/-- Two operands of ones combine to minus twos, which leave for their target. -/
theorem test_fold_operands :
    let e : FoldEntry := { key := 0x123#48, res := none, held := some (fold1, 0, 0) }
    let t := after base (execFoldOperandArrive 7 (folded (fun f => { f with entries := [(3, e)] }) (.operand 0 fold1)))
    ((t.foldAt 0).jobs.map fun j => (j.operand.data.take 4, j.reason)) = [([0xFE#8, 0xFF#8, 0xFF#8, 0xFF#8], 0)] := by
  decide +kernel

theorem witness_fold_ends :
    (let j : FoldJob := { id := 5, operand := fold1, reason := 0, due := none };
      let s := { (folded (fun f => { f with jobs := [j] }) (PktBody.operand 0 fold1)) with mem := folding.mem, live := folding.live };
      ((s.foldAt 0).jobs.find? fun x => x.id == 5) = some j ∧ s.canInject 0 0 17 .fold = true ∧
      (∀ g ∈ granulesOf (own 0x800).key 64, g ∉ s.live) ∧ s.isLive (own 0x400).key = true ∧
      Claims.pendOf (s.tbWord (own 0x400).key) = 64) ∧
    (let s := (folded id (.answer 0 0 none none)).modCx fun x => { x with wait := some { kind := .foldAnswer 0, since := 0, tval := 0#64 } };
      (s.ctxAt 0 0).wait = some { kind := .foldAnswer 0, since := 0, tval := 0#64 } ∧ (request (.answer 0 0 none none)).pid = s.pidAt 0) := by
  decide +kernel


namespace Sys2Proof.Tests

/-- The unit with rings of two formats, of 2,048 bytes, and one command. -/
def rings2 (fa fb : BitVec 4) (tag : ATag) : State :=
  let r (f : BitVec 4) (b : Nat) : Ring := { fmt := f, en := true, count := 1, slotsz := 32, base := b, head := 0, tail := 0, slots := [.taken] }
  (((wide 3 0 0).setRing 0 4 (r fa 16)).setRing 0 5 (r fb 64)).modUnit 3 fun u =>
    { u with key := 7#32, fifo := [mma1], accs := u.accs.set 2 { Acc.zero with atag := tag } }

/-- A k-step of FP16 under way, on an accumulator with 0.5 in its first element. -/
def fp16Step : State :=
  let acc : Acc := { Acc.zero with atag := .fp32, words := [(0, 0x3F000000#32)] }
  let s := (rings2 9#4 9#4 .fp32).modUnit 3 fun u => { u with started := true, step := some (0, 0), accs := u.accs.set 2 acc }
  { s with mem := memWrite (memWrite [] (s.slotKey 0 4 0) 2 0x3E00) (s.slotKey 0 5 0) 2 0x4000 }

end Sys2Proof.Tests

/-- Pairs of formats of Table 9-5 and one that it does not have; the start of each kind of command. -/
theorem witness_formats :
    (∀ e ∈ Claims.formatPairs, e.2.2.2 ≤ 32 * 64 ∧ ((rings2 0#4 0#4 e.2.2.1).unit 3).accs.get 2 = { Acc.zero with atag := e.2.2.1 }) ∧
    (∀ e ∈ Claims.formatPairs, ¬ (e.1 = 8 ∧ e.2.1 = 9)) ∧
    (let s := rings2 8#4 9#4 .none; (s.ring 0 4).en = true ∧ (s.ring 0 5).en = true ∧ s.unitRuns 3 = true ∧
      ((s.unit 3).acc 2).rows = 0#32 ∧ (s.unit 3).loading = []) := by decide +kernel

/-- Rings of BF16 and FP16 are no pair (reason 4); 1.5 × 2 of FP16, added to 0.5, is 3.5. -/
theorem test_formats : let s := rings2 8#4 9#4 .none
    ((after s (execMatrixCommandStart 3 s)).core 0).events.map (fun e => e.uival.toNat % 256) = [4] ∧
    Claims.accWord (after fp16Step (execKstepRetire 3 fp16Step)) 3 2 0 = 0x40600000#32 := by decide +kernel

/-- Operands of one key: another operation, another route, and a reservation of another size. -/
theorem witness_fold_meets :
    fold1.op ≠ ({ fold1 with op := 5#4 } : FoldOperand).op ∧ fold1.route ≠ [RouteEntry.deliver (own 0x900).key (own 0x400).key] ∧
    (let e : FoldEntry := { key := 0x123#48, res := some (1, 2), held := some (fold1, 0, 0) };
      let s := folded (fun f => { f with entries := [(3, e)] }) (.operand 0 { fold1 with size := 3 })
      (s.foldAt 0).find 0x123#48 = some (3, e) ∧ fold1.size < 2 ∧ (2 : Nat) ≤ 3) ∧
    (fold1.size < 8 ∧ finalEntry fold1.route = some ((own 0x800).key, (own 0x400).key)) := by decide +kernel

/-- A result comes to its target's cluster in a packet and lands there. -/
theorem test_fold_result :
    let p := { request (.result fold1 (own 0x800).key (own 0x400).key 0) with pid := base.pidAt 0 }
    let s : State := { arrived_ (.result fold1 (own 0x800).key (own 0x400).key 0) with mem := folding.mem, live := folding.live, net := [p] }
    (s.takePacket p).map (fun t => (memGet t.mem (own 0x83F).key, t.net.length)) = some (0xFF#8, 0) := by decide +kernel
-- Host queues and their packets.

namespace Sys2Proof.Tests

/-- The queue 0 of a function with n packet slots from HEAD on, in a module that is ready. -/
def queued_ (fn n : Nat) (f : HostQueue → HostQueue) (s : State) : State :=
  { s with modl := { s.modl with stage := 3 } }.modQueue fn 0 fun h => f { h with qcfg := 134#64, head := 62#16, tail := BitVec.ofNat 16 ((62 + n) % 64) }

/-- A packet of words. -/
def packet (slots type : Nat) (l : List Nat) : List (BitVec 64) :=
  (((type + (slots - 1) * 256) :: l).map word ++ List.replicate (8 * slots) 0#64).take (8 * slots)

/-- Whether what a parse needs holds. -/
def parses (s : State) (fn n type : Nat) (p : List (BitVec 64)) : Bool :=
  decide (fn ≤ 64 ∧ s.modl.stage = 3 ∧ bitOf (s.queue fn 0).qcfg 7 = true ∧ (s.queue fn 0).err = false ∧
    (s.queue fn 0).fence = none ∧ p.length = 8 * n ∧ n = fld (pk p 0) 8 2 + 1 ∧ n ≤ (s.queue fn 0).held ∧
    (s.queue fn 0).peeked = none ∧ s.parserTurn fn 0 = true ∧ (s.queue fn 0).skip = 0 ∧ fld (pk p 0) 0 8 = type ∧ fld (pk p 0) 11 5 = 0)

theorem parses_of {s : State} {fn n type : Nat} {p : List (BitVec 64)} (h : parses s fn n type p = true) (hp : 6 ≤ type → fn = 0) :
    Claims.Parses s fn 0 n type p := by
  obtain ⟨h1, h2, h3, h4, h5, h6, h7, h8, hk, h9, h10, h11, h12⟩ := of_decide_eq_true h
  exact ⟨⟨h1, by decide, h2, h3, h4, h5, h6, h7, h8, fun w hw => by simp [hk] at hw, h9⟩, h10, h11, h12, fun ht => ⟨hp ht, rfl⟩⟩

def launchPacket : List (BitVec 64) :=
  packet 2 1 [0, 0x8000000000010000, 0x8000000000010000, 0x1000, 0, 0, 0, 0, 0, 0, 0, 0, 0, 0, 0] |>.set 0 (word (1 + 256 + 2 ^ 18))
def fencePacket1 : List (BitVec 64) := packet 1 2 [1, 0, 0x8000000000040000, 7] |>.set 0 (word (2 + 2 ^ 16))
def condPacket : List (BitVec 64) := packet 1 3 [0x8000000000040000, 7] |>.set 0 (word (3 + 2 ^ 16 + 2 ^ 21))
def copyPacket1 : List (BitVec 64) := packet 1 5 [0, 0x8000000000040010, 16, 0x8000000000040100, 9]

/-- Function 1 with a page, and its queue. -/
def served (f : HostQueue → HostQueue) : State := queued_ 1 2 f (homed [] 8 8)

end Sys2Proof.Tests

theorem witness_queues : (served id).modl.stage = 3 ∧ base.modl.stage ≠ 3 ∧ (served id).modl.mailbox.busy = false ∧
    bitOf (134#64 : BitVec 64) 7 = true ∧ fld (134#64 : BitVec 64) 0 5 = 6 ∧ 16 < fld (145#64 : BitVec 64) 0 5 ∧
    parses (served id) 1 2 1 launchPacket = true ∧ (served fun h => { h with skip := 2 }).modl.stage = 3 ∧
    parses (served id) 1 1 0 (packet 1 0 []) = true ∧ fld (pk (packet 1 0x801 []) 0) 11 5 ≠ 0 := by decide +kernel

/-- A skipped packet is passed over. -/
theorem test_queues : ((after base (execLaunch 1 0 launchPacket (served fun h => { h with skip := 2 }))).queue 1 0).head = 0#16 ∧
    ((after base (execLaunch 1 0 launchPacket (served fun h => { h with skip := 2 }))).queue 1 0).skip = 1 := by decide +kernel

theorem witness_launch : Claims.Parses (served id) 1 0 2 1 launchPacket ∧ Claims.LaunchValid (pk launchPacket) ∧
    ¬ Claims.LaunchValid (pk (launchPacket.set 13 1#64)) :=
  ⟨parses_of (by decide +kernel) (by decide), by unfold Claims.LaunchValid; decide +kernel, by unfold Claims.LaunchValid; decide +kernel⟩

theorem witness_packets : (parses (served id) 1 1 2 fencePacket1 && parses (served id) 1 1 3 condPacket &&
      parses (served id) 1 1 4 (packet 1 4 [0x8000000000040008, 7]) && parses (served id) 1 1 5 copyPacket1) = true ∧
    (fld (pk fencePacket1 0) 16 4 = 1 ∧ (24 + 16 * 1 + 63) / 64 = 1 ∧ fld (pk fencePacket1 2) 32 32 = 0 ∧
      fld (pk fencePacket1 1) 0 4 = 1 ∧ (pk fencePacket1 3).toNat % 8 = 0) ∧
    (fld (pk condPacket 0) 16 4 = 1 ∧ fld (pk condPacket 0) 20 8 = 2 ∧ (pk condPacket 1).toNat % 8 = 0) ∧
    (let s := served id; s.hostBad 1 0x8000000000040008#64 true = false ∧
      (∀ e ∈ s.parts, ¬ (e.2.fn = 0 ∧ e.2.queue = 0)) ∧ (s.queue 1 0).copies = [] ∧
      (match s.homeFor (s.fn 1).hrt 0x8000000000040008#64 with | .ok h => h == 4 | .error _ => false) = true) ∧
    ((pk copyPacket1 3).toNat = 16 ∧ (pk copyPacket1 4).toNat % 8 = 0 ∧ 0x10 + 16 ≤ 256) := by decide +kernel

/-- The queue that sends a SIGNAL is none of a partition's. -/
theorem witness_signal : Claims.Parses (queued_ 1 2 id { homed [] 8 8 with parts := [] }) 1 0 1 4 (packet 1 4 [0x8000000000040008, 7]) ∧
    ∀ e ∈ ({ homed [] 8 8 with parts := [] } : State).parts, ¬ (e.2.fn = 1 ∧ e.2.queue = 0) :=
  ⟨parses_of (by decide +kernel) (by decide), fun _ h => absurd h List.not_mem_nil⟩

/-- A packet reads a word, and one that fails. -/
theorem witness_host_word : Claims.HostWord (served id) 1 0x8000000000040008#64 0#64 ∧
    Claims.HostReads ((served id).spoil 4 1 0x40000 fun b => { b with macBad := true }) 1 0x8000000000040008#64 4 (some .integrity) :=
  ⟨⟨4, by unfold Claims.HostReads; decide +kernel, by decide +kernel⟩, by unfold Claims.HostReads; decide +kernel⟩

namespace Sys2Proof.Tests

def tuple1 : FenceTuple := { cmp := 1#4, addr := 0x8000000000040008#64, value := 0#64, held := false }
def fence1 : FenceWait := { slots := 1, tuples := [tuple1], tmo := 1, since := 0, irq := false }
def copy1 (bad : Bool) : CopyJob :=
  { id := 5, slot := 62#16, signal := false, host := 0#64, dev := 0#64, len := 16, toDevice := true, cntva := 0x8000000000040100#64,
    cntval := 9#64, irq := false, left := 0, refused := bad, counting := false }

end Sys2Proof.Tests

theorem witness_fence_polls : let s := served fun h => { h with fence := some fence1 }
    (s.queue 1 0).fence = some fence1 ∧ fence1.tuples[0]? = some tuple1 ∧ tuple1.held = false ∧
    Claims.compares 1 0#64 tuple1.value = true ∧ Claims.compares 1 1#64 tuple1.value = false ∧ (s.queue 1 0).err = false ∧
    ({ s with tables := [] } : State).hostBad 1 tuple1.addr false = true ∧ fence1.since + 1800000 * 1 ≤ 1800000 ∧
    (let f := { fence1 with tuples := [tuple1, tuple1] }; f.tuples[1]? = some tuple1) := by decide +kernel

theorem witness_copies : ∀ b ∈ [true, false], let s := served fun h => { h with copies := [copy1 b] }
    ((s.queue 1 0).copies.find? fun x => x.id == 5) = some (copy1 b) ∧ s.hostBad 1 (copy1 b).cntva true = false := by decide +kernel

/-- The fence's word holds, so HEAD passes it. -/
theorem test_fence : ((after base (execFencePoll 1 0 0 (served fun h => { h with fence := some fence1 }))).queue 1 0).head = 63#16 := by
  decide +kernel

namespace Sys2Proof.Tests

/-- Queue 0 of function 0, and the one partition pending or running. -/
def named_ (pend : Bool) : State :=
  queued_ 0 1 id { base with parts := base.parts.map fun (e : Nat × Part) => (e.1, { e.2 with pending := pend }) }

end Sys2Proof.Tests

theorem witness_preempt_packets : (∀ b ∈ [true, false], parses (named_ b) 0 1 6 (packet 1 6 [2 ^ 32]) = true ∧
      parses (named_ b) 0 1 7 (packet 1 7 [2 ^ 32]) = true) ∧
    (named_ true).parts.length = 1 ∧ (∀ e ∈ (named_ false).parts, e.2.fn = 1 ∧ e.2.pending = false ∧ e.2.state = .running) ∧
    fld (pk (packet 1 7 [2 ^ 32]) 1) 32 16 = 1 ∧ bitOf (pk (packet 1 7 [2 ^ 32] |>.set 0 (word (7 + 2 ^ 17))) 0) 17 = true := by
  decide +kernel
-- Launches, partitions and Wilzia's services.

namespace Sys2Proof.Tests

/-- The one partition with its fields changed. -/
def parted (f : Part → Part) : State := { base with parts := base.parts.map fun (e : Nat × Part) => (e.1, f e.2) }

/-- Its launch pending, in a module that is ready. -/
def pending_ (on : Bool) : State :=
  let s := (parted fun p => { p with state := .unbound, pending := true }).modFn 1 fun f => { f with enabled := on }
  { s with modl := { s.modl with stage := 3 } }

def choice : BindChoice := { dieMask := 1#16, rect := 0x34#16, pid := 9#12, key := 7#32, seed := 5#64, saveDir := 0#64 }

/-- The control context of core 0 quiescent, as are the other cores, which nothing has started. -/
def idle (f : Part → Part) : State :=
  let s := parted f
  { s with cores := (List.range 16).map fun c => (c, { s.core c with ctxs := [(0, { Ctx.reset 0 with finished := true })] }) }

/-- An image of the partition: one core, one byte of its scratchpad. -/
def image : SaveImage := { base.imageOf (base.part 1).shape with mem := [((Mesh.key ⟨0, 17, 0x100⟩), 7#8)] }

end Sys2Proof.Tests

theorem witness_bind : let s := pending_ true; let p := s.part 1; let sh := shapeOf choice.dieMask choice.rect
    amGet? s.parts 1 = some p ∧ p.pending = true ∧ p.held = false ∧ s.modl.emergency = .normal ∧ s.modl.stage = 3 ∧
    s.refused p = false ∧ (pending_ false).refused p = true ∧ placed p.launch choice = true ∧ s.shapeFree sh = true ∧
    s.pidOk p choice.pid = true ∧ (s.boundOf p.fn).length < 16 ∧ s.recordsFree sh = true ∧ s.mayServe 1 = true ∧
    (∀ cl ∈ sh.clusters, (s.cluster cl).retained = false) ∧ p.launch.llen ≤ 0x6000 ∧ p.launch.slen ≤ 0x100000 ∧
    p.accepted + 18000000 ≤ ({ s with now := 18000000 } : State).now ∧ p.capped = false := by decide +kernel

/-- A bind at row 3, column 4. -/
theorem test_bind : let t := after base (execBind 1 choice (pending_ true))
    ((t.core (52 * 16)).capkey, (t.core (52 * 16)).pshape, (t.part 1).pid) = (0x8000000000000007#64, 0x900010034#64, 9#12) := by
  decide +kernel

theorem witness_launch_ends : let s := idle id; let p := s.part 1
    amGet? s.parts 1 = some p ∧ p.state = .running ∧ p.halted = false ∧ Claims.Quiescent s p.shape ∧ Claims.NothingHeld s p ∧ Claims.Rails s ∧
    (let b := parted fun p => { p with state := .binding }; (b.part 1).state = .binding ∧ (b.part 1).preemptHeld = false) := by
  refine ⟨by decide +kernel, by decide +kernel, by decide +kernel, ?_, by unfold Claims.NothingHeld; decide +kernel,
    by unfold Claims.Rails; decide +kernel, by decide +kernel⟩
  have hc : (idle id |>.part 1).shape.coreList = List.range 16 := by decide +kernel
  intro c hc'
  rw [hc, List.mem_range] at hc'
  have q : ∀ c < 16, ((idle id).ctxAt c 0).finished = true ∧ (∀ e ∈ ((idle id).core c).ctxs, e.1 = 0 ∨ e.2.live = false) ∧
      ((idle id).core c).events = [] ∧ ∀ e < 16, (idle id).op? c e = none := by decide +kernel
  refine ⟨(q c hc').1, (q c hc').2.1, (q c hc').2.2.1, fun e o he h => ?_⟩
  rw [(q c hc').2.2.2 e he] at h
  cases h

theorem witness_served : let s := page 0x40000 true true base
    (match s.homeFor (s.fn 1).hrt 0x8000000000040000#64 with | .ok h => h == 4 | .error _ => false) = true ∧
    s.walk 4 1 0#12 (fld (0x8000000000040000#64) 0 48) true = none := by decide +kernel

theorem witness_start : let s := { base.modCx (fun x => { x with live := false, starting := true }) with agenda := [.start 0] }
    s.agenda = .start 0 :: [] ∧ s.runs 0 = true ∧ (s.ctxAt 0 0).starting = true ∧ s.heldStores 0 = [] := by decide +kernel

theorem witness_partitions :
    (∀ st ∈ [PartState.running, .binding, .restoring, .preempting, .savedShadow, .savedMemory, .killed],
      let s := parted fun p => { p with state := st, held := true };
      amGet? s.parts 1 = some (s.part 1) ∧ (s.part 1).pending = false ∧ (s.part 1).state = st ∧ s.mayPreempt (s.part 1) .packet = true) ∧
    (let s := idle fun p => { p with state := .preempting }; (s.part 1).halted = false ∧
      (∀ b ∈ s.bases, ∀ w ∈ b.2.parked, w.req.part ≠ some 1) ∧
      (∀ c ∈ (s.part 1).shape.coreList, ∀ e ∈ (s.core c).ctxs, e.2.pending = [] ∧ e.2.queue = [] ∧
        (e.2.wait.map Wait.kind) ≠ some .wilzia) ∧ s.net = [] ∧
      (∀ cl ∈ (s.part 1).shape.clusters, (∀ e ∈ (s.cluster cl).ops, e.2.flying = []) ∧ ∀ i < 4, (s.unit (4 * cl + i)).step = none)) ∧
    (let s := parted fun p => { p with state := .preempting, halted := true }; s.shadowTaken (s.part 1).shape = false ∧
      s.modl.emergency ≠ .saving ∧ (s.part 1).toMemory = false) ∧
    (let s := parted fun p => { p with state := .savedMemory, saveValid := true, image := some image }; s.shapeFree (s.part 1).shape = true ∧
      s.mayServe 1 = true ∧ (∀ cl ∈ (s.part 1).shape.clusters, (s.cluster cl).retained = false)) ∧
    (Memory.wf image.mem = true ∧ ∀ c ∈ image.mem, c.1 < 2 ^ 64 ∧ (base.part 1).shape.hasCluster (meshOfKey c.1).cluster = true) ∧
    (let s := parted fun p => { p with state := .killed, sweeping := [0] }; 0 ∈ (s.part 1).sweeping ∧
      (s.part 1).killedAt + 2048 ≤ ({ s with now := 2048 } : State).now) ∧
    base.heldCluster 5 = false ∧ (base.cluster 5).retained = false ∧
    ((base.modCluster 5 fun u => { u with retained := true }).cluster 5).retained = true := by decide +kernel

namespace Sys2Proof.Tests

/-- The partition's function has pages at stacks 4 and 5, where its record and its counter lie. -/
def recorded : State :=
  let s := page 0x50000 true true (page 0x40000 true true (idle fun p =>
    { p with launch := { p.launch with recva := 0x8000000000040000#64, cntva := 0x8000000000050008#64 } }))
  s.modFn 1 fun f => { f with hrt := (s.part 1).hrt, trapVa := 0x8000000000040000#64, trapLen := 0x20000 }

end Sys2Proof.Tests

theorem witness_record : let s := recorded; let p := s.part 1
    Claims.Writes s p p.launch.recva 4 0x40000 ∧ Claims.Writes s p p.launch.cntva 5 0x50008 ∧ 0x40000 % 32 = 0 ∧ 0x50008 % 8 = 0 ∧
    Claims.Apart s 1 4 0x400 5 0x500 ∧ Claims.RecordsFree s p ∧ Claims.LargestExit s p.shape 0 := by
  refine ⟨?_, ?_, by decide, by decide, ⟨by decide +kernel, by decide⟩, ?_, ?_⟩
  · refine ⟨by decide +kernel, by decide +kernel, by decide, by decide +kernel, by decide +kernel, ⟨by decide +kernel, fun _ => ?_⟩,
      by decide +kernel, by decide +kernel⟩
    exact ⟨by decide +kernel, by decide +kernel, by decide +kernel⟩
  · refine ⟨by decide +kernel, by decide +kernel, by decide, by decide +kernel, by decide +kernel, ⟨by decide +kernel, fun _ => ?_⟩,
      by decide +kernel, by decide +kernel⟩
    exact ⟨by decide +kernel, by decide +kernel, by decide +kernel⟩
  · have q : ∀ h < 40, (recorded.base h).requests = [] ∧ (recorded.base h).parked = [] ∧ (recorded.base h).asleep = false := by decide +kernel
    exact fun _ _ h _ hh => q h hh
  · exact ⟨by decide +kernel, .inl rfl⟩

/-- Every piece of the trap-kernel image is mapped, and its blocks can be read. -/
theorem witness_trap_image : Claims.TrapResident recorded 1 ∧ Claims.HeldAt recorded 1 0x400 4 := by
  refine ⟨fun pg h h1 h2 h3 => ?_, .stack 4, by decide +kernel, by simp, by decide +kernel, by decide +kernel⟩
  have b : fld (recorded.fn 1).trapVa 0 48 = 0x40000 ∧ (recorded.fn 1).trapLen = 0x20000 := by decide +kernel
  rw [b.1] at h1
  rw [b.1, b.2] at h2
  have q : ∀ k ∈ [4, 5], ∀ h ∈ [4, 5], recorded.ownHome 1 (65536 * k) = some h → recorded.mappedAt h 1 (65536 * k) = true := by decide +kernel
  have r : ∀ k ∈ [4, 5], recorded.ownHome 1 (65536 * k) = some k := by decide +kernel
  have hp : pg ∈ [4, 5] := by simp; omega
  have := r pg hp
  rw [this] at h3
  obtain rfl := Option.some.inj h3
  exact q pg hp pg hp this

/-- A write parked for an engine; a partition that halts, and what a restore reads: a shadow, nothing, an area whose key the
key table holds, and one whose key is gone. -/
theorem witness_parked_by : Claims.ParkedBy 1 { req := { elsewhere with part := some 1, writer := .engine 0 1 2 }, since := 0, old := false } :=
  ⟨rfl, 0, 1, 2, rfl⟩

theorem witness_settled_folds : Claims.FoldsSettled (parted fun p => { p with state := .preempting, halted := true }) (base.part 1) :=
  ⟨by decide +kernel, by decide +kernel⟩

theorem witness_restores (s : State) (p : Part) : Claims.Restores s { p with area := none, image := some image } image ∧
    (image.cores.map Prod.fst).Nodup ∧ (∀ c ∈ image.cores, (base.part 1).shape.hasCluster (c.1 / 16) = true) ∧
    (∀ i, ¬ Claims.Restores s { p with area := none, image := none } i) ∧
    (let a : SaveArea := { base := 0, len := 0, sectors := 1, key := 3, image := image, records := image.records };
      Claims.Restores { s with modl := { s.modl with keys := [(2, 3#256)] } } { p with area := some a, keyEntry := 2 } image ∧
      ∀ i, ¬ Claims.Restores { s with modl := { s.modl with keys := [] } } { p with area := some a, keyEntry := 2 } i) := by
  refine ⟨.inl ⟨rfl, rfl⟩, by decide +kernel, by decide +kernel, fun i h => ?_, .inr ⟨_, rfl, rfl, rfl⟩, fun i h => ?_⟩
  · rcases h with ⟨_, h⟩ | ⟨a, h, _⟩ <;> cases h
  · rcases h with ⟨h, _⟩ | ⟨a, h, _, k⟩
    · cases h
    · obtain rfl := Option.some.inj h
      exact absurd k (by show ¬ ((0 : BitVec 256) = 3); decide)

/-- A restore puts the byte back. -/
theorem test_restore : let t := after base (execRestoreDone 1 true (parted fun p => { p with state := .restoring, image := some image }))
    memGet t.mem (Mesh.key ⟨0, 17, 0x100⟩) = 7#8 ∧ (t.part 1).state = .running := by decide +kernel

namespace Sys2Proof.Tests

/-- A context that waits, with values in a7 and a0. -/
def waiting (k : WaitKind) (a7 a0 : BitVec 64) : State :=
  (kernel.modCx fun x => { (x.setX 17#5 a7).setX 10#5 a0 with wait := some { kind := k, since := 0, tval := 3#64 } })

/-- The same after a long time of its partition. -/
def late (s : State) : State := { s with parts := s.parts.map fun (e : Nat × Part) => (e.1, { e.2 with clock := 2 ^ 80 }) }

end Sys2Proof.Tests

theorem witness_exit : let s := State.reset.withFetchWord 32 0x00000019
    s.cx.live = true ∧ s.cx.level = .u ∧ s.cx.xr 17#5 = 0#64 ∧ s.cx.present.toNat.testBit 17 = true ∧ s.cx.present.toNat.testBit 10 = true ∧
    s.cx.holds false .ecall = false ∧ s.slotOpen 0 = true ∧
    (match s.fetch 0 0 s.cx.pc with | .ok (_, i) => i == .ecall | .error _ => false) = true := by decide +kernel

theorem witness_wilzia : let s (r : BitVec 64) := waiting .wilzia r 14#64
    ((s 0).asks 0 0 && (s 1).asks 0 0 && ((s 0).ctxAt 0 0).request 0 == 0#64 && ((s 1).ctxAt 0 0).request 0 == 1#64 &&
      ((s 2).ctxAt 0 0).request 0 == 2#64 && ((s 9).ctxAt 0 0).request 0 == 9#64 && ((s 0).ctxAt 0 0).row.isNone &&
      ((s 1).ctxAt 0 0).xr 10#5 == 14#64 && ((s 1).ctxAt 0 0).reply.isNone) = true := by decide +kernel

theorem witness_timeouts : (∀ k ∈ [WaitKind.wfe, .barrier 6 0, .transfer 0 none, .ring 3 false, .helper 2, .engineRing, .matrixQueue 0, .mfence 0,
      .ptouch 1, .foldAnswer 0, .presence 5], let s := late (waiting k 0 0)
      (s.ctxAt 0 0).wait = some { kind := k, since := 0, tval := 3#64 } ∧ (s.core 0).waitto.toNat * 1800 ≤ s.clockOf 0 - 0 ∧
      (s.core 0).prsto.toNat * 1800 ≤ s.clockOf 0 - 0) ∧
    (late (waiting (.barrier 6 0) 0 0)).waitMet 0 0 { kind := .barrier 6 0, since := 0, tval := 3#64 } = false ∧
    (let s := (late (waiting (.foldAnswer 0) 0 0)).modFold 0 fun f => { f with fres := [{ core := 0, ctx := 0, key := 1#48, size := 0 }] };
      ∃ f ∈ (s.foldAt 0).fres, f.core = 0 ∧ f.ctx = 0) ∧
    (let s := late (waiting (.presence 5) 0 0) |>.modCx fun x => { x with present := 0xFFFFFFDF#32 };
      (s.ctxAt 0 0).present.toNat.testBit 5 = false ∧ (s.ctxAt 0 0).pending = [] ∧ (s.ctxAt 0 0).queue = [] ∧
      (s.ctxAt 0 0).latheActive = false ∧ (s.ctxAt 0 0).resume = [] ∧ (s.ctxAt 0 0).refetch = false) ∧
    (let s := late (base.modCx fun x => { x with present := 0xFFFFFFDF#32, resume := [x.pc], qwait := some { kind := .presence 5, since := 0, tval := 5#64 } });
      (s.ctxAt 0 0).qwait = some { kind := .presence 5, since := 0, tval := 5#64 } ∧ (s.ctxAt 0 0).resume = s.cx.pc :: []) := by
  decide +kernel
-- Power, bring-up, pods.

theorem witness_budgets : let cs : List Figures := [⟨1, 10, 1⟩, ⟨2, 10, 3⟩]
    (∀ c ∈ cs, 0 ≤ c.f ∧ c.f ≤ c.m ∧ 0 ≤ c.w) ∧ (2 : ℚ) < (cs.map Figures.f).sum ∧ (cs.map Figures.f).sum ≤ 5 := by
  norm_num

/-- Two children below their maxima, which share 4 as 1 to 3, and two of demand 0, which share it as their headroom. -/
theorem test_budgets : divide 7 [⟨1, 10, 1⟩, ⟨2, 10, 3⟩] = [2, 5] ∧ divide 5 [⟨1, 3, 0⟩, ⟨1, 5, 0⟩] = [2, 3] := by
  decide +kernel

namespace Sys2Proof.Tests

/-- A die's power, and an emergency state. -/
def powered (d : DiePower) (e : Emergency) : State :=
  { base with modl := { base.modl with dies := base.modl.dies.set 3 d, emergency := e } }

/-- Die 3 hot by that many degrees, the others cool. -/
def hot (t : Nat) : List Nat := (List.replicate 50 40).set 3 t

end Sys2Proof.Tests

theorem witness_power :
    base.modl.periodAt + 18000 ≤ ({ base with now := 18000 } : State).now ∧ amGet? base.cores 0 ≠ none ∧ amGet? base.quads 0 ≠ none ∧
    ((base.modQuad 0 fun u => { u with opNext := some 3 }).quad 0).opNext = some 3 ∧
    (let s := powered { DiePower.reset with current := 9, ilim := 8 } .normal; (s.die 3).limited = false ∧ (s.die 3).ilim < (s.die 3).current) ∧
    (let s := { powered { DiePower.reset with limited := true, lowSince := some 1800 } .normal with now := 3600 };
      (s.die 3).limited = true ∧ (s.die 3).limitedAt + 3600 ≤ s.now ∧ (s.die 3).lowSince = some 1800 ∧ 1800 + 1800 ≤ s.now) ∧
    (∀ t ∈ [99, 101, 108, 115], (hot t).length = 50 ∧ t ∈ hot t ∧ ∀ x ∈ hot t, x ≤ t) ∧
    base.now < base.modl.sampledAt + 18000 ∧ base.modl.sampledAt + 18000 ≤ ({ base with now := 18000 } : State).now ∧
    (∀ st ∈ [PartState.running, .binding, .restoring, .killed, .savedMemory], let s := parted fun p => { p with state := st }
      amGet? s.parts 1 = some (s.part 1) ∧ (s.part 1).pending = false ∧ (s.part 1).state = st) ∧
    (∀ v, let s := parted fun p => { p with state := .savedMemory, saveValid := v }
      (s.part 1).saveValid = v ∧ s.modl.lostStacks = [] ∧ (s.part 1).state ≠ .killed ∧ (s.part 1).state ≠ .unbound) ∧
    (let s := { powered DiePower.reset .saving with parts := [] }; s.modl.emergency = .saving ∧
      ∀ e ∈ s.parts, e.2.pending = true) ∧
    (∀ e ∈ [Emergency.refresh, .tripped, .recovery], (powered DiePower.reset e).modl.emergency = e) ∧ base.modl.temp < 95 ∧
    base.modl.lostStacks = [] := by decide +kernel

/-- At 108 °C the partition is saved. -/
theorem test_heat : let t := after base (execTemperatureSample (hot 108) { base with now := 18000 })
    t.modl.emergency = .saving ∧ (t.part 1).state = .preempting ∧ (t.die 3).thcut = 1#8 := by decide +kernel

namespace Sys2Proof.Tests

/-- The mailbox holds a request for function 1 with operands. -/
def mailed (code : Nat) (a b c d : BitVec 64) : State :=
  let s := base.modFn 1 fun f => { f with enabled := true, hrt := (base.part 1).hrt }
  { s with modl := { s.modl with stage := 3, mailbox := { s.modl.mailbox with
      req := word code, args := #v[1#64, a, b, c, d], busy := false } } }

end Sys2Proof.Tests

/-- The tables are sound where every listed entry that names a table names one of its own that has been given out. -/
theorem sound_of {s : State} {n : Nat} (h1 : ∀ h, h < 40 → 128 ≤ (s.base h).nextLoc ∧ (s.base h).nextLoc + n ≤ 2 ^ 32)
    (h2 : ∀ e ∈ s.tables, e.1 / 512 % 2 ^ 32 < (s.base (e.1 / 512 / 2 ^ 32)).nextLoc)
    (h3 : ∀ e ∈ s.blocks, e.1 / 256 % 2 ^ 32 < (s.base (e.1 / 256 / 2 ^ 32)).nextLoc)
    (h4 : ∀ e ∈ s.tables, bitOf e.2 63 = true → fld e.2 61 2 = 0 →
      128 ≤ locatorOf e.2 ∧ locatorOf e.2 < (s.base (e.1 / 512 / 2 ^ 32)).nextLoc ∧
      ∀ d ∈ s.tables, bitOf d.2 63 = true → fld d.2 61 2 = 0 → d.1 / 512 / 2 ^ 32 = e.1 / 512 / 2 ^ 32 →
        locatorOf d.2 = locatorOf e.2 → d.1 = e.1) : Claims.TablesSound s n := by
  have named : ∀ k, Claims.NamesTable (amGet 0#64 s.tables k) → (k, amGet 0#64 s.tables k) ∈ s.tables := by
    intro k hk
    rw [amGet?_eq_amGet] at hk ⊢
    cases hv : amGet? s.tables k with
    | none => rw [hv] at hk; exact absurd hk.1 (by decide)
    | some v => exact amGet?_mem hv
  refine fun h hh => ⟨(h1 h hh).1, (h1 h hh).2, fun loc hl hm => ⟨fun i hi => ?_, fun i hi => ?_⟩, fun k hk hn => ?_⟩
  · rw [amGet?_eq_amGet, amGet?_none fun e he hk => ?_]; · rfl
    have := h2 e he
    rw [hk, show ((h * 2 ^ 32 + loc) * 512 + i) / 512 = h * 2 ^ 32 + loc by omega,
      show (h * 2 ^ 32 + loc) % 2 ^ 32 = loc by omega, show (h * 2 ^ 32 + loc) / 2 ^ 32 = h by omega] at this
    omega
  · refine amGet?_none fun e he hk => ?_
    have := h3 e he
    rw [hk, show ((h * 2 ^ 32 + loc) * 256 + i) / 256 = h * 2 ^ 32 + loc by omega,
      show (h * 2 ^ 32 + loc) % 2 ^ 32 = loc by omega, show (h * 2 ^ 32 + loc) / 2 ^ 32 = h by omega] at this
    omega
  · obtain ⟨a, b, c⟩ := h4 _ (named k hn) hn.1 hn.2
    refine ⟨a, hk ▸ b, fun j hj hjn e => c _ (named j hjn) hjn.1 hjn.2 (hj.trans hk.symm) e⟩

/-- Sound tables with a page mapped, under a MAP of 128 KiB, which takes at most 12 locators, and a TRAPK. -/
theorem witness_tables : Claims.TablesSound (page 0x250000 true true (mailed 5 0x8000000000040000 0x20000 3 0)) 2048 :=
  sound_of (by decide +kernel) (by decide +kernel) (by decide +kernel) (by decide +kernel)

theorem witness_functions :
    (∀ k ∈ [1, 2, 3, 4, 5, 6, 7], Claims.Takes (mailed k 0 0 0 0) k) ∧ (mailed 1 0 0 0 0).modl.mailbox.args.get 0 = 1#64 ∧
    ((mailed 1 0 0 0 0).fn 1).enabled = true ∧ (base.fn 2).enabled = false ∧ (∃ e ∈ base.parts, e.2.fn = 1 ∧ e.2.state = .running) ∧
    (∃ e ∈ ({ base with parts := base.parts.map fun (e : Nat × Part) => (e.1, { e.2 with pending := true }) } : State).parts, e.2.fn = 1 ∧ e.2.pending = true) ∧
    (∀ e ∈ base.parts, e.2.fn ≠ 2) ∧
    (∀ k ∈ [(2, 0), (0x1000000, 0xFFFFFE)], let va := 0x8000000000040000#64; let s := mailed 3 va (word k.1) (va + word k.2) 0
      Claims.OwnVa s va ∧ 2 ≤ k.1 ∧ k.1 ≤ 2 ^ 24 ∧ fld va 0 48 + k.1 ≤ 2 ^ 48 ∧ (va + word k.2).toNat % 2 = 0 ∧
        va.toNat ≤ (va + word k.2).toNat ∧ (va + word k.2).toNat < va.toNat + k.1) ∧
    (let s := mailed 3 0x1000 2 0x1000 0; ¬ Claims.OwnVa s (Claims.Operand s 1)) ∧
    (let s := mailed 4 15 0x8000000000200000 0x0000000000200000 0; (Claims.Operand s 1).toNat ≤ 15 ∧ fld (Claims.Operand s 2) 61 2 = 0) ∧
    (let s := mailed 4 15 0xA008000000000000 0 0; fld (Claims.Operand s 2) 61 2 = 1 ∧ 7 < fld (Claims.Operand s 2) 48 6) ∧
    (let m : Mailbox := { base.modl.mailbox with busy := true, pendingRes := some 5#8 }; m.busy = true ∧ m.pendingRes = some 5#8) := by
  unfold Claims.Takes Claims.OwnVa Claims.Operand
  decide +kernel

theorem witness_ranges :
    (let s := mailed 5 0x8000000000040000 0x20000 3 0; Claims.InRange s 65536 ∧
      (∀ i < 2, Claims.InPieces s (4 + i) ∧ s.ownHome 1 (65536 * (4 + i)) = some (4 + i)) ∧ ¬ Claims.InPieces s 3 ∧ ¬ Claims.InPieces s 6) ∧
    (let s := mailed 5 0x8000000000200000 0x200000 15 0; Claims.InRange s (2 ^ 21) ∧ bitOf (Claims.Operand s 3) 3 = true) ∧
    (let s := mailed 5 0x8000000000040000 0x8000 3 0; ¬ Claims.InRange s 65536) ∧
    (let s := (mailed 6 0x8000000000040000 0x20000 0 0).modFn 1 fun f => { f with demand := [{ va := 0, len := 0x80000, r := true, w := false, big := false }] };
      Claims.InRange s 65536 ∧ Claims.Declared s 1 0x40000 true false false) := by
  unfold Claims.InRange Claims.OwnVa Claims.InPieces Claims.Declared Claims.Operand
  decide +kernel

/-- UNMAP of the middle of a declared range leaves its ends declared. -/
theorem test_unmap : let s := (mailed 6 0x8000000000040000 0x20000 0 0).modFn 1 fun f =>
      { f with demand := [{ va := 0, len := 0x80000, r := true, w := false, big := false }] }
    ((after base (execUnmap s)).fn 1).demand.map (fun d => (d.va, d.len)) = [(0, 0x40000), (0x60000, 0x20000)] := by decide +kernel

/-- MAP of a demand-allocated range. -/
theorem test_map : let t := after base (execMap true (mailed 5 0x8000000000040000 0x10000 9 0))
    (t.fn 1).demand = [{ va := 0x40000, len := 0x10000, r := true, w := false, big := false }] ∧ t.modl.mailbox.busy = true := by
  decide +kernel

namespace Sys2Proof.Tests

/-- A partition of a pod PID, with other modules that take part, and every core arrived; this module's number. -/
def podded (own : Nat) (peers : List Nat) : State :=
  let s := { base with parts := base.parts.map fun (e : Nat × Part) => (e.1, { e.2 with pid := 0x900#12 }),
                       cores := (List.range 16).map fun c => (c, { base.core c with barArr := 64#7, barPart := 64#7 }) }
  { s with modl := { s.modl with podFormed := true, podNumber := BitVec.ofNat 6 own, podPeers := [(0x900, (peers, peers))],
                                 routes := peers.map fun m => (m, 0) } }

/-- The module at a stage of boot, with an image in flash. -/
def booting (stage : Nat) (c : Option ImageCheck) (agenda : List Move) : State :=
  { base with agenda := agenda, modl := { base.modl with stage := stage, flash := { id := 0, check := c } } }

end Sys2Proof.Tests

theorem witness_bring_up :
    (∀ st < 5, (booting st none []).modl.stage = st) ∧ (1 ≤ (64 : BitVec 64).toNat ∧ (64 : BitVec 64).toNat ≤ 64 * 2 ^ 20) ∧
    (64 * 2 ^ 20 < (64 * 2 ^ 20 + 1 : BitVec 64).toNat) ∧
    (∀ c ∈ [ImageCheck.good, .badSignature, .badSvn, .unreadable], let s := booting 1 (some c) [.verified]
      s.agenda = .verified :: [] ∧ s.modl.stage = 1 ∧ s.modl.flash.check = some c) ∧
    (booting 3 none [.update .good]).agenda = .update .good :: [] ∧ (booting 3 none [.powerCycle]).agenda = .powerCycle :: [] ∧
    base.modl.attBusy = false ∧ base.modl.nonce.length = 48 ∧
    ([(1, 0), (1, 12), (2, 3)].map fun r => 64 * (r.2 / 12) + r.1).Nodup ∧ base.modl.podPids = [] := by
  decide +kernel

/-- Module 0 is the root of modules 0 and 3; both kinds of arrival, the last and another; module 5 sends its own to root 3. -/
theorem witness_pods :
    (let s := podded 0 [3]; Claims.PodArrives s 0x900 0 0 ∧ Claims.IsRoot s 0x900 ∧ (0x900, 3, 0) ∉ s.modl.podArrivals) ∧
    (let s := podded 0 [3]; let s := { s with modl := { s.modl with podInbox := [(0x900, 3, 0)], podArrivals := [(0x900, 0, 0)] } };
      Claims.PodArrives s 0x900 3 0 ∧ Claims.IsRoot s 0x900 ∧ (0x900, 0, 0) ∈ s.modl.podArrivals ∧ s.portTo 3 = some 0) ∧
    (let s := podded 5 [3]; Claims.PodArrives s 0x900 5 0 ∧ ¬ Claims.IsRoot s 0x900 ∧ (s.podEntry 0x900).isSome = true ∧
      s.portTo 3 = some 0) := by
  refine ⟨?_, ?_, ?_⟩ <;> unfold Claims.PodArrives Claims.IsRoot <;> decide +kernel

/-- The release reaches a module that has sent its arrival, and has its partition in its clusters. -/
theorem witness_release : let s := podded 5 [3]; let s := { s with modl := { s.modl with podSent := [0x900] } }
    s.podPhase 0x900 = 0 ∧ 0x900 ∈ s.modl.podSent ∧ s.podEntry 0x900 = some (1, s.part 1) ∧ (s.part 1).area = none ∧
    (s.part 1).image = none ∧ (s.part 1).shape.coreList.Nodup ∧ Claims.inPhase s 5 6 = true := by
  decide +kernel

/-- The last arrival releases the cores, and the release goes to the other module. -/
theorem test_pod : let s := podded 0 [3]
    let t := after base (execPodArrival 0x900 0 0 { s with modl := { s.modl with podArrivals := [(0x900, 3, 0)] } })
    (t.core 5).barArr = 0#7 ∧ (t.core 5).phase 6 = 1 ∧ (t.port 0).out = [(3, .release 0x900 0)] := by decide +kernel

/-- The boot ROM starts a good image, and stops at one of a bad signature. -/
theorem test_boot :
    ((after base (step (booting 1 (some .good) [.verified]))).modl.stage,
      (after base (step (booting 1 (some .badSignature) [.verified]))).modl.stage,
      (after base (step (booting 1 (some .badSignature) [.verified]))).modl.bootErr) = (2, 4, 1) := by decide +kernel
end
end

section
/-! PROOFS. Memory is what it reads (R4): a store is a sequence of bytes, least significant first, and a canonical
memory is determined by its bytes. -/

namespace Sys2Proof.Machine

-- A store is the bytes of the value, put in order.

theorem natBytes_getElem (n v j : Nat) (h : j < (natBytes n v).length) :
    (natBytes n v)[j] = BitVec.ofNat 8 (v / 256 ^ j) := by
  induction n generalizing v j with
  | zero => simp at h
  | succ n ih =>
    cases j with
    | zero => simp [natBytes]
    | succ j => simp only [natBytes, List.getElem_cons_succ, ih, Nat.div_div_eq_div_mul, pow_succ']

theorem memWrite_eq_memPut (m : List Host.Cell) (a n v : Nat) : memWrite m a n v = memPut m a (natBytes n v) := by
  induction n generalizing m a v with
  | zero => rfl
  | succ n ih => exact ih _ _ _

/-- The byte at a + j is bits 8j to 8j + 7 of the value (R4). -/
theorem memGet_memWrite_in (m : List Host.Cell) (a n v j : Nat) (h : j < n) :
    memGet (memWrite m a n v) (a + j) = BitVec.ofNat 8 (v / 256 ^ j) := by
  have hj : j < (natBytes n v).length := by simpa using h
  rw [memWrite_eq_memPut, memGet_memPut_in m a _ j hj, natBytes_getElem]

theorem memGet_memWrite_out (m : List Host.Cell) (a n v b : Nat) (h : b < a ∨ a + n ≤ b) :
    memGet (memWrite m a n v) b = memGet m b := by
  rw [memWrite_eq_memPut]
  exact memGet_memPut_out m _ (by simpa using h)

theorem memRead_memWrite (m : List Host.Cell) (a n v : Nat) (h : v < 256 ^ n) :
    memRead (memWrite m a n v) a n = v := by
  rw [memWrite_eq_memPut]
  exact memRead_memPut_natBytes m a n v h

-- A canonical memory lists exactly the bytes that do not read as 0.

/-- In a map whose keys rise, a listed key gives the value it is listed with. -/
theorem amGet_of_mem {β : Type} {d : β} {m : AMap β} {j : Nat} {w : β} (hm : m.Pairwise (fun a b => a.1 < b.1))
    (h : (j, w) ∈ m) : amGet d m j = w := by
  induction m with
  | nil => simp at h
  | cons e m ih =>
    obtain ⟨k, v⟩ := e
    obtain ⟨hk, hm⟩ := List.pairwise_cons.1 hm
    rcases List.mem_cons.1 h with h | h
    · cases h; simp [amGet]
    · have hkj : k < j := hk _ h
      simp only [amGet, if_neg hkj.ne, ih hm h]

/-- What does not read as the default is listed. -/
theorem mem_of_amGet_ne {β : Type} {d : β} {m : AMap β} {j : Nat} (h : amGet d m j ≠ d) : (j, amGet d m j) ∈ m := by
  rw [amGet?_eq_amGet] at h ⊢
  cases hw : amGet? m j with
  | none => simp [hw] at h
  | some w => exact amGet?_mem hw

theorem Memory.mem_iff {m : List Host.Cell} (hm : Memory.wf m = true) (c : Host.Cell) :
    c ∈ m ↔ memGet m c.1 = c.2 ∧ c.2 ≠ 0#8 := by
  obtain ⟨hrise, hnz⟩ := (Memory.wf_iff m).1 hm
  constructor
  · exact fun h => ⟨amGet_of_mem hrise h, hnz c h⟩
  · rintro ⟨hget, hc⟩
    have hmem : (c.1, memGet m c.1) ∈ m := mem_of_amGet_ne (fun h0 => hc (hget.symm.trans h0))
    rwa [hget] at hmem

/-- Two canonical memories that read alike everywhere are the same list. -/
theorem Memory.ext_of_memGet {m m' : List Host.Cell} (hm : Memory.wf m = true) (hm' : Memory.wf m' = true)
    (h : ∀ a, memGet m a = memGet m' a) : m = m' :=
  List.Pairwise.eq_of_mem_iff (r := InvImage (· < ·) Prod.fst) ((Memory.wf_iff m).1 hm).1 ((Memory.wf_iff m').1 hm').1
    fun c => by rw [Memory.mem_iff hm, Memory.mem_iff hm', h]

/-- Settles O7: a store puts the value's bytes in order, and a canonical memory lists exactly the bytes that are
not 0. -/
theorem memoryIsWhatItReads : Obligations.MemoryIsWhatItReads := by
  unfold Obligations.MemoryIsWhatItReads
  exact ⟨fun m a n v hv => ⟨memGet_memWrite_in m a n v, memGet_memWrite_out m a n v, memRead_memWrite m a n v hv⟩,
    fun _ _ => Memory.ext_of_memGet⟩

end Sys2Proof.Machine
end

section
/-! PROOFS. Scalar instructions (06_isa_scalar.md): what their words decode to, what an instruction of the integer pipe
comes to where it issues, and integers modulo 2^64. -/

namespace Sys2Proof.Machine

-- Words (R111, R112). The layouts of the statements are the slots of Table 5-1 with adjoining fields joined.

theorem decode32_eq_some {i : Instr} {w : BitVec 32} (h : Laws.RoundTrip.Statement i) (he : encode32 i = some w)
    (hi : i.wellFormed = true) : decode32 w = some i := by
  simp [decode32, h.1 w he, hi]

theorem decode32_eq_none_of_illFormed {i : Instr} {w : BitVec 32} (h : Laws.RoundTrip.Statement i)
    (he : encode32 i = some w) (hi : i.wellFormed = false) : decode32 w = none := by
  simp [decode32, h.1 w he, hi]

theorem decode32_pack32_eq_none {f7 : BitVec 7} {b : BitVec 5} {f3 : BitVec 3} {a d : BitVec 5} {opc : BitVec 7}
    (h : decodeMajor opc.toNat { f7 := f7, b := b, f3 := f3, a := a, d := d } = none) :
    decode32 (pack32 f7 b f3 a d opc) = none := by
  simp [decode32, Laws.RoundTrip.opcodeOf_pack, Laws.RoundTrip.slots_pack, h]

theorem iWord_eq_pack32 (imm : BitVec 12) (f3 : BitVec 3) (a d : BitVec 5) (opc : BitVec 7) :
    Claims.iWord imm f3 a d opc = pack32 (imm.extractLsb' 5 7) (imm.extractLsb' 0 5) f3 a d opc := by
  conv_lhs => rw [← Laws.RoundTrip.join12 imm]
  rfl

theorem uWord_eq_pack32 (imm : BitVec 20) (d : BitVec 5) (opc : BitVec 7) :
    (imm ++ d ++ opc : BitVec 32) =
      pack32 (imm.extractLsb' 13 7) (imm.extractLsb' 8 5) (imm.extractLsb' 5 3) (imm.extractLsb' 0 5) d opc := by
  conv_lhs => rw [← Laws.RoundTrip.join20 imm]
  rfl

/-- Two fields of 6 bits, the lower one divided between the slots. -/
theorem sixes_eq_join (h l : BitVec 6) : (h ++ l : BitVec 12) = ((h ++ l.extractLsb' 5 1) ++ l.extractLsb' 0 5 : BitVec 12) := by
  conv_lhs => rw [← Laws.RoundTrip.join6 l]
  exact (BitVec.append_assoc (x₁ := h) (x₂ := l.extractLsb' 5 1) (x₃ := l.extractLsb' 0 5)).symm

/-- The word of BFX, BFI and the immediate shifts. -/
theorem sixesWord_eq_pack32 (h l : BitVec 6) (f3 : BitVec 3) (a d : BitVec 5) (opc : BitVec 7) :
    (h ++ l ++ f3 ++ a ++ d ++ opc : BitVec 32) = pack32 (h ++ l.extractLsb' 5 1) (l.extractLsb' 0 5) f3 a d opc := by
  rw [sixes_eq_join h l]
  rfl

-- What an instruction comes to where it issues.

theorem writesX_of_issues {i : Instr} {s : State} (h : s.Issues i) (d : BitVec 5) (v : State → BitVec 64) (n : Nat) :
    writesX i d v n s = .next ((s.setX d (v s)).bump n) := gated_of_issues h _

theorem branch_of_issues {i : Instr} {s : State} (h : s.Issues i) (cond : State → Bool) (o : BitVec 12) :
    branch i cond o s = .next (s.jump (if cond s then s.cx.pc + imm12 o * 2#64 else s.cx.pc + 4#64)) := gated_of_issues h _

theorem gatedRun_of_issues {i : Instr} {s : State} (h : s.Issues i) (k : State → Run) :
    gatedRun i s k = s.finish (k s) := gated_of_issues h _

@[simp] theorem State.finish_ok (s t : State) : s.finish (.ok t) = .next t := rfl
@[simp] theorem State.finish_error (s t : State) (tr : Trap) : s.finish (.error (t, tr)) = s.raise t tr := rfl

-- Integers modulo 2^64.

theorem wrap_natCast (n : Nat) : Claims.wrap n = word n := BitVec.ofInt_natCast 64 n
theorem wrap_add (x y : Int) : Claims.wrap (x + y) = Claims.wrap x + Claims.wrap y := BitVec.ofInt_add x y
theorem wrap_mul (x y : Int) : Claims.wrap (x * y) = Claims.wrap x * Claims.wrap y := BitVec.ofInt_mul x y
theorem wrap_sub (x y : Int) : Claims.wrap (x - y) = Claims.wrap x - Claims.wrap y := by
  rw [eq_sub_iff_add_eq, ← wrap_add, sub_add_cancel]
@[simp] theorem wrap_toInt (x : BitVec 64) : Claims.wrap x.toInt = x := BitVec.ofInt_toInt
@[simp] theorem wrap_toNat (x : BitVec 64) : Claims.wrap x.toNat = x := by
  rw [wrap_natCast]; exact BitVec.ofNat_toNat 64 x

/-- A field sign-extended to 64 bits. -/
theorem wrap_toInt_eq_signExtend {w : Nat} (x : BitVec w) : Claims.wrap x.toInt = x.signExtend 64 := rfl

theorem toNat_word {n : Nat} (h : n < 2 ^ 64) : (word n).toNat = n := Nat.mod_eq_of_lt h

end Sys2Proof.Machine
end

section
/-! PROOFS. Division (R136). -/

namespace Sys2Proof.Machine

-- The corner cases of Table 6-4 and the quotients and remainders of the others.

theorem aluDiv_zero (x : BitVec 64) : aluDiv x 0#64 = 0xFFFFFFFFFFFFFFFF#64 := rfl

theorem aluDiv_overflow : aluDiv 0x8000000000000000#64 0xFFFFFFFFFFFFFFFF#64 = 0x8000000000000000#64 := by decide

/-- A truncated quotient is no larger than the dividend, so that of −2^63 by −1 alone is not a signed word. -/
theorem toInt_aluDiv {x y : BitVec 64} (h0 : y ≠ 0#64)
    (ho : ¬ (x = 0x8000000000000000#64 ∧ y = 0xFFFFFFFFFFFFFFFF#64)) : (aluDiv x y).toInt = x.toInt.tdiv y.toInt := by
  rw [aluDiv, if_neg h0, ← BitVec.toInt_sdiv_of_ne_or_ne x y, BitVec.ofInt_toInt]
  by_contra hc
  push Not at hc
  exact ho hc

theorem aluDivu_zero (x : BitVec 64) : aluDivu x 0#64 = 0xFFFFFFFFFFFFFFFF#64 := rfl

theorem toNat_aluDivu {x y : BitVec 64} (h0 : y ≠ 0#64) : (aluDivu x y).toNat = x.toNat / y.toNat := by
  rw [aluDivu, if_neg h0]
  exact toNat_word ((Nat.div_le_self _ _).trans_lt x.isLt)

theorem aluRem_zero (x : BitVec 64) : aluRem x 0#64 = x := rfl

theorem toInt_aluRem {x y : BitVec 64} (h0 : y ≠ 0#64) : (aluRem x y).toInt = x.toInt.tmod y.toInt := by
  rw [aluRem, if_neg h0, ← BitVec.toInt_srem, BitVec.ofInt_toInt]

theorem aluRemu_zero (x : BitVec 64) : aluRemu x 0#64 = x := rfl

theorem toNat_aluRemu {x y : BitVec 64} (h0 : y ≠ 0#64) : (aluRemu x y).toNat = x.toNat % y.toNat := by
  rw [aluRemu, if_neg h0]
  exact toNat_word ((Nat.mod_le _ _).trans_lt x.isLt)

/-- Settles O14: each instruction writes its function of Table 6-4, which is taken apart at its corner cases. -/
theorem division : Obligations.Division := by
  unfold Obligations.Division
  intro s d a b
  refine ⟨?words,
    fun h => ⟨_, (exec_div d a b s).trans (writesX_of_issues h d _ 4), ?_, ?_, toInt_aluDiv⟩,
    fun h => ⟨_, (exec_divu d a b s).trans (writesX_of_issues h d _ 4), ?_, toNat_aluDivu⟩,
    fun h => ⟨_, (exec_rem d a b s).trans (writesX_of_issues h d _ 4), ?_, toInt_aluRem⟩,
    fun h => ⟨_, (exec_remu d a b s).trans (writesX_of_issues h d _ 4), ?_, toNat_aluRemu⟩⟩
  case words =>
    intro f3 i hi
    simp only [List.mem_cons, List.not_mem_nil, or_false, Prod.mk.injEq] at hi
    rcases hi with ⟨rfl, rfl⟩ | ⟨rfl, rfl⟩ | ⟨rfl, rfl⟩ | ⟨rfl, rfl⟩
    · exact ⟨decode32_eq_some (Laws.RoundTrip.div d a b) rfl rfl, rfl⟩
    · exact ⟨decode32_eq_some (Laws.RoundTrip.divu d a b) rfl rfl, rfl⟩
    · exact ⟨decode32_eq_some (Laws.RoundTrip.rem d a b) rfl rfl, rfl⟩
    · exact ⟨decode32_eq_some (Laws.RoundTrip.remu d a b) rfl rfl, rfl⟩
  · intro hb; rw [hb, aluDiv_zero]
  · intro ha hb; rw [ha, hb, aluDiv_overflow]
  · intro hb; rw [hb, aluDivu_zero]
  · intro hb; rw [hb, aluRem_zero]
  · intro hb; rw [hb, aluRemu_zero]

end Sys2Proof.Machine
end
section
/-! PROOFS. Branches and jumps (R141 to R143). -/

namespace Sys2Proof.Machine

/-- A target relative to an address: an offset in halfwords, sign-extended. -/
theorem wrap_offset {w : Nat} (p : BitVec 64) (o : BitVec w) :
    Claims.wrap (p.toNat + o.toInt * 2) = p + o.signExtend 64 * 2#64 := by
  rw [wrap_add, wrap_mul, wrap_toNat, wrap_toInt_eq_signExtend]; rfl

/-- A base and an offset in bytes, sign-extended. -/
theorem wrap_toNat_add_toInt {w : Nat} (x : BitVec 64) (o : BitVec w) :
    Claims.wrap (x.toNat + o.toInt) = x + o.signExtend 64 := by
  rw [wrap_add, wrap_toNat, wrap_toInt_eq_signExtend]

theorem bne_eq_decide_ne (x y : BitVec 64) : (x != y) = decide (x ≠ y) := by
  rw [bne, Bool.beq_eq_decide_eq, decide_not]

/-- Every branch goes on at its target or after its four bytes. -/
theorem branch_target {i : Instr} {s : State} (h : s.Issues i) {cond : State → Bool} {c : Bool} (hc : cond s = c)
    (o : BitVec 12) : branch i cond o s =
      .next (s.jump (if c then Claims.wrap (s.cx.pc.toNat + o.toInt * 2) else s.cx.pc + 4#64)) := by
  rw [branch_of_issues h, hc, wrap_offset]; rfl

/-- JALR's target comes from its source as it was before the link value is written. -/
theorem execJalr_of_issues {d a : BitVec 5} {o : BitVec 12} {s : State} (h : s.Issues (.jalr d a o)) {t : BitVec 64}
    (ht : s.x a + imm12 o = t) : execJalr d a o s =
      if bitOf t 0 then s.raise s (trap cAlign t) else .next ((s.setX d (s.cx.pc + 4#64)).jump t) := by
  subst ht
  rw [execJalr, gatedRun_of_issues h]
  split <;> rename_i hb <;> simp [hb]

/-- Settles O17: the statement's target is the model's, and each word is the instruction's own; fn3 2 and 3 of major 7 have
no instruction. -/
theorem branchesAndJumps : Obligations.BranchesAndJumps := by
  unfold Obligations.BranchesAndJumps
  intro s d a b o j
  refine ⟨?words, fun f7 d => ⟨?two, ?three⟩, ?jal, ?jalr, ?branches, fun h => ?jump, fun h h0 => ?even, fun h h1 => ?odd⟩
  case words =>
    intro f3 i hi
    simp only [List.mem_cons, List.not_mem_nil, or_false, Prod.mk.injEq] at hi
    rcases hi with e | e | e | e | e | e <;> obtain ⟨rfl, rfl⟩ := e
    · exact ⟨decode32_eq_some (Laws.RoundTrip.beq a b o) rfl rfl, rfl⟩
    · exact ⟨decode32_eq_some (Laws.RoundTrip.bne a b o) rfl rfl, rfl⟩
    · exact ⟨decode32_eq_some (Laws.RoundTrip.blt a b o) rfl rfl, rfl⟩
    · exact ⟨decode32_eq_some (Laws.RoundTrip.bge a b o) rfl rfl, rfl⟩
    · exact ⟨decode32_eq_some (Laws.RoundTrip.bltu a b o) rfl rfl, rfl⟩
    · exact ⟨decode32_eq_some (Laws.RoundTrip.bgeu a b o) rfl rfl, rfl⟩
  case two => exact decode32_pack32_eq_none rfl
  case three => exact decode32_pack32_eq_none rfl
  case jal => exact decode32_eq_some (Laws.RoundTrip.jal d j) (congrArg some (uWord_eq_pack32 j d _).symm) rfl
  case jalr => exact decode32_eq_some (Laws.RoundTrip.jalr d a o) (congrArg some (iWord_eq_pack32 o _ a d _).symm) rfl
  case branches =>
    intro i cond hi h
    simp only [List.mem_cons, List.not_mem_nil, or_false, Prod.mk.injEq] at hi
    rcases hi with e | e | e | e | e | e <;> obtain ⟨rfl, rfl⟩ := e
    · exact (exec_beq a b o s).trans (branch_target h (Bool.beq_eq_decide_eq (s.x a) (s.x b)) o)
    · exact (exec_bne a b o s).trans (branch_target h (bne_eq_decide_ne (s.x a) (s.x b)) o)
    · exact (exec_blt a b o s).trans (branch_target h rfl o)
    · exact (exec_bge a b o s).trans (branch_target h rfl o)
    · exact (exec_bltu a b o s).trans (branch_target h rfl o)
    · exact (exec_bgeu a b o s).trans (branch_target h rfl o)
  case jump => rw [wrap_offset]; exact (exec_jal d j s).trans (gated_of_issues h _)
  case even =>
    rw [exec_jalr, execJalr_of_issues h (wrap_toNat_add_toInt _ o).symm, h0]; rfl
  case odd =>
    rw [exec_jalr, execJalr_of_issues h (wrap_toNat_add_toInt _ o).symm, h1]; rfl

end Sys2Proof.Machine
end

section
/-! PROOFS. The integer, multiply, bit and field instructions (R112, R133 to R135, R137, R138). -/

namespace Sys2Proof.Machine

-- The functions of Tables 6-3 and 6-5 as integers modulo 2^64.

theorem shiftLeft_eq_wrap (x : BitVec 64) (k : Nat) : x <<< k = Claims.wrap (x.toNat * 2 ^ k) := by
  apply BitVec.eq_of_toNat_eq
  have h : Claims.wrap (x.toNat * 2 ^ k) = word (x.toNat * 2 ^ k) := by exact_mod_cast wrap_natCast _
  rw [h, word, BitVec.toNat_shiftLeft, BitVec.toNat_ofNat, Nat.shiftLeft_eq]

theorem ushiftRight_eq_wrap (x : BitVec 64) (k : Nat) : x >>> k = Claims.wrap (x.toNat / 2 ^ k) := by
  apply BitVec.eq_of_toNat_eq
  have h : Claims.wrap (x.toNat / 2 ^ k) = word (x.toNat / 2 ^ k) := by exact_mod_cast wrap_natCast _
  rw [h, toNat_word ((Nat.div_le_self _ _).trans_lt x.isLt), BitVec.toNat_ushiftRight, Nat.shiftRight_eq_div_pow]

theorem sshiftRight_eq_wrap (x : BitVec 64) (k : Nat) : x.sshiftRight k = Claims.wrap (x.toInt / 2 ^ k) := by
  rw [← wrap_toInt (x.sshiftRight k), BitVec.toInt_sshiftRight, Int.shiftRight_eq_div_pow]
  push_cast; rfl

theorem aluSlt_imm12 (x : BitVec 64) (o : BitVec 12) : aluSlt x (imm12 o) = if x.toInt < o.toInt then 1#64 else 0#64 := by
  rw [aluSlt, imm12, BitVec.toInt_signExtend_of_le (by decide)]

theorem aluMin_eq_wrap (x y : BitVec 64) : aluMin x y = Claims.wrap (min x.toInt y.toInt) := by
  unfold aluMin; split
  · rw [min_eq_left (by omega), wrap_toInt]
  · rw [min_eq_right (by omega), wrap_toInt]

theorem aluMax_eq_wrap (x y : BitVec 64) : aluMax x y = Claims.wrap (max x.toInt y.toInt) := by
  unfold aluMax; split
  · rw [max_eq_right (by omega), wrap_toInt]
  · rw [max_eq_left (by omega), wrap_toInt]

theorem aluMinu_eq_wrap (x y : BitVec 64) : aluMinu x y = Claims.wrap (min x.toNat y.toNat : Nat) := by
  unfold aluMinu; split
  · rw [min_eq_left (by omega), wrap_toNat]
  · rw [min_eq_right (by omega), wrap_toNat]

theorem aluMaxu_eq_wrap (x y : BitVec 64) : aluMaxu x y = Claims.wrap (max x.toNat y.toNat : Nat) := by
  unfold aluMaxu; split
  · rw [max_eq_right (by omega), wrap_toNat]
  · rw [max_eq_left (by omega), wrap_toNat]

theorem add_eq_wrap (x y : BitVec 64) : x + y = Claims.wrap (x.toNat + y.toNat) := by
  rw [wrap_add, wrap_toNat, wrap_toNat]

theorem sub_eq_wrap (x y : BitVec 64) : x - y = Claims.wrap (x.toNat - y.toNat) := by
  rw [wrap_sub, wrap_toNat, wrap_toNat]

theorem mul_eq_wrap (x y : BitVec 64) : x * y = Claims.wrap (x.toNat * y.toNat) := by
  rw [wrap_mul, wrap_toNat, wrap_toNat]

/-- The low w bits of a number sign-extended. -/
theorem sext_eq_wrap (w : Nat) (x : BitVec 64) : sext w x.toNat = Claims.wrap (x.extractLsb' 0 w).toInt := rfl

/-- An instruction whose meaning is to write one value writes that value where it issues. -/
theorem writes_result {s : State} {i : Instr} {d : BitVec 5} {f : State → BitVec 64} {v : BitVec 64} {n : Nat}
    (hc : i.cls = .none) (he : exec i s = writesX i d f n s) (hv : f s = v) :
    i.cls = .none ∧ (s.Issues i → exec i s = .next ((s.setX d v).bump n)) :=
  ⟨hc, fun h => by rw [he, writesX_of_issues h, hv]⟩

/-- Every instruction that `Claims.intResult` gives a result writes it. -/
theorem integerResults : Claims.IntegerResults := by
  intro s i d v n h
  unfold Claims.intResult at h
  split at h <;> cases h
  · exact writes_result rfl (exec_add _ _ _ _) (add_eq_wrap _ _)
  · exact writes_result rfl (exec_sub _ _ _ _) (sub_eq_wrap _ _)
  · exact writes_result rfl (exec_sll _ _ _ _) (shiftLeft_eq_wrap _ _)
  · exact writes_result rfl (exec_slt _ _ _ _) rfl
  · exact writes_result rfl (exec_sltu _ _ _ _) rfl
  · exact writes_result rfl (exec_xor _ _ _ _) rfl
  · exact writes_result rfl (exec_srl _ _ _ _) (ushiftRight_eq_wrap _ _)
  · exact writes_result rfl (exec_sra _ _ _ _) (sshiftRight_eq_wrap _ _)
  · exact writes_result rfl (exec_or _ _ _ _) rfl
  · exact writes_result rfl (exec_and _ _ _ _) rfl
  · exact writes_result rfl (exec_min _ _ _ _) (aluMin_eq_wrap _ _)
  · exact writes_result rfl (exec_max _ _ _ _) (aluMax_eq_wrap _ _)
  · exact writes_result rfl (exec_minu _ _ _ _) (aluMinu_eq_wrap _ _)
  · exact writes_result rfl (exec_maxu _ _ _ _) (aluMaxu_eq_wrap _ _)
  · exact writes_result rfl (exec_mul _ _ _ _) (mul_eq_wrap _ _)
  · exact writes_result rfl (exec_mulh _ _ _ _) rfl
  · exact writes_result rfl (exec_mulhsu _ _ _ _) rfl
  · exact writes_result rfl (exec_mulhu _ _ _ _) rfl
  · exact writes_result rfl (exec_sextb _ _ _) (sext_eq_wrap 8 _)
  · exact writes_result rfl (exec_sexth _ _ _) (sext_eq_wrap 16 _)
  · exact writes_result rfl (exec_sextw _ _ _) (sext_eq_wrap 32 _)
  · exact writes_result rfl (exec_addi _ _ _ _) (wrap_toNat_add_toInt _ _).symm
  · exact writes_result rfl (exec_slti _ _ _ _) (aluSlt_imm12 _ _)
  · exact writes_result rfl (exec_sltiu _ _ _ _) rfl
  · exact writes_result rfl (exec_xori _ _ _ _) rfl
  · exact writes_result rfl (exec_ori _ _ _ _) rfl
  · exact writes_result rfl (exec_andi _ _ _ _) rfl
  · exact writes_result rfl (exec_slli _ _ _ _) (shiftLeft_eq_wrap _ _)
  · exact writes_result rfl (exec_srli _ _ _ _) (ushiftRight_eq_wrap _ _)
  · exact writes_result rfl (exec_srai _ _ _ _) (sshiftRight_eq_wrap _ _)
  · exact writes_result rfl (exec_lih _ _ _) rfl
  · exact writes_result rfl (exec_addpc _ _ _) (wrap_toNat_add_toInt _ _).symm
  · exact writes_result rfl (exec_add16 _ _ _) (add_eq_wrap _ _)
  · exact writes_result rfl (exec_sub16 _ _ _) (sub_eq_wrap _ _)
  · exact writes_result rfl (exec_and16 _ _ _) rfl
  · exact writes_result rfl (exec_or16 _ _ _) rfl
  · exact writes_result rfl (exec_xor16 _ _ _) rfl
  · exact writes_result rfl (exec_sll16 _ _ _) (shiftLeft_eq_wrap _ _)
  · exact writes_result rfl (exec_srl16 _ _ _) (ushiftRight_eq_wrap _ _)
  · exact writes_result rfl (exec_mv16 _ _ _) rfl
  · exact writes_result rfl (exec_addi16 _ _ _) (wrap_toNat_add_toInt _ _).symm

end Sys2Proof.Machine
end

section
/-! PROOFS. The words of the integer instructions, and the bit and field instructions (R112, R133 to R135, R137, R138). -/

namespace Sys2Proof.Machine

-- The words (Table 5-5).

/-- Major 2 with fn3 1 and 5 takes the upper six bits of its immediate as a function code. -/
theorem shiftWords (d a : BitVec 5) (sh : BitVec 6) :
    decode32 (Claims.iWord (0#6 ++ sh) 1 a d 0x05) = some (.slli d a sh) ∧
    decode32 (Claims.iWord (0#6 ++ sh) 5 a d 0x05) = some (.srli d a sh) ∧
    decode32 (Claims.iWord (0x10#6 ++ sh) 5 a d 0x05) = some (.srai d a sh) ∧
    (∀ h : BitVec 6, h ≠ 0#6 → decode32 (Claims.iWord (h ++ sh) 1 a d 0x05) = none ∧
      (h ≠ 0x10#6 → decode32 (Claims.iWord (h ++ sh) 5 a d 0x05) = none)) := by
  simp only [Claims.iWord, sixesWord_eq_pack32]
  refine ⟨decode32_eq_some (Laws.RoundTrip.slli d a sh) rfl rfl, decode32_eq_some (Laws.RoundTrip.srli d a sh) rfl rfl,
    decode32_eq_some (Laws.RoundTrip.srai d a sh) rfl rfl, fun h h0 => ⟨?_, fun h16 => ?_⟩⟩
  all_goals
    have hf : (h ++ sh.extractLsb' 5 1).extractLsb' 1 6 = h := Laws.RoundTrip.extract_high _ _ _ rfl
    refine decode32_pack32_eq_none (show decode05 _ = none from ?_)
    simp [decode05, *]

/-- BFX and BFI whose field ends past bit 63 are ill-formed (R138). -/
theorem fieldWords (d a : BitVec 5) (l p : BitVec 6) :
    (p.toNat + l.toNat + 1 ≤ 64 → decode32 (l ++ p ++ 0#3 ++ a ++ d ++ 0x15#7) = some (.bfx d a l p) ∧
      decode32 (l ++ p ++ 1#3 ++ a ++ d ++ 0x15#7) = some (.bfi d a l p)) ∧
    (64 < p.toNat + l.toNat + 1 → decode32 (l ++ p ++ 0#3 ++ a ++ d ++ 0x15#7) = none ∧
      decode32 (l ++ p ++ 1#3 ++ a ++ d ++ 0x15#7) = none) := by
  simp only [sixesWord_eq_pack32]
  refine ⟨fun h => ?_, fun h => ?_⟩
  · have hw := decide_eq_true h
    exact ⟨decode32_eq_some (Laws.RoundTrip.bfx d a l p) rfl hw, decode32_eq_some (Laws.RoundTrip.bfi d a l p) rfl hw⟩
  · have hw := decide_eq_false (not_le_of_gt h)
    exact ⟨decode32_eq_none_of_illFormed (Laws.RoundTrip.bfx d a l p) rfl hw,
      decode32_eq_none_of_illFormed (Laws.RoundTrip.bfi d a l p) rfl hw⟩

theorem integerWords : Claims.IntegerWords := by
  refine ⟨fun d a b => ⟨?tables, ?minMaxMul, ?unary⟩, fun d a imm => ?immediates, fun d a sh => ?shifts,
    fun d imm => ?upper, fun d a l p => ?fields⟩
  case tables =>
    intro f7 f3 i hi
    simp only [List.mem_cons, List.not_mem_nil, or_false, Prod.mk.injEq] at hi
    rcases hi with h | h | h | h | h | h | h | h | h | h <;> obtain ⟨rfl, rfl, rfl⟩ := h
    · exact decode32_eq_some (Laws.RoundTrip.add d a b) rfl rfl
    · exact decode32_eq_some (Laws.RoundTrip.sub d a b) rfl rfl
    · exact decode32_eq_some (Laws.RoundTrip.sll d a b) rfl rfl
    · exact decode32_eq_some (Laws.RoundTrip.slt d a b) rfl rfl
    · exact decode32_eq_some (Laws.RoundTrip.sltu d a b) rfl rfl
    · exact decode32_eq_some (Laws.RoundTrip.xor d a b) rfl rfl
    · exact decode32_eq_some (Laws.RoundTrip.srl d a b) rfl rfl
    · exact decode32_eq_some (Laws.RoundTrip.sra d a b) rfl rfl
    · exact decode32_eq_some (Laws.RoundTrip.or d a b) rfl rfl
    · exact decode32_eq_some (Laws.RoundTrip.and d a b) rfl rfl
  case minMaxMul =>
    intro f7 f3 i hi
    simp only [List.mem_cons, List.not_mem_nil, or_false, Prod.mk.injEq] at hi
    rcases hi with h | h | h | h | h | h | h | h <;> obtain ⟨rfl, rfl, rfl⟩ := h
    · exact decode32_eq_some (Laws.RoundTrip.min d a b) rfl rfl
    · exact decode32_eq_some (Laws.RoundTrip.max d a b) rfl rfl
    · exact decode32_eq_some (Laws.RoundTrip.minu d a b) rfl rfl
    · exact decode32_eq_some (Laws.RoundTrip.maxu d a b) rfl rfl
    · exact decode32_eq_some (Laws.RoundTrip.mul d a b) rfl rfl
    · exact decode32_eq_some (Laws.RoundTrip.mulh d a b) rfl rfl
    · exact decode32_eq_some (Laws.RoundTrip.mulhsu d a b) rfl rfl
    · exact decode32_eq_some (Laws.RoundTrip.mulhu d a b) rfl rfl
  case unary =>
    intro f3 i hi
    simp only [List.mem_cons, List.not_mem_nil, or_false, Prod.mk.injEq] at hi
    rcases hi with h | h | h | h | h | h | h <;> obtain ⟨rfl, rfl⟩ := h
    · exact decode32_eq_some (Laws.RoundTrip.clz d a) rfl rfl
    · exact decode32_eq_some (Laws.RoundTrip.ctz d a) rfl rfl
    · exact decode32_eq_some (Laws.RoundTrip.popc d a) rfl rfl
    · exact decode32_eq_some (Laws.RoundTrip.brev d a) rfl rfl
    · exact decode32_eq_some (Laws.RoundTrip.sextb d a) rfl rfl
    · exact decode32_eq_some (Laws.RoundTrip.sexth d a) rfl rfl
    · exact decode32_eq_some (Laws.RoundTrip.sextw d a) rfl rfl
  case immediates =>
    intro f3 i hi
    rw [iWord_eq_pack32]
    simp only [List.mem_cons, List.not_mem_nil, or_false, Prod.mk.injEq] at hi
    rcases hi with h | h | h | h | h | h <;> obtain ⟨rfl, rfl⟩ := h
    · exact decode32_eq_some (Laws.RoundTrip.addi d a imm) rfl rfl
    · exact decode32_eq_some (Laws.RoundTrip.slti d a imm) rfl rfl
    · exact decode32_eq_some (Laws.RoundTrip.sltiu d a imm) rfl rfl
    · exact decode32_eq_some (Laws.RoundTrip.xori d a imm) rfl rfl
    · exact decode32_eq_some (Laws.RoundTrip.ori d a imm) rfl rfl
    · exact decode32_eq_some (Laws.RoundTrip.andi d a imm) rfl rfl
  case shifts => exact shiftWords d a sh
  case upper =>
    rw [uWord_eq_pack32, uWord_eq_pack32]
    exact ⟨decode32_eq_some (Laws.RoundTrip.lih d imm) rfl rfl, decode32_eq_some (Laws.RoundTrip.addpc d imm) rfl rfl⟩
  case fields => exact fieldWords d a l p

-- Bits.

theorem bitOf_eq_getLsbD (x : BitVec 64) (j : Nat) : bitOf x j = x.getLsbD j := rfl

theorem bitOf_word (n : Nat) {j : Nat} (h : j < 64) : bitOf (word n) j = n.testBit j := by
  simp only [bitOf, word, BitVec.toNat_ofNat, Nat.testBit_mod_two_pow, h, decide_true, Bool.true_and]

theorem testBit_fld (x : BitVec 64) (lo w j : Nat) :
    (fld x lo w).testBit j = (decide (j < w) && bitOf x (lo + j)) := by
  simp [fld, bitOf, Nat.testBit_mod_two_pow, Nat.testBit_div_two_pow, Nat.add_comm]

-- The count of zeros above the highest one of the low n bits, and below the lowest one of the high n bits.

theorem clzFrom_le (x : BitVec 64) (n : Nat) : clzFrom x n ≤ n := by
  induction n with
  | zero => rfl
  | succ n ih => unfold clzFrom; split <;> omega

theorem bitOf_above_clzFrom (x : BitVec 64) (n j : Nat) (h : j < clzFrom x n) : bitOf x (n - 1 - j) = false := by
  induction n generalizing j with
  | zero => simp [clzFrom] at h
  | succ n ih =>
    unfold clzFrom at h
    split at h
    · omega
    · cases j with
      | zero => simpa using ‹¬ bitOf x n = true›
      | succ j => rw [show n + 1 - 1 - (j + 1) = n - 1 - j by omega]; exact ih j (by omega)

theorem bitOf_at_clzFrom (x : BitVec 64) (n : Nat) (h : clzFrom x n < n) : bitOf x (n - 1 - clzFrom x n) = true := by
  induction n with
  | zero => omega
  | succ n ih =>
    unfold clzFrom at h ⊢
    split at h
    · rename_i hb; rw [if_pos hb]; exact hb
    · rename_i hb
      rw [if_neg hb, show n + 1 - 1 - (1 + clzFrom x n) = n - 1 - clzFrom x n by omega]
      exact ih (by omega)

theorem ctzFrom_le (x : BitVec 64) (n : Nat) : ctzFrom x n ≤ n := by
  induction n with
  | zero => rfl
  | succ n ih => unfold ctzFrom; split <;> omega

theorem bitOf_below_ctzFrom (x : BitVec 64) (n j : Nat) (hn : n ≤ 64) (h : j < ctzFrom x n) :
    bitOf x (64 - n + j) = false := by
  induction n generalizing j with
  | zero => simp [ctzFrom] at h
  | succ n ih =>
    unfold ctzFrom at h
    split at h
    · omega
    · cases j with
      | zero => rw [show 64 - (n + 1) + 0 = 63 - n by omega]; simpa using ‹¬ bitOf x (63 - n) = true›
      | succ j => rw [show 64 - (n + 1) + (j + 1) = 64 - n + j by omega]; exact ih j (by omega) (by omega)

theorem bitOf_at_ctzFrom (x : BitVec 64) (n : Nat) (hn : n ≤ 64) (h : ctzFrom x n < n) :
    bitOf x (64 - n + ctzFrom x n) = true := by
  induction n with
  | zero => omega
  | succ n ih =>
    unfold ctzFrom at h ⊢
    split at h
    · rename_i hb
      rw [if_pos hb, show 64 - (n + 1) + 0 = 63 - n by omega]
      exact hb
    · rename_i hb
      rw [if_neg hb, show 64 - (n + 1) + (1 + ctzFrom x n) = 64 - n + ctzFrom x n by omega]
      exact ih (by omega) (by omega)

theorem aluPopc_eq_card (x : BitVec 64) :
    aluPopc x = word ((Finset.range 64).filter fun j => bitOf x j = true).card := by
  have h : ((List.range 64).filter fun j => bitOf x j).length = ((Finset.range 64).filter fun j => bitOf x j = true).card := by
    simp [Finset.card, Finset.filter, Finset.range, Multiset.range]
  rw [aluPopc, h]

theorem bitOf_aluBrev (x : BitVec 64) {j : Nat} (h : j < 64) : bitOf (aluBrev x) j = bitOf x (63 - j) := by
  rw [bitOf_eq_getLsbD, aluBrev, BitVec.getLsbD_reverse, BitVec.getMsbD_eq_getLsbD, decide_eq_true h, Bool.true_and]
  rfl

/-- BFX moves the field at pos to bit 0 (R138). -/
theorem bitOf_bfxVal (x : BitVec 64) (pos len : Nat) {j : Nat} (h : j < 64) :
    bitOf (bfxVal x pos len) j = (decide (j < len) && bitOf x (pos + j)) := by
  rw [bfxVal, bitOf_word _ h, testBit_fld]

/-- The mask of a field of len bits at pos. -/
theorem bitOf_fieldMask (pos len : Nat) {j : Nat} (h : j < 64) :
    bitOf (word ((2 ^ len - 1) * 2 ^ pos)) j = (decide (pos ≤ j) && decide (j < pos + len)) := by
  rw [bitOf_word _ h, Nat.testBit_mul_two_pow, Nat.testBit_two_pow_sub_one]
  by_cases hp : pos ≤ j
  · simp only [hp, decide_true, Bool.true_and, decide_eq_decide]; omega
  · simp [hp]

/-- BFI takes the field from the low bits of its source, and the rest from the old value (R138). -/
theorem bitOf_bfiVal (old x : BitVec 64) (pos len : Nat) {j : Nat} (h : j < 64) :
    bitOf (bfiVal old x pos len) j = if pos ≤ j ∧ j < pos + len then bitOf x (j - pos) else bitOf old j := by
  have hm := bitOf_fieldMask pos len h
  have hv : bitOf (word (fld x 0 len * 2 ^ pos)) j = (decide (pos ≤ j) && (decide (j - pos < len) && bitOf x (j - pos))) := by
    rw [bitOf_word _ h, Nat.testBit_mul_two_pow, testBit_fld, Nat.zero_add]
  rw [bitOf_eq_getLsbD] at hm hv
  simp only [bfiVal, bitOf_eq_getLsbD, BitVec.getLsbD_or, BitVec.getLsbD_and, BitVec.getLsbD_not, h, hm, hv, decide_true,
    Bool.true_and]
  split
  · rename_i hin
    simp [hin.1, hin.2, show j - pos < len by omega]
  · rename_i hin
    simp [show (decide (pos ≤ j) && decide (j < pos + len)) = false by simpa using hin]

theorem bitOperations : Claims.BitOperations := by
  intro s d a l p
  refine ⟨?classes, fun h => ⟨clzFrom (s.x a) 64, clzFrom_le _ _, (exec_clz d a s).trans (writesX_of_issues h d _ 4),
      bitOf_above_clzFrom _ 64, bitOf_at_clzFrom _ 64⟩,
    fun h => ⟨ctzFrom (s.x a) 64, ctzFrom_le _ _, (exec_ctz d a s).trans (writesX_of_issues h d _ 4),
      fun j hj => ?below, fun hn => ?lowest⟩, fun h => ?count,
    fun h => ⟨aluBrev (s.x a), (exec_brev d a s).trans (writesX_of_issues h d _ 4), fun j => bitOf_aluBrev _⟩,
    fun h => ⟨_, (exec_bfx d a l p s).trans (writesX_of_issues h d _ 4), fun j hj => ?extracted⟩,
    fun h _ => ⟨_, (exec_bfi d a l p s).trans (writesX_of_issues h d _ 4), fun j hj => ?inserted⟩⟩
  case classes =>
    simp only [List.forall_mem_cons, List.not_mem_nil, false_imp_iff, implies_true, and_true]
    exact ⟨rfl, rfl, rfl, rfl, rfl, rfl⟩
  case below => simpa using bitOf_below_ctzFrom (s.x a) 64 j le_rfl hj
  case lowest => simpa using bitOf_at_ctzFrom (s.x a) 64 le_rfl hn
  case count => rw [← aluPopc_eq_card]; exact (exec_popc d a s).trans (writesX_of_issues h d _ 4)
  case extracted => rw [bitOf_bfxVal _ _ _ hj]; simp only [Nat.lt_succ_iff]
  case inserted => rw [bitOf_bfiVal _ _ _ _ hj]; simp only [← Nat.add_assoc, Nat.lt_succ_iff]

/-- Settles O15: the words, the results as integers modulo 2^64, and the bit and field instructions bit by bit. -/
theorem integerInstructions : Obligations.IntegerInstructions := ⟨integerWords, integerResults, bitOperations⟩

end Sys2Proof.Machine
end

section
/-! PROOFS. Mesh addresses that instructions make (R139, R140): MKADDR, and ABSADDR for the cores that the module has. -/

namespace Sys2Proof.Machine

-- MKADDR.

/-- The bits of a word from lo up are 0 just where the word is below 2^lo. -/
theorem fld_top_eq_zero_iff (x : BitVec 64) {lo w : Nat} (h : lo + w = 64) : fld x lo w = 0 ↔ x.toNat < 2 ^ lo := by
  have hx : x.toNat / 2 ^ lo < 2 ^ w := by
    rw [Nat.div_lt_iff_lt_mul (by positivity), ← pow_add, Nat.add_comm, h]; exact x.isLt
  rw [fld, Nat.mod_eq_of_lt hx, Nat.div_eq_zero_iff_lt (by positivity)]

theorem mkaddrVal_of_selector_high {core : Nat} {sel off : BitVec 64} (h : 2 ^ 23 ≤ sel.toNat) :
    mkaddrVal core sel off = .error sel :=
  if_pos fun h0 => absurd ((fld_top_eq_zero_iff sel rfl).1 h0) (not_lt.2 h)

theorem mkaddrVal_of_offset_high {core : Nat} {sel off : BitVec 64} (hs : sel.toNat < 2 ^ 23) (h : 2 ^ 29 ≤ off.toNat) :
    mkaddrVal core sel off = .error off := by
  rw [mkaddrVal, if_neg (not_not.2 ((fld_top_eq_zero_iff sel rfl).2 hs)),
    if_pos fun h0 => absurd ((fld_top_eq_zero_iff off rfl).1 h0) (not_lt.2 h)]

/-- With both sources in range, the address that they build is written if it exists, and traps if not. -/
theorem mkaddrVal_of_in_range {core : Nat} {sel off t : BitVec 64} (hs : sel.toNat < 2 ^ 23) (ho : off.toNat < 2 ^ 29)
    (ht : t = word (fld sel 21 2 * 2 ^ 46 + fld sel 4 12 * 2 ^ 34 + fld sel 16 5 * 2 ^ 29 + off.toNat)) :
    mkaddrVal core sel off = if (resolve core t 1).isNone then .error t else .ok t := by
  rw [mkaddrVal, if_neg (not_not.2 ((fld_top_eq_zero_iff sel rfl).2 hs)),
    if_neg (not_not.2 ((fld_top_eq_zero_iff off rfl).2 ho)), ht]

theorem exec_mkaddr_of_ok {s : State} {d a b : BitVec 5} {t : BitVec 64} (h : s.Issues (.mkaddr d a b))
    (ht : mkaddrVal s.cur.1 (s.x a) (s.x b) = .ok t) : exec (.mkaddr d a b) s = .next ((s.setX d t).bump 4) := by
  rw [exec_mkaddr, execMkaddr, gatedRun_of_issues h, ht]; rfl

theorem exec_mkaddr_of_error {s : State} {d a b : BitVec 5} {t : BitVec 64} (h : s.Issues (.mkaddr d a b))
    (ht : mkaddrVal s.cur.1 (s.x a) (s.x b) = .error t) : exec (.mkaddr d a b) s = s.raise s (trap cAddr t) := by
  rw [exec_mkaddr, execMkaddr, gatedRun_of_issues h, ht]; rfl

theorem mkaddrBuildsAnAddress : Claims.MkaddrBuildsAnAddress := by
  intro s d a b t
  refine ⟨decode32_eq_some (Laws.RoundTrip.mkaddr d a b) rfl rfl, rfl, fun h ht => ⟨fun hs => ?_, fun hs ho => ?_,
    fun hs ho hr => ?_, fun hs ho hr => ?_⟩⟩
  · exact exec_mkaddr_of_error h (mkaddrVal_of_selector_high hs)
  · exact exec_mkaddr_of_error h (mkaddrVal_of_offset_high hs ho)
  · exact exec_mkaddr_of_error h (by rw [mkaddrVal_of_in_range hs ho ht, hr]; rfl)
  · exact exec_mkaddr_of_ok h (by rw [mkaddrVal_of_in_range hs ho ht, if_neg (by simpa using hr)])

-- Mesh addresses (R42, R43).

/-- Where a mesh address exists, it names one of the units of a cluster, with an offset inside it. -/
structure Mesh.InUnit (m : Mesh) (size : Nat) : Prop where
  unit_pos : 1 ≤ m.unit
  unit_le : m.unit ≤ 18
  off_add_le : m.off + size ≤ unitSize m.unit

theorem unitSize_le (u : Nat) : unitSize u ≤ 2 ^ 20 := by
  unfold unitSize; split_ifs <;> decide

/-- The cluster that a mesh address names (R42). -/
def meshCluster (core : Nat) (ea : BitVec 64) : Nat :=
  if fld ea 46 2 = 0 then clusterOf core
  else if fld ea 46 2 = 1 then
    addDelta (clusterDie (clusterOf core)) (fld ea 42 4) * 256 + addDelta (rowOf (clusterOf core)) (fld ea 38 4) * 16
      + addDelta (colOf (clusterOf core)) (fld ea 34 4)
  else fld ea 34 12

/-- It is the core's own, or one that 12 bits number. -/
theorem meshCluster_own_or_lt (core : Nat) (ea : BitVec 64) :
    meshCluster core ea = clusterOf core ∨ meshCluster core ea < 4096 := by
  have hdelta (own delta : Nat) : addDelta own delta < 16 := Nat.mod_lt _ (by decide)
  unfold meshCluster
  split_ifs
  · exact .inl rfl
  · have hdie := hdelta (clusterDie (clusterOf core)) (fld ea 42 4)
    have hrow := hdelta (rowOf (clusterOf core)) (fld ea 38 4)
    have hcol := hdelta (colOf (clusterOf core)) (fld ea 34 4)
    exact .inr (by omega)
  · exact .inr (Nat.mod_lt _ (by decide))

/-- `resolve` by its checks in order, and the unit of the place: that of the core itself for unit 0. -/
theorem resolve_eq (core : Nat) (ea : BitVec 64) (size : Nat) : resolve core ea size =
    if fld ea 48 16 ≠ 0 ∨ fld ea 46 2 = 3 ∨ 19 ≤ fld ea 29 5 ∨ unitSize (fld ea 29 5) < fld ea 0 29 + size then none
    else if fld ea 46 2 = 0 ∧ fld ea 34 12 ≠ 0 then none
    else if fld ea 29 5 = 0 then
      if meshCluster core ea = clusterOf core then some ⟨meshCluster core ea, 1 + inCluster core, fld ea 0 29⟩ else none
    else some ⟨meshCluster core ea, fld ea 29 5, fld ea 0 29⟩ := rfl

theorem resolve_inUnit {core size : Nat} {ea : BitVec 64} {m : Mesh} (h : resolve core ea size = some m) :
    m.InUnit size ∧ m.cluster = meshCluster core ea := by
  rw [resolve_eq] at h
  split_ifs at h with hexists hform hunit hown <;> cases h
  · have hcore : 1 + inCluster core ≤ 16 := by unfold inCluster; omega
    have hsize : unitSize (1 + inCluster core) = unitSize (fld ea 29 5) := by rw [hunit]; exact if_pos hcore
    exact ⟨⟨Nat.le_add_right _ _, by simp only; omega, by simp only [hsize]; omega⟩, rfl⟩
  · exact ⟨⟨Nat.one_le_iff_ne_zero.2 hunit, by simp only; omega, by simp only; omega⟩, rfl⟩

/-- The absolute form of a place resolves to that place from every core (R42). -/
theorem resolve_keyWord {m : Mesh} {size : Nat} (hm : m.InUnit size) (hsize : 0 < size) (hc : m.cluster < 4096) (core : Nat) :
    resolve core (keyWord m.key) size = some m := by
  obtain ⟨hu, hu', ho⟩ := hm
  have hs := unitSize_le m.unit
  have hkey : (keyWord m.key).toNat = m.key := toNat_word (by unfold Mesh.key; omega)
  have h1 : fld (keyWord m.key) 48 16 = 0 := by rw [fld, hkey, Mesh.key]; omega
  have h2 : fld (keyWord m.key) 46 2 = 2 := by rw [fld, hkey, Mesh.key]; omega
  have h3 : fld (keyWord m.key) 29 5 = m.unit := by rw [fld, hkey, Mesh.key]; omega
  have h4 : fld (keyWord m.key) 0 29 = m.off := by rw [fld, hkey, Mesh.key]; omega
  have h5 : fld (keyWord m.key) 34 12 = m.cluster := by rw [fld, hkey, Mesh.key]; omega
  rw [resolve_eq, meshCluster, h1, h2, h3, h4, h5, if_neg (by omega), if_neg (by omega), if_neg (by omega)]
  rfl

theorem resolve_absolute_of_core_lt {core : Nat} {ea : BitVec 64} {m : Mesh} (hcore : core < 65536)
    (h : resolve core ea 1 = some m) (c : Nat) : resolve c (keyWord m.key) 1 = some m := by
  obtain ⟨hm, hc⟩ := resolve_inUnit h
  have hlt : m.cluster < 4096 := by
    rcases meshCluster_own_or_lt core ea with h0 | h0
    · rw [hc, h0, clusterOf]; omega
    · rwa [hc]
  exact resolve_keyWord hm one_pos hlt c

/-- What holds of R140 in place of O16's clause: at a core that the module has, ABSADDR writes the absolute form of its
mesh address, which names the same place from every core. -/
theorem absaddr_of_core_lt {s : State} {d a : BitVec 5} {m : Mesh} (hcore : s.cur.1 < 65536) (h : s.Issues (.absaddr d a))
    (hdev : bitOf (s.x a) 63 = false) (hm : resolve s.cur.1 (s.x a) 1 = some m) :
    exec (.absaddr d a) s = .next ((s.setX d (keyWord m.key)).bump 4) ∧ ∀ c, resolve c (keyWord m.key) 1 = some m := by
  have hv : absaddrVal s.cur.1 (s.x a) = some (keyWord m.key) := by simp [absaddrVal, hdev, hm]
  refine ⟨?_, resolve_absolute_of_core_lt hcore hm⟩
  rw [exec_absaddr, execAbsaddr, gatedRun_of_issues h, hv]; rfl

-- The statement speaks of every state, and no type bounds the number of the core in hand: past core 65535 the number of
-- its cluster overflows the 12 bits that the absolute form has for it.

/-- A state whose core in hand is 65536, one past the last core of a module, with the relative address of its own cluster's
unit 1 in x1. -/
def pastTheLastCore : State := ({ State.reset with cur := (65536, 0) } : State).setX 1#5 0x20000000#64

theorem pastTheLastCore_issues : pastTheLastCore.Issues (.absaddr 3#5 1#5) := by
  have hsettled : pastTheLastCore.Settled := ⟨rfl, rfl, rfl, rfl, rfl⟩
  refine State.issues_of_settled hsettled rfl fun _ n hn _ => ?_
  have huses : (Instr.absaddr 3#5 1#5).uses.rd = [.x 1] := rfl
  obtain rfl : n = 1 := by simpa [huses] using hn
  decide +kernel

/-- The core resolves its address to cluster 4096. -/
theorem pastTheLastCore_resolves :
    bitOf (pastTheLastCore.x 1#5) 63 = false ∧ resolve pastTheLastCore.cur.1 (pastTheLastCore.x 1#5) 1 = some ⟨4096, 1, 0⟩ := by
  decide +kernel

/-- The word that ABSADDR writes there carries the cluster into the form field, and names no place from any core. -/
theorem resolve_cluster_4096 : resolve 0 (word (2 * 2 ^ 46 + 4096 * 2 ^ 34 + 1 * 2 ^ 29 + 0)) 1 = none := by decide +kernel

theorem not_absaddrResolves : ¬ Claims.AbsaddrResolves := by
  intro h
  obtain ⟨hdev, hres⟩ := pastTheLastCore_resolves
  obtain ⟨_, hname, _⟩ := ((h pastTheLastCore 3#5 1#5).2.2 pastTheLastCore_issues).2.2 ⟨4096, 1, 0⟩ _ hdev hres rfl
  exact absurd ((hname 0).symm.trans resolve_cluster_4096) (by simp)

/-- Refutes O16: at core 65536, which no module has, the relative address 0x20000000 resolves to cluster 4096, and the word
that ABSADDR writes has form 3, which resolves to nothing. For the cores of a module the clause holds
(`absaddr_of_core_lt`), and the statement's MKADDR half holds of every state (`mkaddrBuildsAnAddress`). -/
theorem not_addressInstructions : ¬ Obligations.AddressInstructions := by
  unfold Obligations.AddressInstructions
  exact fun h => not_absaddrResolves h.2

end Sys2Proof.Machine
end
